-- ==== Sys2Proof/Word.lean ====
section
/-! DEFINITION. The word types of the Etlia E4 and their plainest arithmetic (R2, R31). -/

namespace Sys2Proof

/-- A byte of any store (R2). -/
abbrev Byte := BitVec 8
/-- A general register (R10). -/
abbrev Word := BitVec 64
/-- An address register: an 80-bit virtual address (R10). -/
abbrev Addr := BitVec 80
/-- A command register (R10). -/
abbrev Wide := BitVec 128
/-- An instruction word (R61). -/
abbrev Code := BitVec 32

end Sys2Proof
end

