-- ==== Sys2Proof/Syntax.lean ====
section
/-! DEFINITION. The steps of the part: one constructor of `Instr` per row of spec/opcode_table.json.
A scalar word is issued by a task slot at its PC; the start of a stream command names its core (the command is
the head of that core's port); an event names the unit at which it happens (95_what_each_step_holds). -/

namespace Sys2Proof

/-- The guard of an F3 or FB word: a predicate register and the neg bit (R61, R62). -/
structure Guard where
  p : BitVec 3
  neg : Bool
  deriving DecidableEq, Repr

/-- The extension a major chooses: `.z` (0x01) or `.s` (0x02) (R66, R91). -/
inductive Ext | z | s
  deriving DecidableEq, Repr

/-- The size of an integer operation (R31, R66). -/
inductive Size | b | h | w | d
  deriving DecidableEq, Repr

/-- The conditions of CMP and ACMP (R67). -/
inductive Cond | eq | ne | lt | le | gt | ge | lo | ls | hi | hs
  deriving DecidableEq, Repr

/-- The rounding modes (R39). -/
inductive Rnd | rne | rz | ru | rd
  deriving DecidableEq, Repr

/-- The types of the scalar floating-point majors 0x24 to 0x26 (R72). -/
inductive FpTy | f32 | bf16x2 | f16x2
  deriving DecidableEq, Repr

/-- The forms of FSGN (R72). -/
inductive SgnOp | cp | neg | xor
  deriving DecidableEq, Repr

/-- The conditions of FCMP (R72). -/
inductive FCond | eq | lt | le | un
  deriving DecidableEq, Repr

/-- The type codes of FCVT (R72). -/
inductive CvtTy | f32 | bf16x2 | f16x2 | e4m3x4 | i32 | n32
  deriving DecidableEq, Repr

/-- The scopes of the ordering modifiers (R73, R165). -/
inductive Scope | lane | core | quad | clus | die | pkg | pod | sys
  deriving DecidableEq, Repr

/-- The order field of a global access with its scope (R73): none, .acq, .rel, .acq.rel. -/
inductive Order | none | acq (s : Scope) | rel (s : Scope) | acqRel (s : Scope)
  deriving DecidableEq, Repr

/-- The operations of RED and GREDW (R74, R290). -/
inductive RedOp | add | min | max | and | or | xor | fadd
  deriving DecidableEq, Repr

/-- The operations of AMO (R74). -/
inductive AmoOp | swap | cas | add
  deriving DecidableEq, Repr

/-- The forms of FENCE (R76). -/
inductive FenceKind | full | acq | rel
  deriving DecidableEq, Repr

/-- The kinds of TLBINV (R253). -/
inductive TlbKind | page | all
  deriving DecidableEq, Repr

/-- The barrier levels (R76, R165). -/
inductive Level | lane | core | quad | clus | die | pkg | pod
  deriving DecidableEq, Repr

/-- The five command ports of a core (R75). -/
inductive Port | fab | mx | bte | ring | pkt
  deriving DecidableEq, Repr

/-- The operators of a fabric router (R176). -/
inductive RouterOp | steer | merge | carry
  deriving DecidableEq, Repr

/-- Who sent a remote window operation: a task slot or an engine slot running a WTW (R122, R288). -/
inductive RemSrc | slot (t : Nat) | engine (e : Nat)
  deriving DecidableEq, Repr

/-- A window slot of a BAR 2 service region (R394). -/
inductive HostWin
  | core (c : Nat) (w : Nat)
  | records (cl : Nat) | status (cl : Nat) | faults (cl : Nat) | answers (cl : Nat) | reports (cl : Nat)
  | reserved (cl : Nat)
  | bar (fn addr size : Nat)
  deriving DecidableEq, Repr

/-- A configuration-space register with no behaviour of its own that a function writes
(R164, R239, R360, R393, R394, R398, R416). -/
inductive CfgReg
  | ptroot (cl : Nat)
  | wdDefault (cl : Nat)
  | saveArea (cl : Nat)
  | ptag (fn : Nat)
  | podGid (e : Nat) | podTag (e : Nat) | podMask (e : Nat) | podCount (e : Nat)
  | share (port : Nat) (ten : Nat)
  | linkInterval | linkBase | linkBuffers
  | traceBase (ring : Nat) | traceSize (ring : Nat)
  deriving DecidableEq, Repr

/-- What Brodfort reaches (R410): a system register of a slot of a core, or a 64-bit word of a core window's bytes. -/
inductive BrodReg
  | sys (slot : Nat) (n : BitVec 10)
  | window (w : Nat) (byte : Nat)
  | desc (w : Nat) (q : Fin 3)
  deriving DecidableEq, Repr

/-- What tripped the Hedgehog alarm (R426). -/
inductive AlarmSource | lid | glitch | temperature | intrusion
  deriving DecidableEq, Repr

/-- The modulus of the key that signed a firmware image, and the signature (R423). -/
structure Seal where
  key : BitVec 4096
  signature : BitVec 4096
  deriving DecidableEq, Repr

/-- A firmware image with its version and its seal (R423). -/
structure Firmware where
  image : List Byte
  version : BitVec 32
  proof : Seal
  deriving DecidableEq, Repr

/-- A walk in progress of a die by its place among them, and the level of the entry that it cannot read because no check
corrects it (R241, R243, R428). -/
structure WalkRead where
  walk : Nat
  bad : Option (BitVec 3)
  deriving DecidableEq, Repr

/-- A launch unit that loads its part, and whether what it reads of the image holds data that no check corrects (R161,
R428). -/
structure PartRead where
  cluster : Nat
  bad : Bool
  deriving DecidableEq, Repr

/-- Where data goes bad that no check corrects: on a link; in memory, where a home slice finds it at the next read of
one of n bytes from a key on; with the party whose data it is, a command or the backing agent, named by its core and
site (R428). -/
inductive LostData
  | link (n : Nat)
  | memory (key n : Nat)
  | party (core : Nat) (site : BitVec 46)
  deriving DecidableEq, Repr

/-- What a bring-up finds: the results of its self-tests and the firmware it is given (R419, R423). -/
structure BootResults where
  keyStoreOk : Bool
  firmware : Firmware
  sparesNeeded : List Nat
  memoryOk : Bool
  linksOk : Bool
  tripStands : Option AlarmSource
  deriving DecidableEq, Repr

/-- The steps of the part. Scalar words first, in the order of the opcode table, then commands and events. -/
inductive Instr
  -- integer, F3 (R66, R93 to R99)
  | add (e : Ext) (s : Size) (d a b : BitVec 5) (g : Guard)
  | sub (e : Ext) (s : Size) (d a b : BitVec 5) (g : Guard)
  | mul (e : Ext) (s : Size) (d a b : BitVec 5) (g : Guard)
  | mulh (e : Ext) (s : Size) (d a b : BitVec 5) (g : Guard)
  | div (e : Ext) (s : Size) (d a b : BitVec 5) (g : Guard)
  | rem (e : Ext) (s : Size) (d a b : BitVec 5) (g : Guard)
  | and (e : Ext) (s : Size) (d a b : BitVec 5) (g : Guard)
  | or (e : Ext) (s : Size) (d a b : BitVec 5) (g : Guard)
  | xor (e : Ext) (s : Size) (d a b : BitVec 5) (g : Guard)
  | not (e : Ext) (s : Size) (d a : BitVec 5) (g : Guard)
  | shl (e : Ext) (s : Size) (d a b : BitVec 5) (g : Guard)
  | shr (e : Ext) (s : Size) (d a b : BitVec 5) (g : Guard)
  | rot (e : Ext) (s : Size) (d a b : BitVec 5) (g : Guard)
  | clz (e : Ext) (s : Size) (d a : BitVec 5) (g : Guard)
  | ctz (e : Ext) (s : Size) (d a : BitVec 5) (g : Guard)
  | popc (e : Ext) (s : Size) (d a : BitVec 5) (g : Guard)
  | min (e : Ext) (s : Size) (d a b : BitVec 5) (g : Guard)
  | max (e : Ext) (s : Size) (d a b : BitVec 5) (g : Guard)
  | brev (e : Ext) (s : Size) (d a : BitVec 5) (g : Guard)
  | bswp (e : Ext) (s : Size) (d a : BitVec 5) (g : Guard)
  | mov (e : Ext) (s : Size) (d a : BitVec 5) (g : Guard)
  | nop
  -- integer immediates, FI (R68, R92, R100)
  | addImm (d a : BitVec 5) (i : BitVec 16)
  | andImm (d a : BitVec 5) (i : BitVec 16)
  | orImm (d a : BitVec 5) (i : BitVec 16)
  | xorImm (d a : BitVec 5) (i : BitVec 16)
  | shlImm (d a : BitVec 5) (n : BitVec 6)
  | shrZImm (d a : BitVec 5) (n : BitVec 6)
  | shrSImm (d a : BitVec 5) (n : BitVec 6)
  | movImm (d : BitVec 5) (i : BitVec 16)
  | movh (d : BitVec 5) (q : BitVec 2) (i : BitVec 16)
  -- compare, select, bit fields (R67, R69, R101 to R103)
  | cmp (c : Cond) (s : Size) (d : BitVec 3) (a b : BitVec 5) (g : Guard)
  | sel (d a b : BitVec 5) (p : Guard)
  | bfxZImm (d a : BitVec 5) (w p : BitVec 6)
  | bfxSImm (d a : BitVec 5) (w p : BitVec 6)
  | bfiImm (d a : BitVec 5) (w p : BitVec 6)
  | bfxZReg (d a b : BitVec 5) (g : Guard)
  | bfxSReg (d a b : BitVec 5) (g : Guard)
  | bfiReg (d a b : BitVec 5) (g : Guard)
  -- addresses (R69, R105 to R107)
  | aaddReg (d a : BitVec 4) (b : BitVec 5) (g : Guard)
  | aset (d : BitVec 4) (a b : BitVec 5) (g : Guard)
  | aget (d : BitVec 5) (a : BitVec 4) (g : Guard)
  | agetH (d : BitVec 5) (a : BitVec 4) (g : Guard)
  | astep (d a : BitVec 4) (b : BitVec 5) (g : Guard)
  | aaddImm (d a : BitVec 4) (i : BitVec 16)
  | acmp (c : Cond) (d : BitVec 3) (a b : BitVec 4) (g : Guard)
  -- predicates (R69, R108)
  | pand (d a b : BitVec 3) (g : Guard)
  | por (d a b : BitVec 3) (g : Guard)
  | pxor (d a b : BitVec 3) (g : Guard)
  | pnot (d a : BitVec 3) (g : Guard)
  | pset (d : BitVec 3) (v : Bool) (g : Guard)
  -- control (R68, R70, R109 to R113)
  | br (g : Guard) (o : BitVec 22)
  | jal (d : BitVec 5) (i : BitVec 16)
  | jr (a : BitVec 5) (g : Guard)
  | loop (d : BitVec 5) (i : BitVec 16)
  | rep (n : BitVec 6) (sd sa sb : Bool)
  | reservedEncoding (w : Code)
  -- windows (R71, R116)
  | wfill (w : BitVec 4) (s : BitVec 5)
  | wrd (d : BitVec 5) (w : BitVec 4) (o : BitVec 14)
  | wwr (w : BitVec 4) (o : BitVec 14) (s : BitVec 5)
  | wshr (w : BitVec 4) (n : BitVec 14)
  | wqry (d : BitVec 5) (w : BitVec 4) (q : BitVec 2)
  | wrdn (d : BitVec 5) (p : BitVec 3) (w : BitVec 4) (o : BitVec 11)
  | wfilln (w : BitVec 4) (s : BitVec 5) (p : BitVec 3)
  | wdef (w : BitVec 4) (s : BitVec 5)
  | wfillReg (w : BitVec 4) (s : BitVec 5) (g : Guard)
  | wrdReg (d : BitVec 5) (w : BitVec 4) (a : BitVec 5) (g : Guard)
  | wwrReg (w : BitVec 4) (a s : BitVec 5) (g : Guard)
  | wshrReg (w : BitVec 4) (a : BitVec 5) (g : Guard)
  | wfillRm (w : BitVec 4) (c s : BitVec 5) (g : Guard)
  | wrdRm (d : BitVec 5) (w : BitVec 4) (c a : BitVec 5) (g : Guard)
  | wwrRm (w : BitVec 4) (c a s : BitVec 5) (g : Guard)
  | wshrRm (w : BitVec 4) (c a : BitVec 5) (g : Guard)
  | wqryRm (d : BitVec 5) (w : BitVec 4) (c : BitVec 5) (q : BitVec 2) (g : Guard)
  | waitingReadProceeds (c t : Nat)
  | waitingFillProceeds (c t : Nat)
  -- scalar floating point (R72, R128 to R135)
  | fadd (t : FpTy) (r : Rnd) (d a b : BitVec 5) (g : Guard)
  | fsub (t : FpTy) (r : Rnd) (d a b : BitVec 5) (g : Guard)
  | fmul (t : FpTy) (r : Rnd) (d a b : BitVec 5) (g : Guard)
  | ffma (t : FpTy) (r : Rnd) (d a b : BitVec 5) (g : Guard)
  | fmin (t : FpTy) (d a b : BitVec 5) (g : Guard)
  | fmax (t : FpTy) (d a b : BitVec 5) (g : Guard)
  | fsgn (t : FpTy) (o : SgnOp) (d a b : BitVec 5) (g : Guard)
  | fcmp (t : FpTy) (c : FCond) (d : BitVec 3) (a b : BitVec 5) (g : Guard)
  | frce (d a : BitVec 5) (g : Guard)
  | frsqe (d a : BitVec 5) (g : Guard)
  | fclass (d a : BitVec 5) (g : Guard)
  | fcvt (y x : CvtTy) (r : Rnd) (d a : BitVec 5) (g : Guard)
  -- global memory (R73, R74, R247 to R251)
  | gldBZ (d : BitVec 5) (a : BitVec 4) (o : Order) (f : BitVec 11)
  | gldBS (d : BitVec 5) (a : BitVec 4) (o : Order) (f : BitVec 11)
  | gldHZ (d : BitVec 5) (a : BitVec 4) (o : Order) (f : BitVec 11)
  | gldHS (d : BitVec 5) (a : BitVec 4) (o : Order) (f : BitVec 11)
  | gldWZ (d : BitVec 5) (a : BitVec 4) (o : Order) (f : BitVec 11)
  | gldWS (d : BitVec 5) (a : BitVec 4) (o : Order) (f : BitVec 11)
  | gldD (d : BitVec 5) (a : BitVec 4) (o : Order) (f : BitVec 11)
  | gstB (s : BitVec 5) (a : BitVec 4) (o : Order) (f : BitVec 11)
  | gstH (s : BitVec 5) (a : BitVec 4) (o : Order) (f : BitVec 11)
  | gstW (s : BitVec 5) (a : BitVec 4) (o : Order) (f : BitVec 11)
  | gstD (s : BitVec 5) (a : BitVec 4) (o : Order) (f : BitVec 11)
  | red (op : RedOp) (dbl signed fast : Bool) (o : Order) (d : BitVec 5) (a : BitVec 4) (g : Guard)
  | amo (op : AmoOp) (dbl : Bool) (o : Order) (d : BitVec 5) (a : BitVec 4) (g : Guard)
  -- command registers (R75)
  | kld (k : BitVec 3) (i : BitVec 10)
  | iss (k : BitVec 3) (p : Port)
  | kins (k : BitVec 3) (p : BitVec 7) (w : BitVec 6) (s : BitVec 5)
  | kext (d : BitVec 5) (k : BitVec 3) (p : BitVec 7) (w : BitVec 6)
  | kmov (k m : BitVec 3)
  -- system words (R76, R137, R142 to R144)
  | srd (d : BitVec 5) (n : BitVec 10)
  | swr (n : BitVec 10) (s : BitVec 5)
  | fpstatWrite (s : BitVec 5)
  | repcWrite (s : BitVec 5)
  | wdctlWrite (s : BitVec 5)
  | wbkbWrite (n : BitVec 4) (s : BitVec 5)
  | wbksWrite (n : BitVec 4) (s : BitVec 5)
  | trcctlWrite (s : BitVec 5)
  | slotResume (c t : Nat)
  | slotKill (c t : Nat)
  | trap (n : BitVec 10)
  | brk (n : BitVec 10)
  | eret
  -- tasks and barriers (R76, R152 to R154, R166, R168)
  | tret
  | yield
  | spawn (e a : BitVec 5)
  | tbind (s e : BitVec 5)
  | tunb (s : BitVec 5)
  | tprio (s : BitVec 5) (n : BitVec 2)
  | bara (d : BitVec 5) (l : Level) (b : BitVec 4)
  | barw (l : Level) (b : BitVec 4) (g : BitVec 5)
  | barc (l : Level) (b : BitVec 4) (c : BitVec 5)
  | baraTokenCount (c : Nat) (src : Option Nat) (l : Level) (b : BitVec 4)
  | barcArrival (c : Nat) (l : Level) (b : BitVec 4) (n : BitVec 16)
  | barrierReleaseArrival (c : Nat) (l : Level) (b : BitVec 4) (gen : BitVec 16) (lost : Bool)
  | cmsk (c : BitVec 4)
  | cumsk (c : BitVec 4)
  -- counting networks (R76, R221, R222, R229)
  | tkn (d : BitVec 5) (h : BitVec 3)
  | bndrn (h : BitVec 3)
  | bnsav (h : BitVec 3) (a : BitVec 4)
  | bnload (h : BitVec 3) (a : BitVec 4)
  | bnclr (h : BitVec 3)
  | balancerPass (net id : Nat)
  | tknTokenExit (net id : Nat)
  -- ordering, translation, save and restore, observation (R76)
  | fence (o : FenceKind) (s : Scope)
  | tlbinv (a : BitVec 4) (k : TlbKind)
  | wsave (w : BitVec 4) (a : BitVec 4)
  | wrest (w : BitVec 4) (a : BitVec 4)
  | wpois (w : BitVec 4) (p : BitVec 5)
  | ctxsav (a : BitVec 4)
  | ctxrst (a : BitVec 4)
  | fscan (a : BitVec 4)
  | cens (w : BitVec 4) (s : BitVec 5)
  | trcm (n : BitVec 10) (s : BitVec 5)
  | lsnap (a : BitVec 4)
  -- the fab port and the patch (R169 to R218, R369 to R374)
  | fcfg (c : Nat)
  | frun (c : Nat)
  | fstop (c : Nat)
  | agset (c : Nat)
  | agprm (c : Nat)
  | fmark (c : Nat)
  | generatorPassStart (c g : Nat)
  | generatorRequest (c g : Nat)
  | generatorReply (c g : Nat)
  | elementFire (c e : Nat)
  | routerOperatorFire (c e : Nat) (o : RouterOp)
  | rowWordMove (c r : Nat)
  | reducerFire (c r : Nat)
  | reordBlockEmit (c g : Nat)
  | unitReply (c e : Nat)
  | sinkFill (c k : Nat)
  | roundEnd (c : Nat)
  | markerAlign (c e : Nat)
  | drainComplete (c : Nat)
  | fabricScanOut (c : Nat)
  | tokenHop (c e src : Nat)
  -- the bte port (R279 to R294)
  | gtw (c : Nat)
  | wtg (c : Nat)
  | wtw (c : Nat)
  | gath (c : Nat)
  | scat (c : Nat)
  | gredw (c : Nat)
  | bteRequestIssue (c e : Nat)
  | bteElementFill (c e : Nat)
  | bteCommandComplete (c e : Nat)
  | doneElementFill (c : Nat)
  -- the mx port (R302 to R316)
  | mxw (c : Nat)
  | mxa (c : Nat)
  | mxswp (c : Nat)
  | mxtm (c : Nat)
  | mxz (c : Nat)
  | mxout (c : Nat)
  | mxTileRead (c : Nat)
  | mxtmStep (c : Nat)
  | splitBlockArrival (c : Nat)
  | mxoutElementFill (c : Nat)
  | mxCommandComplete (c : Nat) (slotSide : Bool)
  -- the ring port (R318 to R341)
  | rgcfg (c : Nat)
  | rgmt (c : Nat)
  | rgput (c : Nat)
  | rggo (c : Nat)
  | rgrot (c : Nat)
  | rgdrn (c : Nat)
  | beatStart (k : Nat)
  | tileLanding (k : Nat)
  | meeting (c : Nat)
  | encounterDelivery (c : Nat)
  | tileUnpin (c : Nat)
  | encounterFinish (c : Nat)
  | completionTokenFill (k : Nat)
  | sweepEnd (k : Nat)
  -- packets and remote operations (R122, R385 to R391)
  | pkt (c : Nat)
  | pktCopyEnqueue (c : Nat) (seq : BitVec 16) (dst : Nat)
  | packetDelivery (c : Nat) (cls : BitVec 4)
  | remoteWindowOperation (c : Nat) (src : RemSrc)
  | remoteAnswer (c : Nat) (src : RemSrc)
  -- translation, home slices, backing (R241 to R257, R396)
  | clusterTlbLookup (id : Nat)
  | pageWalkStart (die : Nat)
  | walkComplete (die : Nat) (k : WalkRead)
  | faultAnswer (cl : Nat)
  | homeSliceAccess (id : Nat) (uncorrectable : Bool)
  | accessReply (id : Nat)
  | releasePerformed (c t : Nat)
  | refillReadStart (c w : Nat)
  | refillLand (c w : Nat)
  | egressMirrorWrite (c w : Nat)
  -- detector, watchdog, reports (R345 to R362)
  | standoffReport (cl : Nat)
  | orphanWaitReport (cl : Nat)
  | watchdogFire (c : Nat)
  | reportRecordPost (cl : Nat)
  -- census, replay, debug, links (R401 to R417)
  | censusEntryFill (c : Nat)
  | replayCompare (c : Nat)
  | memberHalt (c : Nat) (site : BitVec 46)
  | coreHalt (c : Nat)
  | coreResume (c : Nat)
  | brodfortAccess (c : Nat) (r : BrodReg) (write : Option Word)
  | brodfortDump (c : Nat) (addr : Nat)
  | linkSnapshot
  | bucketRefill
  -- launch (R158 to R164, R432)
  | launchRecordRead (cl : Nat)
  | launchPartLoad (p : PartRead)
  | launchPartMessage (cl other : Nat)
  | startBarrierFire (k : Nat)
  | launchStatusPost (cl : Nat)
  | coreGroupCompletion (k : Nat)
  | groupPreempt (k : Nat)
  | groupRestore (cl : Nat)
  | gidCancel (gid : BitVec 16)
  | keptGroupDiscard (cl j : Nat)
  -- functions and tenants (R394 to R399, R415)
  | clusterOwnerSet (cl : Nat) (ten : Option (BitVec 5))
  | networkOwnerSet (net : Nat) (ten : Option (BitVec 5))
  | configSpaceWrite (r : CfgReg) (v : Word)
  | stallCounterLoan (cl : Nat)
  | traceLoan (cl : Nat) (ring : Nat)
  | loanReturn (cl : Nat) (traceUnit : Bool)
  | vfReset (ten : BitVec 5)
  -- the host (R394, R395)
  | hostFill (w : HostWin) (v : Word)
  | hostShrink (w : HostWin) (v : Word)
  | hostReadElement (w : HostWin)
  | hostReadPointers (w : HostWin)
  | hostMemoryWrite (addr : Nat) (bytes : List Byte)
  -- device life (R419 to R430)
  | powerApplied (r : BootResults)
  | powerRemoved
  | mailboxStatus
  | mailboxDiag
  | mailboxRestart (r : BootResults)
  | mailboxAttest (nonce : BitVec 256)
  | mailboxOther (cmd : Word)
  | firmwareSwitchover (image : List Byte) (version : BitVec 32) (proof : Seal)
  | alarmTrip (src : AlarmSource)
  | softErrorCorrected
  | coreSparing (c : Nat)
  | hbmSparing (die channel : Nat)
  | laneSparing (link lane : Nat)
  | dieFencing (die : Nat)
  | packageReplacement (old new : Nat)
  | powerThrottle (c : Nat)
  | linkRetry (lost : LostData)
  deriving DecidableEq, Repr

end Sys2Proof
end

