-- ==== Sys2Proof/Machine/Place.lean ====
section
/-! DEFINITION. The places that operations on windows take in a tick (R26). -/

namespace Sys2Proof.Machine

open Sys2Proof

/-- The place of an event in its tick, by what it does to windows (R26): ring ports (1 and 2), the slots of the block
transfers (3 to 6), the matrix unit (7, 8), refills (9), sinks (10 to 17) and what is left in them at a round's end
(18), the host (19), completion tokens (20), done elements (21), census entries (22), trace records, notices (24),
AGSET (25), remote operations (26), the address generators, which come after the tasks (27 to 34). What reaches no
window comes first. -/
def placeOf : Instr → Nat
  | .beatStart _ | .tileLanding _ => 1
  | .rgput _ | .rgmt _ => 2
  | .bteRequestIssue _ e | .bteElementFill _ e | .bteCommandComplete _ e => 3 + min e 3
  | .mxTileRead _ | .mxtmStep _ | .splitBlockArrival _ | .mxCommandComplete _ _ => 7
  | .mxoutElementFill _ => 8
  | .refillReadStart _ _ | .refillLand _ _ => 9
  | .sinkFill _ k => 10 + min k 7
  | .roundEnd _ => 18
  | .hostFill _ _ => 19
  | .completionTokenFill _ => 20
  | .doneElementFill _ => 21
  | .replayCompare _ | .censusEntryFill _ => 22
  | .reportRecordPost _ => 24
  | .agset _ => 25
  | .remoteWindowOperation _ _ => 26
  | .generatorPassStart _ g | .generatorRequest _ g | .generatorReply _ g => 27 + min g 7
  | _ => 0

/-- Where an event of a place goes among the events that are due: after those whose place is not later (R26). -/
def placeIn (p : Nat) (es : List Instr) : Nat :=
  es.length - (es.reverse.takeWhile fun e => decide (p < placeOf e)).length

end Sys2Proof.Machine
end

