-- ==== Sys2Proof/Config.lean ====
section
/-! DEFINITION. What this part fixes (its counts, R5, R233, R431) and the free values: what the spec leaves open and
nothing constrains (DESIGN CHOICE, log 2). A free value has no body, so no proof can see it. -/

namespace Sys2Proof
namespace Config

/-- Cores of a package (R5). -/
def cores : Nat := 6144
/-- Clusters of a package (R5). -/
def clusters : Nat := 24
/-- Dies of a package (R5). -/
def dies : Nat := 4
/-- Cores of a cluster (R5). -/
def coresPerCluster : Nat := 256
/-- Clusters of a die (R5). -/
def clustersPerDie : Nat := 6
/-- Task slots of a core (R145). -/
def slots : Nat := 32
/-- Windows of a core (R20). -/
def windows : Nat := 16
/-- Words of the instruction store (R16). -/
def istoreWords : Nat := 4096
/-- Bytes of the window store (R19). -/
def wstoreBytes : Nat := 131072
/-- Bytes of the configuration store (R84, R169). -/
def cstoreBytes : Nat := 8192
/-- Counting networks of a package: eight per die (R220). -/
def networks : Nat := 32
/-- Ring controllers of a package: sixteen rows of four per cluster (R318). -/
def controllers : Nat := 1536

/-- Ports that meter requests: the cores' mesh ports, 12 die links, 16 pod links (R398, R417). -/
def ports : Nat := 6172

/-- Free values, drawn one after another by a counter the state holds (DESIGN CHOICE, log 2). -/
opaque freeNat : Nat → Nat
/-- A free word (DESIGN CHOICE, log 2). -/
opaque freeWord : Nat → Word

/-- What a link has counted for a class of messages between two points of what moved on the links (DESIGN CHOICE,
log 13). -/
opaque linkCount : Nat → Nat → Nat → Word

/-- The SHA-512 digest, which the spec names without giving it (R423; DESIGN CHOICE, log 6). -/
opaque sha512 : List Byte → BitVec 512
/-- The public exponent of the firmware key, which the spec does not give (R423; DESIGN CHOICE, log 6). -/
opaque rsaExponent : Nat
/-- What a signature of a digest encodes, which the spec does not give (R423; DESIGN CHOICE, log 6). -/
opaque rsaEncoded : BitVec 512 → Nat

/-- Which of its die's four pod links a message to a peer package leaves by, which the spec does not say (DESIGN CHOICE,
log 2). -/
opaque podLink : Nat → Nat

end Config
end Sys2Proof
end

