-- ==== Sys2Proof/WellFormed.lean ====
section
/-! DEFINITION. Which terms of `Instr` stand for a word or an event of the part: the field values R66 to R76 allow,
and unit numbers that exist (R5, R145, R169). -/

namespace Sys2Proof

/-- Sizes that MULH, DIV and REM take (R66). -/
def Size.wide : Size → Bool
  | .b | .h => false
  | .w | .d => true

/-- The conditions ACMP takes (R67). -/
def Cond.addrOk : Cond → Bool
  | .lt | .le | .gt | .ge => false
  | .eq | .ne | .lo | .ls | .hi | .hs => true

/-- The orders a GLD takes (R73). -/
def Order.loadOk : Order → Bool
  | .none | .acq _ => true
  | .rel _ | .acqRel _ => false

/-- The orders a GST or a RED takes (R73, R74). -/
def Order.storeOk : Order → Bool
  | .none | .rel _ => true
  | .acq _ | .acqRel _ => false

/-- The pairs of R135 that are conversions. -/
def CvtTy.pairOk (src dst : CvtTy) : Bool :=
  match src, dst with
  | .f32, .f32 => false
  | .bf16x2, .bf16x2 => false
  | .f16x2, .f16x2 => false
  | .e4m3x4, .e4m3x4 => false
  | .e4m3x4, .i32 | .e4m3x4, .n32 => false
  | .i32, .e4m3x4 | .n32, .e4m3x4 => false
  | .i32, .i32 | .i32, .n32 | .n32, .i32 | .n32, .n32 => false
  | .f32, _ | .bf16x2, _ | .f16x2, _ | .e4m3x4, _ | .i32, _ | .n32, _ => true

/-- FCVT to e4m3x4 takes rounding field 0 only (R72, R41). -/
def CvtTy.rndOk (dst : CvtTy) (r : Rnd) : Bool :=
  match dst with
  | .e4m3x4 => r == .rne
  | .f32 | .bf16x2 | .f16x2 | .i32 | .n32 => true

/-- The size and modifier rules of RED (R74): .s only on min and max, .fast only on fadd, fadd only on .w. -/
def RedOp.formOk (op : RedOp) (dbl signed fast : Bool) : Bool :=
  match op with
  | .add | .and | .or | .xor => !signed && !fast
  | .min | .max => !fast
  | .fadd => !dbl && !signed

/-- The destination rule of AMO (R74): an odd d with .cas is reserved. -/
def AmoOp.destOk (op : AmoOp) (d : BitVec 5) : Bool :=
  match op with
  | .cas => d.toNat % 2 == 0
  | .swap | .add => true

/-- The system registers whose write is a step of its own in the opcode table: FPSTAT, REPC, WDCTL, WBKBn, WBKSn
and TRCCTL (R137, R113, R360, R254, R407). -/
def sysOwnStep (n : BitVec 10) : Bool :=
  n == 0x011#10 || n == 0x012#10 || n == 0x0B0#10 || n == 0x131#10
    || (0x080 ≤ n.toNat && n.toNat < 0x0A0)

/-- The fields of the NOP word inside ADD (R53). -/
def isNopAdd (e : Ext) (s : Size) (d a b : BitVec 5) (g : Guard) : Bool :=
  e == .s && s == .d && d == 0#5 && a == 0#5 && b == 0#5 && g == ⟨0#3, true⟩

/-- A core number of the package (R5). -/
def coreOk (c : Nat) : Bool := decide (c < Config.cores)
/-- A task slot of a core of the package. -/
def slotOk (c t : Nat) : Bool := coreOk c && decide (t < Config.slots)
/-- A cluster of the package. -/
def clusterOk (cl : Nat) : Bool := decide (cl < Config.clusters)
/-- A die of the package. -/
def dieOk (d : Nat) : Bool := decide (d < Config.dies)
/-- A counting network of the package. -/
def netOk (n : Nat) : Bool := decide (n < Config.networks)
/-- A fabric element of a core of the package (R169). -/
def elemOk (c e : Nat) : Bool := coreOk c && decide (e < 64)
/-- A ring controller of the package. -/
def ctrlOk (k : Nat) : Bool := decide (k < Config.controllers)

/-- The source of a remote operation exists. -/
def RemSrc.ok : RemSrc → Bool
  | .slot t => decide (t < Config.slots)
  | .engine e => decide (e < 4)

/-- A window slot that BAR 2 maps exists. -/
def HostWin.ok : HostWin → Bool
  | .core c w => coreOk c && decide (w < Config.windows)
  | .records cl | .status cl | .faults cl | .answers cl | .reports cl | .reserved cl => clusterOk cl
  | .bar fn _ _ => decide (fn < 32)

/-- A configuration register exists. -/
def CfgReg.ok : CfgReg → Bool
  | .ptroot cl | .wdDefault cl | .saveArea cl => clusterOk cl
  | .ptag fn => decide (fn < 32)
  | .podGid e | .podTag e | .podMask e | .podCount e => decide (e < 16)
  | .share port ten => decide (port < Config.ports) && decide (ten < 32)
  | .linkInterval | .linkBase | .linkBuffers => true
  | .traceBase ring | .traceSize ring => decide (ring < 16)

/-- A place Brodfort reaches exists. -/
def BrodReg.ok : BrodReg → Bool
  | .sys slot _ => decide (slot < Config.slots)
  | .window w _ | .desc w _ => decide (w < Config.windows)

/-- The field values of the words (R66 to R76), and unit numbers that exist. -/
def Instr.wf : Instr → Bool
  | .add e s d a b g => !isNopAdd e s d a b g
  | .sub _ _ _ _ _ _ | .mul _ _ _ _ _ _ => true
  | .mulh _ s _ _ _ _ | .div _ s _ _ _ _ | .rem _ s _ _ _ _ => s.wide
  | .and _ _ _ _ _ _ | .or _ _ _ _ _ _ | .xor _ _ _ _ _ _ | .not _ _ _ _ _ => true
  | .shl _ _ _ _ _ _ | .shr _ _ _ _ _ _ | .rot _ _ _ _ _ _ => true
  | .clz _ _ _ _ _ | .ctz _ _ _ _ _ | .popc _ _ _ _ _ => true
  | .min _ _ _ _ _ _ | .max _ _ _ _ _ _ | .brev _ _ _ _ _ => true
  | .bswp _ s _ _ _ => s != .b
  | .mov _ _ _ _ _ | .nop => true
  | .addImm _ _ _ | .andImm _ _ _ | .orImm _ _ _ | .xorImm _ _ _ => true
  | .shlImm _ _ _ | .shrZImm _ _ _ | .shrSImm _ _ _ | .movImm _ _ | .movh _ _ _ => true
  | .cmp _ _ _ _ _ _ | .sel _ _ _ _ => true
  | .bfxZImm _ _ _ _ | .bfxSImm _ _ _ _ | .bfiImm _ _ _ _ => true
  | .bfxZReg _ _ _ _ | .bfxSReg _ _ _ _ | .bfiReg _ _ _ _ => true
  | .aaddReg _ _ _ _ | .aset _ _ _ _ | .aget _ _ _ | .agetH _ _ _ | .astep _ _ _ _ | .aaddImm _ _ _ => true
  | .acmp c _ _ _ _ => c.addrOk
  | .pand _ _ _ _ | .por _ _ _ _ | .pxor _ _ _ _ | .pnot _ _ _ | .pset _ _ _ => true
  | .br _ _ | .jal _ _ | .jr _ _ | .loop _ _ | .rep _ _ _ _ | .reservedEncoding _ => true
  | .wfill _ _ | .wrd _ _ _ | .wwr _ _ _ | .wshr _ _ => true
  | .wqry _ _ q => q != 3#2
  | .wrdn _ _ _ _ | .wfilln _ _ _ | .wdef _ _ => true
  | .wfillReg _ _ _ | .wrdReg _ _ _ _ | .wwrReg _ _ _ _ | .wshrReg _ _ _ => true
  | .wfillRm _ _ _ _ | .wrdRm _ _ _ _ _ | .wwrRm _ _ _ _ _ | .wshrRm _ _ _ _ => true
  | .wqryRm _ _ _ q _ => q != 3#2
  | .waitingReadProceeds c t | .waitingFillProceeds c t => slotOk c t
  | .fadd _ _ _ _ _ _ | .fsub _ _ _ _ _ _ | .fmul _ _ _ _ _ _ | .ffma _ _ _ _ _ _ => true
  | .fmin _ _ _ _ _ | .fmax _ _ _ _ _ | .fsgn _ _ _ _ _ _ | .fcmp _ _ _ _ _ _ => true
  | .frce _ _ _ | .frsqe _ _ _ | .fclass _ _ _ => true
  | .fcvt y x r _ _ _ => x.pairOk y && y.rndOk r
  | .gldBZ _ _ o _ | .gldBS _ _ o _ | .gldHZ _ _ o _ | .gldHS _ _ o _ => o.loadOk
  | .gldWZ _ _ o _ | .gldWS _ _ o _ | .gldD _ _ o _ => o.loadOk
  | .gstB _ _ o _ | .gstH _ _ o _ | .gstW _ _ o _ | .gstD _ _ o _ => o.storeOk
  | .red op dbl signed fast o _ _ _ => op.formOk dbl signed fast && o.storeOk
  | .amo op _ _ d _ _ => op.destOk d
  | .kld _ _ | .iss _ _ | .kmov _ _ => true
  | .kins _ p w _ => decide (p.toNat + w.toNat + 1 ≤ 128)
  | .kext _ _ p w => decide (p.toNat + w.toNat + 1 ≤ 128)
  | .srd _ _ => true
  | .swr n _ => !sysOwnStep n
  | .fpstatWrite _ | .repcWrite _ | .wdctlWrite _ | .wbkbWrite _ _ | .wbksWrite _ _ | .trcctlWrite _ => true
  | .slotResume c t | .slotKill c t => slotOk c t
  | .trap _ | .brk _ | .eret | .tret | .yield | .spawn _ _ | .tbind _ _ | .tunb _ | .tprio _ _ => true
  | .bara _ _ _ | .barw _ _ _ | .barc _ _ _ => true
  | .baraTokenCount c _ _ _ | .barcArrival c _ _ _ | .barrierReleaseArrival c _ _ _ _ => coreOk c
  | .cmsk _ | .cumsk _ | .tkn _ _ | .bndrn _ | .bnsav _ _ | .bnload _ _ | .bnclr _ => true
  | .balancerPass n _ | .tknTokenExit n _ => netOk n
  | .fence _ _ | .tlbinv _ _ | .wsave _ _ | .wrest _ _ | .wpois _ _ | .ctxsav _ | .ctxrst _ | .fscan _ => true
  | .cens _ _ | .trcm _ _ | .lsnap _ => true
  | .fcfg c | .frun c | .fstop c | .agset c | .agprm c | .fmark c => coreOk c
  | .generatorPassStart c g | .generatorRequest c g | .generatorReply c g => coreOk c && decide (g < 8)
  | .elementFire c e | .routerOperatorFire c e _ | .unitReply c e | .markerAlign c e => elemOk c e
  | .rowWordMove c r | .reducerFire c r => coreOk c && decide (r < 4)
  | .reordBlockEmit c e => elemOk c e
  | .sinkFill c k => coreOk c && decide (k < 8)
  | .roundEnd c | .drainComplete c | .fabricScanOut c => coreOk c
  | .gtw c | .wtg c | .wtw c | .gath c | .scat c | .gredw c => coreOk c
  | .bteRequestIssue c e | .bteElementFill c e | .bteCommandComplete c e => coreOk c && decide (e < 4)
  | .doneElementFill c => coreOk c
  | .mxw c | .mxa c | .mxswp c | .mxtm c | .mxz c | .mxout c => coreOk c
  | .mxTileRead c | .mxtmStep c | .splitBlockArrival c | .mxoutElementFill c | .mxCommandComplete c _ => coreOk c
  | .rgcfg c | .rgmt c | .rgput c | .rggo c | .rgrot c | .rgdrn c => coreOk c
  | .beatStart k | .tileLanding k | .completionTokenFill k | .sweepEnd k => ctrlOk k
  | .meeting c | .encounterDelivery c | .tileUnpin c | .encounterFinish c => coreOk c
  | .pkt c => coreOk c
  | .pktCopyEnqueue c _ dst => coreOk c && coreOk dst
  | .packetDelivery c _ => coreOk c
  | .remoteWindowOperation c src | .remoteAnswer c src => coreOk c && src.ok
  | .clusterTlbLookup _ | .homeSliceAccess _ _ | .accessReply _ => true
  | .pageWalkStart d => dieOk d
  | .walkComplete d k => dieOk d && decide (k.walk < 64) && k.bad.all fun l => decide (l.toNat ≤ 4)
  | .faultAnswer cl => clusterOk cl
  | .releasePerformed c t => slotOk c t
  | .refillReadStart c w | .refillLand c w => coreOk c && decide (w < Config.windows)
  | .egressMirrorWrite c w => coreOk c && decide (w < Config.windows)
  | .standoffReport cl | .orphanWaitReport cl | .reportRecordPost cl => clusterOk cl
  | .watchdogFire c | .censusEntryFill c | .replayCompare c | .memberHalt c _ => coreOk c
  | .coreHalt c | .coreResume c | .brodfortDump c _ => coreOk c
  | .brodfortAccess c r _ => coreOk c && r.ok
  | .linkSnapshot => true
  | .launchRecordRead cl | .launchPartLoad ⟨cl, _⟩ | .launchStatusPost cl | .groupRestore cl => clusterOk cl
  | .launchPartMessage cl other => clusterOk cl && clusterOk other
  | .startBarrierFire _ | .coreGroupCompletion _ | .groupPreempt _ | .gidCancel _ => true
  | .keptGroupDiscard cl j => clusterOk cl && decide (j < 4)
  | .clusterOwnerSet cl _ | .stallCounterLoan cl | .loanReturn cl _ => clusterOk cl
  | .networkOwnerSet n _ => netOk n
  | .configSpaceWrite r _ => r.ok
  | .traceLoan cl ring => clusterOk cl && decide (ring < 16)
  | .vfReset _ => true
  | .hostFill w _ | .hostShrink w _ | .hostReadElement w | .hostReadPointers w => w.ok
  | .hostMemoryWrite _ _ => true
  | .powerApplied _ | .powerRemoved | .mailboxStatus | .mailboxDiag | .mailboxRestart _ | .mailboxAttest _ => true
  | .mailboxOther _ | .firmwareSwitchover _ _ _ | .alarmTrip _ => true
  | .linkRetry (.party c _) => coreOk c
  | .linkRetry (.memory key n) => decide (n ≤ 64 ∧ key + n ≤ 3 * 2 ^ 58)
  | .coreSparing c | .powerThrottle c => coreOk c
  | .hbmSparing d ch => dieOk d && decide (ch < 64)
  | .laneSparing _ _ | .linkRetry (.link _) | .softErrorCorrected | .bucketRefill => true
  | .dieFencing d => dieOk d
  | .packageReplacement old new => decide (old < 64) && decide (new < 64)
  | .tokenHop c e _ => elemOk c e

end Sys2Proof
end

