-- ==== Sys2Proof/Decode.lean ====
section
/-! DEFINITION. Decoding a scalar word (R61 to R76), total, refusing by name (R64); after it the encoder. -/

namespace Sys2Proof

/-- Why a word is a reserved encoding (R64). -/
inductive Reject
  | major | minor | zeroField | value
  deriving DecidableEq, Repr

/-- A decoded word or the reason it is reserved. -/
abbrev Decoded := Except Reject Instr

/-! ## Formats (R61) -/

/-- Format F3 behind its major opcode. -/
structure F3 where
  d : BitVec 5
  a : BitVec 5
  b : BitVec 5
  g : Guard
  f : BitVec 7
  deriving DecidableEq, Repr

/-- Format FI behind its major opcode. -/
structure FI where
  d : BitVec 5
  a : BitVec 5
  i : BitVec 16
  deriving DecidableEq, Repr

/-- Format FW behind its major opcode. -/
structure FW where
  w : BitVec 4
  r : BitVec 5
  m : BitVec 3
  i : BitVec 14
  deriving DecidableEq, Repr

/-- Format FB behind its major opcode. -/
structure FB where
  g : Guard
  o : BitVec 22
  deriving DecidableEq, Repr

/-- Format FK behind its major opcode. -/
structure FK where
  k : BitVec 3
  op : BitVec 3
  x : BitVec 20
  deriving DecidableEq, Repr

/-- Format FS behind its major opcode. -/
structure FS where
  fn : BitVec 6
  x : BitVec 5
  y : BitVec 5
  z : BitVec 10
  deriving DecidableEq, Repr

/-- The n bits of `v` from bit p upward. -/
def bits (v p n : Nat) : BitVec n := BitVec.ofNat n (v / 2 ^ p)

/-- A guard's neg bit from its word bit. -/
def negOf (b : BitVec 1) : Bool := b == 1#1
/-- A word bit from a guard's neg bit. -/
def negBit (n : Bool) : BitVec 1 := if n then 1#1 else 0#1

/-- The major opcode (R61). -/
def majorOf (w : Code) : BitVec 6 := bits w.toNat 26 6

/-- The F3 fields of a word. -/
def f3Of (w : Code) : F3 :=
  ⟨bits w.toNat 21 5, bits w.toNat 16 5, bits w.toNat 11 5, ⟨bits w.toNat 8 3, negOf (bits w.toNat 7 1)⟩,
    bits w.toNat 0 7⟩
/-- The FI fields of a word. -/
def fiOf (w : Code) : FI := ⟨bits w.toNat 21 5, bits w.toNat 16 5, bits w.toNat 0 16⟩
/-- The FW fields of a word. -/
def fwOf (w : Code) : FW := ⟨bits w.toNat 22 4, bits w.toNat 17 5, bits w.toNat 14 3, bits w.toNat 0 14⟩
/-- The FB fields of a word. -/
def fbOf (w : Code) : FB := ⟨⟨bits w.toNat 23 3, negOf (bits w.toNat 22 1)⟩, bits w.toNat 0 22⟩
/-- The FK fields of a word. -/
def fkOf (w : Code) : FK := ⟨bits w.toNat 23 3, bits w.toNat 20 3, bits w.toNat 0 20⟩
/-- The FS fields of a word. -/
def fsOf (w : Code) : FS := ⟨bits w.toNat 20 6, bits w.toNat 15 5, bits w.toNat 10 5, bits w.toNat 0 10⟩

/-- The F3 word of a major opcode and fields. -/
def f3Word (m : BitVec 6) (x : F3) : Code :=
  BitVec.ofNat 32 (m.toNat * 2 ^ 26 + x.d.toNat * 2 ^ 21 + x.a.toNat * 2 ^ 16 + x.b.toNat * 2 ^ 11
    + x.g.p.toNat * 2 ^ 8 + (negBit x.g.neg).toNat * 2 ^ 7 + x.f.toNat)
/-- The FI word of a major opcode and fields. -/
def fiWord (m : BitVec 6) (x : FI) : Code :=
  BitVec.ofNat 32 (m.toNat * 2 ^ 26 + x.d.toNat * 2 ^ 21 + x.a.toNat * 2 ^ 16 + x.i.toNat)
/-- The FW word of a major opcode and fields. -/
def fwWord (m : BitVec 6) (x : FW) : Code :=
  BitVec.ofNat 32 (m.toNat * 2 ^ 26 + x.w.toNat * 2 ^ 22 + x.r.toNat * 2 ^ 17 + x.m.toNat * 2 ^ 14 + x.i.toNat)
/-- The FB word of a major opcode and fields. -/
def fbWord (m : BitVec 6) (x : FB) : Code :=
  BitVec.ofNat 32 (m.toNat * 2 ^ 26 + x.g.p.toNat * 2 ^ 23 + (negBit x.g.neg).toNat * 2 ^ 22 + x.o.toNat)
/-- The FK word of a major opcode and fields. -/
def fkWord (m : BitVec 6) (x : FK) : Code :=
  BitVec.ofNat 32 (m.toNat * 2 ^ 26 + x.k.toNat * 2 ^ 23 + x.op.toNat * 2 ^ 20 + x.x.toNat)
/-- The FS word of a major opcode and fields. -/
def fsWord (m : BitVec 6) (x : FS) : Code :=
  BitVec.ofNat 32 (m.toNat * 2 ^ 26 + x.fn.toNat * 2 ^ 20 + x.x.toNat * 2 ^ 15 + x.y.toNat * 2 ^ 10 + x.z.toNat)

/-! ## Field values -/

/-- A field that must be zero (R63). -/
def zeroField (w : Nat) (k : Decoded) : Decoded := if w = 0 then k else .error .zeroField

/-- A condition on field values (R64). -/
def need (c : Bool) (k : Decoded) : Decoded := if c then k else .error .value

/-- A 5-bit field that names an a register (R63). -/
def aReg (x : BitVec 5) (k : BitVec 4 → Decoded) : Decoded :=
  if x.toNat < 16 then k (BitVec.ofNat 4 x.toNat) else .error .zeroField

/-- A 5-bit field that names a p register (R63). -/
def pReg (x : BitVec 5) (k : BitVec 3 → Decoded) : Decoded :=
  if x.toNat < 8 then k (BitVec.ofNat 3 x.toNat) else .error .zeroField

/-- An a register in a 5-bit field. -/
def aField (a : BitVec 4) : BitVec 5 := BitVec.ofNat 5 a.toNat
/-- A p register in a 5-bit field. -/
def pField (p : BitVec 3) : BitVec 5 := BitVec.ofNat 5 p.toNat

/-- The size of a 2-bit code (R66). -/
def sizeOf2 (n : Nat) : Size :=
  match n with
  | 0 => .b
  | 1 => .h
  | 2 => .w
  | _ => .d
/-- The 2-bit code of a size (R66). -/
def Size.code : Size → Nat
  | .b => 0 | .h => 1 | .w => 2 | .d => 3

/-- The rounding mode of a 2-bit code (R39). -/
def rndOf2 (n : Nat) : Rnd :=
  match n with
  | 0 => .rne
  | 1 => .rz
  | 2 => .ru
  | _ => .rd
/-- The 2-bit code of a rounding mode (R39). -/
def Rnd.code : Rnd → Nat
  | .rne => 0 | .rz => 1 | .ru => 2 | .rd => 3

/-- The scope of a 3-bit code (R73). -/
def scopeOf3 (n : Nat) : Scope :=
  match n with
  | 0 => .lane
  | 1 => .core
  | 2 => .quad
  | 3 => .clus
  | 4 => .die
  | 5 => .pkg
  | 6 => .pod
  | _ => .sys
/-- The 3-bit code of a scope (R73). -/
def Scope.code : Scope → Nat
  | .lane => 0 | .core => 1 | .quad => 2 | .clus => 3 | .die => 4 | .pkg => 5 | .pod => 6 | .sys => 7

/-- The order of a scope code and an order code (R73); a scope without an order is reserved. -/
def orderOf (scope order : Nat) : Option Order :=
  match order with
  | 0 => if scope = 0 then some .none else none
  | 1 => some (.acq (scopeOf3 scope))
  | 2 => some (.rel (scopeOf3 scope))
  | _ => some (.acqRel (scopeOf3 scope))
/-- The scope code and the order code together, scope above order (R73). -/
def Order.code : Order → Nat
  | .none => 0
  | .acq s => s.code * 4 + 1
  | .rel s => s.code * 4 + 2
  | .acqRel s => s.code * 4 + 3

/-- The condition of a code (R67). -/
def condOf (n : Nat) : Option Cond :=
  match n with
  | 0 => some .eq
  | 1 => some .ne
  | 2 => some .lt
  | 3 => some .le
  | 4 => some .gt
  | 5 => some .ge
  | 6 => some .lo
  | 7 => some .ls
  | 8 => some .hi
  | 9 => some .hs
  | _ => none
/-- The code of a condition (R67). -/
def Cond.code : Cond → Nat
  | .eq => 0 | .ne => 1 | .lt => 2 | .le => 3 | .gt => 4 | .ge => 5 | .lo => 6 | .ls => 7 | .hi => 8 | .hs => 9

/-- The conversion type of a code (R72). -/
def cvtTyOf (n : Nat) : Option CvtTy :=
  match n with
  | 0 => some .f32
  | 1 => some .bf16x2
  | 2 => some .f16x2
  | 3 => some .e4m3x4
  | 4 => some .i32
  | 5 => some .n32
  | _ => none
/-- The code of a conversion type (R72). -/
def CvtTy.code : CvtTy → Nat
  | .f32 => 0 | .bf16x2 => 1 | .f16x2 => 2 | .e4m3x4 => 3 | .i32 => 4 | .n32 => 5

/-- The barrier level of a code (R76). -/
def levelOf (n : Nat) : Option Level :=
  match n with
  | 0 => some .lane
  | 1 => some .core
  | 2 => some .quad
  | 3 => some .clus
  | 4 => some .die
  | 5 => some .pkg
  | 6 => some .pod
  | _ => none
/-- The code of a barrier level (R76). -/
def Level.code : Level → Nat
  | .lane => 0 | .core => 1 | .quad => 2 | .clus => 3 | .die => 4 | .pkg => 5 | .pod => 6

/-- The port of a code (R75). -/
def portOf (n : Nat) : Option Port :=
  match n with
  | 0 => some .fab
  | 1 => some .mx
  | 2 => some .bte
  | 3 => some .ring
  | 4 => some .pkt
  | _ => none
/-- The code of a port (R75). -/
def Port.code : Port → Nat
  | .fab => 0 | .mx => 1 | .bte => 2 | .ring => 3 | .pkt => 4

/-- The RED operation of a code (R74). -/
def redOpOf (n : Nat) : Option RedOp :=
  match n with
  | 0 => some .add
  | 1 => some .min
  | 2 => some .max
  | 3 => some .and
  | 4 => some .or
  | 5 => some .xor
  | 6 => some .fadd
  | _ => none
/-- The code of a RED operation (R74). -/
def RedOp.code : RedOp → Nat
  | .add => 0 | .min => 1 | .max => 2 | .and => 3 | .or => 4 | .xor => 5 | .fadd => 6

/-- The AMO operation of a code (R74). -/
def amoOpOf (n : Nat) : Option AmoOp :=
  match n with
  | 0 => some .swap
  | 1 => some .cas
  | 2 => some .add
  | _ => none
/-- The code of an AMO operation (R74). -/
def AmoOp.code : AmoOp → Nat
  | .swap => 0 | .cas => 1 | .add => 2

/-- The FENCE form of a code (R76). -/
def fenceKindOf (n : Nat) : Option FenceKind :=
  match n with
  | 0 => some .full
  | 1 => some .acq
  | 2 => some .rel
  | _ => none
/-- The code of a FENCE form (R76). -/
def FenceKind.code : FenceKind → Nat
  | .full => 0 | .acq => 1 | .rel => 2

/-- The TLBINV kind of a code (R76). -/
def tlbKindOf (n : Nat) : Option TlbKind :=
  match n with
  | 0 => some .page
  | 1 => some .all
  | _ => none
/-- The code of a TLBINV kind (R76). -/
def TlbKind.code : TlbKind → Nat
  | .page => 0 | .all => 1

/-- The FSGN form of a code (R72). -/
def sgnOf (n : Nat) : Option SgnOp :=
  match n with
  | 0 => some .cp
  | 1 => some .neg
  | 2 => some .xor
  | _ => none
/-- The code of an FSGN form (R72). -/
def SgnOp.code : SgnOp → Nat
  | .cp => 0 | .neg => 1 | .xor => 2

/-- The FCMP condition of a code (R72). -/
def fcondOf (n : Nat) : FCond :=
  match n with
  | 0 => .eq
  | 1 => .lt
  | 2 => .le
  | _ => .un
/-- The code of an FCMP condition (R72). -/
def FCond.code : FCond → Nat
  | .eq => 0 | .lt => 1 | .le => 2 | .un => 3

/-- A field value its table does not name is reserved (R64). -/
def named {α : Type} (o : Option α) (k : α → Decoded) : Decoded :=
  match o with
  | some x => k x
  | none => .error .value

/-! ## The groups of the opcode map (R65) -/

/-- Majors 0x01 and 0x02 (R66); the NOP word is an ADD whose guard never holds (R53). -/
def decodeInt (e : Ext) (x : F3) : Decoded :=
  let s := sizeOf2 (x.f.toNat % 4)
  match x.f.toNat / 4 with
  | 0 => if isNopAdd e s x.d x.a x.b x.g then .ok .nop else .ok (.add e s x.d x.a x.b x.g)
  | 1 => .ok (.sub e s x.d x.a x.b x.g)
  | 2 => .ok (.mul e s x.d x.a x.b x.g)
  | 3 => need s.wide (.ok (.mulh e s x.d x.a x.b x.g))
  | 4 => need s.wide (.ok (.div e s x.d x.a x.b x.g))
  | 5 => need s.wide (.ok (.rem e s x.d x.a x.b x.g))
  | 6 => .ok (.and e s x.d x.a x.b x.g)
  | 7 => .ok (.or e s x.d x.a x.b x.g)
  | 8 => .ok (.xor e s x.d x.a x.b x.g)
  | 9 => zeroField x.b.toNat (.ok (.not e s x.d x.a x.g))
  | 10 => .ok (.shl e s x.d x.a x.b x.g)
  | 11 => .ok (.shr e s x.d x.a x.b x.g)
  | 12 => .ok (.rot e s x.d x.a x.b x.g)
  | 13 => zeroField x.b.toNat (.ok (.clz e s x.d x.a x.g))
  | 14 => zeroField x.b.toNat (.ok (.ctz e s x.d x.a x.g))
  | 15 => zeroField x.b.toNat (.ok (.popc e s x.d x.a x.g))
  | 16 => .ok (.min e s x.d x.a x.b x.g)
  | 17 => .ok (.max e s x.d x.a x.b x.g)
  | 18 => zeroField x.b.toNat (.ok (.brev e s x.d x.a x.g))
  | 19 => need (s != .b) (zeroField x.b.toNat (.ok (.bswp e s x.d x.a x.g)))
  | 20 => zeroField x.b.toNat (.ok (.mov e s x.d x.a x.g))
  | _ => .error .minor

/-- The shift immediates (R68). -/
def decodeShiftImm (x : FI) (k : BitVec 6 → Instr) : Decoded :=
  zeroField (x.i.toNat / 64) (.ok (k (bits x.i.toNat 0 6)))

/-- BFX immediate, major 0x0E (R68). -/
def decodeBfx (x : FI) : Decoded :=
  match x.i.toNat / 4096 with
  | 0 => .ok (.bfxZImm x.d x.a (bits x.i.toNat 6 6) (bits x.i.toNat 0 6))
  | 1 => .ok (.bfxSImm x.d x.a (bits x.i.toNat 6 6) (bits x.i.toNat 0 6))
  | _ => .error .zeroField

/-- BFI immediate, major 0x0F (R68). -/
def decodeBfi (x : FI) : Decoded :=
  zeroField (x.i.toNat / 4096) (.ok (.bfiImm x.d x.a (bits x.i.toNat 6 6) (bits x.i.toNat 0 6)))

/-- MOVH, major 0x0B (R68). -/
def decodeMovh (x : FI) : Decoded :=
  zeroField (x.a.toNat / 4) (.ok (.movh x.d (bits x.a.toNat 0 2) x.i))

/-- REP, major 0x19 (R68). -/
def decodeRep (x : FI) : Decoded :=
  zeroField x.d.toNat <| zeroField x.a.toNat <| zeroField (x.i.toNat / 512) <|
    .ok (.rep (bits x.i.toNat 0 6) (negOf (bits x.i.toNat 6 1)) (negOf (bits x.i.toNat 7 1))
      (negOf (bits x.i.toNat 8 1)))

/-- CMP, major 0x0C (R67). -/
def decodeCmp (x : F3) : Decoded :=
  zeroField (x.f.toNat % 2) <| pReg x.d fun d =>
    named (condOf (x.f.toNat / 8)) fun c => .ok (.cmp c (sizeOf2 (x.f.toNat / 2 % 4)) d x.a x.b x.g)

/-- ACMP, major 0x13 (R67). -/
def decodeAcmp (x : F3) : Decoded :=
  zeroField (x.f.toNat % 8) <| pReg x.d fun d => aReg x.a fun a => aReg x.b fun b =>
    named (condOf (x.f.toNat / 8)) fun c => need c.addrOk (.ok (.acmp c d a b x.g))

/-- Major 0x10 (R69). -/
def decodeBf (x : F3) : Decoded :=
  match x.f.toNat with
  | 0 => .ok (.bfxZReg x.d x.a x.b x.g)
  | 1 => .ok (.bfxSReg x.d x.a x.b x.g)
  | 2 => .ok (.bfiReg x.d x.a x.b x.g)
  | _ => .error .minor

/-- Major 0x11 (R69). -/
def decodeAddr (x : F3) : Decoded :=
  match x.f.toNat with
  | 0 => aReg x.d fun d => aReg x.a fun a => .ok (.aaddReg d a x.b x.g)
  | 1 => aReg x.d fun d => .ok (.aset d x.a x.b x.g)
  | 2 => aReg x.a fun a => zeroField x.b.toNat (.ok (.aget x.d a x.g))
  | 3 => aReg x.a fun a => zeroField x.b.toNat (.ok (.agetH x.d a x.g))
  | 4 => aReg x.d fun d => aReg x.a fun a => .ok (.astep d a x.b x.g)
  | _ => .error .minor

/-- Major 0x14 (R69). -/
def decodePred (x : F3) : Decoded :=
  match x.f.toNat with
  | 0 => pReg x.d fun d => pReg x.a fun a => pReg x.b fun b => .ok (.pand d a b x.g)
  | 1 => pReg x.d fun d => pReg x.a fun a => pReg x.b fun b => .ok (.por d a b x.g)
  | 2 => pReg x.d fun d => pReg x.a fun a => pReg x.b fun b => .ok (.pxor d a b x.g)
  | 3 => pReg x.d fun d => pReg x.a fun a => zeroField x.b.toNat (.ok (.pnot d a x.g))
  | 4 => pReg x.d fun d => zeroField x.b.toNat <| zeroField (x.a.toNat / 2) <|
      .ok (.pset d (negOf (bits x.a.toNat 0 1)) x.g)
  | _ => .error .minor

/-- Major 0x20 (R71). -/
def decodeWin (x : FW) : Decoded :=
  match x.m.toNat with
  | 0 => zeroField x.i.toNat (.ok (.wfill x.w x.r))
  | 1 => .ok (.wrd x.r x.w x.i)
  | 2 => .ok (.wwr x.w x.i x.r)
  | 3 => zeroField x.r.toNat (.ok (.wshr x.w x.i))
  | 4 => zeroField (x.i.toNat / 4) <| need (bits x.i.toNat 0 2 != 3#2) <|
      .ok (.wqry x.r x.w (bits x.i.toNat 0 2))
  | 5 => .ok (.wrdn x.r (bits x.i.toNat 11 3) x.w (bits x.i.toNat 0 11))
  | 6 => zeroField (x.i.toNat % 2048) (.ok (.wfilln x.w x.r (bits x.i.toNat 11 3)))
  | _ => zeroField x.i.toNat (.ok (.wdef x.w x.r))

/-- Major 0x21 (R71). -/
def decodeWinReg (x : F3) : Decoded :=
  let w : BitVec 4 := bits x.f.toNat 3 4
  zeroField x.b.toNat <|
    match x.f.toNat % 8 with
    | 0 => zeroField x.a.toNat (.ok (.wfillReg w x.d x.g))
    | 1 => .ok (.wrdReg x.d w x.a x.g)
    | 2 => .ok (.wwrReg w x.a x.d x.g)
    | 3 => zeroField x.d.toNat (.ok (.wshrReg w x.a x.g))
    | _ => .error .minor

/-- Major 0x22 (R71). -/
def decodeWinRm (x : F3) : Decoded :=
  let w : BitVec 4 := bits x.f.toNat 3 4
  match x.f.toNat % 8 with
  | 0 => zeroField x.a.toNat (.ok (.wfillRm w x.b x.d x.g))
  | 1 => .ok (.wrdRm x.d w x.b x.a x.g)
  | 2 => .ok (.wwrRm w x.b x.a x.d x.g)
  | 3 => zeroField x.d.toNat (.ok (.wshrRm w x.b x.a x.g))
  | 4 => need (decide (x.a.toNat < 3)) (.ok (.wqryRm x.d w x.b (bits x.a.toNat 0 2) x.g))
  | _ => .error .minor

/-- Majors 0x24 to 0x26 (R72). -/
def decodeFp (t : FpTy) (x : F3) : Decoded :=
  let m := x.f.toNat % 4
  match x.f.toNat / 4 with
  | 0 => .ok (.fadd t (rndOf2 m) x.d x.a x.b x.g)
  | 1 => .ok (.fsub t (rndOf2 m) x.d x.a x.b x.g)
  | 2 => .ok (.fmul t (rndOf2 m) x.d x.a x.b x.g)
  | 3 => .ok (.ffma t (rndOf2 m) x.d x.a x.b x.g)
  | 4 => zeroField m (.ok (.fmin t x.d x.a x.b x.g))
  | 5 => zeroField m (.ok (.fmax t x.d x.a x.b x.g))
  | 6 => named (sgnOf m) fun o => .ok (.fsgn t o x.d x.a x.b x.g)
  | 7 => pReg x.d fun d => .ok (.fcmp t (fcondOf m) d x.a x.b x.g)
  | 8 => zeroField m <| zeroField x.b.toNat <| need (t == .f32) (.ok (.frce x.d x.a x.g))
  | 9 => zeroField m <| zeroField x.b.toNat <| need (t == .f32) (.ok (.frsqe x.d x.a x.g))
  | 10 => zeroField m <| zeroField x.b.toNat <| need (t == .f32) (.ok (.fclass x.d x.a x.g))
  | _ => .error .minor

/-- FCVT, major 0x27 (R72). -/
def decodeCvt (x : F3) : Decoded :=
  let r := rndOf2 (x.b.toNat % 4)
  zeroField (x.f.toNat % 2) <| zeroField (x.b.toNat / 4) <|
    named (cvtTyOf (x.f.toNat / 16)) fun y => named (cvtTyOf (x.f.toNat / 2 % 8)) fun z =>
      need (z.pairOk y && y.rndOk r) (.ok (.fcvt y z r x.d x.a x.g))

/-- The fields of a GLD word (R73). -/
def decodeLoad (x : FI) (k : BitVec 5 → BitVec 4 → Order → BitVec 11 → Instr) : Decoded :=
  aReg x.a fun a => named (orderOf (x.i.toNat / 8192) (x.i.toNat / 2048 % 4)) fun o =>
    need o.loadOk (.ok (k x.d a o (bits x.i.toNat 0 11)))

/-- The fields of a GST word (R73). -/
def decodeStore (x : FI) (k : BitVec 5 → BitVec 4 → Order → BitVec 11 → Instr) : Decoded :=
  aReg x.a fun a => named (orderOf (x.i.toNat / 8192) (x.i.toNat / 2048 % 4)) fun o =>
    need o.storeOk (.ok (k x.d a o (bits x.i.toNat 0 11)))

/-- RED, major 0x33 (R74). -/
def decodeRed (x : F3) : Decoded :=
  aReg x.a fun a => named (orderOf (x.b.toNat / 4) (x.b.toNat % 4)) fun o =>
    named (redOpOf (x.f.toNat / 16)) fun op =>
      let dbl := negOf (bits x.f.toNat 2 1)
      let sg := negOf (bits x.f.toNat 1 1)
      let fast := negOf (bits x.f.toNat 0 1)
      need (negOf (bits x.f.toNat 3 1) && op.formOk dbl sg fast && o.storeOk) <|
        .ok (.red op dbl sg fast o x.d a x.g)

/-- AMO, major 0x34 (R74). -/
def decodeAmo (x : F3) : Decoded :=
  zeroField (x.f.toNat % 4) <| aReg x.a fun a =>
    named (orderOf (x.b.toNat / 4) (x.b.toNat % 4)) fun o =>
      named (amoOpOf (x.f.toNat / 16)) fun op =>
        need (negOf (bits x.f.toNat 3 1) && op.destOk x.d) <|
          .ok (.amo op (negOf (bits x.f.toNat 2 1)) o x.d a x.g)

/-- Major 0x38 (R75). -/
def decodeK (x : FK) : Decoded :=
  match x.op.toNat with
  | 0 => zeroField (x.x.toNat / 4096) <| need (x.x.toNat % 4 == 0) (.ok (.kld x.k (bits x.x.toNat 2 10)))
  | 1 => zeroField (x.x.toNat / 8) <| named (portOf (x.x.toNat % 8)) fun p => .ok (.iss x.k p)
  | 2 => zeroField (x.x.toNat % 4) <|
      need (decide ((bits x.x.toNat 13 7 : BitVec 7).toNat + (bits x.x.toNat 7 6 : BitVec 6).toNat + 1 ≤ 128)) <|
        .ok (.kins x.k (bits x.x.toNat 13 7) (bits x.x.toNat 7 6) (bits x.x.toNat 2 5))
  | 3 => zeroField (x.x.toNat % 4) <|
      need (decide ((bits x.x.toNat 13 7 : BitVec 7).toNat + (bits x.x.toNat 7 6 : BitVec 6).toNat + 1 ≤ 128)) <|
        .ok (.kext (bits x.x.toNat 2 5) x.k (bits x.x.toNat 13 7) (bits x.x.toNat 7 6))
  | 4 => zeroField (x.x.toNat / 8) (.ok (.kmov x.k (bits x.x.toNat 0 3)))
  | _ => .error .minor

/-- The step of a system-register write (R137 and the opcode table). -/
def swrStep (n : BitVec 10) (s : BitVec 5) : Instr :=
  if n = 0x011#10 then .fpstatWrite s
  else if n = 0x012#10 then .repcWrite s
  else if n = 0x0B0#10 then .wdctlWrite s
  else if n = 0x131#10 then .trcctlWrite s
  else if 0x080 ≤ n.toNat ∧ n.toNat < 0x0A0 then
    if n.toNat % 2 = 0 then .wbkbWrite (bits n.toNat 1 4) s else .wbksWrite (bits n.toNat 1 4) s
  else .swr n s

/-- A barrier operand (R76). -/
def barOf (z : Nat) (k : Level → BitVec 4 → Instr) : Decoded :=
  zeroField (z / 128) <| named (levelOf (z / 16)) fun l => .ok (k l (bits z 0 4))

/-- Major 0x3F (R76). -/
def decodeSys (x : FS) : Decoded :=
  let z := x.z.toNat
  let xz (k : Decoded) := zeroField x.x.toNat k
  let yz (k : Decoded) := zeroField x.y.toNat k
  match x.fn.toNat with
  | 0x01 => yz (.ok (.srd x.x x.z))
  | 0x02 => yz (.ok (swrStep x.z x.x))
  | 0x03 => xz (yz (.ok (.trap x.z)))
  | 0x04 => xz (yz (.ok (.brk x.z)))
  | 0x05 => xz (yz (zeroField z (.ok .eret)))
  | 0x06 => xz (yz (zeroField z (.ok .tret)))
  | 0x07 => xz (yz (zeroField z (.ok .yield)))
  | 0x08 => zeroField z (.ok (.spawn x.x x.y))
  | 0x09 => zeroField z (.ok (.tbind x.x x.y))
  | 0x0A => yz (zeroField z (.ok (.tunb x.x)))
  | 0x0B => yz (zeroField (z / 4) (.ok (.tprio x.x (bits z 0 2))))
  | 0x0C => yz (barOf z fun l b => .bara x.x l b)
  | 0x0D => xz (barOf z fun l b => .barw l b x.y)
  | 0x0E => yz (barOf z fun l b => .barc l b x.x)
  | 0x0F => xz (yz (zeroField (z / 16) (.ok (.cmsk (bits z 0 4)))))
  | 0x10 => xz (yz (zeroField (z / 16) (.ok (.cumsk (bits z 0 4)))))
  | 0x11 => yz (zeroField (z / 8) (.ok (.tkn x.x (bits z 0 3))))
  | 0x12 => xz (yz (zeroField (z / 8) (.ok (.bndrn (bits z 0 3)))))
  | 0x13 => yz (zeroField (z / 8) (aReg x.x fun a => .ok (.bnsav (bits z 0 3) a)))
  | 0x14 => yz (zeroField (z / 8) (aReg x.x fun a => .ok (.bnload (bits z 0 3) a)))
  | 0x15 => xz (yz (zeroField (z / 8) (.ok (.bnclr (bits z 0 3)))))
  | 0x16 => xz (yz (zeroField (z / 128) (zeroField (z / 4 % 4)
      (named (fenceKindOf (z % 4)) fun o => .ok (.fence o (scopeOf3 (z / 16)))))))
  | 0x17 => yz (zeroField (z / 4) (aReg x.x fun a => named (tlbKindOf z) fun k => .ok (.tlbinv a k)))
  | 0x18 => yz (zeroField (z / 16) (aReg x.x fun a => .ok (.wsave (bits z 0 4) a)))
  | 0x19 => yz (zeroField (z / 16) (aReg x.x fun a => .ok (.wrest (bits z 0 4) a)))
  | 0x1A => yz (zeroField (z / 16) (.ok (.wpois (bits z 0 4) x.x)))
  | 0x1B => yz (zeroField z (aReg x.x fun a => .ok (.ctxsav a)))
  | 0x1C => yz (zeroField z (aReg x.x fun a => .ok (.ctxrst a)))
  | 0x1D => yz (zeroField z (aReg x.x fun a => .ok (.fscan a)))
  | 0x1E => yz (zeroField (z / 16) (.ok (.cens (bits z 0 4) x.x)))
  | 0x1F => yz (.ok (.trcm x.z x.x))
  | 0x20 => yz (zeroField z (aReg x.x fun a => .ok (.lsnap a)))
  | _ => .error .minor

/-- Decoding a scalar word (R65). -/
def decode (w : Code) : Decoded :=
  match (majorOf w).toNat with
  | 0x01 => decodeInt .z (f3Of w)
  | 0x02 => decodeInt .s (f3Of w)
  | 0x03 => .ok (.addImm (fiOf w).d (fiOf w).a (fiOf w).i)
  | 0x04 => .ok (.andImm (fiOf w).d (fiOf w).a (fiOf w).i)
  | 0x05 => .ok (.orImm (fiOf w).d (fiOf w).a (fiOf w).i)
  | 0x06 => .ok (.xorImm (fiOf w).d (fiOf w).a (fiOf w).i)
  | 0x07 => decodeShiftImm (fiOf w) fun n => .shlImm (fiOf w).d (fiOf w).a n
  | 0x08 => decodeShiftImm (fiOf w) fun n => .shrZImm (fiOf w).d (fiOf w).a n
  | 0x09 => decodeShiftImm (fiOf w) fun n => .shrSImm (fiOf w).d (fiOf w).a n
  | 0x0A => zeroField (fiOf w).a.toNat (.ok (.movImm (fiOf w).d (fiOf w).i))
  | 0x0B => decodeMovh (fiOf w)
  | 0x0C => decodeCmp (f3Of w)
  | 0x0D => zeroField (f3Of w).f.toNat (.ok (.sel (f3Of w).d (f3Of w).a (f3Of w).b (f3Of w).g))
  | 0x0E => decodeBfx (fiOf w)
  | 0x0F => decodeBfi (fiOf w)
  | 0x10 => decodeBf (f3Of w)
  | 0x11 => decodeAddr (f3Of w)
  | 0x12 => aReg (fiOf w).d fun d => aReg (fiOf w).a fun a => .ok (.aaddImm d a (fiOf w).i)
  | 0x13 => decodeAcmp (f3Of w)
  | 0x14 => decodePred (f3Of w)
  | 0x15 => .ok (.br (fbOf w).g (fbOf w).o)
  | 0x16 => zeroField (fiOf w).a.toNat (.ok (.jal (fiOf w).d (fiOf w).i))
  | 0x17 => zeroField (f3Of w).d.toNat <| zeroField (f3Of w).b.toNat <| zeroField (f3Of w).f.toNat <|
      .ok (.jr (f3Of w).a (f3Of w).g)
  | 0x18 => zeroField (fiOf w).a.toNat (.ok (.loop (fiOf w).d (fiOf w).i))
  | 0x19 => decodeRep (fiOf w)
  | 0x20 => decodeWin (fwOf w)
  | 0x21 => decodeWinReg (f3Of w)
  | 0x22 => decodeWinRm (f3Of w)
  | 0x24 => decodeFp .f32 (f3Of w)
  | 0x25 => decodeFp .bf16x2 (f3Of w)
  | 0x26 => decodeFp .f16x2 (f3Of w)
  | 0x27 => decodeCvt (f3Of w)
  | 0x28 => decodeLoad (fiOf w) .gldBZ
  | 0x29 => decodeLoad (fiOf w) .gldBS
  | 0x2A => decodeLoad (fiOf w) .gldHZ
  | 0x2B => decodeLoad (fiOf w) .gldHS
  | 0x2C => decodeLoad (fiOf w) .gldWZ
  | 0x2D => decodeLoad (fiOf w) .gldWS
  | 0x2E => decodeLoad (fiOf w) .gldD
  | 0x2F => decodeStore (fiOf w) .gstB
  | 0x30 => decodeStore (fiOf w) .gstH
  | 0x31 => decodeStore (fiOf w) .gstW
  | 0x32 => decodeStore (fiOf w) .gstD
  | 0x33 => decodeRed (f3Of w)
  | 0x34 => decodeAmo (f3Of w)
  | 0x38 => decodeK (fkOf w)
  | 0x3F => decodeSys (fsOf w)
  | _ => .error .major

/-- The step a fetched word stands for: a reserved word is a step of its own (R64). -/
def instrOf (w : Code) : Instr :=
  match decode w with
  | .ok i => i
  | .error _ => .reservedEncoding w

/-- The instruction the decoder reads from a word whose bits are the table's (R61: one 32-bit word). -/
def decodeTableWord (_nbits w : Nat) : Option Instr :=
  match decode (BitVec.ofNat 32 w) with
  | .ok i => some i
  | .error _ => none

/-! ## The encoder -/

/-- The word of an integer function (R66). -/
def intWord (e : Ext) (fn : Nat) (s : Size) (d a b : BitVec 5) (g : Guard) : Code :=
  f3Word (match e with | .z => 0x01#6 | .s => 0x02#6) ⟨d, a, b, g, BitVec.ofNat 7 (fn * 4 + s.code)⟩

/-- The word of a scalar FP function (R72). -/
def fpWord (t : FpTy) (fn m : Nat) (d a b : BitVec 5) (g : Guard) : Code :=
  f3Word (match t with | .f32 => 0x24#6 | .bf16x2 => 0x25#6 | .f16x2 => 0x26#6)
    ⟨d, a, b, g, BitVec.ofNat 7 (fn * 4 + m)⟩

/-- The word of a GLD or GST (R73). -/
def memWord (m : BitVec 6) (d : BitVec 5) (a : BitVec 4) (o : Order) (f : BitVec 11) : Code :=
  fiWord m ⟨d, aField a, BitVec.ofNat 16 (o.code * 2048 + f.toNat)⟩

/-- The word of a register-operand window operation (R71). -/
def winWord (m : BitVec 6) (op : Nat) (d a b : BitVec 5) (w : BitVec 4) (g : Guard) : Code :=
  f3Word m ⟨d, a, b, g, BitVec.ofNat 7 (w.toNat * 8 + op)⟩

/-- The word of an FS function (R76). -/
def sysWord (fn : BitVec 6) (x y : BitVec 5) (z : Nat) : Code := fsWord 0x3F#6 ⟨fn, x, y, BitVec.ofNat 10 z⟩

/-- A barrier operand in z (R76). -/
def barZ (l : Level) (b : BitVec 4) : Nat := l.code * 16 + b.toNat

/-- The word of an instruction of the scalar stream; none for a step that is no word. -/
def encode : Instr → Option Code
  | .add e s d a b g => some (intWord e 0 s d a b g)
  | .sub e s d a b g => some (intWord e 1 s d a b g)
  | .mul e s d a b g => some (intWord e 2 s d a b g)
  | .mulh e s d a b g => some (intWord e 3 s d a b g)
  | .div e s d a b g => some (intWord e 4 s d a b g)
  | .rem e s d a b g => some (intWord e 5 s d a b g)
  | .and e s d a b g => some (intWord e 6 s d a b g)
  | .or e s d a b g => some (intWord e 7 s d a b g)
  | .xor e s d a b g => some (intWord e 8 s d a b g)
  | .not e s d a g => some (intWord e 9 s d a 0 g)
  | .shl e s d a b g => some (intWord e 10 s d a b g)
  | .shr e s d a b g => some (intWord e 11 s d a b g)
  | .rot e s d a b g => some (intWord e 12 s d a b g)
  | .clz e s d a g => some (intWord e 13 s d a 0 g)
  | .ctz e s d a g => some (intWord e 14 s d a 0 g)
  | .popc e s d a g => some (intWord e 15 s d a 0 g)
  | .min e s d a b g => some (intWord e 16 s d a b g)
  | .max e s d a b g => some (intWord e 17 s d a b g)
  | .brev e s d a g => some (intWord e 18 s d a 0 g)
  | .bswp e s d a g => some (intWord e 19 s d a 0 g)
  | .mov e s d a g => some (intWord e 20 s d a 0 g)
  | .nop => some (intWord .s 0 .d 0 0 0 ⟨0, true⟩)
  | .addImm d a i => some (fiWord 0x03#6 ⟨d, a, i⟩)
  | .andImm d a i => some (fiWord 0x04#6 ⟨d, a, i⟩)
  | .orImm d a i => some (fiWord 0x05#6 ⟨d, a, i⟩)
  | .xorImm d a i => some (fiWord 0x06#6 ⟨d, a, i⟩)
  | .shlImm d a n => some (fiWord 0x07#6 ⟨d, a, BitVec.ofNat 16 n.toNat⟩)
  | .shrZImm d a n => some (fiWord 0x08#6 ⟨d, a, BitVec.ofNat 16 n.toNat⟩)
  | .shrSImm d a n => some (fiWord 0x09#6 ⟨d, a, BitVec.ofNat 16 n.toNat⟩)
  | .movImm d i => some (fiWord 0x0A#6 ⟨d, 0, i⟩)
  | .movh d q i => some (fiWord 0x0B#6 ⟨d, BitVec.ofNat 5 q.toNat, i⟩)
  | .cmp c s d a b g => some (f3Word 0x0C#6 ⟨pField d, a, b, g, BitVec.ofNat 7 (c.code * 8 + s.code * 2)⟩)
  | .sel d a b p => some (f3Word 0x0D#6 ⟨d, a, b, p, 0⟩)
  | .bfxZImm d a w p => some (fiWord 0x0E#6 ⟨d, a, BitVec.ofNat 16 (w.toNat * 64 + p.toNat)⟩)
  | .bfxSImm d a w p => some (fiWord 0x0E#6 ⟨d, a, BitVec.ofNat 16 (4096 + w.toNat * 64 + p.toNat)⟩)
  | .bfiImm d a w p => some (fiWord 0x0F#6 ⟨d, a, BitVec.ofNat 16 (w.toNat * 64 + p.toNat)⟩)
  | .bfxZReg d a b g => some (f3Word 0x10#6 ⟨d, a, b, g, 0⟩)
  | .bfxSReg d a b g => some (f3Word 0x10#6 ⟨d, a, b, g, 1⟩)
  | .bfiReg d a b g => some (f3Word 0x10#6 ⟨d, a, b, g, 2⟩)
  | .aaddReg d a b g => some (f3Word 0x11#6 ⟨aField d, aField a, b, g, 0⟩)
  | .aset d a b g => some (f3Word 0x11#6 ⟨aField d, a, b, g, 1⟩)
  | .aget d a g => some (f3Word 0x11#6 ⟨d, aField a, 0, g, 2⟩)
  | .agetH d a g => some (f3Word 0x11#6 ⟨d, aField a, 0, g, 3⟩)
  | .astep d a b g => some (f3Word 0x11#6 ⟨aField d, aField a, b, g, 4⟩)
  | .aaddImm d a i => some (fiWord 0x12#6 ⟨aField d, aField a, i⟩)
  | .acmp c d a b g => some (f3Word 0x13#6 ⟨pField d, aField a, aField b, g, BitVec.ofNat 7 (c.code * 8)⟩)
  | .pand d a b g => some (f3Word 0x14#6 ⟨pField d, pField a, pField b, g, 0⟩)
  | .por d a b g => some (f3Word 0x14#6 ⟨pField d, pField a, pField b, g, 1⟩)
  | .pxor d a b g => some (f3Word 0x14#6 ⟨pField d, pField a, pField b, g, 2⟩)
  | .pnot d a g => some (f3Word 0x14#6 ⟨pField d, pField a, 0, g, 3⟩)
  | .pset d v g => some (f3Word 0x14#6 ⟨pField d, BitVec.ofNat 5 (negBit v).toNat, 0, g, 4⟩)
  | .br g o => some (fbWord 0x15#6 ⟨g, o⟩)
  | .jal d i => some (fiWord 0x16#6 ⟨d, 0, i⟩)
  | .jr a g => some (f3Word 0x17#6 ⟨0, a, 0, g, 0⟩)
  | .loop d i => some (fiWord 0x18#6 ⟨d, 0, i⟩)
  | .rep n sd sa sb => some (fiWord 0x19#6 ⟨0, 0, BitVec.ofNat 16 ((negBit sb).toNat * 256 + (negBit sa).toNat * 128
      + (negBit sd).toNat * 64 + n.toNat)⟩)
  | .reservedEncoding w => some w
  | .wfill w s => some (fwWord 0x20#6 ⟨w, s, 0, 0⟩)
  | .wrd d w o => some (fwWord 0x20#6 ⟨w, d, 1, o⟩)
  | .wwr w o s => some (fwWord 0x20#6 ⟨w, s, 2, o⟩)
  | .wshr w n => some (fwWord 0x20#6 ⟨w, 0, 3, n⟩)
  | .wqry d w q => some (fwWord 0x20#6 ⟨w, d, 4, BitVec.ofNat 14 q.toNat⟩)
  | .wrdn d p w o => some (fwWord 0x20#6 ⟨w, d, 5, BitVec.ofNat 14 (p.toNat * 2048 + o.toNat)⟩)
  | .wfilln w s p => some (fwWord 0x20#6 ⟨w, s, 6, BitVec.ofNat 14 (p.toNat * 2048)⟩)
  | .wdef w s => some (fwWord 0x20#6 ⟨w, s, 7, 0⟩)
  | .wfillReg w s g => some (winWord 0x21#6 0 s 0 0 w g)
  | .wrdReg d w a g => some (winWord 0x21#6 1 d a 0 w g)
  | .wwrReg w a s g => some (winWord 0x21#6 2 s a 0 w g)
  | .wshrReg w a g => some (winWord 0x21#6 3 0 a 0 w g)
  | .wfillRm w c s g => some (winWord 0x22#6 0 s 0 c w g)
  | .wrdRm d w c a g => some (winWord 0x22#6 1 d a c w g)
  | .wwrRm w c a s g => some (winWord 0x22#6 2 s a c w g)
  | .wshrRm w c a g => some (winWord 0x22#6 3 0 a c w g)
  | .wqryRm d w c q g => some (winWord 0x22#6 4 d (BitVec.ofNat 5 q.toNat) c w g)
  | .waitingReadProceeds _ _ | .waitingFillProceeds _ _ => none
  | .fadd t r d a b g => some (fpWord t 0 r.code d a b g)
  | .fsub t r d a b g => some (fpWord t 1 r.code d a b g)
  | .fmul t r d a b g => some (fpWord t 2 r.code d a b g)
  | .ffma t r d a b g => some (fpWord t 3 r.code d a b g)
  | .fmin t d a b g => some (fpWord t 4 0 d a b g)
  | .fmax t d a b g => some (fpWord t 5 0 d a b g)
  | .fsgn t o d a b g => some (fpWord t 6 o.code d a b g)
  | .fcmp t c d a b g => some (fpWord t 7 c.code (pField d) a b g)
  | .frce d a g => some (fpWord .f32 8 0 d a 0 g)
  | .frsqe d a g => some (fpWord .f32 9 0 d a 0 g)
  | .fclass d a g => some (fpWord .f32 10 0 d a 0 g)
  | .fcvt y x r d a g => some (f3Word 0x27#6 ⟨d, a, BitVec.ofNat 5 r.code, g,
      BitVec.ofNat 7 (y.code * 16 + x.code * 2)⟩)
  | .gldBZ d a o f => some (memWord 0x28#6 d a o f)
  | .gldBS d a o f => some (memWord 0x29#6 d a o f)
  | .gldHZ d a o f => some (memWord 0x2A#6 d a o f)
  | .gldHS d a o f => some (memWord 0x2B#6 d a o f)
  | .gldWZ d a o f => some (memWord 0x2C#6 d a o f)
  | .gldWS d a o f => some (memWord 0x2D#6 d a o f)
  | .gldD d a o f => some (memWord 0x2E#6 d a o f)
  | .gstB s a o f => some (memWord 0x2F#6 s a o f)
  | .gstH s a o f => some (memWord 0x30#6 s a o f)
  | .gstW s a o f => some (memWord 0x31#6 s a o f)
  | .gstD s a o f => some (memWord 0x32#6 s a o f)
  | .red op dbl sg fast o d a g => some (f3Word 0x33#6 ⟨d, aField a, BitVec.ofNat 5 o.code, g,
      BitVec.ofNat 7 (op.code * 16 + 8 + (negBit dbl).toNat * 4 + (negBit sg).toNat * 2 + (negBit fast).toNat)⟩)
  | .amo op dbl o d a g => some (f3Word 0x34#6 ⟨d, aField a, BitVec.ofNat 5 o.code, g,
      BitVec.ofNat 7 (op.code * 16 + 8 + (negBit dbl).toNat * 4)⟩)
  | .kld k i => some (fkWord 0x38#6 ⟨k, 0, BitVec.ofNat 20 (i.toNat * 4)⟩)
  | .iss k p => some (fkWord 0x38#6 ⟨k, 1, BitVec.ofNat 20 p.code⟩)
  | .kins k p w s => some (fkWord 0x38#6 ⟨k, 2, BitVec.ofNat 20 (p.toNat * 8192 + w.toNat * 128 + s.toNat * 4)⟩)
  | .kext d k p w => some (fkWord 0x38#6 ⟨k, 3, BitVec.ofNat 20 (p.toNat * 8192 + w.toNat * 128 + d.toNat * 4)⟩)
  | .kmov k m => some (fkWord 0x38#6 ⟨k, 4, BitVec.ofNat 20 m.toNat⟩)
  | .srd d n => some (sysWord 0x01#6 d 0 n.toNat)
  | .swr n s => some (sysWord 0x02#6 s 0 n.toNat)
  | .fpstatWrite s => some (sysWord 0x02#6 s 0 0x011)
  | .repcWrite s => some (sysWord 0x02#6 s 0 0x012)
  | .wdctlWrite s => some (sysWord 0x02#6 s 0 0x0B0)
  | .wbkbWrite n s => some (sysWord 0x02#6 s 0 (0x080 + 2 * n.toNat))
  | .wbksWrite n s => some (sysWord 0x02#6 s 0 (0x081 + 2 * n.toNat))
  | .trcctlWrite s => some (sysWord 0x02#6 s 0 0x131)
  | .slotResume _ _ | .slotKill _ _ => none
  | .trap n => some (sysWord 0x03#6 0 0 n.toNat)
  | .brk n => some (sysWord 0x04#6 0 0 n.toNat)
  | .eret => some (sysWord 0x05#6 0 0 0)
  | .tret => some (sysWord 0x06#6 0 0 0)
  | .yield => some (sysWord 0x07#6 0 0 0)
  | .spawn e a => some (sysWord 0x08#6 e a 0)
  | .tbind s e => some (sysWord 0x09#6 s e 0)
  | .tunb s => some (sysWord 0x0A#6 s 0 0)
  | .tprio s n => some (sysWord 0x0B#6 s 0 n.toNat)
  | .bara d l b => some (sysWord 0x0C#6 d 0 (barZ l b))
  | .barw l b g => some (sysWord 0x0D#6 0 g (barZ l b))
  | .barc l b c => some (sysWord 0x0E#6 c 0 (barZ l b))
  | .baraTokenCount _ _ _ _ | .barcArrival _ _ _ _ | .barrierReleaseArrival _ _ _ _ _ => none
  | .cmsk c => some (sysWord 0x0F#6 0 0 c.toNat)
  | .cumsk c => some (sysWord 0x10#6 0 0 c.toNat)
  | .tkn d h => some (sysWord 0x11#6 d 0 h.toNat)
  | .bndrn h => some (sysWord 0x12#6 0 0 h.toNat)
  | .bnsav h a => some (sysWord 0x13#6 (aField a) 0 h.toNat)
  | .bnload h a => some (sysWord 0x14#6 (aField a) 0 h.toNat)
  | .bnclr h => some (sysWord 0x15#6 0 0 h.toNat)
  | .balancerPass _ _ | .tknTokenExit _ _ => none
  | .fence o s => some (sysWord 0x16#6 0 0 (s.code * 16 + o.code))
  | .tlbinv a k => some (sysWord 0x17#6 (aField a) 0 k.code)
  | .wsave w a => some (sysWord 0x18#6 (aField a) 0 w.toNat)
  | .wrest w a => some (sysWord 0x19#6 (aField a) 0 w.toNat)
  | .wpois w p => some (sysWord 0x1A#6 p 0 w.toNat)
  | .ctxsav a => some (sysWord 0x1B#6 (aField a) 0 0)
  | .ctxrst a => some (sysWord 0x1C#6 (aField a) 0 0)
  | .fscan a => some (sysWord 0x1D#6 (aField a) 0 0)
  | .cens w s => some (sysWord 0x1E#6 s 0 w.toNat)
  | .trcm n s => some (sysWord 0x1F#6 s 0 n.toNat)
  | .lsnap a => some (sysWord 0x20#6 (aField a) 0 0)
  | .fcfg _ | .frun _ | .fstop _ | .agset _ | .agprm _ | .fmark _ | .generatorPassStart _ _
  | .generatorRequest _ _ | .generatorReply _ _ | .elementFire _ _ | .routerOperatorFire _ _ _
  | .rowWordMove _ _ | .reducerFire _ _ | .reordBlockEmit _ _ | .unitReply _ _ | .sinkFill _ _ | .roundEnd _
  | .markerAlign _ _ | .drainComplete _ | .fabricScanOut _ | .gtw _ | .wtg _ | .wtw _ | .gath _ | .scat _
  | .gredw _ | .bteRequestIssue _ _ | .bteElementFill _ _ | .bteCommandComplete _ _ | .doneElementFill _
  | .mxw _ | .mxa _ | .mxswp _ | .mxtm _ | .mxz _ | .mxout _ | .mxTileRead _ | .mxtmStep _
  | .splitBlockArrival _ | .mxoutElementFill _ | .mxCommandComplete _ _ | .rgcfg _ | .rgmt _ | .rgput _
  | .rggo _ | .rgrot _ | .rgdrn _ | .beatStart _ | .tileLanding _ | .meeting _ | .encounterDelivery _
  | .tileUnpin _ | .encounterFinish _ | .completionTokenFill _ | .sweepEnd _ | .pkt _ | .pktCopyEnqueue _ _ _
  | .packetDelivery _ _ | .remoteWindowOperation _ _ | .remoteAnswer _ _ | .clusterTlbLookup _
  | .pageWalkStart _ | .walkComplete _ _ | .faultAnswer _ | .homeSliceAccess _ _ | .accessReply _
  | .releasePerformed _ _ | .refillReadStart _ _ | .refillLand _ _ | .egressMirrorWrite _ _ | .standoffReport _
  | .orphanWaitReport _ | .watchdogFire _ | .reportRecordPost _ | .censusEntryFill _ | .replayCompare _
  | .memberHalt _ _ | .coreHalt _ | .coreResume _ | .brodfortAccess _ _ _ | .brodfortDump _ _ | .linkSnapshot
  | .launchRecordRead _ | .launchPartLoad _ | .launchPartMessage _ _ | .startBarrierFire _
  | .launchStatusPost _ | .coreGroupCompletion _ | .groupPreempt _ | .groupRestore _ | .gidCancel _
  | .keptGroupDiscard _ _ | .clusterOwnerSet _ _ | .networkOwnerSet _ _ | .configSpaceWrite _ _
  | .stallCounterLoan _ | .traceLoan _ _ | .loanReturn _ _ | .vfReset _ | .hostFill _ _ | .hostShrink _ _
  | .hostReadElement _ | .hostReadPointers _ | .hostMemoryWrite _ _ | .powerApplied _ | .powerRemoved
  | .mailboxStatus | .mailboxDiag | .mailboxRestart _ | .mailboxAttest _ | .mailboxOther _
  | .firmwareSwitchover _ _ _ | .alarmTrip _ | .softErrorCorrected | .coreSparing _ | .hbmSparing _ _
  | .laneSparing _ _ | .dieFencing _ | .packageReplacement _ _ | .powerThrottle _ | .bucketRefill
  | .tokenHop _ _ _ | .linkRetry _ => none

end Sys2Proof
end

