-- ==== Sys2Proof/Machine/Sparse.lean ====
section
/-! DEFINITION. Sparse tables: lists of (key, entry) with keys strictly rising and no entry equal to what an unlisted
key reads as, so that equal tables are equal lists. Memory is one of them (a list of `Host.Cell`). -/

namespace Sys2Proof.Machine

/-- A sparse table; what an unlisted key reads as is given at each use. -/
abbrev Table (α : Type) := List (Nat × α)

/-- The entry at a key. -/
def tget {α : Type} (dflt : α) (m : Table α) (k : Nat) : α :=
  match m with
  | [] => dflt
  | (j, v) :: r => if j = k then v else tget dflt r k

/-- Inserting an entry before the first key that is not below its own. -/
def tins {α : Type} (m : Table α) (k : Nat) (v : α) : Table α :=
  match m with
  | [] => [(k, v)]
  | (j, u) :: r => if j < k then (j, u) :: tins r k v else (k, v) :: (j, u) :: r

/-- Setting an entry, which removes it where the new entry is the default. -/
def tput {α : Type} [DecidableEq α] (dflt : α) (m : Table α) (k : Nat) (v : α) : Table α :=
  let r := m.filter fun e => decide (e.1 ≠ k)
  if v = dflt then r else tins r k v

/-- Every key of a table is above a bound, rising, and no entry is the default. -/
def twfFrom {α : Type} [DecidableEq α] (dflt : α) (lo : Nat) (m : Table α) : Bool :=
  match m with
  | [] => true
  | (j, v) :: r => decide (lo ≤ j) && decide (v ≠ dflt) && twfFrom dflt (j + 1) r

/-- The canonical form of a table. -/
def twf {α : Type} [DecidableEq α] (dflt : α) (m : Table α) : Bool := twfFrom dflt 0 m

/-- The entries at n keys from k upward. -/
def tgets {α : Type} (dflt : α) (m : Table α) (k n : Nat) : List α :=
  match n with
  | 0 => []
  | n + 1 => tget dflt m k :: tgets dflt m (k + 1) n

/-- Setting the entries from k upward. -/
def tputs {α : Type} [DecidableEq α] (dflt : α) (m : Table α) (k : Nat) (vs : List α) : Table α :=
  match vs with
  | [] => m
  | v :: r => tputs dflt (tput dflt m k v) (k + 1) r

/-- Setting every listed entry of a key range to the default. -/
def tclear {α : Type} (m : Table α) (k n : Nat) : Table α :=
  m.filter fun e => decide (e.1 < k ∨ k + n ≤ e.1)

/-- The bytes of a number, least significant first (R2). -/
def bytesOf (n v : Nat) : List Byte :=
  match n with
  | 0 => []
  | n + 1 => BitVec.ofNat 8 v :: bytesOf n (v / 256)

/-- The number of a list of bytes, least significant first (R2). -/
def ofBytes (bs : List Byte) : Nat :=
  match bs with
  | [] => 0
  | b :: r => b.toNat + 256 * ofBytes r

/-- Replacing the entry at index i of a list. -/
def lset {α : Type} (l : List α) (i : Nat) (v : α) : List α := l.set i v

/-- The least number below n that meets a test, searched from the bottom. -/
def leastBelow (p : Nat → Bool) (n : Nat) : Option Nat := (List.range n).find? p

end Sys2Proof.Machine
end

