-- ==== Sys2Proof/Machine/State.lean ====
section
/-! DEFINITION. The state of one package (R1, R5): its cores, clusters, dies, memory, host side and device life, as
plain data; the reasons a step can stop; the state after reset (R30, R226, R341). Each field names its rule. -/

namespace Sys2Proof.Machine

open Sys2Proof

/-! ## Task slots -/

/-- The states of a task slot; the slot that `State.cur` and `State.slot` name is the running one (R145). -/
inductive SlotStatus | free | bound | runnable | waiting | trapped
  deriving DecidableEq, Repr

/-- A precise trap: TRAPCAUSE, TRAPARG, the site of a poison record in place of the trap's own, the address of a
memory fault (R140, R243, R342). -/
structure Trap where
  cause : Word
  arg : Word
  site : Option (BitVec 46)
  va : Option Addr
  deriving DecidableEq, Repr

/-- Why a runnable slot's next instruction may not go on yet (R145, R246, R252, R262, R271, R122, R230); `bank` lasts to
the end of a tick (R125), `meter` until the buckets have given what a transfer asks (R398), `kill` until a slot that was
killed is free (R344), `trapping` until the values of the slot's tokens have come, and then its traps are taken, each
with what TRAPPC takes (R230, R343). -/
inductive Hold
  | none
  | release
  | limit
  | acquire
  | rel
  | asid (asid : BitVec 12) (ids : List Nat)
  | refills (w : Nat) (held : Bool) (va : Addr)
  | drain (net : Nat)
  | scan
  | stopping
  | access (id : Nat)
  | remote
  | remoteDone (v : Option Word)
  | bara (d : BitVec 5)
  | bank
  | meter
  | kill (t : Nat)
  | trapping (ts : List (Trap × BitVec 12))
  deriving DecidableEq, Repr

/-- A GLD or AMO that has left its task and is still to write its destination; one with an acquire order keeps the
task's later accesses from starting (R246, R247, R263). -/
structure Load where
  id : Nat
  d : BitVec 5
  acq : Bool
  deriving DecidableEq, Repr

/-- A window operation (R23). -/
inductive WinOp
  | fill (v : Word)
  | read (o : BitVec 32)
  | update (o : BitVec 32) (v : Word)
  | shrink (n : BitVec 32)
  | query (q : BitVec 2)
  deriving DecidableEq, Repr

/-- What a waiting slot waits for, a window operation with the site of its issue (R27, R122, R166, R229, R153, R257,
R281). -/
inductive Pend
  | window (rm : Bool) (core win : Nat) (op : WinOp) (d : BitVec 5) (site : BitVec 46)
  | barw (l : Level) (b : BitVec 4) (gen : BitVec 16)
  | tkn (net : Nat) (h : BitVec 3) (d : BitVec 5)
  | again
  deriving DecidableEq, Repr

/-- A remote operation on its way to its target, with the site of its issue (R122, R257). -/
structure Remote where
  core : Nat
  win : Nat
  op : WinOp
  d : BitVec 5
  site : BitVec 46
  arrived : Bool
  deriving DecidableEq, Repr

/-- One task slot's context; `lsup` is the launch's SUP bit where the binding is a launch binding (R10, R13, R138, R148,
R151, R155, R243). `fenceRel` is the number of the first access after a FENCE.rel whose condition is still to hold
(R252), `loads` and `tkns` are the results still on their way to its registers (R229, R246), `again` says that the
instruction at the PC has issued and runs again, `banked` how often running its window request has lost a bank (R125),
`paid` how many requests of its transfer the buckets have let go (R398), `killing` that it is freed once its accesses
are performed (R262, R344). -/
structure Slot where
  status : SlotStatus
  pc : BitVec 12
  g : Vector Word 32
  a : Vector Addr 16
  p : Vector Bool 8
  k : Vector Wide 8
  prio : BitVec 2
  sup : Bool
  fpstat : BitVec 6
  repc : BitVec 7
  inRep : Bool
  trapcause : Word
  trappc : BitVec 12
  trapsite : BitVec 46
  traparg : Word
  trapva : Word
  trapvah : BitVec 16
  psup : Bool
  tv : Bool
  tscr : Vector Word 4
  bind : BitVec 26
  lsup : Bool
  ready : BitVec 64
  issues : Nat
  hold : Hold
  wait : Option Pend
  remote : Option Remote
  fenceRel : Option Nat
  loads : List Load
  tkns : List (Nat × BitVec 5)
  again : Bool
  banked : Nat
  paid : Nat
  killing : Bool
  act : Nat
  stopped : Bool
  deriving DecidableEq, Repr

/-- A slot's registers as R10 zeroes them, the slot free. -/
def Slot.init : Slot where
  status := .free
  pc := 0
  g := Vector.replicate 32 0
  a := Vector.replicate 16 0
  p := Vector.replicate 8 false
  k := Vector.replicate 8 0
  prio := 0
  sup := false
  fpstat := 0
  repc := 0
  inRep := false
  trapcause := 0
  trappc := 0
  trapsite := 0
  traparg := 0
  trapva := 0
  trapvah := 0
  psup := false
  tv := false
  tscr := Vector.replicate 4 0
  bind := 0
  lsup := false
  ready := 0
  issues := 0
  hold := .none
  wait := none
  remote := none
  fenceRel := none
  loads := []
  tkns := []
  again := false
  banked := 0
  paid := 0
  killing := false
  act := 0
  stopped := false

/-! ## Windows -/

/-- The window modes (R20). -/
inductive WinMode | plain | ringEast | ringWest | backed | ingress | egress
  deriving DecidableEq, Repr

/-- Whether the backing agent refills a window: it does, a refill read failed, a spill failed (R257). -/
inductive RefillStop | go | readFailed | spillFailed
  deriving DecidableEq, Repr

/-- A window: descriptor, backing registers, poison record, hold, roles (R20, R254, R350, R355, R363). `causes` are the
places shrinks have made that refills have not taken, with the shrinks' sites, `refillSite` the site of the latest
(R257); `mirrors` are the fills its mirror is still to be written for, with their counts and sites (R396). -/
structure Win where
  v : Bool
  ccnt : BitVec 6
  pcnt : BitVec 6
  mode : WinMode
  esz : BitVec 4
  cap : BitVec 16
  base : BitVec 12
  head : BitVec 32
  fill : BitVec 32
  pois : BitVec 32
  pv : Bool
  hslot : BitVec 16
  held : Bool
  wbkb : Word
  rlog : BitVec 5
  rhead : BitVec 28
  rfill : BitVec 28
  refills : List (Nat × BitVec 46)
  refillStop : RefillStop
  causes : List (Nat × BitVec 46)
  refillSite : BitVec 46
  mirrors : List (BitVec 32 × BitVec 46)
  wpsClass : BitVec 8
  wpsSite : BitVec 46
  wpd : Word
  prod : List (Nat × Nat)
  cons : List (Nat × Nat)
  prodOver : Bool
  consOver : Bool
  retry : Bool
  deriving DecidableEq, Repr

/-- A window after reset: every descriptor bit zero (R30). -/
def Win.init : Win where
  v := false
  ccnt := 0
  pcnt := 0
  mode := .plain
  esz := 0
  cap := 0
  base := 0
  head := 0
  fill := 0
  pois := 0
  pv := false
  hslot := 0
  held := false
  wbkb := 0
  rlog := 0
  rhead := 0
  rfill := 0
  refills := []
  refillStop := .go
  causes := []
  refillSite := 0
  mirrors := []
  wpsClass := 0
  wpsSite := 0
  wpd := 0
  prod := []
  cons := []
  prodOver := false
  consOver := false
  retry := false

/-- A queue of 8-byte elements reached as a window of a special core number (R158, R245, R345). -/
structure Service where
  head : BitVec 32
  fill : BitVec 32
  elems : List Word
  deriving DecidableEq, Repr

/-- An empty service window. -/
def Service.init : Service := ⟨0, 0, []⟩

/-! ## Waiting parties -/

/-- A party that can wait: a task slot, or a command by its site (R354); `unit` is a unit of a core that is neither: the
copying of its notices, the arrival of its barrier releases (R27, R150, R346). -/
inductive Party
  | task (c t : Nat)
  | cmd (site : BitVec 46)
  | unit (c : Nat)
  deriving DecidableEq, Repr

/-- The kinds of wait of a standoff record (R359). -/
inductive WaitKind | read | fill | barrier | tkn | spawn | port | ring | peer | other
  deriving DecidableEq, Repr

/-- A wait edge: who waits, at which core, for what, at which site; the step that retries it (R27, R354, R359). -/
structure Edge where
  party : Party
  at_ : Nat
  kind : WaitKind
  core : Nat
  win : Nat
  level : Nat
  arg : BitVec 32
  site : BitVec 46
  retry : Option Instr
  reported : Bool
  deriving DecidableEq, Repr

/-! ## Commands -/

/-- A command behind an ISS: its bits, its site, the shape parameters it reads at its start, how far it has got, the
source elements it has delivered and is still to shrink when it starts again, its census counts (R77, R280, R282, R292,
R378, R401). -/
structure Cmd where
  cmd : Wide
  site : BitVec 46
  shape : List Word
  doneb : BitVec 32
  owed : Nat
  nan : Nat
  inf : Nat
  sat : Nat
  unf : Nat
  deriving DecidableEq, Repr

/-- A pending event count of a source of R148: how many, and the data of the latest (R149, R150). -/
structure PendCount where
  count : Nat
  data : BitVec 32
  deriving DecidableEq, Repr

/-! ## Global accesses and translation -/

/-- What a global access does at its home slice (R247, R249, R251, R289). -/
inductive AccOp
  | load
  | store (bytes : List Byte)
  | red (op : RedOp) (signed fast : Bool) (v : Word)
  | amo (op : AmoOp) (v new : Word)
  deriving DecidableEq, Repr

/-- Whose access it is, for ordering and claims: an activation of a task slot, a command, the backing agent
(R258, R267). -/
inductive Holder
  | task (c t act : Nat)
  | cmd (site : BitVec 46)
  | agent (c : Nat)
  deriving DecidableEq, Repr

/-- Where the reply of an access goes. -/
inductive Dest
  | none
  | reg (t : Nat) (d : BitVec 5) (signed : Bool)
  | engine (e : Nat) (tag : Nat)
  | generator (g tag : Nat)
  | spill (w : Nat) (elem : BitVec 28) (count : BitVec 32)
  | refill (w : Nat) (elem : Nat)
  | egress (w : Nat) (count : BitVec 32)
  | merged
  deriving DecidableEq, Repr

/-- How far an access has got (R241, R248, R244). -/
inductive AccStage
  | lookup
  | miss
  | translated
  | performed
  | faulted
  deriving DecidableEq, Repr

/-- A global access in flight; `repc` is REPC as its instruction began (R113, R246, R248). -/
structure Acc where
  id : Nat
  core : Nat
  holder : Holder
  site : BitVec 46
  op : AccOp
  va : Addr
  size : Nat
  code : BitVec 3
  rel : Bool
  acq : Bool
  after : List Nat
  dest : Dest
  stage : AccStage
  asid : BitVec 12
  pa : Nat
  level : BitVec 3
  clg : BitVec 2
  repc : BitVec 7
  data : List Byte
  deriving DecidableEq, Repr

/-- A translation held by a TLB: its leaf and the level it stood at (R240). -/
structure TlbEntry where
  asid : BitVec 12
  page : Nat
  level : BitVec 3
  pte : Word
  deriving DecidableEq, Repr

/-- A non-leaf entry held by a die's node cache (R240). -/
structure NodeEntry where
  asid : BitVec 12
  level : BitVec 3
  index : Nat
  pte : Word
  deriving DecidableEq, Repr

/-- A miss entry of a cluster: its key, and whether a walker works on it (R241). -/
structure Miss where
  asid : BitVec 12
  frame : Nat
  walking : Bool
  deriving DecidableEq, Repr

/-- A walk in progress on a die: the cluster and miss key it serves, and whether a TLBINV has passed it (R241, R242). -/
structure Walk where
  cluster : Nat
  asid : BitVec 12
  frame : Nat
  redo : Bool
  deriving DecidableEq, Repr

/-- An entry of a claim table (R267, R269). -/
structure Claim where
  holder : Holder
  site : BitVec 46
  base : Nat
  coarse : Bool
  size : Nat
  deriving DecidableEq, Repr

/-- A claim slice: its entries oldest first and its counts (R269, R416). -/
structure Slice where
  claims : List Claim
  evictions : BitVec 32
  merges : BitVec 32
  exceptions : BitVec 32
  deriving DecidableEq, Repr

/-- An empty slice. -/
def Slice.init : Slice := ⟨[], 0, 0, 0⟩

/-! ## Reports, faults, groups -/

/-- A report waiting for room: its kind, INFO, elements after the header, the core it names first, the port whose engine
stays stopped until it is posted (R345, R346). -/
structure Report where
  kind : BitVec 8
  info : BitVec 32
  body : List Word
  core : Nat
  port : Option Port
  deriving DecidableEq, Repr

/-- A barrier instance (R165, R166); the parties that have arrived at it since launch (R354). -/
structure Barrier where
  arcs : BitVec 16
  tokens : Nat
  gen : BitVec 16
  lost : Bool
  arrived : List Party
  deriving DecidableEq, Repr

/-- A core group: its record's words, its members in order, its parts' clusters, its barriers (R159, R165). -/
structure Group where
  gid : BitVec 16
  sup : Bool
  lpri : BitVec 2
  members : List Nat
  parts : List (Nat × List Nat × BitVec 16 × Bool × BitVec 4)
  barriers : Table Barrier
  started : Bool
  saving : Bool
  failed : Bool
  deriving DecidableEq, Repr

/-- A block the upper core of a split product sends: its sums, its 128 values of sc, and which sums had an operand that
is not finite (R301, R311). -/
structure PeerBlock where
  src : Nat
  sums : List (BitVec 32)
  scales : List (BitVec 32)
  marks : List Bool
  deriving DecidableEq, Repr

/-- What a launch unit keeps of a core beside its context image: the slots whose bindings are launch bindings with SUP,
the barrier generations seen, the blocks of split products on their way to it, the barrier releases that a full count
holds back (R150, R163, R164, R311, R368). -/
structure KeptCore where
  core : Nat
  lsup : List Nat
  gens : Table (BitVec 16)
  blocks : List PeerBlock
  releases : List (Level × BitVec 4 × BitVec 16 × Bool)
  deriving DecidableEq, Repr

/-- A group a launch unit keeps in a save slot: its number, and what it keeps of each member of the unit's part (R163,
R164). -/
structure Kept where
  group : Nat
  cores : List KeptCore
  deriving DecidableEq, Repr

/-- The stage of the record in a launch unit's hand (R161, R162). -/
inductive LaunchStage | idle | read | loaded (group : Nat)
  deriving DecidableEq, Repr

/-- A launch unit: its windows, completion counters, the count of records read, the record in its hand and that record's
number, the bindings of the part it has loaded, status elements to post, the clusters whose records it has heard of, its
save slots, the site of an image transfer that is held at a fault, whether that was answered with ABORT, and how many
requests of its transfer the buckets have let go (R158 to R164, R244, R398). -/
structure LaunchUnit where
  records : Service
  status : Service
  cc : Vector (BitVec 16) 16
  readCount : BitVec 16
  rseq : BitVec 16
  record : List Word
  stage : LaunchStage
  binds : List (BitVec 26)
  posted05 : Bool
  posts : List Word
  heard : List Nat
  kept : List (Option Kept)
  faultSite : Option (BitVec 46)
  aborted : Bool
  paid : Nat
  deriving DecidableEq, Repr

/-- An idle launch unit. -/
def LaunchUnit.init : LaunchUnit where
  records := Service.init
  status := Service.init
  cc := Vector.replicate 16 0
  readCount := 0
  rseq := 0
  record := []
  stage := .idle
  binds := []
  posted05 := false
  posts := []
  heard := []
  kept := [none, none, none, none]
  faultSite := none
  aborted := false
  paid := 0

/-- A counting network (R220, R226, R227, R397). -/
inductive NetState | opened | draining | closed
  deriving DecidableEq, Repr

/-- A token inside a network: its number, its wire, the layer it stands before and the tick in which it got there, the
slot that sent it (R221). -/
structure NetToken where
  id : Nat
  wire : Nat
  layer : Nat
  since : BitVec 64
  core : Nat
  slot : Nat
  deriving DecidableEq, Repr

/-- A counting network: toggles, exit counters, LOST, EXH, state, owner, tokens inside, the balancers that have passed a
token in this tick, who closed it (R220 to R231). -/
structure Net where
  toggles : BitVec 80
  exits : Vector (BitVec 48) 16
  lost : BitVec 16
  exh : Bool
  state : NetState
  owner : Option (BitVec 5)
  tokens : List NetToken
  passed : List Nat
  closer : Option (Nat × Nat)
  byReset : Bool
  deriving DecidableEq, Repr

/-- A network after package reset (R226, R397). -/
def Net.init : Net where
  toggles := 0
  exits := Vector.replicate 16 0
  lost := 0
  exh := false
  state := .opened
  owner := some 0
  tokens := []
  passed := []
  closer := none
  byReset := false

/-! ## The fabric (R169 to R190, R369 to R373) -/

/-- What a word buffer of the patch holds: a word, the CONST of the carry at an element, an end of stream, or a pre-empt
marker (R171, R176, R188, R370). -/
inductive Tok
  | w (v : BitVec 32)
  | c (v : BitVec 32) (src : Nat)
  | e
  | m
  deriving DecidableEq, Repr

/-- A control token (R174); a marker never travels as one. -/
inductive CTok | bit (b : Bool) | e
  deriving DecidableEq, Repr

/-- What stands behind an element's fork: a result, a control bit, an end, or a marker (R172, R177, R199). -/
inductive QItem
  | w (v : BitVec 32)
  | b (bit : Bool)
  | e
  | m
  deriving DecidableEq, Repr

/-- A control input buffer: its token and the users that are still to take it (R174). -/
structure CBuf where
  tok : CTok
  left : List Nat
  deriving DecidableEq, Repr

/-- A row buffer: an end word, a marker word or lanes, and the users that are still to take it (R175, R370). -/
structure RowBuf where
  kind : Tok
  lanes : List (Option (BitVec 32))
  left : List Nat
  deriving DecidableEq, Repr

/-- An element's running state: result queue, three state words and how many are valid, inputs that have ended, credits
in use, its router's carry armed and its CONST still alone, its marker emitted, inputs its merge discards (R172, R176,
R178, R184, R370, R380). -/
structure Elem where
  q : List QItem
  st : List (BitVec 32)
  nv : Nat
  ended : List Nat
  credits : Nat
  armed : Bool
  fresh : Bool
  mark : Bool
  mdisc : List Nat
  deriving DecidableEq, Repr

/-- An element at the start of a round. -/
def Elem.init : Elem := ⟨[], [0, 0, 0], 0, [], 0, false, false, false, []⟩

/-- A reorder block: tokens held, and the next place to emit once full (R182). -/
structure Reord where
  block : List (BitVec 32)
  next : Option Nat
  deriving DecidableEq, Repr

/-- An empty reorder block. -/
def Reord.init : Reord := ⟨[], none⟩

/-- What a generator is doing (R179, R181). -/
inductive GenPhase | waitParam | running | ending | finished
  deriving DecidableEq, Repr

/-- An address generator in a round: the shape record as parameter tokens leave it, requests issued in the pass, replies
outstanding in request order, the number of the oldest, the reply queue (R179, R181, R369). -/
structure Gen where
  phase : GenPhase
  shape : BitVec 256
  pos : Nat
  order : List (Option (BitVec 32))
  firstTag : Nat
  queue : List Tok
  stopped : Bool
  deriving DecidableEq, Repr

/-- A generator without a shape record. -/
def Gen.init : Gen := ⟨.finished, 0, 0, [], 0, [], false⟩

/-- A sink in a round: the tokens of the element it is packing, an element to fill, and whether its marker has arrived
(R186, R370). -/
structure Sink where
  hold : List (BitVec 32)
  full : Bool
  drained : Bool
  deriving DecidableEq, Repr

/-- A sink at the start of a round. -/
def Sink.init : Sink := ⟨[], false, false⟩

/-- A drain in progress: ticks since the markers entered, the FMARKs, the slots with an FSCAN and its address, and
whether a save waits for it (R369 to R374). -/
structure Drain where
  ticks : Nat
  fmark : List Cmd
  fscan : List (Nat × Addr)
  save : Bool
  deriving DecidableEq, Repr

/-- How a round is suspended: not, drained, scanned out (R371, R372, R376). -/
inductive Suspended | no | drained | scanned
  deriving DecidableEq, Repr

/-- The round in progress; buffers by element × 32 + place, control inputs by element × 4 + direction, `opMarks` the
router operators that have emitted a marker, `west` the lane barriers whose release is to enter from the west, `served`
the columns whose unit has accepted a request in this tick, `unitLast` the row each column's unit served last (R174,
R184, R187, R188, R214, R373). -/
structure Round where
  image : Nat
  cmd : Cmd
  elems : Table Elem
  bufs : Table (Option Tok)
  ctl : Table (Option CBuf)
  rows : Table (Option RowBuf)
  reords : Table Reord
  gens : Table Gen
  sinks : Table Sink
  units : List (Nat × BitVec 32)
  served : List Nat
  unitLast : Table Nat
  opMarks : List Nat
  west : List Nat
  drain : Option Drain
  suspended : Suspended
  deriving DecidableEq, Repr

/-! ## The block-transfer engine (R279 to R294) -/

/-- A command running in an engine slot: the stream bytes for which requests went out, the bytes that came back and are
not filled yet, the bytes that were written, by their place in the stream, the indices read, the source elements shrunk,
the fills on their way and those sent, and the fault with which it ends once its writes in flight are performed (R281,
R286, R288, R292, R294). -/
structure BteRun where
  cmd : Cmd
  issued : Nat
  got : Table (List Byte)
  acked : Table Nat
  index : List (BitVec 32)
  shrunk : Nat
  pending : List (List Byte)
  flight : Nat
  hold : Bool
  failing : Option (Nat × Word × Addr)
  deriving DecidableEq, Repr

/-! ## The matrix unit (R295 to R317) -/

/-- A weight bank (R295). -/
structure Bank where
  w : Table (BitVec 16)
  wf : Bool
  ws : BitVec 32
  deriving DecidableEq, Repr

/-- An empty bank. -/
def Bank.init : Bank := ⟨[], false, 0⟩

/-- A matrix command that runs: its next step, row or element, the bank it captured, its encounter, the scales it has
read, whether it waits for the peer's block, the rows done of a compute step in progress, whether it has ended and waits
for its census entry (R297, R302, R309, R311, R312, R402). -/
structure MxRun where
  cmd : Cmd
  step : Nat
  bank : Bool
  entry : Option Nat
  scale : Option (BitVec 32)
  scales : List (BitVec 32)
  slot : Bool
  peerWait : Bool
  stopped : Bool
  reload : Bool
  row : Nat
  ended : Bool
  fault : Bool
  deriving DecidableEq, Repr

/-- The matrix unit (R295); `marks` holds which sums of the block buffer had an operand that is not finite (R301). -/
structure Mx where
  banks : Vector Bank 2
  cur : Bool
  buf : Table (BitVec 32)
  marks : Table Bool
  slots : Vector (Table (BitVec 32)) 2
  run : Option MxRun
  load : List MxRun
  out : Option MxRun
  peer : List PeerBlock
  deriving DecidableEq, Repr

/-- The matrix unit after a core reset (R295). -/
def Mx.init : Mx := ⟨Vector.replicate 2 Bank.init, false, [], [], Vector.replicate 2 [], none, [], none, []⟩

/-! ## Encounter rings (R318 to R341) -/

/-- A target of a ring controller (R325, R329, R330, R379). -/
structure Target where
  count : BitVec 16
  live : Bool
  fault : Bool
  defs : BitVec 8
  own : Nat
  slot : Bool
  posted : Bool
  deriving DecidableEq, Repr

/-- An unused target. -/
def Target.init : Target := ⟨0, false, false, 0, 0, false, true⟩

/-- What runs on a segment (R320, R335). -/
inductive RingRun
  | idle
  | sweep (cmd : Cmd)
  | rotate (cmd : Cmd) (left : Nat)
  deriving DecidableEq, Repr

/-- A ring controller: the segment it holds, its match table, targets, deferral list and beat state; whether a
revolution has ended, the cores whose meeting is still to be evaluated, completion tokens to fill, each with the site of
its RGGO, the site of the command that runs and of the RGGO that began last (R318, R329, R331, R379). -/
structure Ctrl where
  seg : Bool
  len : BitVec 2
  flow : Bool
  ewin : Nat
  wwin : Nat
  eswin : Nat
  wswin : Nat
  cwin : Nat
  rlim : BitVec 8
  group : Option Nat
  table : Table (BitVec 32)
  targets : Table Target
  deferral : List Nat
  beat : Nat
  rev : Nat
  recov : Bool
  swp : BitVec 16
  run : RingRun
  moving : Bool
  boundary : Bool
  meet : List Nat
  tokens : List (Nat × Word × BitVec 46)
  site : BitVec 46
  goSite : BitVec 46
  deriving DecidableEq, Repr

/-- A match entry that never matches: OFF = 1 (R323, R341). -/
def offEntry : BitVec 32 := 0x08000000#32

/-- An unconfigured controller; an unlisted match entry is `offEntry`. -/
def Ctrl.init : Ctrl where
  seg := false
  len := 0
  flow := false
  ewin := 0
  wwin := 0
  eswin := 0
  wswin := 0
  cwin := 0
  rlim := 0
  group := none
  table := []
  targets := []
  deferral := []
  beat := 0
  rev := 0
  recov := false
  swp := 0
  run := .idle
  moving := false
  boundary := false
  meet := []
  tokens := []
  site := 0
  goSite := 0

/-- An encounter in a core's queue (R327, R379). -/
structure Encounter where
  entry : Nat
  eid : BitVec 8
  wid : BitVec 8
  recov : Bool
  rev : Nat
  slot : Option Nat
  retired : Bool
  served : Bool
  mxDone : Bool
  faulted : Bool
  unpinned : Bool
  deriving DecidableEq, Repr

/-- The ring state at a core: tiles, queue, slot holders, counts, the command at its port, the bytes an RGPUT has copied
(R319 to R329, R337, R340). -/
structure RingCore where
  east : Option (BitVec 8)
  west : Option (BitVec 8)
  queue : List Encounter
  holders : Vector (Option Nat) 2
  enc : BitVec 16
  defs : BitVec 16
  uns : BitVec 16
  run : Option Cmd
  buf : List Byte
  deriving DecidableEq, Repr

/-- A core without ring state. -/
def RingCore.init : RingCore := ⟨none, none, [], Vector.replicate 2 none, 0, 0, 0, none, []⟩

/-! ## Observation, packets (R385 to R416) -/

/-- CENSST (R400). -/
structure Cens where
  cdrop : BitVec 32
  ccore : Bool
  cseq : Bool
  rpm : Bool
  rpv : Bool
  rwin : BitVec 4
  v : Bool
  cwin : BitVec 4
  deriving DecidableEq, Repr

/-- TRCCTL (R407). -/
structure Trc where
  drop : BitVec 16
  kmask : BitVec 6
  v : Bool
  win : BitVec 4
  deriving DecidableEq, Repr

/-- An egress mirror: its base and control register (R396). -/
structure Mirror where
  base : Word
  v : Bool
  irq : Bool
  win : BitVec 4
  deriving DecidableEq, Repr

/-- A command that has ended: its census entry is formed and waits to be filled, then its done element; `fresh` until
the entry has been judged for the first time, in the tick `formed`; `shrinks` where it is filled and the shrink of the
recorded entry is still owed (R212, R401, R402, R404, R411). -/
structure Ended where
  cmd : Cmd
  port : Port
  census : Bool
  cens : Option (BitVec 4)
  replay : Bool
  compared : Bool
  replayWin : BitVec 4
  cseq : Bool
  ccore : Bool
  formed : BitVec 64
  fresh : Bool
  shrinks : Bool
  mis : Bool
  fault : Bool
  stop : Bool
  dw : Option Nat
  slotSide : Bool
  deriving DecidableEq, Repr

/-- What a trace record holds, and its place among the records of its tick that are of its class (R408). -/
structure TraceRec where
  kind : Nat
  site : BitVec 46
  value : Word
  code : Nat
  n : Nat
  key : Nat
  deriving DecidableEq, Repr

/-- A packet copy in a class queue (R388). -/
structure Packet where
  pay : BitVec 32
  deriving DecidableEq, Repr

/-- A PKT whose copies are on their way: the cores they are still to enter, the detail of an undeliverable one (R388,
R389). -/
structure PktRun where
  cmd : Cmd
  left : List Nat
  bad : Option Word
  deriving DecidableEq, Repr

/-- Why a whole core is stopped (R368, R412, R430): not, by a CTXSAV or the launch unit, halted. -/
inductive CoreStop | none | saved (excl : Option Nat) | halted
  deriving DecidableEq, Repr

/-! ## A core -/

/-- One core (R8 to R30 and the registers later chapters assign); `fabRun` are the fab commands that have started and
have no round, `fabLast` the site of the fab command that has started last (R209), `banks` are the rows of the window
store that this tick has used, with whether they were written (R124, R126), `censOp` a CENS that takes effect after this
tick (R406), `traced` the trace records formed in it, with the tick and whether the trace unit was lent (R408, R415). -/
structure Core where
  slots : Table Slot
  wins : Table Win
  istore : Table Code
  wstore : Table Byte
  cstore : Table Byte
  seq : BitVec 16
  tvecEn : Bool
  tvec : BitVec 12
  bnh : Vector (BitVec 9) 8
  bxsh : Vector Word 32
  pkrt : Vector (BitVec 41) 16
  egm : Vector Mirror 2
  rpnot : BitVec 5
  wdctl : BitVec 40
  wdcnt : BitVec 64
  cens : Cens
  censOp : Option (BitVec 4 × Word)
  trc : Trc
  trcShadow : Trc
  trcLent : Bool
  traced : List (BitVec 64 × Bool × TraceRec)
  dbgctl : BitVec 4
  dbgev : Word
  bks : Vector Word 4
  stall : Vector Word 16
  stallShadow : Vector Word 16
  stallLent : Bool
  cready : Vector Bool 4
  pend : Table (Option PendCount)
  cmask : BitVec 16
  classq : Table (List Packet)
  gens : Table (BitVec 16)
  fabq : List Cmd
  mxq : List Cmd
  bteq : List Cmd
  ringq : List Cmd
  pktq : List Cmd
  pktRuns : List PktRun
  stuck : List Port
  notices : List Word
  fabRun : List Cmd
  fabLast : Option (BitVec 46)
  round : Option Round
  bte : Vector (Option BteRun) 4
  mx : Mx
  ring : RingCore
  ended : List Ended
  utlb : List TlbEntry
  banks : List (Nat × Bool)
  stop : CoreStop
  haltTick : BitVec 64
  group : Option Nat
  deriving DecidableEq, Repr

/-- A core when core reset ends (R30, R295, and the reset columns of its registers). -/
def Core.init : Core where
  slots := []
  wins := []
  istore := []
  wstore := []
  cstore := []
  seq := 0
  tvecEn := false
  tvec := 0
  bnh := Vector.replicate 8 0
  bxsh := Vector.replicate 32 0
  pkrt := Vector.replicate 16 0
  egm := Vector.replicate 2 ⟨0, false, false, 0⟩
  rpnot := 0
  wdctl := 0
  wdcnt := 0
  cens := ⟨0, false, false, false, false, 0, false, 0⟩
  censOp := none
  trc := ⟨0, 0, false, 0⟩
  trcShadow := ⟨0, 0, false, 0⟩
  trcLent := false
  traced := []
  dbgctl := 0
  dbgev := 0
  bks := Vector.replicate 4 0
  stall := Vector.replicate 16 0
  stallShadow := Vector.replicate 16 0
  stallLent := false
  cready := Vector.replicate 4 false
  pend := []
  cmask := 0
  classq := []
  gens := []
  fabq := []
  mxq := []
  bteq := []
  ringq := []
  pktq := []
  pktRuns := []
  stuck := []
  notices := []
  fabRun := []
  fabLast := none
  round := none
  bte := Vector.replicate 4 none
  mx := Mx.init
  ring := RingCore.init
  ended := []
  utlb := []
  banks := []
  stop := .none
  haltTick := 0
  group := none

/-! ## Clusters, dies -/

/-- One cluster (R158, R239 to R245, R345, R358, R394, R397, R415). -/
structure Cluster where
  owner : Option (BitVec 5)
  ptroot : Word
  wdDefault : BitVec 40
  saveArea : Option Addr
  unit : LaunchUnit
  faults : Service
  answers : Service
  faultPosts : List (List Word)
  reports : Service
  rseq : BitVec 16
  held : List Report
  tlb : List TlbEntry
  misses : List Miss
  missQueue : List Miss
  stallLoan : Bool
  traceLoan : Option Nat
  deriving DecidableEq, Repr

/-- A cluster after package reset: the physical function, tenant 0, owns it (R397). -/
def Cluster.init : Cluster where
  owner := some 0
  ptroot := 0
  wdDefault := 0
  saveArea := none
  unit := LaunchUnit.init
  faults := Service.init
  answers := Service.init
  faultPosts := []
  reports := Service.init
  rseq := 0
  held := []
  tlb := []
  misses := []
  missQueue := []
  stallLoan := false
  traceLoan := none

/-- One die (R240, R269). -/
structure Die where
  nodes : List NodeEntry
  walks : List Walk
  turn : Nat
  slices : Table Slice
  fenced : Bool
  deriving DecidableEq, Repr

/-- A die after package reset. -/
def Die.init : Die := ⟨[], [], 0, [], false⟩

/-! ## Device life (R419 to R430) -/

/-- The states of the mailbox status word (R421). -/
inductive DevState | booting | running | safe | off
  deriving DecidableEq, Repr

/-- A mailbox command that is being answered (R421). -/
inductive MailCmd
  | status
  | diag
  | attest (nonce : BitVec 256)
  | other
  deriving DecidableEq, Repr

/-- The mailbox with the command it answers, firmware, the fused hash of the firmware key, alarm and repairs; `sparing`
holds the failed cores that wait for their group to leave them, `up` says that package reset has ended (R14, R419 to
R429). -/
structure Device where
  dev : DevState
  cause : BitVec 4
  busy : Bool
  pending : Option MailCmd
  fwver : BitVec 32
  spares : BitVec 8
  clusterSpares : Table Nat
  reply : List Word
  measurements : List (BitVec 512)
  keyHash : BitVec 512
  keyStore : Bool
  up : Bool
  fusePolicy : Bool
  alarmLatch : Bool
  softErrors : Nat
  sparing : List Nat
  deriving DecidableEq, Repr

/-- An entry of the pod group table (R393). -/
structure PodEntry where
  gid : BitVec 16
  tag : BitVec 16
  mask : BitVec 64
  count : BitVec 16
  deriving DecidableEq, Repr

/-- The interval unit of the link counters; the ticks in which anything could move on the links, so far and when the
counts were last cleared (R416). Marked PRESUMED, log 29. Marked DESIGN CHOICE, log 13. -/
structure LinkUnit where
  interval : BitVec 5
  base : Addr
  buffers : Nat
  snapshot : Nat
  began : BitVec 64
  moved : Nat
  cleared : Nat
  deriving DecidableEq, Repr

/-- A trace ring of the physical function: where it begins in memory, how many records it holds, the records written to
it (R415). Marked DESIGN CHOICE, log 13. -/
structure TraceRing where
  base : Addr
  size : Nat
  next : Nat
  deriving DecidableEq, Repr

/-- A group launch parts share before and after it starts: groups by number (R159, R165). -/
abbrev Groups := Table (Option Group)

/-! ## The package -/

/-- The state of one package; `spoiled` holds the bytes of memory whose check cannot correct them (R428); `agenda`,
`due`, `late`, `issuers`, `cur`, `slot` and `free` are the model's own schedule and free-value counter (DESIGN CHOICE,
log 1, 2). -/
structure State where
  cores : Table Core
  clusters : Table Cluster
  dies : Table Die
  nets : Table Net
  ctrls : Table Ctrl
  mem : List Host.Cell
  spoiled : List Nat
  accs : List Acc
  nextAcc : Nat
  nextToken : Nat
  edges : List Edge
  groups : Groups
  nextGroup : Nat
  gidFails : List (BitVec 16 × Nat × Nat)
  resets : List (BitVec 5)
  pkg : BitVec 6
  pods : Table PodEntry
  ptags : Table (BitVec 16)
  domain : BitVec 64
  shares : Table Nat
  buckets : Table Nat
  hostErrors : Table Nat
  hostReply : Word
  msix : List (Nat × Nat)
  links : LinkUnit
  traceRings : Table TraceRing
  device : Device
  tick : BitVec 64
  agenda : List Instr
  due : Nat
  late : Nat
  issuers : List Nat
  cur : Nat
  slot : Nat
  free : Nat
  deriving DecidableEq, Repr

/-- Why the machine stops. -/
inductive Fault
  /-- Raised by `step` on an event of the schedule that names a unit the part does not have (R5). Safe: no such event
  happens on the hardware. -/
  | noSuchUnit
  deriving DecidableEq, Repr

/-- Why the model gives no meaning. -/
inductive Refusal
  /-- Raised by an arm of `exec` whose instruction the model does not give a meaning to yet. Safe: the run ends. -/
  | notModelled (mnemonic : String)
  deriving DecidableEq, Repr

/-- What a meaning answers. -/
abbrev Res := Host.Outcome State Fault Refusal

/-- The package right after reset (R14, R30, R226, R341, R397): nothing runs, every table lists nothing. -/
def State.reset : State where
  cores := []
  clusters := []
  dies := []
  nets := []
  ctrls := []
  mem := []
  spoiled := []
  accs := []
  nextAcc := 0
  nextToken := 0
  edges := []
  groups := []
  nextGroup := 0
  gidFails := []
  resets := []
  pkg := 0
  pods := []
  ptags := []
  domain := 1
  shares := []
  buckets := []
  hostErrors := []
  hostReply := 0
  msix := []
  links := ⟨0, 0, 0, 0, 0, 0, 0⟩
  traceRings := []
  device := ⟨.booting, 0, false, none, 0, 0, [], [], [], 0, true, false, false, false, 0, []⟩
  tick := 0
  agenda := []
  due := 0
  late := 0
  issuers := []
  cur := 0
  slot := 0
  free := 0

end Sys2Proof.Machine
end

