-- ==== Sys2Proof/Machine/Translate.lean ====
section
/-! DEFINITION. The pure part of translation: page-table entries, their checks, what a TLB entry covers, the physical
address of an access (R234 to R243). -/

namespace Sys2Proof.Machine

open Sys2Proof

/-- PTROOT.V (R239). -/
def rootV (r : Word) : Bool := r.getLsbD 0
/-- PTROOT.TIER (R239). -/
def rootTier (r : Word) : Nat := r.toNat / 2 % 2
/-- PTROOT.ASID (R239). -/
def rootAsid (r : Word) : BitVec 12 := bits r.toNat 2 12
/-- PTROOT.TEN (R239). -/
def rootTen (r : Word) : BitVec 5 := bits r.toNat 58 5
/-- Physical address of the level-4 node (R239). -/
def rootPa (r : Word) : Nat := r.toNat / 2 ^ 16 % 2 ^ 42 * 2 ^ 16

/-- V of an entry (R237). -/
def pteV (p : Word) : Bool := p.getLsbD 0
/-- LEAF of an entry (R237). -/
def pteLeaf (p : Word) : Bool := p.getLsbD 1
/-- R of an entry (R237). -/
def pteR (p : Word) : Bool := p.getLsbD 2
/-- W of an entry (R237). -/
def pteW (p : Word) : Bool := p.getLsbD 3
/-- TIER of an entry (R237). -/
def pteTier (p : Word) : Nat := p.toNat / 2 ^ 4 % 4
/-- REM of an entry (R237). -/
def pteRem (p : Word) : Bool := p.getLsbD 6
/-- CLG of an entry (R237). -/
def pteClg (p : Word) : BitVec 2 := bits p.toNat 7 2
/-- The physical address an entry holds, bits [57:15] (R237). -/
def ptePa (p : Word) : Nat := p.toNat / 2 ^ 15 % 2 ^ 43 * 2 ^ 15
/-- TEN of an entry (R237). -/
def pteTen (p : Word) : BitVec 5 := bits p.toNat 58 5

/-- The page size of a leaf at a level, as a power of two (R236). -/
def pageBits (level : Nat) : Nat := 15 + 13 * level

/-- The index of a virtual address at a level of the tree (R236). -/
def vaIndex (va : Nat) (level : Nat) : Nat := va / 2 ^ (15 + 13 * level) % 8192

/-- A bad entry found with V = 1 (R238). -/
def badPte (pkg : BitVec 6) (p : Word) (level : Nat) : Bool :=
  let n := p.toNat
  (if pteLeaf p then
      decide (3 ≤ level) || decide (ptePa p % 2 ^ pageBits level ≠ 0) || (decide (pteTier p = 2) && pteRem p)
    else
      decide (level = 0) || pteTen p != 0 || pteClg p != 0 || pteRem p || pteR p || pteW p
      || decide (n / 2 ^ 15 % 2 = 1) || decide (1 < pteTier p))
  || (pteRem p != decide (n / 2 ^ 52 % 64 ≠ pkg.toNat)) || decide (pteTier p = 3) || pteClg p == 3#2 || decide (n / 2 ^ 63 = 1) || decide (n / 2 ^ 9 % 64 ≠ 0)

/-- Whether an access reads for the permissions of its page: loads and AMOs (R237, R249, R251). -/
def opReads (op : AccOp) : Bool :=
  match op with
  | .load | .amo _ _ _ => true
  | .store _ | .red _ _ _ _ => false

/-- Whether an access writes (R237). -/
def opWrites (op : AccOp) : Bool :=
  match op with
  | .load => false
  | .store _ | .red _ _ _ _ | .amo _ _ _ => true

/-- Whether an access is a returning atomic. -/
def opAmo (op : AccOp) : Bool :=
  match op with
  | .amo _ _ _ => true
  | .load | .store _ | .red _ _ _ _ => false

/-- The bytes a die's memory of a tier has (R234). -/
def tierLimit (tier : Nat) : Nat :=
  match tier with
  | 0 => 96 * 2 ^ 30
  | 1 => 256 * 2 ^ 30
  | _ => 2 ^ 52

/-- Whether n bytes at a physical address of a tier stand within its limit (R234, R238). -/
def paOk (tier pa n : Nat) : Bool :=
  if tier = 2 then decide (pa % 2 ^ 52 + n ≤ 2 ^ 52) else decide (pa % 2 ^ 50 + n ≤ tierLimit tier)

/-- The key of a byte of memory: its tier above its 58-bit physical address (R234). Marked DESIGN CHOICE, log 31. -/
def memKey (tier pa : Nat) : Nat := tier * 2 ^ 58 + pa

/-- The faults a leaf gives an access, in the order of R243; none when it is permitted. WHY 2 comes before WHY 3, and
WHY 6 last. Marked DESIGN CHOICE, log 97. -/
def leafFault (root : Word) (pkg : BitVec 6) (p : Word) (level : Nat) (op : AccOp) (va n : Nat) : Option Nat :=
  if badPte pkg p level then some 5
  else if pteTen p ≠ rootTen root then some 4
  else if opAmo op && pteRem p then some 8
  else if opReads op && !pteR p then some 2
  else if opWrites op && !pteW p then some 3
  else if !paOk (pteTier p) (ptePa p + va % 2 ^ pageBits level) n then some 6
  else none

/-- The physical address a leaf gives a virtual one (R236). -/
def leafPa (p : Word) (level va : Nat) : Nat := ptePa p + va % 2 ^ pageBits level

/-- Whether a TLB entry covers an address (R240). -/
def TlbEntry.covers (e : TlbEntry) (asid : BitVec 12) (va : Nat) : Bool :=
  e.asid == asid && e.page == va / 2 ^ pageBits e.level.toNat

/-- Moving the entry used last to the front (R240). Marked DESIGN CHOICE, log 37. -/
def touch (tlb : List TlbEntry) (e : TlbEntry) : List TlbEntry := e :: tlb.filter (· != e)

/-- Filling a micro-TLB: 16 entries, the least recently used replaced (R240). Marked DESIGN CHOICE, log 37. -/
def utlbFill (tlb : List TlbEntry) (e : TlbEntry) : List TlbEntry := (touch tlb e).take 16

/-- The set of the cluster TLB that an entry stands in (R240). Marked DESIGN CHOICE, log 37. -/
def TlbEntry.set (e : TlbEntry) : Nat := e.page % 256

/-- Filling a cluster TLB: 256 sets of 4 ways, the least recently used of the set replaced (R240). Marked DESIGN CHOICE,
log 37. -/
def clusterFill (tlb : List TlbEntry) (e : TlbEntry) : List TlbEntry :=
  let l := touch tlb e
  let kept := (l.filter fun x => x.set == e.set).take 4
  l.filter fun x => x.set != e.set || kept.contains x

/-- TRAPARG of a memory fault (R243). -/
def memFaultArg (why level : Nat) (code : BitVec 3) : Word :=
  BitVec.ofNat 64 (level * 2 ^ 29 + why * 2 ^ 16 + code.toNat)

/-- WHY values that an engine holds at and reports (R244). -/
def recoverable (why : Nat) : Bool := decide (1 ≤ why ∧ why ≤ 3)

/-- The access sizes at which alignment is asked, by the natural size of the access (R246). -/
def aligned (va n : Nat) : Bool := decide (va % n = 0)

/-- A translation context with the tenant of the function that owns the cluster; bits 63, 15 and 14 are zero (R239,
R397). Marked DEDUCED, log 46. -/
def contextOf (v : Word) (owner : Option (BitVec 5)) : Word :=
  BitVec.ofNat 64 (v.toNat % 2 ^ 58 / 2 ^ 16 * 2 ^ 16 + v.toNat % 2 ^ 14 + (owner.getD 0).toNat * 2 ^ 58)

end Sys2Proof.Machine
end

