-- ==== Sys2Proof/Machine/Ops.lean ====
section
/-! DEFINITION. The named operations over the state that every meaning is built from: tables of units, registers,
sites, windows and their retries, event delivery, reports, taking a trap (R140, R141) and completing an instruction. -/

namespace Sys2Proof.Machine

open Sys2Proof

/-! ## Units -/

/-- A core of the package. -/
def State.coreAt (s : State) (c : Nat) : Core := tget Core.init s.cores c
/-- Replacing a core. -/
def State.setCore (s : State) (c : Nat) (k : Core) : State := { s with cores := tput Core.init s.cores c k }
/-- A cluster of the package. -/
def State.clusterAt (s : State) (cl : Nat) : Cluster := tget Cluster.init s.clusters cl
/-- Replacing a cluster. -/
def State.setCluster (s : State) (cl : Nat) (k : Cluster) : State :=
  { s with clusters := tput Cluster.init s.clusters cl k }
/-- A die of the package. -/
def State.dieAt (s : State) (d : Nat) : Die := tget Die.init s.dies d
/-- Replacing a die. -/
def State.setDie (s : State) (d : Nat) (k : Die) : State := { s with dies := tput Die.init s.dies d k }
/-- A counting network of the package: network n of die d is 8d + n (R220). -/
def State.netAt (s : State) (n : Nat) : Net := tget Net.init s.nets n
/-- Replacing a network. -/
def State.setNet (s : State) (n : Nat) (k : Net) : State := { s with nets := tput Net.init s.nets n k }
/-- A ring controller: controller q of row r of cluster cl is 64cl + 4r + q (R318). -/
def State.ctrlAt (s : State) (k : Nat) : Ctrl := tget Ctrl.init s.ctrls k
/-- Replacing a ring controller. -/
def State.setCtrl (s : State) (k : Nat) (x : Ctrl) : State := { s with ctrls := tput Ctrl.init s.ctrls k x }

/-- A trace ring of the physical function. -/
def State.traceRingAt (s : State) (r : Nat) : TraceRing := tget ⟨0, 0, 0⟩ s.traceRings r
/-- Replacing a trace ring. -/
def State.setTraceRing (s : State) (r : Nat) (x : TraceRing) : State :=
  { s with traceRings := tput ⟨0, 0, 0⟩ s.traceRings r x }

/-- A slot of a core. -/
def Core.slotAt (k : Core) (t : Nat) : Slot := tget Slot.init k.slots t
/-- Replacing a slot of a core. -/
def Core.setSlot (k : Core) (t : Nat) (sl : Slot) : Core := { k with slots := tput Slot.init k.slots t sl }
/-- A window of a core. -/
def Core.winAt (k : Core) (w : Nat) : Win := tget Win.init k.wins w
/-- Replacing a window of a core. -/
def Core.setWin (k : Core) (w : Nat) (x : Win) : Core := { k with wins := tput Win.init k.wins w x }

/-- A slot of the package. -/
def State.slotAt (s : State) (c t : Nat) : Slot := (s.coreAt c).slotAt t
/-- Replacing a slot of the package. -/
def State.setSlot (s : State) (c t : Nat) (sl : Slot) : State := s.setCore c ((s.coreAt c).setSlot t sl)
/-- A window of the package. -/
def State.winAt (s : State) (c w : Nat) : Win := (s.coreAt c).winAt w
/-- Replacing a window of the package. -/
def State.setWin (s : State) (c w : Nat) (x : Win) : State := s.setCore c ((s.coreAt c).setWin w x)

/-- The slot that issues. -/
def State.me (s : State) : Slot := s.slotAt s.cur s.slot
/-- Replacing the slot that issues. -/
def State.setMe (s : State) (sl : Slot) : State := s.setSlot s.cur s.slot sl

/-- The cluster of a core (R5). -/
def clusterOf (c : Nat) : Nat := c / 256
/-- The die of a core (R5). -/
def dieOf (c : Nat) : Nat := c / 1536
/-- The row of a core in its cluster (R5). -/
def rowOf (c : Nat) : Nat := c / 16 % 16
/-- The column of a core in its cluster (R5). -/
def colOf (c : Nat) : Nat := c % 16

/-- The tenant of a core: its cluster's owner (R397). -/
def State.tenantOf (s : State) (c : Nat) : Option (BitVec 5) := (s.clusterAt (clusterOf c)).owner

/-! ## The schedule (DESIGN CHOICE, log 1) -/

/-- Scheduling an event after those already scheduled. -/
def State.post (s : State) (e : Instr) : State := { s with agenda := s.agenda ++ [e] }
/-- Scheduling an event in the tick that goes on, at its place among those that are due (R26). -/
def State.soon (s : State) (e : Instr) : State :=
  let n := placeIn (placeOf e) (s.agenda.take s.due)
  { s with agenda := s.agenda.take n ++ e :: s.agenda.drop n, due := s.due + 1 }
/-- Scheduling an event among those that come after the tasks in the tick that goes on, at its place (R26). -/
def State.later (s : State) (e : Instr) : State :=
  let n := s.due + placeIn (placeOf e) ((s.agenda.drop s.due).take s.late)
  { s with agenda := s.agenda.take n ++ e :: s.agenda.drop n, late := s.late + 1 }
/-- Scheduling events before every other, in their order: what R26 retries at once. -/
def State.urgent (s : State) (es : List Instr) : State :=
  { s with agenda := es ++ s.agenda, due := s.due + es.length }

/-- A free value below n, and the state that has drawn it (DESIGN CHOICE, log 2). -/
def State.freeBelow (s : State) (n : Nat) : Nat × State :=
  (Config.freeNat s.free % n, { s with free := s.free + 1 })

/-! ## Registers (R10) -/

/-- Reading a general register; g0 reads as zero. -/
def Slot.readG (sl : Slot) (d : BitVec 5) : Word := if d = 0#5 then 0 else sl.g[d.toNat]'d.isLt
/-- Writing a general register; a write to g0 is discarded. -/
def Slot.writeG (sl : Slot) (d : BitVec 5) (v : Word) : Slot :=
  if d = 0#5 then sl else { sl with g := sl.g.set d.toNat v d.isLt }
/-- Reading an address register. -/
def Slot.readA (sl : Slot) (d : BitVec 4) : Addr := sl.a[d.toNat]'d.isLt
/-- Writing an address register. -/
def Slot.writeA (sl : Slot) (d : BitVec 4) (v : Addr) : Slot := { sl with a := sl.a.set d.toNat v d.isLt }
/-- Reading a predicate; p0 reads as true. -/
def Slot.readP (sl : Slot) (d : BitVec 3) : Bool := if d = 0#3 then true else sl.p[d.toNat]'d.isLt
/-- Writing a predicate; a write to p0 is discarded. -/
def Slot.writeP (sl : Slot) (d : BitVec 3) (v : Bool) : Slot :=
  if d = 0#3 then sl else { sl with p := sl.p.set d.toNat v d.isLt }
/-- Reading a command register. -/
def Slot.readK (sl : Slot) (d : BitVec 3) : Wide := sl.k[d.toNat]'d.isLt
/-- Writing a command register. -/
def Slot.writeK (sl : Slot) (d : BitVec 3) (v : Wide) : Slot := { sl with k := sl.k.set d.toNat v d.isLt }

/-- Whether a guard holds (R9). -/
def Slot.guard (sl : Slot) (g : Guard) : Bool := sl.readP g.p != g.neg

/-! ## Sites (R6) -/

/-- A site name. -/
def mkSite (c t : Nat) (pc : BitVec 12) (seq : BitVec 16) : BitVec 46 :=
  BitVec.ofNat 46 (c % 8192 * 2 ^ 33 + t % 32 * 2 ^ 28 + pc.toNat * 2 ^ 16 + seq.toNat)
/-- The core of a site. -/
def siteCore (x : BitVec 46) : Nat := x.toNat / 2 ^ 33
/-- The slot of a site. -/
def siteSlot (x : BitVec 46) : Nat := x.toNat / 2 ^ 28 % 32
/-- The PC of a site. -/
def sitePc (x : BitVec 46) : Nat := x.toNat / 2 ^ 16 % 4096
/-- The sequence number of a site. -/
def siteSeq (x : BitVec 46) : Nat := x.toNat % 65536
/-- The site of what a slot does now, SEQ as the register reads (R140). -/
def State.siteOf (s : State) (c t : Nat) : BitVec 46 := mkSite c t (s.slotAt c t).pc (s.coreAt c).seq

/-! ## Bindings (R148) -/

/-- KIND of a binding. -/
def bindKind (b : BitVec 26) : Nat := b.toNat / 2 ^ 12 % 16
/-- ARG of a binding. -/
def bindArg (b : BitVec 26) : Nat := b.toNat / 2 ^ 16 % 128
/-- PRIO of a binding. -/
def bindPrio (b : BitVec 26) : BitVec 2 := bits b.toNat 23 2
/-- ONCE of a binding. -/
def bindOnce (b : BitVec 26) : Bool := decide (b.toNat / 2 ^ 25 % 2 = 1)
/-- ENTRY of a binding. -/
def bindEntry (b : BitVec 26) : BitVec 12 := bits b.toNat 0 12
/-- The source a binding names, as one number (R150). -/
def bindSource (b : BitVec 26) : Nat := bindKind b * 128 + bindArg b
/-- The number of a source. -/
def sourceKey (kind arg : Nat) : Nat := kind * 128 + arg

/-! ## Windows (R20 to R29) -/

/-- The filled extent E (R22). -/
def Win.ext (w : Win) : Nat := (w.fill - w.head).toNat
/-- The element size in bytes (R20). -/
def Win.esize (w : Win) : Nat := 2 ^ (w.esz.toNat + 2)
/-- The byte address of the element at an offset (R22). -/
def Win.addr (w : Win) (o : Nat) : Nat := w.base.toNat * 32 + (w.hslot.toNat + o) % w.cap.toNat * w.esize
/-- The ring count RC (R254). -/
def Win.rc (w : Win) : Nat := (w.rfill - w.rhead).toNat
/-- The elements the backing ring holds (R254). -/
def Win.rsize (w : Win) : Nat := 2 ^ min w.rlog.toNat 24
/-- Whether an offset stands at or beyond a set poison position (R29). -/
def Win.poisonedAt (w : Win) (o : Nat) : Bool := w.pv && decide ((w.pois - w.head).toNat ≤ o)

/-- The kinds of window operation, as OP of R28. -/
inductive OpKind | fill | read | update | shrink | query | define
  deriving DecidableEq, Repr

/-- OP of R28. -/
def OpKind.code : OpKind → Nat
  | .fill => 0 | .read => 1 | .update => 2 | .shrink => 3 | .query => 4 | .define => 5

/-- The operations a task may use in a mode (R121). -/
def WinMode.allows (m : WinMode) (op : OpKind) : Bool :=
  match m, op with
  | _, .query => true
  | .plain, _ | .backed, _ => true
  | .ringEast, .read | .ringWest, .read => true
  | .ringEast, _ | .ringWest, _ => false
  | .ingress, .read | .ingress, .shrink => true
  | .ingress, _ => false
  | .egress, .fill | .egress, .read => true
  | .egress, _ => false

/-- What the checks of an operation come to (R23, R29, R433). -/
inductive Verdict
  | proceed
  | wait
  | fault (why : Nat)
  | poison
  deriving DecidableEq, Repr

/-- The checks of an operation by a task or a remote fill, in the order of R433; a held window makes it wait
unjudged (R363). -/
def Win.judge (w : Win) (op : OpKind) (arg : Nat) : Verdict :=
  if w.held then .wait
  else if !w.v then .fault 1
  else if !w.mode.allows op then .fault 5
  else match op with
    | .read =>
      if w.cap.toNat ≤ arg then .fault 4
      else if w.poisonedAt arg then .poison
      else if arg < w.ext then .proceed else .wait
    | .update => if w.ext ≤ arg then .fault 2 else .proceed
    | .shrink => if w.ext < arg then .fault 3 else .proceed
    | .fill => .proceed
    | .query | .define => .proceed

/-- TRAPARG of a window operand fault (R28). -/
def winFaultArg (w : Win) (win : Nat) (op : OpKind) (rm : Bool) (arg : BitVec 32) (why : Nat) : Word :=
  BitVec.ofNat 64 ((if w.v then w.ext % 65536 else 0) * 2 ^ 48 + arg.toNat * 2 ^ 16 + why * 2 ^ 8
    + (if rm then 128 else 0) + op.code * 16 + win)

/-- The bytes of the element at an offset. -/
def Core.readElem (k : Core) (w : Win) (o : Nat) : List Byte := tgets 0 k.wstore (w.addr o) w.esize

/-- What a scalar read returns (R115). -/
def Core.readScalar (k : Core) (w : Win) (o : Nat) : Word :=
  BitVec.ofNat 64 (ofBytes (tgets 0 k.wstore (w.addr o) (min 8 w.esize)))

/-- Writing a whole element: the bytes given, zero behind them (R25, R115). -/
def Core.writeElem (k : Core) (w : Win) (o : Nat) (bs : List Byte) : Core :=
  { k with wstore := tputs 0 (tclear k.wstore (w.addr o) w.esize) (w.addr o) (bs.take w.esize) }

/-- A scalar update: bytes [7:0] of the element, or all of a narrower one (R115). -/
def Core.updateScalar (k : Core) (w : Win) (o : Nat) (v : Word) : Core :=
  { k with wstore := tputs 0 k.wstore (w.addr o) (bytesOf (min 8 w.esize) v.toNat) }

/-- The bytes of a scalar fill (R115). -/
def scalarBytes (w : Win) (v : Word) : List Byte := bytesOf (min 8 w.esize) v.toNat

/-- The rows that an access of n bytes uses in its tick: its first two at most (R19, R124). -/
def rowsOf (a n : Nat) : List Nat := (List.range (min 2 ((a + n - 1) / 32 + 1 - a / 32))).map fun i => a / 32 + i

/-- Using the rows of an access in this tick, which reads or writes them (R124). -/
def Core.useRows (k : Core) (write : Bool) (a n : Nat) : Core :=
  { k with banks := (rowsOf a n).map (fun r => (r, write)) ++ k.banks }

/-- Using the rows of an engine's read of an element in this tick (R124). -/
def State.useRows (s : State) (c a n : Nat) : State := s.setCore c ((s.coreAt c).useRows false a n)

/-- Whether the bank of a row is taken in this tick for an access that reads or writes the row: two reads of one row are
one access (R124, R126). -/
def Core.rowTaken (k : Core) (write : Bool) (row : Nat) : Bool :=
  k.banks.any fun b => b.1 % 16 == row % 16 && (b.1 != row || b.2 || write)

/-- Moving HEAD and HSLOT by a shrink; a consumed poison position is cleared (R23, R351). -/
def Win.shrinkBy (w : Win) (n : Nat) : Win :=
  { w with
    head := w.head + BitVec.ofNat 32 n
    hslot := BitVec.ofNat 16 ((w.hslot.toNat + n) % w.cap.toNat)
    pv := w.pv && decide (n ≤ (w.pois - w.head).toNat) }

/-- Entering a slot into a role; a complete role that does not list it goes OVER (R355). -/
def enterRole (role : List (Nat × Nat)) (full : Bool) (count : Nat) (who : Nat × Nat) : List (Nat × Nat) × Bool :=
  if role.contains who then (role, full)
  else if role.length < count then (role ++ [who], full)
  else (role, true)

/-- Entering a filling slot, or none. -/
def Win.enterProd (w : Win) (who : Option (Nat × Nat)) : Win :=
  match who with
  | none => w
  | some x =>
    let r := enterRole w.prod w.prodOver w.pcnt.toNat x
    { w with prod := r.1, prodOver := r.2 }

/-- Entering a shrinking slot, or none. -/
def Win.enterCons (w : Win) (who : Option (Nat × Nat)) : Win :=
  match who with
  | none => w
  | some x =>
    let r := enterRole w.cons w.consOver w.ccnt.toNat x
    { w with cons := r.1, consOver := r.2 }

/-- The slot a command's site names as its issuer (R355). -/
def issuerOf (site : BitVec 46) : Option (Nat × Nat) := some (siteCore site, siteSlot site)

/-! ## Wait edges (R27) -/

/-- Whether two edges are one wait of one party. -/
def Edge.same (x e : Edge) : Bool :=
  x.party == e.party && x.at_ == e.at_ && x.core == e.core && x.win == e.win && x.kind == e.kind && x.retry == e.retry

/-- The core of a party. -/
def Party.core : Party → Nat
  | .task c _ | .unit c => c
  | .cmd site => siteCore site

/-- Registering an edge; a party that already has one for the same wait keeps its place, and a party of a halted core
has none (R412). -/
def State.addEdge (s : State) (e : Edge) : State :=
  if s.edges.any (·.same e) || (s.coreAt e.party.core).stop == .halted then s else { s with edges := s.edges ++ [e] }

/-- Making the edges of one kind of a party a given set; an edge it already has keeps its place and takes what the wait
now names (R27, R334). -/
def State.edgesOf (s : State) (p : Party) (kind : WaitKind) (es : List Edge) : State :=
  let s := { s with edges := s.edges.filterMap fun e =>
    if e.party != p || e.kind != kind then some e
    else (es.find? (e.same ·)).map fun x => { e with arg := x.arg } }
  es.foldl (init := s) fun s e => s.addEdge e

/-- Removing every edge of a party. -/
def State.dropEdges (s : State) (p : Party) : State := { s with edges := s.edges.filter fun e => e.party != p }

/-- Removing the edge of one wait of a party. -/
def State.dropEdge (s : State) (e : Edge) : State := { s with edges := s.edges.filter fun x => !x.same e }

/-- Removing the edge whose retry is a given step. -/
def State.dropRetry (s : State) (p : Party) (r : Instr) : State :=
  { s with edges := s.edges.filter fun e => !(e.party == p && e.retry == some r) }

/-- Retrying what waits on a window, fills in the order in which they began to wait (R26). -/
def State.retryWin (s : State) (c w : Nat) : State :=
  s.urgent ((s.edges.filter fun e =>
    e.core == c && e.win == w && (e.kind == .read || e.kind == .fill || e.kind == .other)).filterMap Edge.retry)

/-- A slot that stops waiting becomes runnable with its stamp set (R146, R155). -/
def State.wake (s : State) (c t : Nat) : State :=
  let sl := s.slotAt c t
  (s.dropEdges (.task c t)).setSlot c t
    { sl with status := .runnable, wait := none, ready := s.tick, issues := 0 }

/-! ## Progress (R361) -/

/-- A progress event at a core. -/
def State.progress (s : State) (c : Nat) : State :=
  let k := s.coreAt c
  if k.wdctl.toNat / 2 ^ 36 % 2 = 0 then s.setCore c { k with wdcnt := 0 } else s

/-- An advance of FILL of a window, which heartbeat mode counts for window HBW. -/
def State.progressFill (s : State) (c w : Nat) : State :=
  let k := s.coreAt c
  if k.wdctl.toNat / 2 ^ 36 % 2 = 0 ∨ k.wdctl.toNat / 2 ^ 32 % 16 = w then s.setCore c { k with wdcnt := 0 } else s

/-! ## Stall counters (R413, R415) -/

/-- Adding one to a stall counter. -/
def State.stallAdd (s : State) (c : Nat) (n : Fin 16) : State :=
  let k := s.coreAt c
  s.setCore c { k with stall := k.stall.set n.val (k.stall[n.val]'n.isLt + 1) n.isLt }

/-! ## Activation and delivery (R150, R151) -/

/-- Activating a slot with an event word or an argument, with the launch's SUP bit where its binding is a launch binding
(R151); an activation is a new party (R258). -/
def State.activateRaw (s : State) (c t : Nat) (word : Word) : State :=
  let sl := s.slotAt c t
  (s.setSlot c t
    { sl.writeG 1 word with
      status := .runnable, pc := bindEntry sl.bind, prio := bindPrio sl.bind, sup := sl.lsup, psup := false, tv := false,
      ready := s.tick, issues := 0, hold := .none, wait := none, inRep := false, fenceRel := none, again := false,
      banked := 0, paid := 0, act := sl.act + 1 }).stallAdd c 15

/-- The event word of R149. -/
def eventWord (data : BitVec 32) (count kind arg : Nat) : Word :=
  BitVec.ofNat 64 (data.toNat * 2 ^ 32 + count * 2 ^ 16 + kind * 2 ^ 12 + arg)

/-- The lowest-numbered slot of a core that waits in the bound state for a source (R150). -/
def Core.boundTo (k : Core) (key : Nat) : Option Nat :=
  leastBelow (fun t => (k.slotAt t).status == .bound && bindSource (k.slotAt t).bind == key) Config.slots

/-- The 32 bytes of a trace record (R408). -/
def TraceRec.bytes (r : TraceRec) (tick : BitVec 64) : List Byte :=
  bytesOf 8 r.site.toNat ++ bytesOf 8 tick.toNat ++ bytesOf 8 r.value.toNat ++ bytesOf 1 r.kind ++ bytesOf 1 r.code
    ++ bytesOf 2 r.n ++ bytesOf 4 0

/-- Counting one event of a source that has a count, with its latest data (R150); LOST of a barrier event that has not
been delivered stays (R166). -/
def Core.count (k : Core) (key : Nat) (data : BitVec 32) : Core :=
  match tget none k.pend key with
  | some p =>
    let lost := if p.count ≠ 0 ∧ key / 128 = 5 then p.data &&& 0x10000#32 else 0
    { k with pend := tput none k.pend key (some ⟨min 65535 (p.count + 1), data ||| lost⟩) }
  | none => k

/-- Whether a source holds back its next event (R150). -/
def Core.countFull (k : Core) (key : Nat) : Bool :=
  match tget none k.pend key with
  | some p => decide (65535 ≤ p.count)
  | none => false

/-- Whether a window source holds back its next fill (R150). -/
def Core.fillHeldBack (k : Core) (w : Nat) : Bool :=
  k.countFull (sourceKey 1 w) || k.countFull (sourceKey 4 w) || k.countFull (sourceKey 6 w)

/-- Delivering a source whose count is not zero to the lowest bound slot; the slot activated, if any (R150). -/
def State.deliver (s : State) (c key : Nat) : State × Option Nat :=
  let k := s.coreAt c
  match tget none k.pend key, k.boundTo key with
  | some p, some t =>
    if p.count = 0 then (s, none)
    else
      let word := eventWord p.data p.count (key / 128) (key % 128)
      ((s.setCore c { k with pend := tput none k.pend key (some ⟨0, p.data⟩) }).activateRaw c t word, some t)
  | _, _ => (s, none)

/-! ## Accesses (R240, R241, R246) -/

/-- Starting a global access: a micro-TLB hit that the leaf permits adds no time, everything else goes to the cluster
TLB (R241). The address and size are as given; alignment was checked before (R243). -/
def State.startAcc (s : State) (a : Acc) : State :=
  let k := s.coreAt a.core
  let root := (s.clusterAt (clusterOf a.core)).ptroot
  let asid := rootAsid root
  let va := a.va.toNat
  let a := { a with id := s.nextAcc, asid := asid, stage := .lookup }
  let s := { s with nextAcc := s.nextAcc + 1 }
  match k.utlb.find? (·.covers asid va) with
  | some e =>
    if (leafFault root s.pkg e.pte e.level.toNat a.op va a.size).isNone then
      let a := { a with stage := .translated, level := e.level, clg := pteClg e.pte,
                        pa := memKey (pteTier e.pte) (leafPa e.pte e.level.toNat va) }
      { s.setCore a.core { k with utlb := touch k.utlb e } with accs := s.accs ++ [a] }
    else { s with accs := s.accs ++ [a] }
  | none => { s with accs := s.accs ++ [a] }

/-- The access with a number, if it is still in flight. -/
def State.accAt (s : State) (id : Nat) : Option Acc := s.accs.find? (·.id == id)
/-- Replacing an access in flight. -/
def State.setAcc (s : State) (a : Acc) : State :=
  { s with accs := s.accs.map fun x => if x.id = a.id then a else x }
/-- Removing an access that has ended. -/
def State.dropAcc (s : State) (id : Nat) : State := { s with accs := s.accs.filter (·.id != id) }

/-- The base address of a window's backing ring (R254). -/
def Win.ringBase (w : Win) : Nat := w.wbkb.toNat * 2 ^ 16
/-- The address of a ring element (R254). -/
def Win.ringAddr (w : Win) (k : Nat) : Addr := BitVec.ofNat 80 (w.ringBase + k % w.rsize * w.esize)

/-- An access of the backing agent (R257). -/
def agentAcc (c : Nat) (site : BitVec 46) (op : AccOp) (va : Addr) (n : Nat) (dest : Dest) : Acc where
  id := 0
  core := c
  holder := .agent c
  site := site
  op := op
  va := va
  size := n
  code := 6
  rel := false
  acq := false
  after := []
  dest := dest
  stage := .lookup
  asid := 0
  pa := 0
  level := 0
  clg := 0
  repc := 0
  data := []

/-- Writing a fill to the backing ring (R255). -/
def State.spill (s : State) (c w : Nat) (bs : List Byte) (site : BitVec 46) : State :=
  let x := s.winAt c w
  let full := (bs ++ List.replicate (x.esize - bs.length) 0).take x.esize
  let a := agentAcc c site (.store full) (x.ringAddr x.rfill.toNat) x.esize
    (.spill w x.rfill (x.fill + BitVec.ofNat 32 x.rc))
  (s.setWin c w { x with rfill := x.rfill + 1 }).startAcc a

/-! ## Fills (R23, R25, R255) -/

/-- Whether a fill goes to the store. -/
def Win.fillsStore (w : Win) : Bool :=
  decide (w.ext < w.cap.toNat) && (w.mode != .backed || decide (w.rc = 0))

/-- Whether a fill goes to the backing ring (R255). -/
def Win.fillsRing (w : Win) : Bool :=
  w.mode == .backed && (decide (0 < w.rc) || decide (w.ext = w.cap.toNat)) && decide (w.rc < w.rsize)

/-- The mirror of a window (R396). -/
def Core.mirrorOf (k : Core) (w : Nat) : Option Mirror := k.egm.toList.find? fun m => m.v && m.win.toNat == w

/-- Whether a fill finds room (R23, R255); a full count of a source of the window holds back the fills that advance FILL
(R149, R150). -/
def Core.fillRoom (k : Core) (w : Nat) : Bool :=
  let x := k.winAt w
  (x.fillsStore && !k.fillHeldBack w) || x.fillsRing

/-- Writing an element at the tail of the store and advancing FILL (R23, R25). -/
def State.landRaw (s : State) (c w : Nat) (bs : List Byte) : State :=
  let k := s.coreAt c
  let x := k.winAt w
  let k := ((k.writeElem x x.ext bs).useRows true (x.addr x.ext) x.esize).setWin w { x with fill := x.fill + 1 }
  (s.setCore c k).progressFill c w

/-- Forming a trace record, which is filled at the end of the tick (R407, R408); OBSST says whose it is (R415). -/
def State.trace (s : State) (c : Nat) (r : TraceRec) : State :=
  let k := s.coreAt c
  if k.trc.v && k.trc.kmask.getLsbD (r.kind - 1) then
    s.setCore c { k with traced := k.traced ++ [(s.tick, k.trcLent, r)] }
  else s

/-- The trace record of an activation (R408). -/
def State.traceActivation (s : State) (c t : Nat) (word : Word) : State :=
  s.trace c ⟨1, mkSite c t (s.slotAt c t).pc (s.coreAt c).seq, word, 0, 0, t⟩

/-- Delivering a source's pending events, with the trace record of the activation (R150, R408). -/
def State.deliverTraced (s : State) (c key : Nat) : State :=
  let r := s.deliver c key
  match r.2 with
  | none => r.1
  | some t => r.1.traceActivation c t ((r.1.slotAt c t).readG 1)

/-- What follows an advance of FILL: the counts of the window's sources, the retries, the deliveries (R26, R149, R150).
-/
def State.afterFill (s : State) (c w : Nat) : State :=
  let x := s.winAt c w
  let k := ((((s.coreAt c).count (sourceKey 1 w) x.fill).count (sourceKey 4 w) x.fill).count (sourceKey 6 w) x.fill)
  let s := (s.setCore c k).retryWin c w
  [1, 4, 6].foldl (init := s) fun s kind => s.deliverTraced c (sourceKey kind w)

/-- A fill that found room: into the store or the backing ring (R255). -/
def State.fillNow (s : State) (c w : Nat) (bs : List Byte) (site : BitVec 46) (who : Option (Nat × Nat)) : State :=
  let s := s.setWin c w ((s.winAt c w).enterProd who)
  if (s.winAt c w).fillsStore then (s.landRaw c w bs).afterFill c w else s.spill c w bs site

/-- A fill that found room; a mirrored egress window owes its mirror a write, which carries the fill's site (R257,
R396). -/
def State.fillWin (s : State) (c w : Nat) (bs : List Byte) (site : BitVec 46) (who : Option (Nat × Nat)) : State :=
  let x := s.winAt c w
  if x.mode == .egress && ((s.coreAt c).mirrorOf w).isSome then
    let s := s.setWin c w { x with mirrors := x.mirrors ++ [(x.fill, site)] }
    (s.fillNow c w bs site who).post (.egressMirrorWrite c w)
  else s.fillNow c w bs site who

/-- A shrink whose checks passed: HEAD moves, the role and the progress count follow, refills and retries follow
(R23, R256, R355, R361). -/
def State.shrinkWin (s : State) (c w n : Nat) (site : BitVec 46) (who : Option (Nat × Nat)) : State :=
  if n = 0 then s
  else
    let x := (s.winAt c w).enterCons who
    let causes := if x.mode == .backed && decide (0 < x.rc) then x.causes ++ [(n, site)] else x.causes
    let s := ((s.setWin c w { x.shrinkBy n with causes := causes, refillSite := site }).progress c).retryWin c w
    if x.mode == .backed && decide (0 < x.rc) then s.post (.refillReadStart c w) else s

/-- Activating a slot, with its trace record (R151, R408). -/
def State.activate (s : State) (c t : Nat) (word : Word) : State :=
  (s.activateRaw c t word).traceActivation c t word

/-- Delivering a source's pending events, with the trace record of the activation; a fill that the full count held
back is retried (R150, R408). -/
def State.deliverSource (s : State) (c key : Nat) : State :=
  let s' := s.deliverTraced c key
  if (s.deliver c key).2.isNone ∨ key / 128 = 5 then s' else s'.retryWin c (key % 128)

/-- Creating the count of a source at zero when its first binding is made (R150). -/
def Core.nameSource (k : Core) (key : Nat) : Core :=
  if key / 128 = 1 ∨ key / 128 = 4 ∨ key / 128 = 5 ∨ key / 128 = 6 then
    match tget none k.pend key with
    | some _ => k
    | none => { k with pend := tput none k.pend key (some ⟨0, 0⟩) }
  else k

/-! ## Poison (R351) -/

/-- Whether a position poisons a window: none stands there, or a later one (R351). -/
def Win.poisons (x : Win) (p : BitVec 32) : Bool :=
  !x.pv || decide ((p - x.head).toNat < (x.pois - x.head).toNat)

/-- Setting poison on a window unless an earlier position stands, and retrying its waiters. -/
def State.setPoison (s : State) (c w : Nat) (p : BitVec 32) (cls : BitVec 8) (site : BitVec 46) (detail : Word) :
    State :=
  let x := s.winAt c w
  let s :=
    if x.poisons p then
      s.setWin c w { x with pois := p, pv := true, wpsClass := cls, wpsSite := site, wpd := detail }
    else s
  if x.held then s else s.retryWin c w

/-! ## Reports (R345, R346) -/

/-- Forming a report record, which its reporter posts when the window has room. -/
def State.report (s : State) (cl : Nat) (r : Report) : State :=
  let k := s.clusterAt cl
  (s.setCluster cl { k with held := k.held ++ [r] }).post (.reportRecordPost cl)

/-- Raising an MSI-X vector of a function (R396, R410). Marked DEDUCED, log 69. -/
def State.raiseMsix (s : State) (fn v : Nat) : State := { s with msix := s.msix ++ [(fn, v)] }

/-! ## Traps (R140, R141, R243, R342) -/

/-- A trap of a code with no further detail in TRAPCAUSE (R342). -/
def trapOf (code : Nat) (arg : Word) : Trap := ⟨BitVec.ofNat 64 code, arg, none, none⟩

/-- A window operand fault (R28). -/
def winTrap (w : Win) (win : Nat) (op : OpKind) (rm : Bool) (arg : BitVec 32) (why : Nat) : Trap :=
  trapOf 6 (winFaultArg w win op rm arg why)

/-- A poison trap (R29, R342, R350). -/
def poisonTrap (w : Win) (win : Nat) (rm : Bool) : Trap where
  cause := BitVec.ofNat 64 ((if rm then 2 ^ 20 else 0) + win * 2 ^ 16 + w.wpsClass.toNat * 2 ^ 8 + 7)
  arg := w.wpd
  site := some w.wpsSite
  va := none

/-- A memory fault at an address (R243, R244). -/
def memTrap (why level : Nat) (code : BitVec 3) (va : Addr) : Trap :=
  ⟨12, memFaultArg why level code, none, some va⟩

/-- A task operand fault (R152). -/
def taskTrap (operand why fn : Nat) : Trap := trapOf 9 (BitVec.ofNat 64 (operand * 2 ^ 32 + why * 2 ^ 8 + fn))

/-- Stopping a slot in the trapped state, with the record R347 gives it. -/
def State.stopTrapped (s : State) (c t : Nat) (code : Nat) (nested : Bool) (site : BitVec 46) (arg : Word) : State :=
  let sl := s.slotAt c t
  ((s.dropEdges (.task c t)).setSlot c t { sl with
      status := .trapped, hold := .none, wait := none, inRep := false, remote := none, again := false,
      banked := 0, paid := 0 }).report (clusterOf c)
    ⟨1, BitVec.ofNat 32 (code + (if nested then 256 else 0)), [site.setWidth 64, arg], c, none⟩

/-- Taking a precise trap at an instruction of a slot: the trap registers are written, and the handler entered or the
slot stopped (R140); inside a handler the registers keep the first trap's values (R141). `ret` is what TRAPPC takes. -/
def State.trapNow (s : State) (c t : Nat) (tr : Trap) (ret : BitVec 12) : State :=
  let sl := s.slotAt c t
  let k := s.coreAt c
  let own := mkSite c t sl.pc k.seq
  let code := tr.cause.toNat % 256
  let s := s.trace c ⟨5, tr.site.getD own, tr.arg, code, 0, t⟩
  let sl := s.slotAt c t
  if sl.tv then s.stopTrapped c t code true own tr.arg
  else
    let sl := { sl with
      trappc := ret, trapcause := tr.cause, traparg := tr.arg, trapsite := tr.site.getD own,
      trapva := match tr.va with
        | some a => a.setWidth 64
        | none => sl.trapva
      trapvah := match tr.va with
        | some a => BitVec.ofNat 16 (a.toNat / 2 ^ 64)
        | none => sl.trapvah }
    if k.tvecEn then
      (s.dropEdges (.task c t)).setSlot c t { sl with
        psup := sl.sup, tv := true, sup := true, pc := k.tvec, hold := .none, wait := none, inRep := false,
        remote := none, again := false, banked := 0, paid := 0, status := .runnable,
        ready := if sl.status = .waiting then s.tick else sl.ready,
        issues := if sl.status = .waiting then 0 else sl.issues }
    else (s.setSlot c t sl).stopTrapped c t code false own tr.arg

/-- The traps a slot has met and not taken yet. -/
def Slot.traps (sl : Slot) : List (Trap × BitVec 12) :=
  match sl.hold with
  | .trapping ts => ts
  | _ => []

/-- A precise stop by a trap: it waits until each value of the slot's tokens in flight has come (R230, R343). -/
def State.takeTrap (s : State) (c t : Nat) (tr : Trap) (ret : BitVec 12) : State :=
  let sl := s.slotAt c t
  if sl.tkns = [] then s.trapNow c t tr ret
  else
    (s.dropEdges (.task c t)).setSlot c t { sl with
      status := .runnable, hold := .trapping (sl.traps ++ [(tr, ret)]), wait := none, remote := none, again := false,
      ready := if sl.status = .waiting then s.tick else sl.ready,
      issues := if sl.status = .waiting then 0 else sl.issues }

/-- Taking the traps that a slot's tokens have held up, once the last of their values has come (R230). -/
def State.takeHeldTraps (s : State) (c t : Nat) : State :=
  let sl := s.slotAt c t
  if sl.tkns = [] ∧ sl.traps ≠ [] then
    sl.traps.foldl (init := s.setSlot c t { sl with hold := .none }) fun s x => s.trapNow c t x.1 x.2
  else s

/-- Returning from a trap: to TRAPPC with the saved privilege (R142, R344). -/
def Slot.returnFromTrap (sl : Slot) : Slot := { sl with pc := sl.trappc, sup := sl.psup, tv := false, inRep := false }

/-! ## Completing an instruction (R8, R17, R113) -/

/-- Whether completing the slot's instruction moves the PC past 4095 (R17). -/
def Slot.fallsOut (sl : Slot) : Bool :=
  if sl.inRep then decide (sl.repc.toNat ≤ 1 ∧ 4095 < sl.pc.toNat + 2) else decide (sl.pc = 4095#12)

/-- Moving past the instruction, or counting a repeat (R113). -/
def Slot.advance (sl : Slot) : Slot :=
  if sl.inRep then
    if sl.repc.toNat ≤ 1 then { sl with repc := 0, inRep := false, pc := sl.pc + 2 }
    else { sl with repc := sl.repc - 1 }
  else { sl with pc := sl.pc + 1 }

/-- Moving a slot past its instruction. -/
def State.advance (s : State) (c t : Nat) : State := s.setSlot c t (s.slotAt c t).advance

/-- What an instruction of the issuing slot comes to: done, a transfer to a word index, a trap, held at its PC, or
having set its own PC. -/
inductive Out
  | done (s : State)
  | jump (s : State) (target : Int)
  | trap (t : Trap)
  | hold (s : State)
  | moved (s : State)

/-- The instruction-address trap (R17, R109). -/
def addressTrap (target : Int) : Trap := trapOf 2 (BitVec.ofInt 64 target)

/-- Ending the issuing slot's instruction; `s0` is the state it began in, which a trap leaves (R17, R140). -/
def finish (s0 : State) (o : Out) : Res :=
  .next <|
    match o with
    | .trap t => s0.takeTrap s0.cur s0.slot t s0.me.pc
    | .moved s => s
    | .done s =>
      if s0.me.fallsOut then s0.takeTrap s0.cur s0.slot (addressTrap 4096) s0.me.pc
      else s.advance s.cur s.slot
    | .hold s =>
      if s0.me.fallsOut then s0.takeTrap s0.cur s0.slot (addressTrap 4096) s0.me.pc else s
    | .jump s target =>
      if 0 ≤ target ∧ target ≤ 4095 then s.setMe { s.me with pc := BitVec.ofInt 12 target }
      else s0.takeTrap s0.cur s0.slot (addressTrap target) s0.me.pc

/-- An instruction under a guard: with a false guard it only moves the PC (R9). -/
def guarded (g : Guard) (s : State) (k : State → Out) : Res :=
  finish s (if s.me.guard g then k s else .done s)

/-- A privileged instruction: without TSTAT.SUP it takes the privilege trap, with the word in TRAPARG (R13, R64). -/
def privileged (i : Instr) (s : State) (k : State → Out) : Out :=
  if s.me.sup then k s
  else .trap (trapOf 3 (match encode i with
    | some w => w.setWidth 64
    | none => 0))

/-- Holding the issuing slot's instruction at its PC (R145). -/
def State.holdMe (s : State) (h : Hold) : State := s.setMe { s.me with hold := h }

/-- Writing a general register of the issuing slot. -/
def State.setG (s : State) (d : BitVec 5) (v : Word) : State := s.setMe (s.me.writeG d v)
/-- Writing an address register of the issuing slot. -/
def State.setA (s : State) (d : BitVec 4) (v : Addr) : State := s.setMe (s.me.writeA d v)
/-- Writing a predicate of the issuing slot. -/
def State.setP (s : State) (d : BitVec 3) (v : Bool) : State := s.setMe (s.me.writeP d v)

/-- Putting the issuing slot into the waiting state with an edge (R27, R145). -/
def State.waitMe (s : State) (p : Pend) (e : Edge) : State :=
  (s.setMe { s.me with status := .waiting, wait := some p }).addEdge e

end Sys2Proof.Machine
end

