-- ==== Sys2Proof/Machine/Holds.lean ====
section
/-! DEFINITION. Releases (R262, R268): what a task's release waits for, and the claims it ends. -/

namespace Sys2Proof.Machine

open Sys2Proof

/-- The party a slot's accesses belong to: its activation (R258). -/
def State.holderOf (s : State) (c t : Nat) : Holder := .task c t (s.slotAt c t).act

/-- Whether every earlier global access of a task has been performed and acknowledged (R246, R262).
Marked DEDUCED, log 19. -/
def State.quiet (s : State) (c t : Nat) : Bool := !s.accs.any fun a => a.holder == s.holderOf c t

/-- Removing claims from every slice of the package (R268, R269). -/
def State.filterClaims (s : State) (keep : Claim → Bool) : State :=
  s.dies.foldl (init := s) fun s e =>
    let k := s.dieAt e.1
    let slices := k.slices.map fun x => (x.1, { x.2 with claims := x.2.claims.filter keep })
    s.setDie e.1 { k with slices := slices.filter fun x => decide (x.2 ≠ Slice.init) }

/-- Releasing every claim of a holder (R268). -/
def State.releaseClaims (s : State) (h : Holder) : State := s.filterClaims fun x => x.holder != h

/-- Holding the issuing slot's instruction, which runs again when the hold ends; that is no second issue (R155).
Marked DEDUCED, log 15. -/
def State.holdAgain (s : State) (h : Hold) : State := s.setMe { s.me with hold := h, again := true }

/-- A releasing instruction: it holds until the task's earlier accesses are performed, and then releases the task's
claims and goes on (R262). Marked DEDUCED, log 19. -/
def released (s : State) (k : State → Out) : Out :=
  if s.quiet s.cur s.slot then k (s.releaseClaims (s.holderOf s.cur s.slot))
  else .moved (s.holdAgain .release)

end Sys2Proof.Machine
end

