-- ==== Sys2Proof/Machine/Command.lean ====
section
/-! DEFINITION. Stream commands: their fields, the checks of an issue, sequence numbers and queues, and how a command
ends: its census entry, its done element, its fault report (R77 to R79, R209 to R212, R280, R285, R305, R336, R348, R387,
R401). -/

namespace Sys2Proof.Machine

open Sys2Proof

/-- A field of n bits of a command from bit lo (R77). -/
def cf (x : Wide) (lo n : Nat) : Nat := x.toNat / 2 ^ lo % 2 ^ n
/-- OP (R77). -/
def cmdOp (x : Wide) : Nat := cf x 0 8
/-- SRCW (R77). -/
def cmdSrcw (x : Wide) : Nat := cf x 8 4
/-- DSTW (R77). -/
def cmdDstw (x : Wide) : Nat := cf x 12 4
/-- MODS (R77). -/
def cmdMods (x : Wide) : Nat := cf x 16 8
/-- A bit of MODS. -/
def cmdMod (x : Wide) (i : Nat) : Bool := decide (cf x (16 + i) 1 = 1)
/-- DONE, MODS [7] (R210, R287, R304, R335, R386). -/
def cmdDone (x : Wide) : Bool := cmdMod x 7
/-- A signed field of n bits from bit lo. -/
def cfs (x : Wide) (lo n : Nat) : Int := (BitVec.ofNat n (cf x lo n)).toInt

/-- The port of an opcode; none where it is reserved (R78). -/
def opPort (op : Nat) : Option Port :=
  if 0x01 ≤ op ∧ op ≤ 0x06 then some .fab
  else if 0x21 ≤ op ∧ op ≤ 0x26 then some .mx
  else if 0x41 ≤ op ∧ op ≤ 0x46 then some .bte
  else if 0x61 ≤ op ∧ op ≤ 0x66 then some .ring
  else if op = 0x81 then some .pkt
  else none

/-- The MODS bits a command names (R210, R287, R304, R335, R386). -/
def modsNamed (op : Nat) : Nat :=
  match op with
  | 0x01 => 0x81 | 0x02 => 0x80 | 0x05 => 0x07 | 0x06 => 0x80
  | 0x21 => 0x83 | 0x22 => 0x87 | 0x23 => 0x80 | 0x24 => 0x9F | 0x25 => 0x84 | 0x26 => 0xFF
  | 0x41 => 0x80 | 0x42 => 0x81 | 0x43 => 0x81 | 0x44 => 0x81 | 0x45 => 0x81 | 0x46 => 0xFF
  | 0x61 => 0x81 | 0x62 => 0x80 | 0x63 => 0x83 | 0x64 => 0x80 | 0x65 => 0x80 | 0x66 => 0x80
  | 0x81 => 0x81
  | _ => 0

/-- A mask of the bits hi to lo. -/
def span (hi lo : Nat) : Nat := 2 ^ (hi + 1) - 2 ^ lo

/-- The bits beside OP and MODS that a command may set (R210, R287, R304, R335, R386). -/
def fieldsNamed (x : Wide) : Nat :=
  let dst := span 15 12
  let src := span 11 8
  let dw := if cmdDone x then span 127 124 else 0
  match cmdOp x with
  | 0x01 => (if cmdDone x then dst else 0) + span 25 24 + (if cmdMod x 0 then span 111 32 else 0)
  | 0x02 => (if cmdDone x then dst else 0) + span 25 24
  | 0x04 => src + span 26 24 + span 29 28
  | 0x05 => span 26 24 + span 29 28 + span 63 32
  | 0x06 => if cmdDone x then dst else 0
  | 0x21 => dw + src + span 51 32 + span 95 64
  | 0x22 => dw + src + dst + span 81 32
  | 0x23 => dw
  | 0x24 => dw + (if cmdMod x 4 then span 31 24 else src + dst + span 116 32)
  | 0x25 => dw
  | 0x26 => dw + dst + span 63 32
  | 0x41 => dst + span 31 28 + span 26 24 + span 111 32
  | 0x42 => src + span 31 28 + span 26 24 + span 111 32
  | 0x43 => src + dst + span 31 28 + span 44 32 + span 95 64
  | 0x44 => dst + span 31 28 + span 26 24 + span 115 32
  | 0x45 => src + span 31 28 + span 26 24 + span 115 32
  | 0x46 => src + span 31 28 + span 26 24 + span 111 32
  | 0x61 => dw + span 33 32 + span 63 36
  | 0x62 => dw + src + span 52 32
  | 0x63 => dw + src + dst + span 31 24
  | 0x64 => dw
  | 0x65 => dw + span 47 32
  | 0x66 => dw
  | 0x81 => dw + span 95 64 + (if cmdMod x 0 then 0 else span 51 32) + span 27 24
  | _ => 0

/-- Whether a command sets no bit that its description shows as 0. -/
def fieldsOk (x : Wide) : Bool :=
  decide (x.toNat &&& ((2 ^ 128 - 1) - fieldsNamed x - span 7 0 - span 23 16) = 0)

/-- Whether a window may take done elements: defined, plain, ESZ 1 (R211, R285, R305, R336, R387). -/
def Win.doneOk (w : Win) : Bool := w.v && w.mode == .plain && w.esz == 1#4

/-- The done window a command names, if DONE = 1 (R210, R287, R304, R335, R386). -/
def doneWin (x : Wide) : Option Nat :=
  if !cmdDone x then none
  else if cmdOp x / 32 = 0 then some (cmdDstw x)
  else if cmdOp x / 32 = 2 then some (cf x 28 4)
  else some (cf x 124 4)

/-! ## Shapes (R282 to R284) -/

/-- A shape record as a number. -/
def shapeNat (ws : List Word) : Nat := ofBytes (ws.flatMap fun w => bytesOf 8 w.toNat)
/-- A field of a shape record (R283). -/
def shf (ws : List Word) (lo n : Nat) : Nat := shapeNat ws / 2 ^ lo % 2 ^ n
/-- A signed field of a shape record (R283). -/
def shs (ws : List Word) (lo n : Nat) : Int := (BitVec.ofNat n (shf ws lo n)).toInt
/-- N0 (R283). -/
def shN0 (ws : List Word) : Nat := shf ws 128 16
/-- N1 (R283). -/
def shN1 (ws : List Word) : Nat := shf ws 144 16
/-- N2 (R283). -/
def shN2 (ws : List Word) : Nat := shf ws 160 16

/-- Whether a shape record meets R283 and R284. -/
def shapeOk (ws : List Word) : Bool :=
  decide (4 ≤ shN0 ws ∧ shN0 ws % 4 = 0) && decide (1 ≤ shN1 ws) && decide (1 ≤ shN2 ws)
    && decide (shN0 ws * shN1 ws * shN2 ws < 2 ^ 32)

/-- The bytes of a block-transfer command's stream (R284, R287). -/
def streamBytes (x : Wide) (ws : List Word) : Nat :=
  if cmdOp x = 0x43 then cf x 64 32 else shN0 ws * shN1 ws * shN2 ws

/-- The shape record an ISS copies into its command (R282). -/
def Core.shapeOf (k : Core) (x : Wide) : List Word :=
  if cmdOp x / 32 = 2 ∧ cmdOp x ≠ 0x43 then
    (List.range 4).map fun q => k.bxsh.toList.getD (4 * cf x 24 3 + q) 0
  else []

/-- Whether a window's elements divide a stream. -/
def Win.divides (w : Win) (n : Nat) : Bool := decide (n % w.esize = 0)
/-- Whether an engine may fill a window from a stream (R285, R305). -/
def Win.engineFills (w : Win) : Bool := w.v && (w.mode == .plain || w.mode == .backed || w.mode == .egress)
/-- Whether an engine may shrink a window it reads (R285). -/
def Win.engineShrinks (w : Win) : Bool := w.v && (w.mode == .plain || w.mode == .backed || w.mode == .ingress)

/-- The checks of an ISS to bte (R285, R290). -/
def bteIssueOk (k : Core) (c : Nat) (x : Wide) : Bool :=
  let ws := k.shapeOf x
  let t := streamBytes x ws
  let src := k.winAt (cmdSrcw x)
  let dst := k.winAt (cmdDstw x)
  let keep := cmdMod x 0
  let reads := (if keep then src.v else src.engineShrinks) && src.divides t
  let idx := k.winAt (cf x 112 4)
  let idxOk := (if keep then idx.v else idx.engineShrinks) && idx.esz == 0#4 && decide (shN2 ws = 1)
  let word := if cmdMod x 4 then 8 else 4
  let red := cf x 17 3
  (match cmdOp x with
    | 0x41 => shapeOk ws && dst.engineFills && dst.divides t
    | 0x42 => shapeOk ws && reads
    | 0x43 => decide (t ≠ 0) && reads
        && decide (cf x 32 13 < Config.cores ∧ clusterOf (cf x 32 13) = clusterOf c)
    | 0x44 => shapeOk ws && dst.engineFills && dst.divides t && idxOk
    | 0x45 => shapeOk ws && reads && idxOk
    | 0x46 => shapeOk ws && reads && decide (red < 7)
        && decide (shN0 ws % word = 0 ∧ shs ws 104 24 % (word : Int) = 0 ∧ cf x 32 80 % word = 0)
        && (decide (red ≠ 6) || !cmdMod x 4) && (!cmdMod x 5 || decide (red = 1 ∨ red = 2))
        && (!cmdMod x 6 || decide (red = 6))
    | _ => true)
    && (match doneWin x with
      | some w => (k.winAt w).doneOk
      | none => true)

/-- The checks of an ISS to mx (R305); they hold again at the command's start. Marked DEDUCED, log 17. -/
def mxIssueOk (k : Core) (c : Nat) (x : Wide) : Bool :=
  let tile (w : Nat) : Bool := (k.winAt w).v && (k.winAt w).esz == 12#4
  let scale (w : Nat) : Bool := (k.winAt w).v && (k.winAt w).esz == 7#4
  (match cmdOp x with
    | 0x21 => tile (cmdSrcw x) && (!cmdMod x 1 || decide (cf x 64 32 = 0))
    | 0x22 => tile (cmdSrcw x) && decide (cf x 68 7 + cf x 75 7 ≤ 127)
        && (if cmdMod x 0 then decide (cmdDstw x = 0 ∧ cf x 48 16 = 0) else !cmdMod x 1 || scale (cmdDstw x))
    | 0x24 =>
        if cmdMod x 4 then decide (cf x 18 2 = 0 ∧ cf x 8 8 = 0 ∧ cf x 32 85 = 0)
        else
          tile (cmdSrcw x) && tile (cmdDstw x)
          && (if cmdMod x 0 then decide (cf x 64 4 = 0 ∧ cf x 72 16 = 0) else scale (cf x 64 4))
          && (if cmdMod x 1 then decide (cf x 68 4 = 0 ∧ cf x 88 16 = 0) else scale (cf x 68 4))
          && (!cmdMod x 3 || decide (cf x 104 13 ≠ c ∧ cf x 104 13 < Config.cores
                ∧ clusterOf (cf x 104 13) = clusterOf c))
    | 0x26 => (decide (cf x 16 2 ≠ 3) || decide (cf x 19 2 = 0)) && (cmdMod x 6 || decide (cf x 32 32 = 0))
        && (k.winAt (cmdDstw x)).engineFills
    | _ => true)
    && (match doneWin x with
      | some w => (k.winAt w).doneOk
      | none => true)

/-- The checks of an ISS to ring (R336). -/
def ringIssueOk (k : Core) (c : Nat) (x : Wide) : Bool :=
  let plain (w : Nat) : Bool := (k.winAt w).v && (k.winAt w).mode == .plain
  (match cmdOp x with
    | 0x61 => decide (cf x 32 2 ≠ 3) && decide (colOf c % 2 ^ (cf x 32 2 + 2) = 0)
    | 0x62 => decide (cf x 42 11 ≠ 0 ∧ cf x 32 10 + cf x 42 11 ≤ 1024) && plain (cmdSrcw x)
        && (k.winAt (cmdSrcw x)).esz == 0#4
    | 0x63 => plain (cmdSrcw x)
        && (if cmdMod x 1 then decide (cmdDstw x = 0)
            else plain (cmdDstw x) && decide ((k.winAt (cmdDstw x)).esz.toNat ≤ 7))
    | 0x65 => decide (cf x 32 16 ≠ 0)
    | _ => true)
    && (match doneWin x with
      | some w => (k.winAt w).doneOk
      | none => true)

/-- The checks of an ISS to fab (R211). -/
def fabIssueOk (k : Core) (sup : Bool) (x : Wide) : Bool :=
  (match cmdOp x with
    | 0x01 => !cmdMod x 0 || decide (cf x 32 80 % 64 = 0)
    | 0x05 =>
        let f := cf x 16 3
        decide (1 ≤ f ∧ f ≤ 4) && (decide (f = 1) || decide (1 ≤ cf x 32 32 ∧ cf x 32 32 ≤ 65535))
    | 0x06 => sup
    | _ => true)
    && (match doneWin x with
      | some w => (k.winAt w).doneOk
      | none => true)

/-- The checks of an ISS to pkt (R387). -/
def pktIssueOk (k : Core) (x : Wide) : Bool :=
  decide (cf x 32 13 < Config.cores) && (!(decide (cf x 51 1 = 1)) || decide (cf x 45 6 = 0))
    && (!cmdMod x 0 || (k.pkrt.toList.getD (cf x 24 4) 0).getLsbD 40)
    && (match doneWin x with
      | some w => (k.winAt w).doneOk
      | none => true)

/-- WHY of the command fault at issue, if one of the checks of R79 fails; R79 lists them in this order. -/
def issueFault (k : Core) (c : Nat) (sup : Bool) (p : Port) (x : Wide) : Option Nat :=
  match opPort (cmdOp x) with
  | none => some 1
  | some q =>
    if q ≠ p then some 2
    else if cmdMods x &&& (255 - modsNamed (cmdOp x)) ≠ 0 then some 3
    else
      let ok := fieldsOk x && (match p with
        | .fab => fabIssueOk k sup x
        | .mx => mxIssueOk k c x
        | .bte => bteIssueOk k c x
        | .ring => ringIssueOk k c x
        | .pkt => pktIssueOk k x)
      if ok then none else some 4

/-- The command fault at issue (R79). -/
def issueTrap (r : BitVec 3) (p : Port) (why : Nat) (x : Wide) : Trap :=
  trapOf 8 (BitVec.ofNat 64 (r.toNat * 2 ^ 40 + p.code * 2 ^ 37 + why * 2 ^ 32 + cf x 0 32))

/-- The commands queued at a port. -/
def Core.queue (k : Core) (p : Port) : List Cmd :=
  match p with
  | .fab => k.fabq | .mx => k.mxq | .bte => k.bteq | .ring => k.ringq | .pkt => k.pktq

/-- Replacing a port's queue. -/
def Core.setQueue (k : Core) (p : Port) (q : List Cmd) : Core :=
  match p with
  | .fab => { k with fabq := q }
  | .mx => { k with mxq := q }
  | .bte => { k with bteq := q }
  | .ring => { k with ringq := q }
  | .pkt => { k with pktq := q }

/-- The start of a command, by its opcode (R78). -/
def startOf (c : Nat) (x : Wide) : Option Instr :=
  match cmdOp x with
  | 0x01 => some (.fcfg c) | 0x02 => some (.frun c) | 0x03 => some (.fstop c) | 0x04 => some (.agset c)
  | 0x05 => some (.agprm c) | 0x06 => some (.fmark c)
  | 0x21 => some (.mxw c) | 0x22 => some (.mxa c) | 0x23 => some (.mxswp c) | 0x24 => some (.mxtm c)
  | 0x25 => some (.mxz c) | 0x26 => some (.mxout c)
  | 0x41 => some (.gtw c) | 0x42 => some (.wtg c) | 0x43 => some (.wtw c) | 0x44 => some (.gath c)
  | 0x45 => some (.scat c) | 0x46 => some (.gredw c)
  | 0x61 => some (.rgcfg c) | 0x62 => some (.rgmt c) | 0x63 => some (.rgput c) | 0x64 => some (.rggo c)
  | 0x65 => some (.rgrot c) | 0x66 => some (.rgdrn c)
  | 0x81 => some (.pkt c)
  | _ => none

/-- Taking the head of a port's queue, which lets an ISS that waits for the port issue (R209). -/
def State.takeHead (s : State) (c : Nat) (p : Port) : State :=
  let k := s.coreAt c
  let last := match p with
    | .fab => (k.queue p).head?.map Cmd.site
    | .mx | .bte | .ring | .pkt => k.fabLast
  let s := s.setCore c { k.setQueue p (k.queue p).tail with fabLast := last }
  (s.edges.filter fun e => e.at_ == c && e.kind == .port && e.win == p.code).foldl (init := s) fun s e =>
    match e.party with
    | .task _ t => if (s.slotAt c t).wait = some .again then s.wake c t else s
    | .cmd _ | .unit _ => s

/-! ## Breakpoints and reports -/

/-- Whether a site breakpoint of a core matches an event (R411): kind 0 issue, 1 completion, 2 engine fault, 3 census
entry with a nonzero count. -/
def Core.breaks (k : Core) (ev : Nat) (site : BitVec 46) : Bool :=
  k.dbgctl.getLsbD 0 && k.bks.toList.any fun b =>
    decide (b.toNat / 2 ^ 63 = 1) && decide (b.toNat / 2 ^ 61 % 4 = ev)
      && decide (b.toNat / 2 ^ 16 % 2 ^ 17 = site.toNat / 2 ^ 16 % 2 ^ 17)
      && (decide (b.toNat / 2 ^ 60 % 2 = 0) || decide (b.toNat % 65536 = siteSeq site))

/-- Recording a debug event, which raises vector 4 of the physical function (R410). -/
def State.debugEvent (s : State) (c why : Nat) (site : BitVec 46) : State :=
  let k := s.coreAt c
  (s.setCore c { k with dbgev := BitVec.ofNat 64 (2 ^ 63 + why * 2 ^ 48 + site.toNat) }).raiseMsix 0 4

/-- A slot as a halt or a save in a tick stops it: a waiting operation is abandoned and runs again, the slot runnable
with its stamp set; an instruction held before it issued has not issued (R155, R368, R412). -/
def Slot.halted (sl : Slot) (tick : BitVec 64) : Slot :=
  match sl.status with
  | .waiting => { sl with status := .runnable, wait := none, remote := none, ready := tick, issues := 0 }
  | .free | .bound | .runnable | .trapped =>
    match sl.hold with
    | .release | .limit | .acquire | .rel | .refills _ _ _ | .scan | .stopping | .bank | .meter => { sl with hold := .none }
    | _ => sl

/-- Stopping a slot: a waiting operation's edge goes (R368, R412). -/
def State.stopSlot (s : State) (c t : Nat) : State :=
  let sl := s.slotAt c t
  (if sl.status = .waiting then s.dropEdges (.task c t) else s).setSlot c t (sl.halted s.tick)

/-- Stopping every slot of a core but an excluded one (R368, step 1). -/
def State.stopSlots (s : State) (c : Nat) (excl : Option Nat) : State :=
  (s.coreAt c).slots.foldl (init := s) fun s e => if excl = some e.1 then s else s.stopSlot c e.1

/-- Removing the wait edges of a core's commands and units, which make them again when they run again (R368, R412). -/
def State.dropCmdEdges (s : State) (c : Nat) : State :=
  { s with edges := s.edges.filter fun e =>
      match e.party with
      | .task _ _ => true
      | .cmd _ | .unit _ => decide (e.party.core ≠ c) }

/-- Halting a core: bits of DBGCTL are set, its slots stop, its commands stop at their points (R404, R411, R412). -/
def State.halt (s : State) (c : Nat) (bits : BitVec 4) : State :=
  let k := s.coreAt c
  let stop := match k.stop with
    | .none => CoreStop.halted
    | .saved e => .saved e
    | .halted => .halted
  let mx := { k.mx with run := k.mx.run.map fun r => if cmdOp r.cmd.cmd = 0x24 then { r with stopped := true } else r }
  ((s.setCore c { k with dbgctl := k.dbgctl ||| bits ||| 2, stop := stop, mx := mx, haltTick := s.tick }).stopSlots c none).dropCmdEdges c

/-- A site breakpoint on an event, if one matches (R411). -/
def State.breakpoint (s : State) (c ev : Nat) (site : BitVec 46) : State :=
  if (s.coreAt c).breaks ev site then (s.halt c 8).debugEvent c 2 site else s

/-- The report of an unrecoverable engine fault (R348). -/
def State.engineReport (s : State) (c : Nat) (site : BitVec 46) (p : Option Port) (cls mask : Nat) (detail : Word)
    (va : Addr) : State :=
  let hasVa := decide (cls = 3 ∨ cls = 4)
  s.report (clusterOf c)
    ⟨2, BitVec.ofNat 32 (mask * 256 + cls),
      [site.setWidth 64, detail, if hasVa then va.setWidth 64 else 0,
        if hasVa then BitVec.ofNat 64 (va.toNat / 2 ^ 64) else 0], siteCore site, p⟩

/-! ## The end of a command -/

/-- A command ends: an FRUN or mx command forms its census entry, which is compared and filled in the same tick, before
the done element; the others complete at once (R212, R401, R404, R408). Marked DEDUCED, log 68. -/
def State.endCommand (s : State) (c : Nat) (cmd : Cmd) (p : Port) (fault stop slotSide : Bool) : State :=
  let census := decide (cmdOp cmd.cmd = 0x02) || (match p with
    | .mx => true
    | .fab | .bte | .ring | .pkt => false)
  let s := s.dropEdges (.cmd cmd.site)
  let s := s.releaseClaims (.cmd cmd.site)
  let k := s.coreAt c
  let e : Ended := {
    cmd := cmd
    port := p
    census := census
    cens := if k.cens.v then some k.cens.cwin else none
    replay := k.cens.rpv && census
    compared := !k.cens.rpv || !census
    replayWin := k.cens.rwin
    cseq := k.cens.cseq
    ccore := k.cens.ccore
    formed := s.tick
    fresh := census
    shrinks := false
    mis := false
    fault := fault
    stop := stop
    dw := doneWin cmd.cmd
    slotSide := slotSide }
  if census then
    (s.setCore c { k with ended := k.ended ++ [e] }).soon (if e.compared then .censusEntryFill c else .replayCompare c)
  else
    let s := s.trace c ⟨4, cmd.site, BitVec.ofNat 64 ((if fault then 1 else 0) + (if stop then 2 else 0)), 0, 0, p.code⟩
    let k := s.coreAt c
    ((s.setCore c { k with ended := if e.dw.isSome then k.ended ++ [e] else k.ended }).breakpoint c 1 cmd.site).post
      (.doneElementFill c)

/-- A done element (R212). Marked DEDUCED, log 68. -/
def Ended.doneElem (e : Ended) : Word :=
  BitVec.ofNat 64 ((if e.fault then 2 ^ 63 else 0) + (if e.stop then 2 ^ 62 else 0) + e.cmd.site.toNat)

/-- The edge of a command's fill that finds no room (R27, R212, R402). -/
def cmdFillEdge (c w : Nat) (site : BitVec 46) (retry : Instr) : Edge where
  party := .cmd site
  at_ := c
  kind := .fill
  core := c
  win := w
  level := 0
  arg := 0
  site := site
  retry := some retry
  reported := false

/-- The first ended command that passes a test. -/
def Core.firstEnded (k : Core) (p : Ended → Bool) : Option Ended := k.ended.find? p

/-- Replacing an ended command; without census entry or done element to fill it goes. -/
def Core.putEnded (k : Core) (e : Ended) : Core :=
  { k with ended := (k.ended.map fun x => if x.cmd.site = e.cmd.site then e else x).filter fun x =>
      x.census || x.dw.isSome }

/-- Filling the done elements of a core that are due, first to last; a full window makes one wait, a window that is no
longer fit for one takes none (R212). Marked DEDUCED, log 68. -/
def State.fillDone (s : State) (c : Nat) (e : Ended) : State :=
  let k := s.coreAt c
  match e.dw with
  | none => s
  | some w =>
    let x := k.winAt w
    let go := s.dropRetry (.cmd e.cmd.site) (.doneElementFill c)
    if !x.v || x.esz ≠ 1#4 then go.setCore c (k.putEnded { e with dw := none })
    else if x.held || !k.fillRoom w then s.addEdge (cmdFillEdge c w e.cmd.site (.doneElementFill c))
    else
      let s := go.setCore c (k.putEnded { e with dw := none })
      s.fillWin c w (bytesOf 8 e.doneElem.toNat) e.cmd.site (issuerOf e.cmd.site)

/-- Of the fills that ended commands owe, those whose turn it is where one retry comes: the first of those that wait
with an edge, and those that do not wait yet (R26). -/
def State.turns (s : State) (l : List Ended) (retry : Instr) : List Ended :=
  let waits (e : Ended) : Bool := s.edges.any fun x => x.party == .cmd e.cmd.site && x.retry == some retry
  (l.filter waits).take 1 ++ l.filter fun e => !waits e

/-- The order of census entries: by the tick in which they were formed, and in one tick fab, the compute side of mx, the
slot side (R402). -/
def Ended.order (e : Ended) : Nat := e.formed.toNat * 4 + (if e.port == .fab then 0 else if e.slotSide then 2 else 1)

/-- How long ago a command was issued, in sequence numbers (R280). -/
def Core.cmdAge (k : Core) (x : Cmd) : Nat := (siteSeq x.site + 65536 - k.seq.toNat) % 65536

/-- The completed commands of a core that owe a done element (R212). -/
def Core.owesDone (k : Core) : List Ended := k.ended.filter fun e => !e.census && e.dw.isSome

/-- Filling the done elements of given commands of a core that is not stopped (R212, R291, R315). -/
def State.doneFills (s : State) (c : Nat) (l : List Ended) : State :=
  if (s.coreAt c).stop ≠ .none then s else l.foldl (init := s) fun s e => s.fillDone c e

/-- A done element is filled (R212, R291, R315). -/
def execDoneElementFill (c : Nat) (s : State) : Res :=
  .next (s.doneFills c (s.turns (s.coreAt c).owesDone (.doneElementFill c)))

/-! ## Issue -/

/-- ISS that passed its checks: SEQ advances, and the command joins its port's queue (R209, R280, R282). -/
def State.enqueue (s : State) (c t : Nat) (p : Port) (x : Wide) : State :=
  let k := s.coreAt c
  let site := s.siteOf c t
  let cmd : Cmd := {
    cmd := x
    site := site
    shape := k.shapeOf x
    doneb := 0
    owed := 0
    nan := 0
    inf := 0
    sat := 0
    unf := 0 }
  let s := s.setCore c ({ k with seq := k.seq + 1 }.setQueue p (k.queue p ++ [cmd]))
  let s := (s.trace c ⟨3, site, x.setWidth 64, 0, 0, t⟩).breakpoint c 0 site
  match startOf c x with
  | some i => s.post i
  | none => s

/-- ISS (R75, R79, R209, R280): a full port makes it wait. -/
def issOut (r : BitVec 3) (p : Port) (s : State) : Out :=
  let x := s.me.readK r
  match issueFault (s.coreAt s.cur) s.cur s.me.sup p x with
  | some why => .trap (issueTrap r p why x)
  | none =>
    if 8 ≤ ((s.coreAt s.cur).queue p).length then
      .hold (s.waitMe .again {
        party := .task s.cur s.slot
        at_ := s.cur
        kind := .port
        core := s.cur
        win := p.code
        level := 0
        arg := 0
        site := s.siteOf s.cur s.slot
        retry := none
        reported := false })
    else .done (s.enqueue s.cur s.slot p x)

/-- ISS (R75, R262). -/
def execIss (k : BitVec 3) (p : Port) (s : State) : Res := finish s (released s fun s => issOut k p s)

/-! ## Command registers (R75) -/

/-- KLD: four words of the instruction store, little-endian (R16). -/
def execKld (k : BitVec 3) (i : BitVec 10) (s : State) : Res :=
  finish s (.done (s.setMe (s.me.writeK k
    (BitVec.ofNat 128 (ofBytes ((tgets 0 (s.coreAt s.cur).istore (4 * i.toNat) 4).flatMap fun w =>
      bytesOf 4 w.toNat))))))

/-- KINS (R75). -/
def execKins (k : BitVec 3) (p : BitVec 7) (w : BitVec 6) (z : BitVec 5) (s : State) : Res :=
  finish s (
    let n := w.toNat + 1
    let mask : Wide := BitVec.ofNat 128 ((2 ^ n - 1) * 2 ^ p.toNat)
    .done (s.setMe (s.me.writeK k ((s.me.readK k &&& ~~~mask)
      ||| BitVec.ofNat 128 ((s.me.readG z).toNat % 2 ^ n * 2 ^ p.toNat)))))

/-- KEXT (R75). -/
def execKext (d : BitVec 5) (k : BitVec 3) (p : BitVec 7) (w : BitVec 6) (s : State) : Res :=
  finish s (.done (s.setG d (BitVec.ofNat 64 (cf (s.me.readK k) p.toNat (w.toNat + 1)))))

/-- KMOV (R75). -/
def execKmov (k m : BitVec 3) (s : State) : Res := finish s (.done (s.setMe (s.me.writeK k (s.me.readK m))))

end Sys2Proof.Machine
end

