-- ==== Sys2Proof/Machine/Operands.lean ====
section
/-! DEFINITION. Operand forms: sizes and extensions (R31, R32, R66), immediates (R68), branch offsets (R70, R109),
address offsets (R73, R105), register fields that a REP steps (R112). -/

namespace Sys2Proof.Machine

open Sys2Proof

/-- The width of a size in bits (R31). -/
def sizeBits : Size → Nat
  | .b => 8 | .h => 16 | .w => 32 | .d => 64

/-- The low N bits of a register, as a number (R32). -/
def lowBits (n : Nat) (v : Word) : Nat := v.toNat % 2 ^ n

/-- The two's-complement value of the low N bits (R31). -/
def signedOf (n v : Nat) : Int := if v % 2 ^ n < 2 ^ (n - 1) then (v % 2 ^ n : Nat) else (v % 2 ^ n : Nat) - (2 ^ n : Nat)

/-- Extending an N-bit result to 64 bits (R32). -/
def extend (e : Ext) (n v : Nat) : Word :=
  match e with
  | .z => BitVec.ofNat 64 (v % 2 ^ n)
  | .s => BitVec.ofInt 64 (signedOf n v)

/-- The value of an operand as the major reads it: unsigned or signed (R91). -/
def valueOf (e : Ext) (n v : Nat) : Int :=
  match e with
  | .z => (v % 2 ^ n : Nat)
  | .s => signedOf n v

/-- A signed 16-bit immediate on 64 bits (R68). -/
def sext16 (i : BitVec 16) : Word := i.signExtend 64
/-- A zero-extended 16-bit immediate (R68). -/
def zext16 (i : BitVec 16) : Word := i.setWidth 64

/-- A branch target: the word's own index plus a signed offset (R70, R109). -/
def target (pc : BitVec 12) (o : Int) : Int := (pc.toNat : Int) + o

/-- A register as an 80-bit signed offset (R105). -/
def sext80 (v : Word) : Addr := v.signExtend 80

/-- The byte address of a GLD or GST: the base plus a signed offset counted in elements (R73, R246). -/
def accessAddr (base : Addr) (f : BitVec 11) (n : Nat) : Addr := base + BitVec.ofInt 80 (f.toInt * (n : Int))

/-- The kinds of register a field of a REP target names (R112). -/
inductive RegKind | none | g | a | p
  deriving DecidableEq, Repr

/-- The greatest number of a kind of register (R112). -/
def RegKind.top : RegKind → Nat
  | .none => 0 | .g => 31 | .a => 15 | .p => 7

/-- Which registers the fields d, a and b of a permitted REP target name; none where the word is no permitted target
(R112). -/
def repKinds : Instr → Option (RegKind × RegKind × RegKind)
  | .add _ _ _ _ _ _ | .sub _ _ _ _ _ _ | .mul _ _ _ _ _ _ | .mulh _ _ _ _ _ _ => some (.g, .g, .g)
  | .div _ _ _ _ _ _ | .rem _ _ _ _ _ _ | .and _ _ _ _ _ _ | .or _ _ _ _ _ _ => some (.g, .g, .g)
  | .xor _ _ _ _ _ _ | .shl _ _ _ _ _ _ | .shr _ _ _ _ _ _ | .rot _ _ _ _ _ _ => some (.g, .g, .g)
  | .min _ _ _ _ _ _ | .max _ _ _ _ _ _ | .nop => some (.g, .g, .g)
  | .not _ _ _ _ _ | .clz _ _ _ _ _ | .ctz _ _ _ _ _ | .popc _ _ _ _ _ => some (.g, .g, .none)
  | .brev _ _ _ _ _ | .bswp _ _ _ _ _ | .mov _ _ _ _ _ => some (.g, .g, .none)
  | .addImm _ _ _ | .andImm _ _ _ | .orImm _ _ _ | .xorImm _ _ _ => some (.g, .g, .none)
  | .shlImm _ _ _ | .shrZImm _ _ _ | .shrSImm _ _ _ => some (.g, .g, .none)
  | .movImm _ _ | .movh _ _ _ => some (.g, .none, .none)
  | .cmp _ _ _ _ _ _ => some (.p, .g, .g)
  | .sel _ _ _ _ => some (.g, .g, .g)
  | .bfxZImm _ _ _ _ | .bfxSImm _ _ _ _ | .bfiImm _ _ _ _ => some (.g, .g, .none)
  | .bfxZReg _ _ _ _ | .bfxSReg _ _ _ _ | .bfiReg _ _ _ _ => some (.g, .g, .g)
  | .aaddReg _ _ _ _ | .astep _ _ _ _ => some (.a, .a, .g)
  | .aset _ _ _ _ => some (.a, .g, .g)
  | .aget _ _ _ | .agetH _ _ _ => some (.g, .a, .none)
  | .aaddImm _ _ _ => some (.a, .a, .none)
  | .acmp _ _ _ _ _ => some (.p, .a, .a)
  | .pand _ _ _ _ | .por _ _ _ _ | .pxor _ _ _ _ => some (.p, .p, .p)
  | .pnot _ _ _ => some (.p, .p, .none)
  | .pset _ _ _ => some (.p, .none, .none)
  | .wfill _ _ | .wrd _ _ _ | .wwr _ _ _ => some (.g, .none, .none)
  | .wfillReg _ _ _ => some (.g, .none, .none)
  | .wrdReg _ _ _ _ | .wwrReg _ _ _ _ => some (.g, .g, .none)
  | .wshrReg _ _ _ => some (.none, .g, .none)
  | .wfillRm _ _ _ _ => some (.g, .none, .g)
  | .wrdRm _ _ _ _ _ | .wwrRm _ _ _ _ _ => some (.g, .g, .g)
  | .wshrRm _ _ _ _ => some (.none, .g, .g)
  | .wqryRm _ _ _ _ _ => some (.g, .none, .g)
  | .fadd _ _ _ _ _ _ | .fsub _ _ _ _ _ _ | .fmul _ _ _ _ _ _ | .ffma _ _ _ _ _ _ => some (.g, .g, .g)
  | .fmin _ _ _ _ _ | .fmax _ _ _ _ _ | .fsgn _ _ _ _ _ _ => some (.g, .g, .g)
  | .fcmp _ _ _ _ _ _ => some (.p, .g, .g)
  | .frce _ _ _ | .frsqe _ _ _ | .fclass _ _ _ | .fcvt _ _ _ _ _ _ => some (.g, .g, .none)
  | .gldBZ _ _ _ _ | .gldBS _ _ _ _ | .gldHZ _ _ _ _ | .gldHS _ _ _ _ => some (.g, .a, .none)
  | .gldWZ _ _ _ _ | .gldWS _ _ _ _ | .gldD _ _ _ _ => some (.g, .a, .none)
  | .gstB _ _ _ _ | .gstH _ _ _ _ | .gstW _ _ _ _ | .gstD _ _ _ _ => some (.g, .a, .none)
  | .red _ _ _ _ _ _ _ _ => some (.g, .a, .none)
  | _ => none

/-- The guard of a scalar word, if it has one, and the general registers that it reads or writes (R8, R9, R66 to R76).
-/
def usesOf : Instr → Option Guard × List (BitVec 5)
  | .add _ _ d a b g | .sub _ _ d a b g | .mul _ _ d a b g | .mulh _ _ d a b g => (some g, [d, a, b])
  | .div _ _ d a b g | .rem _ _ d a b g | .and _ _ d a b g | .or _ _ d a b g => (some g, [d, a, b])
  | .xor _ _ d a b g | .shl _ _ d a b g | .shr _ _ d a b g | .rot _ _ d a b g => (some g, [d, a, b])
  | .min _ _ d a b g | .max _ _ d a b g => (some g, [d, a, b])
  | .not _ _ d a g | .clz _ _ d a g | .ctz _ _ d a g | .popc _ _ d a g => (some g, [d, a])
  | .brev _ _ d a g | .bswp _ _ d a g | .mov _ _ d a g => (some g, [d, a])
  | .addImm d a _ | .andImm d a _ | .orImm d a _ | .xorImm d a _ => (none, [d, a])
  | .shlImm d a _ | .shrZImm d a _ | .shrSImm d a _ => (none, [d, a])
  | .movImm d _ | .movh d _ _ | .jal d _ | .loop d _ => (none, [d])
  | .cmp _ _ _ a b g => (some g, [a, b])
  | .sel d a b _ => (none, [d, a, b])
  | .bfxZImm d a _ _ | .bfxSImm d a _ _ | .bfiImm d a _ _ => (none, [d, a])
  | .bfxZReg d a b g | .bfxSReg d a b g | .bfiReg d a b g => (some g, [d, a, b])
  | .aaddReg _ _ b g | .astep _ _ b g => (some g, [b])
  | .aset _ a b g => (some g, [a, b])
  | .aget d _ g | .agetH d _ g => (some g, [d])
  | .br g _ => (some g, [])
  | .jr a g => (some g, [a])
  | .wfill _ z | .wwr _ _ z | .wfilln _ z _ | .wdef _ z => (none, [z])
  | .wrd d _ _ | .wqry d _ _ | .wrdn d _ _ _ => (none, [d])
  | .wfillReg _ z g => (some g, [z])
  | .wrdReg d _ a g => (some g, [d, a])
  | .wwrReg _ a z g => (some g, [a, z])
  | .wshrReg _ a g => (some g, [a])
  | .wfillRm _ c z g => (some g, [c, z])
  | .wrdRm d _ c a g => (some g, [d, c, a])
  | .wwrRm _ c a z g => (some g, [c, a, z])
  | .wshrRm _ c a g => (some g, [c, a])
  | .wqryRm d _ c _ g => (some g, [d, c])
  | .fadd _ _ d a b g | .fsub _ _ d a b g | .fmul _ _ d a b g | .ffma _ _ d a b g => (some g, [d, a, b])
  | .fmin _ d a b g | .fmax _ d a b g | .fsgn _ _ d a b g => (some g, [d, a, b])
  | .fcmp _ _ _ a b g => (some g, [a, b])
  | .frce d a g | .frsqe d a g | .fclass d a g | .fcvt _ _ _ d a g => (some g, [d, a])
  | .gldBZ d _ _ _ | .gldBS d _ _ _ | .gldHZ d _ _ _ | .gldHS d _ _ _ => (none, [d])
  | .gldWZ d _ _ _ | .gldWS d _ _ _ | .gldD d _ _ _ => (none, [d])
  | .gstB z _ _ _ | .gstH z _ _ _ | .gstW z _ _ _ | .gstD z _ _ _ => (none, [z])
  | .red _ _ _ _ _ d _ g => (some g, [d])
  | .amo _ _ _ d _ g => (some g, [d, d + 1])
  | .kins _ _ _ z | .swr _ z | .fpstatWrite z | .repcWrite z | .wdctlWrite z | .trcctlWrite z => (none, [z])
  | .wbkbWrite _ z | .wbksWrite _ z | .tunb z | .tprio z _ | .wpois _ z | .cens _ z => (none, [z])
  | .trcm _ z => (none, [z])
  | .kext d _ _ _ | .srd d _ | .bara d _ _ | .tkn d _ => (none, [d])
  | .barw _ _ z | .barc _ _ z => (none, [z])
  | .spawn z e | .tbind z e => (none, [z, e])
  | .acmp _ _ _ _ g | .pand _ _ _ g | .por _ _ _ g | .pxor _ _ _ g | .pnot _ _ g | .pset _ _ g => (some g, [])
  | _ => (none, [])

/-- The bit at which the d field of a word stands: [21:17] in format FW, [25:21] otherwise (R61, R112). -/
def dPos (w : Code) : Nat := if (majorOf w).toNat = 0x20 then 17 else 21

/-- The target word of a repeat: each stepped field raised by i (R113). -/
def stepWord (w : Code) (sd sa sb : Bool) (i : Nat) : Code :=
  w + BitVec.ofNat 32 ((if sd then i * 2 ^ dPos w else 0) + (if sa then i * 2 ^ 16 else 0)
    + (if sb then i * 2 ^ 11 else 0))

/-- The value of a 5-bit field of a word. -/
def fieldAt (w : Code) (p : Nat) : Nat := w.toNat / 2 ^ p % 32

/-- Whether a stepped field names a register and stays within its kind for n repeats (R112). -/
def stepOk (named : Bool) (k : RegKind) (v n : Nat) : Bool :=
  !named || (k != .none && decide (v + n - 1 ≤ k.top))

/-- Whether a REP of n repeats may run a target word (R112). -/
def repTargetOk (w : Code) (i : Instr) (n : Nat) (sd sa sb : Bool) : Bool :=
  match repKinds i with
  | some (kd, ka, kb) =>
    stepOk sd kd (fieldAt w (dPos w)) n && stepOk sa ka (fieldAt w 16) n && stepOk sb kb (fieldAt w 11) n
  | none => false

end Sys2Proof.Machine
end

