-- ==== Sys2Proof/Machine/Flags.lean ====
section
/-! DEFINITION. The floating-point formats, the flags of FPSTAT and the one rounding (R34 to R46). -/

namespace Sys2Proof.Machine

open Sys2Proof

/-- FPSTAT flags (R46). -/
abbrev Flags := BitVec 6
/-- Invalid operation (R37). -/
def fNV : Flags := 1
/-- Division by zero (R46). -/
def fDZ : Flags := 2
/-- Overflow (R40). -/
def fOF : Flags := 4
/-- Underflow (R46). -/
def fUF : Flags := 8
/-- Inexact (R46). -/
def fNX : Flags := 16
/-- Saturation (R41). -/
def fSAT : Flags := 32

/-- Raising flags in FPSTAT, which is sticky (R47). -/
def Slot.raiseFlags (sl : Slot) (f : Flags) : Slot := { sl with fpstat := sl.fpstat ||| f }

/-- The four formats (R34). -/
inductive Fmt | f32 | bf16 | f16 | e4m3
  deriving DecidableEq, Repr

/-- Bits of a format (R34). -/
def Fmt.width : Fmt → Nat
  | .f32 => 32 | .bf16 => 16 | .f16 => 16 | .e4m3 => 8
/-- Fraction bits (R34). -/
def Fmt.frac : Fmt → Nat
  | .f32 => 23 | .bf16 => 7 | .f16 => 10 | .e4m3 => 3
/-- Exponent bias (R34). -/
def Fmt.bias : Fmt → Nat
  | .f32 => 127 | .bf16 => 127 | .f16 => 15 | .e4m3 => 7
/-- The all-ones exponent (R34). -/
def Fmt.ones : Fmt → Nat
  | .f32 => 255 | .bf16 => 255 | .f16 => 31 | .e4m3 => 15
/-- The canonical NaN (R36). -/
def Fmt.nan : Fmt → Nat
  | .f32 => 0x7FC00000 | .bf16 => 0x7FC0 | .f16 => 0x7E00 | .e4m3 => 0x7F
/-- The magnitude pattern of infinity; for E4M3, of the NaN above the largest finite value (R34, R35). -/
def Fmt.infMag (f : Fmt) : Nat :=
  match f with
  | .f32 => 0x7F800000 | .bf16 => 0x7F80 | .f16 => 0x7C00 | .e4m3 => 0x7F
/-- The sign bit's weight. -/
def Fmt.signBit (f : Fmt) : Nat := 2 ^ (f.width - 1)

/-- A decoded value: NaN (signalling or not), an infinity, or (−1)^s × m × 2^e (R35). -/
inductive FVal
  | nan (signalling : Bool)
  | inf (s : Bool)
  | num (s : Bool) (m : Nat) (e : Int)
  deriving DecidableEq, Repr

/-- Decoding a pattern (R35, R37). -/
def Fmt.decode (f : Fmt) (n : Nat) : FVal :=
  let s := decide (n / f.signBit % 2 = 1)
  let mag := n % f.signBit
  let e := mag / 2 ^ f.frac
  let fr := mag % 2 ^ f.frac
  match f with
  | .e4m3 =>
    if mag = 0x7F then .nan false
    else if e = 0 then .num s fr (-9) else .num s (8 + fr) ((e : Int) - 10)
  | .f32 | .bf16 | .f16 =>
    if e = f.ones then (if fr = 0 then .inf s else .nan (decide (fr < 2 ^ (f.frac - 1))))
    else if e = 0 then .num s fr (1 - (f.bias : Int) - f.frac)
    else .num s (2 ^ f.frac + fr) ((e : Int) - f.bias - f.frac)

/-- Whether a value is a NaN. -/
def FVal.isNan : FVal → Bool
  | .nan _ => true
  | .inf _ | .num _ _ _ => false
/-- Whether a value is a signalling NaN (R37). -/
def FVal.isSnan : FVal → Bool
  | .nan x => x
  | .inf _ | .num _ _ _ => false
/-- Whether a value is finite. -/
def FVal.isFinite : FVal → Bool
  | .num _ _ _ => true
  | .nan _ | .inf _ => false
/-- The sign of a value. -/
def FVal.sign : FVal → Bool
  | .num s _ _ => s
  | .inf s => s
  | .nan _ => false
/-- Whether a value is a zero. -/
def FVal.isZero : FVal → Bool
  | .num _ m _ => m == 0
  | .nan _ | .inf _ => false

/-- Whether rounding a remainder goes away from zero (R39): `rem` of `den`, the quotient odd or not. -/
def roundsUp (r : Rnd) (s odd : Bool) (rem den : Nat) : Bool :=
  match r with
  | .rne => decide (den < 2 * rem) || (decide (2 * rem = den) && odd)
  | .rz => false
  | .ru => !s && decide (rem ≠ 0)
  | .rd => s && decide (rem ≠ 0)

/-- Rounding m × 2^e to a multiple of 2^q: the multiple and whether it is inexact (R39). -/
def roundTo (r : Rnd) (s : Bool) (m : Nat) (e q : Int) : Nat × Bool :=
  if q ≤ e then (m * 2 ^ (e - q).toNat, false)
  else
    let den := 2 ^ (q - e).toNat
    let n := m / den
    let rem := m % den
    (if roundsUp r s (n % 2 = 1) rem den then n + 1 else n, decide (rem ≠ 0))

/-- The magnitude an overflow gives (R40): infinity or the largest finite value. -/
def overflowMag (f : Fmt) (r : Rnd) (s : Bool) : Nat :=
  match r with
  | .rne => f.infMag
  | .rz => f.infMag - 1
  | .ru => if s then f.infMag - 1 else f.infMag
  | .rd => if s then f.infMag else f.infMag - 1

/-- The pattern of a sign and a magnitude. -/
def Fmt.pack (f : Fmt) (s : Bool) (mag : Nat) : Nat := if s then f.signBit + mag else mag

/-- The magnitude pattern that a nonzero m × 2^e rounds to with unbounded exponent, and whether it is inexact: results
below the smallest normal round at the subnormal spacing (R39). -/
def Fmt.roundMag (f : Fmt) (r : Rnd) (s : Bool) (m : Nat) (e : Int) : Nat × Bool :=
  let lead := e + Nat.log2 m
  let q := max (lead - f.frac) (1 - (f.bias : Int) - f.frac)
  let n := roundTo r s m e q
  (((q + f.frac + f.bias - 1).toNat * 2 ^ f.frac) + n.1, n.2)

/-- Rounding an exact value into a format with its flags; E4M3 saturates (R39, R40, R41, R46). -/
def Fmt.round (f : Fmt) (r : Rnd) (s : Bool) (m : Nat) (e : Int) : Nat × Flags :=
  if m = 0 then (f.pack s 0, 0)
  else
    let n := f.roundMag r s m e
    match f with
    | .e4m3 =>
      if 0x7E < n.1 then (f.pack s 0x7E, fSAT ||| fNX)
      else (f.pack s n.1, (if n.2 then fNX else 0) ||| (if n.1 < 2 ^ f.frac then fUF else 0))
    | .f32 | .bf16 | .f16 =>
      if f.infMag ≤ n.1 then (f.pack s (overflowMag f r s), fOF ||| fNX)
      else (f.pack s n.1, (if n.2 then fNX else 0) ||| (if n.1 < 2 ^ f.frac then fUF else 0))

/-- The invalid flag of an operation that receives these operands (R37). -/
def snanFlag (xs : List FVal) : Flags := if xs.any FVal.isSnan then fNV else 0

/-- Converting a value into a format (R41, R44, R45); a NaN becomes the canonical NaN. -/
def Fmt.convert (f : Fmt) (r : Rnd) (v : FVal) : Nat × Flags :=
  match v with
  | .nan x => (f.nan, if x then fNV else 0)
  | .inf s =>
    match f with
    | .e4m3 => (f.pack s 0x7E, fSAT)
    | .f32 | .bf16 | .f16 => (f.pack s f.infMag, 0)
  | .num s m e => f.round r s m e

/-- Converting a value to an integer of a range by a mode: the integer, its flags (R42). -/
def toInteger (r : Rnd) (lo hi : Int) (v : FVal) : Int × Flags :=
  match v with
  | .nan _ => (0, fNV)
  | .inf s => (if s then lo else hi, fNV)
  | .num s m e =>
    let n := roundTo r s m e 0
    let i : Int := if s then -(n.1 : Int) else n.1
    if i < lo then (lo, fNV) else if hi < i then (hi, fNV) else (i, if n.2 then fNX else 0)

/-- Converting an integer into a format by a mode (R43). -/
def Fmt.ofInteger (f : Fmt) (r : Rnd) (i : Int) : Nat × Flags := f.round r (decide (i < 0)) i.natAbs 0

end Sys2Proof.Machine
end

