-- ==== Sys2Proof/Machine/Float.lean ====
section
/-! DEFINITION. Floating-point operations: exact arithmetic with one rounding, comparisons and estimates (R36 to R45,
R128 to R134), used by the scalar instructions, reductions, the fabric and the matrix unit. -/

namespace Sys2Proof.Machine

open Sys2Proof

/-- The signed integer of a finite value over 2^q, for q at or below its exponent. -/
def FVal.scaled (x : FVal) (q : Int) : Int :=
  match x with
  | .num s m e => (if s then -1 else 1) * (m * 2 ^ (e - q).toNat : Nat)
  | .inf _ | .nan _ => 0

/-- The exponent of a finite value. -/
def FVal.exp (x : FVal) : Int :=
  match x with
  | .num _ _ e => e
  | .inf _ | .nan _ => 0

/-- Comparing two values that are not NaNs: negative, zero or positive (R131). -/
def FVal.cmp (x y : FVal) : Int :=
  match x, y with
  | .inf s, .inf t => if s = t then 0 else if s then -1 else 1
  | .inf s, _ => if s then -1 else 1
  | _, .inf t => if t then 1 else -1
  | _, _ =>
    let q := min x.exp y.exp
    x.scaled q - y.scaled q

/-- Changing the sign of a value. -/
def FVal.negate (x : FVal) : FVal :=
  match x with
  | .num s m e => .num (!s) m e
  | .inf s => .inf (!s)
  | .nan q => .nan q

/-- The exact product of two values that are not NaNs; none for 0 × ∞ (R37, R38). -/
def FVal.mul (x y : FVal) : Option FVal :=
  match x, y with
  | .num s m e, .num t n f => some (.num (s != t) (m * n) (e + f))
  | .inf s, .num t n _ => if n = 0 then none else some (.inf (s != t))
  | .num s m _, .inf t => if m = 0 then none else some (.inf (s != t))
  | .inf s, .inf t => some (.inf (s != t))
  | .nan _, _ | _, .nan _ => none

/-- Rounding the exact sum of two values that are not NaNs (R38, R128). -/
def Fmt.sum (f : Fmt) (r : Rnd) (x y : FVal) : Nat × Flags :=
  match x, y with
  | .inf s, .inf t => if s = t then (f.pack s f.infMag, 0) else (f.nan, fNV)
  | .inf s, _ => (f.pack s f.infMag, 0)
  | _, .inf t => (f.pack t f.infMag, 0)
  | _, _ =>
    let q := min x.exp y.exp
    let i := x.scaled q + y.scaled q
    if i = 0 then (f.pack (if x.sign = y.sign then x.sign else r == .rd) 0, 0)
    else f.round r (decide (i < 0)) i.natAbs q

/-- Rounding an exact value that is not a NaN; an infinity stays one. -/
def Fmt.roundVal (f : Fmt) (r : Rnd) (x : FVal) : Nat × Flags :=
  match x with
  | .num s m e => f.round r s m e
  | .inf s => (f.pack s f.infMag, 0)
  | .nan _ => (f.nan, 0)

/-- a + b on patterns (R128). -/
def Fmt.add (f : Fmt) (r : Rnd) (a b : Nat) : Nat × Flags :=
  let x := f.decode a
  let y := f.decode b
  if x.isNan || y.isNan then (f.nan, snanFlag [x, y]) else f.sum r x y

/-- a − b on patterns (R128). -/
def Fmt.sub (f : Fmt) (r : Rnd) (a b : Nat) : Nat × Flags :=
  let x := f.decode a
  let y := f.decode b
  if x.isNan || y.isNan then (f.nan, snanFlag [x, y]) else f.sum r x y.negate

/-- a × b on patterns (R128). -/
def Fmt.mul (f : Fmt) (r : Rnd) (a b : Nat) : Nat × Flags :=
  let x := f.decode a
  let y := f.decode b
  if x.isNan || y.isNan then (f.nan, snanFlag [x, y])
  else
    match x.mul y with
    | some p => f.roundVal r p
    | none => (f.nan, fNV)

/-- a × b + d on patterns, rounded once; the invalid rows come before the NaN row (R128). -/
def Fmt.fma (f : Fmt) (r : Rnd) (a b d : Nat) : Nat × Flags :=
  let x := f.decode a
  let y := f.decode b
  let z := f.decode d
  if x.isSnan || y.isSnan || z.isSnan then (f.nan, fNV)
  else if x.isNan || y.isNan then (f.nan, 0)
  else
    match x.mul y with
    | none => (f.nan, fNV)
    | some p => if z.isNan then (f.nan, 0) else f.sum r p z

/-- Whether x comes before y for a minimum: smaller, or −0 before +0 (R129). -/
def FVal.below (x y : FVal) : Bool := decide (x.cmp y < 0) || (decide (x.cmp y = 0) && x.sign && !y.sign)

/-- FMIN or FMAX on patterns: an operand unchanged (R129). -/
def Fmt.minMax (f : Fmt) (max : Bool) (a b : Nat) : Nat × Flags :=
  let x := f.decode a
  let y := f.decode b
  let v :=
    if x.isNan then (if y.isNan then f.nan else b)
    else if y.isNan then a
    else if max then (if x.below y then b else a)
    else (if y.below x then b else a)
  (v, snanFlag [x, y])

/-- FSGN on patterns (R130). -/
def Fmt.sgn (f : Fmt) (o : SgnOp) (a b : Nat) : Nat × Flags :=
  let x := f.decode a
  let sa := decide (a / f.signBit % 2 = 1)
  let sb := decide (b / f.signBit % 2 = 1)
  let s := match o with
    | .cp => sb
    | .neg => !sb
    | .xor => sa != sb
  (if x.isNan then f.nan else f.pack s (a % f.signBit), snanFlag [x, f.decode b])

/-- FCMP on patterns (R131). -/
def Fmt.cmp (f : Fmt) (c : FCond) (a b : Nat) : Bool × Flags :=
  let x := f.decode a
  let y := f.decode b
  let nan := x.isNan || y.isNan
  (match c with
    | .eq => !nan && decide (x.cmp y = 0)
    | .lt => !nan && decide (x.cmp y < 0)
    | .le => !nan && decide (x.cmp y ≤ 0)
    | .un => nan, snanFlag [x, y])

/-- The FP32 result of an estimate n × 2^q, at most 12 significant bits, n nonzero (R132). -/
def estimate (s : Bool) (n : Nat) (q : Int) : Nat × Flags :=
  let lead := q + Nat.log2 n
  let g := roundTo .rne s n q (lead - 11)
  let m := Fmt.f32.roundMag .rne s g.1 (lead - 11)
  if Fmt.f32.infMag ≤ m.1 then (Fmt.f32.pack s Fmt.f32.infMag, fOF ||| fNX)
  else (Fmt.f32.pack s m.1, (if g.2 then fNX else 0) ||| (if m.1 < 2 ^ 23 then fUF else 0))

/-- FRCE on an FP32 pattern (R132). The quotient keeps 41 bits and a sticky bit. -/
def frceVal (a : Nat) : Nat × Flags :=
  match Fmt.f32.decode a with
  | .nan q => (Fmt.f32.nan, if q then fNV else 0)
  | .inf s => (Fmt.f32.pack s 0, 0)
  | .num s m e =>
    if m = 0 then (Fmt.f32.pack s Fmt.f32.infMag, fDZ)
    else
      let k := Nat.log2 m + 40
      estimate s (2 * (2 ^ k / m) + (if 2 ^ k % m = 0 then 0 else 1)) (-(k : Int) - 1 - e)

/-- The integer square root, bit by bit from bit b − 1 down. -/
def isqrtFrom (b r n : Nat) : Nat :=
  match b with
  | 0 => r
  | b + 1 => if (r + 2 ^ b) * (r + 2 ^ b) ≤ n then isqrtFrom b (r + 2 ^ b) n else isqrtFrom b r n

/-- The integer square root. -/
def isqrt (n : Nat) : Nat := isqrtFrom (Nat.log2 n / 2 + 1) 0 n

/-- FRSQE on an FP32 pattern (R133). -/
def frsqeVal (a : Nat) : Nat × Flags :=
  match Fmt.f32.decode a with
  | .nan q => (Fmt.f32.nan, if q then fNV else 0)
  | .inf s => if s then (Fmt.f32.nan, fNV) else (0, 0)
  | .num s m e =>
    if m = 0 then (Fmt.f32.pack s Fmt.f32.infMag, fDZ)
    else if s then (Fmt.f32.nan, fNV)
    else
      let odd := decide (e % 2 = 1)
      let m := if odd then 2 * m else m
      let e := if odd then e - 1 else e
      let k := Nat.log2 m / 2 + 40
      let n := isqrt (2 ^ (2 * k) / m)
      estimate false (2 * n + (if n * n * m = 2 ^ (2 * k) then 0 else 1)) (-(k : Int) - 1 - e / 2)

/-- FCLASS of an FP32 pattern: one bit (R134). -/
def fclassVal (a : Nat) : Nat :=
  let normal := decide (2 ^ 23 ≤ a % 2 ^ 31)
  match Fmt.f32.decode a with
  | .nan q => if q then 256 else 512
  | .inf s => if s then 1 else 128
  | .num s m _ =>
    if m = 0 then (if s then 8 else 16)
    else if normal then (if s then 2 else 64)
    else (if s then 4 else 32)

end Sys2Proof.Machine
end

