-- ==== Sys2Proof/Machine/Engines.lean ====
section
/-! DEFINITION. What the engines share: when a port's engines run while a core is being stopped (R343, R368, R412), reads
of windows by commands (R24, R29, R244, R297), and the end of a command in a fault (R348, R351). -/

namespace Sys2Proof.Machine

open Sys2Proof

/-- Whether every slot of a core but an excluded one stands at its stop point (R343, step 1 of R368). -/
def Core.slotsStopped (k : Core) (excl : Option Nat) : Bool :=
  k.slots.all fun e => excl == some e.1
    || (e.2.hold == .none && e.2.status != .waiting && e.2.loads.isEmpty && e.2.tkns.isEmpty && !e.2.killing)

/-- Whether the ports of a core run: they stop once its slots have (step 2 of R368), and at once at a halt (R412). -/
def Core.portsRun (k : Core) : Bool :=
  match k.stop with
  | .none => true
  | .saved e => !k.slotsStopped e
  | .halted => false

/-- What a command's read of a window comes to. -/
inductive EngRead
  | wait
  | fault (cls : Nat) (detail : Word)
  | ready (base : Nat)
  deriving DecidableEq, Repr

/-- The detail of a poison record that a command's read meets (R348, R352). -/
def poisonDetail (x : Win) : Word := BitVec.ofNat 64 (x.wpsClass.toNat * 2 ^ 46 + x.wpsSite.toNat)

/-- A read at offset o of window w by a command, of an element size it accepts if it asks for one: the byte address of
the element in the window store (R23, R29, R348, R363, R433). -/
def Core.engRead (k : Core) (w o : Nat) (esz : Option (BitVec 4)) : EngRead :=
  let x := k.winAt w
  let arg := BitVec.ofNat 32 o
  if x.held then .wait
  else if !x.v then .fault 6 (winFaultArg x w .read false arg 1)
  else if esz.any (· != x.esz) then .fault 6 (winFaultArg x w .read false arg 7)
  else if x.cap.toNat ≤ o then .fault 6 (winFaultArg x w .read false arg 4)
  else if x.poisonedAt o then .fault 5 (poisonDetail x)
  else if o < x.ext then .ready (x.addr o)
  else .wait

/-- The wait edge of a command's read (R27, R297). -/
def cmdReadEdge (c w o : Nat) (site : BitVec 46) (retry : Instr) : Edge where
  party := .cmd site
  at_ := c
  kind := .read
  core := c
  win := w
  level := 0
  arg := BitVec.ofNat 32 o
  site := site
  retry := some retry
  reported := false

/-- The wait edge of a command's shrink of a held window (R27, R363). -/
def cmdShrinkEdge (c w n : Nat) (site : BitVec 46) (retry : Instr) : Edge :=
  { cmdReadEdge c w n site retry with kind := .other }

/-- A command shrinks a window by n: it waits at a held window, meets the faults of R23, or goes on with the window
shrunk (R23, R27, R28, R363). -/
def State.cmdShrink (s : State) (c w n : Nat) (site : BitVec 46) (retry : Instr) (fail : Word → State)
    (go : State → State) : State :=
  let x := s.winAt c w
  match x.judge .shrink n with
  | .wait => s.addEdge (cmdShrinkEdge c w n site retry)
  | .fault why => fail (winFaultArg x w .shrink false (BitVec.ofNat 32 n) why)
  | .proceed | .poison => go ((s.dropRetry (.cmd site) retry).shrinkWin c w n site (issuerOf site))

/-- Poisoning the windows a failed command fills, each at its FILL (R351). Marked DEDUCED, log 36. -/
def State.poisonAll (s : State) (c : Nat) (ws : List Nat) (cls : Nat) (site : BitVec 46) (detail : Word) : State :=
  ws.foldl (init := s) fun s w => s.setPoison c w (s.winAt c w).fill (BitVec.ofNat 8 cls) site detail

/-- Those of a list of windows that a fault now poisons, each at its FILL (R348, R351). -/
def Core.newlyPoisoned (k : Core) (ws : List Nat) : List Nat := ws.filter fun w => (k.winAt w).poisons (k.winAt w).fill

/-- The mask of a list of windows (R348). -/
def winMask (ws : List Nat) : Nat := (List.range 16).foldl (init := 0) fun n w => if ws.contains w then n + 2 ^ w else n

/-- A command of core c ends in an unrecoverable fault: its targets at this core are poisoned, the report is posted, the
done element carries bit 63 (R348, R351). Marked DEDUCED, log 36. Marked DEDUCED, log 41. -/
def State.failCommand (s : State) (c : Nat) (cmd : Cmd) (p : Port) (ws : List Nat) (cls : Nat) (detail : Word)
    (va : Addr) (slotSide : Bool) : State :=
  let mask := winMask ((s.coreAt c).newlyPoisoned ws)
  let s := s.poisonAll c ws cls cmd.site detail
  let s := s.setCore c { s.coreAt c with stuck := p :: (s.coreAt c).stuck }
  (s.engineReport c cmd.site (some p) cls mask detail va).endCommand c cmd p true false slotSide

/-- The head of a port's queue, if it is a command of an opcode, the port runs, no report of a fault of its engine waits
for room, and no entry formed in this tick is still to be judged that may halt the core (R60, R209, R345, R404, R411).
Marked DEDUCED, log 41. -/
def Core.headOf (k : Core) (p : Port) (op : Nat) : Option Cmd :=
  let judging := k.ended.any fun e => e.fresh && (e.replay || k.dbgctl.getLsbD 0)
  if k.portsRun && !k.stuck.contains p && !judging then
    match k.queue p with
    | x :: _ => if cmdOp x.cmd = op then some x else none
    | [] => none
  else none

/-- A count of census events with more added, which stops at its top (R48). -/
def addCount (c n : Nat) : Nat := min 0xFFFFFFFF (c + n)

/-- The census events of one result (R48). -/
structure Events where
  nan : Bool
  inf : Bool
  sat : Bool
  unf : Bool
  deriving DecidableEq, Repr

/-- Counting the events of a result in its command (R48). -/
def Cmd.tally (x : Cmd) (e : Events) : Cmd :=
  { x with
    nan := if e.nan then addCount x.nan 1 else x.nan
    inf := if e.inf then addCount x.inf 1 else x.inf
    sat := if e.sat then addCount x.sat 1 else x.sat
    unf := if e.unf then addCount x.unf 1 else x.unf }

/-- A rounding mode of a 2-bit field (R39). -/
def rndOf (n : Nat) : Rnd :=
  match n with
  | 0 => .rne | 1 => .rz | 2 => .ru | _ => .rd

/-- The events of a result of a format with its flags; `fin` says that every operand was finite (R48).
Marked DEDUCED, log 67. -/
def fpEvents (f : Fmt) (v : Nat) (fl : Flags) (fin : Bool) : Events where
  nan := (f.decode v).isNan
  inf := fin && (match f.decode v with
    | .inf _ => true
    | .num _ _ _ | .nan _ => false)
  sat := fl.getLsbD 5
  unf := fl.getLsbD 3 || (match f.decode v with
    | .num _ m _ => decide (m ≠ 0 ∧ m < 2 ^ f.frac)
    | .inf _ | .nan _ => false)

end Sys2Proof.Machine
end

