-- ==== Sys2Proof/Machine/Bte.lean ====
section
/-! DEFINITION. The block-transfer engine (R279 to R294). -/

namespace Sys2Proof.Machine

open Sys2Proof

/-- An engine slot of a core. -/
def Core.bteAt (k : Core) (e : Nat) : Option BteRun := k.bte.toList.getD e none
/-- Replacing an engine slot of a core. -/
def State.setBte (s : State) (c e : Nat) (r : Option BteRun) : State :=
  s.setCore c { s.coreAt c with bte := (s.coreAt c).bte.setIfInBounds e r }

/-- A command as it starts, or starts again at its DONEB (R292). -/
def BteRun.start (x : Cmd) (shrunk : Nat) : BteRun where
  cmd := x
  issued := x.doneb.toNat
  got := []
  acked := []
  index := []
  shrunk := shrunk
  pending := []
  flight := 0
  hold := false
  failing := none

/-- KEEP (R287). -/
def bteKeep (x : Wide) : Bool := cmdMod x 0
/-- Whether a command fills a window of this core from its stream. -/
def fillsHere (x : Wide) : Bool := decide (cmdOp x = 0x41 ∨ cmdOp x = 0x44)
/-- Whether a command reads its stream from a source window. -/
def readsSource (x : Wide) : Bool := decide (cmdOp x = 0x42 ∨ cmdOp x = 0x43 ∨ cmdOp x = 0x45 ∨ cmdOp x = 0x46)
/-- Whether a command writes its stream to global memory. -/
def writesGlobal (x : Wide) : Bool := decide (cmdOp x = 0x42 ∨ cmdOp x = 0x45 ∨ cmdOp x = 0x46)
/-- Whether a command uses an index window. -/
def usesIndex (x : Wide) : Bool := decide (cmdOp x = 0x44 ∨ cmdOp x = 0x45)
/-- Target core of a WTW (R287). -/
def wtwCore (x : Wide) : Nat := cf x 32 13

/-- T of a command (R284, R287). -/
def Cmd.total (x : Cmd) : Nat := streamBytes x.cmd x.shape

/-- The window a command fills from its stream, with its core (R281). -/
def fillTarget (c : Nat) (x : Wide) : Option (Nat × Nat) :=
  if fillsHere x then some (c, cmdDstw x)
  else if cmdOp x = 0x43 then some (wtwCore x, cmdDstw x) else none

/-- The windows a command shrinks (R281, R286, R288). -/
def shrinkTargets (x : Wide) : List Nat :=
  if bteKeep x then []
  else (if readsSource x then [cmdSrcw x] else []) ++ (if usesIndex x then [cf x 112 4] else [])

/-- Whether a running command holds a later one (R281). -/
def BteRun.holds (r : BteRun) (c : Nat) (x : Wide) : Bool :=
  ((fillTarget c x).isSome && fillTarget c r.cmd.cmd == fillTarget c x && decide (r.cmd.doneb.toNat < r.cmd.total))
    || (shrinkTargets r.cmd.cmd).any fun w => (shrinkTargets x).contains w

/-- The engine slot a head of the port may start in (R281). -/
def Core.bteSlot (k : Core) (c : Nat) (x : Wide) : Option Nat :=
  if k.bte.toList.any fun r => r.any fun r => r.holds c x then none
  else leastBelow (fun e => (k.bteAt e).isNone) 4

/-- Starting the head of the bte port, of an opcode (R60, R281); one that a stop cut off goes on at its DONEB, with the
shrinks it still owes (R292). -/
def State.bteStart (s : State) (c op : Nat) : State :=
  let k := s.coreAt c
  match k.headOf .bte op with
  | none => s
  | some x =>
    match k.bteSlot c x.cmd with
    | none => s
    | some e =>
      let shrunk := if readsSource x.cmd && !bteKeep x.cmd then
        x.doneb.toNat / (k.winAt (cmdSrcw x.cmd)).esize - x.owed else 0
      ((s.takeHead c .bte).setBte c e (some (BteRun.start x shrunk))).post (.bteRequestIssue c e)

/-- GTW starts (R281, R288). -/
def execGtw (c : Nat) (s : State) : Res := .next (s.bteStart c 0x41)
/-- WTG starts (R281, R289). -/
def execWtg (c : Nat) (s : State) : Res := .next (s.bteStart c 0x42)
/-- WTW starts (R281, R288). -/
def execWtw (c : Nat) (s : State) : Res := .next (s.bteStart c 0x43)
/-- GATH starts (R281, R288). -/
def execGath (c : Nat) (s : State) : Res := .next (s.bteStart c 0x44)
/-- SCAT starts (R281, R289). -/
def execScat (c : Nat) (s : State) : Res := .next (s.bteStart c 0x45)
/-- GREDW starts (R281, R289). -/
def execGredw (c : Nat) (s : State) : Res := .next (s.bteStart c 0x46)

/-! ## Addresses (R284, R288) -/

/-- The address of stream byte t, if it is in bounds; rows of GATH and SCAT stand where their index says. -/
def BteRun.byteAddr (r : BteRun) (t : Nat) : Option Addr :=
  let ws := r.cmd.shape
  let x := r.cmd.cmd
  let base : Int := cf x 32 80
  let b0 := t % shN0 ws
  let b1 := t / shN0 ws % shN1 ws
  let b2 := t / (shN0 ws * shN1 ws)
  let x0 : Int := shs ws 104 24 + b0
  if ¬ (0 ≤ x0 ∧ x0 < shf ws 40 24) then none
  else if usesIndex x then
    let i := (r.index.getD (t / shN0 ws) 0).toNat
    if i < shf ws 176 16 then some (BitVec.ofInt 80 (base + x0 + i * shs ws 0 40)) else none
  else
    let x1 : Int := shs ws 208 24 + b1
    let x2 : Int := shs ws 232 24 + b2
    if 0 ≤ x1 ∧ x1 < shf ws 176 16 ∧ 0 ≤ x2 ∧ x2 < shf ws 192 16 then
      some (BitVec.ofInt 80 (base + x0 + x1 * shs ws 0 40 + x2 * shs ws 64 40))
    else none

/-- Whether the address of stream byte t can be formed: the index of its row has been read (R288). -/
def BteRun.known (r : BteRun) (t : Nat) : Bool := !usesIndex r.cmd.cmd || decide (t / shN0 r.cmd.shape < r.index.length)

/-- The bytes after stream byte t that go into one request with it, at most n of them (R281). -/
def BteRun.runFrom (r : BteRun) (a : Addr) (t : Nat) (n : Nat) : Nat :=
  match n with
  | 0 => 0
  | n + 1 =>
    match r.byteAddr (t + 1) with
    | some b => if r.known (t + 1) ∧ b = a + 1 ∧ b.toNat / 64 = a.toNat / 64 ∧ t + 1 < r.cmd.total then r.runFrom b (t + 1) n + 1 else 0
    | none => 0

/-- The bytes after stream byte t that are out of bounds with it, at most n of them. -/
def BteRun.outFrom (r : BteRun) (t n : Nat) : Nat :=
  match n with
  | 0 => 0
  | n + 1 => if r.known (t + 1) ∧ (r.byteAddr (t + 1)).isNone ∧ t + 1 < r.cmd.total then r.outFrom (t + 1) n + 1 else 0

/-- The row of GATH and SCAT that stream byte t stands in. -/
def BteRun.row (r : BteRun) (t : Nat) : Nat := t / shN0 r.cmd.shape

/-! ## Streams of bytes -/

/-- The bytes that stand from a place on without a gap. -/
def contiguous (m : Table (List Byte)) (at_ : Nat) : List Byte :=
  match m with
  | [] => []
  | (k, bs) :: r => if k = at_ then bs ++ contiguous r (at_ + bs.length) else []

/-- Removing n bytes from the place at the front. -/
def dropFront (m : Table (List Byte)) (n : Nat) : Table (List Byte) :=
  match m with
  | [] => []
  | (k, bs) :: r =>
    if n = 0 then (k, bs) :: r
    else if bs.length ≤ n then dropFront r (n - bs.length)
    else (k + n, bs.drop n) :: r

/-- Where the written bytes from a place on end. -/
def ackedEnd (m : Table Nat) (at_ : Nat) : Nat :=
  match m with
  | [] => at_
  | (k, n) :: r => if k = at_ then ackedEnd r (at_ + n) else at_

/-- A command's claimable access (R281, R289). -/
def bteAcc (s : State) (c e : Nat) (r : BteRun) (op : AccOp) (va : Addr) (n tag : Nat) (write : Bool) : Acc where
  id := 0
  core := c
  holder := .cmd r.cmd.site
  site := r.cmd.site
  op := op
  va := va
  size := n
  code := if write then 5 else 4
  rel := false
  acq := false
  after := (s.accs.filter fun a =>
    a.holder == .cmd r.cmd.site && write && decide (a.va.toNat < va.toNat + n)
      && decide (va.toNat < a.va.toNat + a.size)).map Acc.id
  dest := .engine e tag
  stage := .lookup
  asid := 0
  pa := 0
  level := 0
  clg := 0
  repc := 0
  data := []

/-! ## Faults (R293, R294) -/

/-- The accesses of a command that ends in a fault: its reads, and its writes that have not gone to their slice, are
abandoned. Marked DEDUCED, log 83. -/
def State.abandonReads (s : State) (site : BitVec 46) : State :=
  { s with accs := s.accs.filter fun (a : Acc) =>
      !(a.holder == .cmd site && (a.op == .load || (a.stage != .translated && a.stage != .performed))) }

/-- Whether an access of a command is in flight. -/
def State.cmdBusy (s : State) (site : BitVec 46) : Bool := s.accs.any fun a => a.holder == .cmd site

/-- A block transfer ends in an unrecoverable fault (R294, R348, R351): the window it fills is poisoned. -/
def State.bteEnd (s : State) (c e : Nat) (r : BteRun) (cls : Nat) (detail : Word) (va : Addr) : State :=
  let s := s.setBte c e none
  match fillTarget c r.cmd.cmd with
  | some (d, w) =>
    if d = c then s.failCommand c r.cmd .bte [w] cls detail va false
    else (s.poisonAll d [w] cls r.cmd.site detail).failCommand c r.cmd .bte [] cls detail va false
  | none => s.failCommand c r.cmd .bte [] cls detail va false

/-- Whether a command has source elements it has delivered and not shrunk yet, bytes that came back in this tick among
them (R286). -/
def State.owesShrink (s : State) (c : Nat) (r : BteRun) : Bool :=
  readsSource r.cmd.cmd && !bteKeep r.cmd.cmd
    && decide (ackedEnd r.acked r.cmd.doneb.toNat / (s.winAt c (cmdSrcw r.cmd.cmd)).esize ≠ r.shrunk)

/-- A block transfer meets an unrecoverable fault: it makes no further access, and ends once its writes in flight are
performed and the source elements it has wholly delivered are shrunk, so that all of them and its claims come before any
observation of its end (R261, R268, R294). Marked DEDUCED, log 83. -/
def State.bteFail (s : State) (c e : Nat) (r : BteRun) (cls : Nat) (detail : Word) (va : Addr) : State :=
  if r.failing.isSome then s
  else
    let s := (s.abandonReads r.cmd.site).dropEdges (.cmd r.cmd.site)
    if s.cmdBusy r.cmd.site || s.owesShrink c r then
      s.setBte c e (some { r with failing := some (cls, detail, va), got := [], pending := [], hold := false })
    else s.bteEnd c e r cls detail va

/-- A block transfer waits on a window. -/
def State.bteWait (s : State) (c e : Nat) (r : BteRun) (edge : Edge) : State := (s.setBte c e (some r)).addEdge edge

/-- A block transfer goes on where a step of it was tried: the wait of that step ends. -/
def State.bteGo (s : State) (c e : Nat) (retry : Instr) (r : BteRun) : State :=
  (s.dropRetry (.cmd r.cmd.site) retry).setBte c e (some r)

/-- What the next source bytes come to; `behind` says that they stand beyond what the command has shrunk by CAP elements
or more while elements before them are still to be delivered (R286). -/
inductive Source
  | wait (o : Nat)
  | behind
  | fault (cls : Nat) (detail : Word)
  | ready (bs : List Byte)

/-- Whether a command has source elements that it has read and not shrunk yet (R286). -/
def Core.readAhead (k : Core) (r : BteRun) : Bool :=
  decide (r.cmd.doneb.toNat < r.issued) || decide (r.shrunk < r.cmd.doneb.toNat / (k.winAt (cmdSrcw r.cmd.cmd)).esize)

/-- The n source bytes from stream byte t on, from the elements that hold them (R286, R292). -/
def Core.sourceBytes (fuel : Nat) (k : Core) (r : BteRun) (t n : Nat) : Source :=
  match fuel with
  | 0 => .ready []
  | fuel + 1 =>
    if n = 0 then .ready []
    else
      let w := cmdSrcw r.cmd.cmd
      let es := (k.winAt w).esize
      let o := t / es - r.shrunk
      if !bteKeep r.cmd.cmd && (k.winAt w).v && decide ((k.winAt w).cap.toNat ≤ o) && k.readAhead r then .behind
      else match k.engRead w o none with
      | .wait => .wait o
      | .fault cls d => .fault cls d
      | .ready base =>
        let m := min n (es - t % es)
        match Core.sourceBytes fuel k r (t + m) (n - m) with
        | .ready bs => .ready (tgets 0 k.wstore (base + t % es) m ++ bs)
        | x => x

/-- The banks that reading n source bytes from stream byte t on uses (R124, R281). -/
def State.useSource (s : State) (c : Nat) (r : BteRun) (t n : Nat) : State :=
  let x := s.winAt c (cmdSrcw r.cmd.cmd)
  let es := x.esize
  (List.range ((t + n - 1) / es + 1 - t / es)).foldl (init := s) fun s i =>
    let from_ := if i = 0 then t % es else 0
    s.useRows c (x.addr (t / es + i - r.shrunk) + from_) (min (es - from_) n)

/-- Whether the next request may go on into a row whose index is still to be read: it ends inside its block with the
last byte of a row, and the next row begins in bounds (R281). -/
def BteRun.reachesRow (r : BteRun) : Bool :=
  match r.byteAddr r.issued with
  | none => false
  | some a =>
    let n := r.runFrom a r.issued 63
    let x0 := shs r.cmd.shape 104 24
    decide (r.issued + n + 1 < r.cmd.total) && !r.known (r.issued + n + 1) && decide ((a.toNat + n) % 64 ≠ 63)
      && decide (0 ≤ x0 ∧ x0 < shf r.cmd.shape 40 24)

/-- Reading the index of the next row, if it is still to be read; the indices of the rows that the next request may
reach are read as far as they stand there, and the request waits for a row that it may go on into (R281, R288). -/
def State.bteIndex (s : State) (c e : Nat) (r : BteRun) (k : State → BteRun → State) : State :=
  let o := r.index.length
  if usesIndex r.cmd.cmd && decide (o ≤ r.row (min (r.issued + 63) (r.cmd.total - 1))) then
    let w := cf r.cmd.cmd 112 4
    let core := s.coreAt c
    let needed := decide (o ≤ r.row r.issued) || r.reachesRow
    match core.engRead w o (some 0#4) with
    | .wait =>
      if needed then s.bteWait c e r (cmdReadEdge c w o r.cmd.site (.bteRequestIssue c e)) else k s r
    | .fault cls d => if needed then s.bteFail c e r cls d 0 else k s r
    | .ready base =>
      let r := { r with index := r.index ++ [BitVec.ofNat 32 (ofBytes (tgets 0 core.wstore base 4))] }
      ((s.useRows c base 4).bteGo c e (.bteRequestIssue c e) r).post (.bteRequestIssue c e)
  else k s r

/-- A request of a command that reads global memory (R281, R288): out-of-bounds bytes read as 0 without one. -/
def State.bteReadIssue (s : State) (c e : Nat) (r : BteRun) : State :=
  let t := r.issued
  match r.byteAddr t with
  | none =>
    let n := r.outFrom t 63 + 1
    (s.bteGo c e (.bteRequestIssue c e)
      { r with issued := t + n, got := tput [] r.got t (List.replicate n 0) }).post (.bteElementFill c e)
  | some a =>
    let n := r.runFrom a t 63 + 1
    (s.bteGo c e (.bteRequestIssue c e) { r with issued := t + n }).startAcc (bteAcc s c e r .load a n t false)

/-- The operation of GREDW (R290). -/
def gredwOp (n : Nat) : RedOp :=
  match n with
  | 0 => .add | 1 => .min | 2 => .max | 3 => .and | 4 => .or | 5 => .xor | _ => .fadd

/-- The address of the word at stream byte t, if all of it is in bounds. -/
def BteRun.wordAddr (r : BteRun) (t size : Nat) : Option Addr :=
  if (List.range size).all fun i => (r.byteAddr (t + i)).isSome then r.byteAddr t else none

/-- The words of a GREDW request, each a RED of its own; a word that the bounds cut is dropped whole, and a misaligned
one is a memory fault of a RED (R246, R289). Marked DESIGN CHOICE, log 84. -/
def State.gredwWords (s : State) (c e : Nat) (r : BteRun) (t size : Nat) (bs : List Byte) : State :=
  let words := (List.range (bs.length / size)).map fun i => t + size * i
  let x := r.cmd.cmd
  match words.findSome? fun u => (r.wordAddr u size).filter fun a => !aligned a.toNat size with
  | some a => s.bteFail c e r 3 (memFaultArg 7 7 5) a
  | none =>
    let cut := words.filter fun u => (r.wordAddr u size).isNone
    let s := s.bteGo c e (.bteRequestIssue c e) { r with
      issued := t + size * words.length
      acked := cut.foldl (init := r.acked) fun m u => tput 0 m u size }
    let s := words.foldl (init := s) fun s u =>
      match r.wordAddr u size with
      | none => s
      | some a =>
        let v := BitVec.ofNat 64 (ofBytes ((bs.drop (u - t)).take size))
        s.startAcc (bteAcc s c e r (.red (gredwOp (cf x 17 3)) (cmdMod x 5) (cmdMod x 6) v) a size u true)
    if cut.isEmpty then s else s.post (.bteElementFill c e)

/-- A request of a command that writes global memory (R281, R289): out-of-bounds bytes are dropped. -/
def State.bteWriteIssue (s : State) (c e : Nat) (r : BteRun) : State :=
  let t := r.issued
  match r.byteAddr t with
  | none =>
    let n := r.outFrom t 63 + 1
    match (s.coreAt c).sourceBytes 17 r t n with
    | .wait o => s.bteWait c e r (cmdReadEdge c (cmdSrcw r.cmd.cmd) o r.cmd.site (.bteRequestIssue c e))
    | .behind => s
    | .fault cls d => s.bteFail c e r cls d 0
    | .ready _ =>
      ((s.useSource c r t n).bteGo c e (.bteRequestIssue c e)
        { r with issued := t + n, acked := tput 0 r.acked t n }).post (.bteElementFill c e)
  | some a =>
    let gredw := decide (cmdOp r.cmd.cmd = 0x46)
    let size := if cmdMod r.cmd.cmd 4 then 8 else 4
    let run := r.runFrom a t 63 + 1
    let n := if gredw then (run + size - 1) / size * size else run
    match (s.coreAt c).sourceBytes 18 r t n with
    | .wait o => s.bteWait c e r (cmdReadEdge c (cmdSrcw r.cmd.cmd) o r.cmd.site (.bteRequestIssue c e))
    | .behind => s
    | .fault cls d => s.bteFail c e r cls d 0
    | .ready bs =>
      let s := s.useSource c r t n
      if gredw then s.gredwWords c e r t size bs
      else (s.bteGo c e (.bteRequestIssue c e) { r with issued := t + n }).startAcc (bteAcc s c e r (.store bs) a n t true)

/-- WTW sends its next fill, up to 8 on the mesh at once (R288). -/
def State.wtwSend (s : State) (c e : Nat) (r : BteRun) : State :=
  let size := min (s.winAt (wtwCore r.cmd.cmd) (cmdDstw r.cmd.cmd)).esize (r.cmd.total - r.issued)
  if 8 ≤ r.flight then s
  else
    match (s.coreAt c).sourceBytes (size + 1) r r.issued size with
    | .wait o => s.bteWait c e r (cmdReadEdge c (cmdSrcw r.cmd.cmd) o r.cmd.site (.bteRequestIssue c e))
    | .behind => s
    | .fault cls d => s.bteFail c e r cls d 0
    | .ready bs =>
      let s := s.useSource c r r.issued size
      ((s.bteGo c e (.bteRequestIssue c e) { r with issued := r.issued + size, pending := r.pending ++ [bs], flight := r.flight + 1 }).post
        (.remoteWindowOperation c (.engine e))).post (.bteRequestIssue c e)

/-- An engine slot sends its next request (R281). -/
def execBteRequestIssue (c e : Nat) (s : State) : Res :=
  .next <|
    match (s.coreAt c).bteAt e with
    | none => s
    | some r =>
      if !(s.coreAt c).portsRun || r.hold || r.failing.isSome || decide (r.cmd.total ≤ r.issued) then s
      else if cmdOp r.cmd.cmd = 0x43 then s.wtwSend c e r
      else s.bteIndex c e r fun s r =>
        if writesGlobal r.cmd.cmd then s.bteWriteIssue c e r else s.bteReadIssue c e r

/-- The bytes of a read come back (R286). -/
def State.bteData (s : State) (c e t : Nat) (bs : List Byte) : State :=
  match (s.coreAt c).bteAt e with
  | none => s
  | some r => (s.setBte c e (some { r with got := tput [] r.got t bs })).post (.bteElementFill c e)

/-- A write is acknowledged (R292). -/
def State.bteAck (s : State) (c e t n : Nat) : State :=
  match (s.coreAt c).bteAt e with
  | none => s
  | some r => (s.setBte c e (some { r with acked := tput 0 r.acked t n })).post (.bteElementFill c e)

/-- Shrinking the source window by the elements whose bytes have all been delivered (R23, R27, R286); a command that
ends in a fault already meets no second one (R294). -/
def State.bteShrink (s : State) (c e : Nat) : State :=
  match (s.coreAt c).bteAt e with
  | none => s
  | some r =>
    let w := cmdSrcw r.cmd.cmd
    let n := r.cmd.doneb.toNat / (s.winAt c w).esize - r.shrunk
    if bteKeep r.cmd.cmd || n = 0 then s
    else
      s.cmdShrink c w n r.cmd.site (.bteElementFill c e)
        (fun d => if r.failing.isSome then s.setBte c e (some { r with shrunk := r.shrunk + n }) else s.bteFail c e r 6 d 0)
        fun s => s.setBte c e (some { r with shrunk := r.shrunk + n })

/-- Delivered bytes are counted and the source window shrunk (R286, R292). -/
def State.bteDelivered (s : State) (c e : Nat) (r : BteRun) : State :=
  let upto := ackedEnd r.acked r.cmd.doneb.toNat
  let r := { r with
    acked := r.acked.filter fun m => decide (upto ≤ m.1)
    cmd := { r.cmd with doneb := BitVec.ofNat 32 upto } }
  let s := (s.setBte c e (some r)).bteShrink c e
  if r.cmd.total ≤ upto then s.post (.bteCommandComplete c e) else s

/-- Filling the next element of a target whose bytes are all present, in stream order (R286). -/
def State.bteFill (s : State) (c e : Nat) (r : BteRun) : State :=
  let w := cmdDstw r.cmd.cmd
  let k := s.coreAt c
  let x := k.winAt w
  let bs := contiguous r.got r.cmd.doneb.toNat
  if bs.length < x.esize || decide (r.cmd.total ≤ r.cmd.doneb.toNat) then s
  else if !x.held && !x.engineFills then
    s.bteFail c e r 6 (winFaultArg x w .fill false 0 (if x.v then 5 else 1)) 0
  else if x.held || !k.fillRoom w then
    s.bteWait c e r (cmdFillEdge c w r.cmd.site (.bteElementFill c e))
  else
    let done := r.cmd.doneb.toNat + x.esize
    let r := { r with got := dropFront r.got x.esize, cmd := { r.cmd with doneb := BitVec.ofNat 32 done } }
    let s := (s.bteGo c e (.bteElementFill c e) r).fillWin c w (bs.take x.esize) r.cmd.site (issuerOf r.cmd.site)
    s.post (if r.cmd.total ≤ done then .bteCommandComplete c e else .bteElementFill c e)

/-- An element whose bytes are all present is filled, or written bytes are counted (R286, R292). -/
def execBteElementFill (c e : Nat) (s : State) : Res :=
  .next <|
    match (s.coreAt c).bteAt e with
    | none => s
    | some r =>
      if writesGlobal r.cmd.cmd then s.bteDelivered c e r
      else if readsSource r.cmd.cmd then s.bteShrink c e
      else if fillsHere r.cmd.cmd && (s.coreAt c).portsRun then s.bteFill c e r
      else s

/-- The last shrink of a block transfer, of its index window, and its end (R288, R291). -/
def State.bteLast (s : State) (c e : Nat) (r : BteRun) : State :=
  let over_ (s : State) : State := (s.setBte c e none).endCommand c r.cmd .bte false false false
  if usesIndex r.cmd.cmd && !bteKeep r.cmd.cmd then
    s.cmdShrink c (cf r.cmd.cmd 112 4) (shN1 r.cmd.shape) r.cmd.site (.bteCommandComplete c e)
      (fun d => s.bteFail c e r 6 d 0) over_
  else over_ s

/-- A block transfer completes: its claims are released, an index window shrunk (R23, R27, R288, R291); one that met an
unrecoverable fault ends (R294). -/
def execBteCommandComplete (c e : Nat) (s : State) : Res :=
  .next <|
    match (s.coreAt c).bteAt e with
    | none => s
    | some r =>
      if s.cmdBusy r.cmd.site then s
      else
        match r.failing with
        | some f => if s.owesShrink c r then s.bteDelivered c e r else s.bteEnd c e r f.1 f.2.1 f.2.2
        | none =>
          if r.cmd.doneb.toNat < r.cmd.total ∨ r.flight ≠ 0 then s
          else if s.owesShrink c r then s.bteDelivered c e r
          else s.bteLast c e r

/-- A memory fault of a block transfer's access (R244, R293, R294): WHY 1 to 3 hold the command. -/
def State.bteHold (s : State) (c e : Nat) (on : Bool) : State :=
  match (s.coreAt c).bteAt e with
  | none => s
  | some r => if r.failing.isSome then s else s.setBte c e (some { r with hold := on })

/-- A stop discards the reads in flight of a core's block transfers, which start again at their DONEB (R292). -/
def State.discardReads (s : State) (c : Nat) : State :=
  let k := s.coreAt c
  let mine (a : Acc) : Bool := a.core == c && a.op == .load && (match a.dest with
    | .engine e _ => decide (e < 4)
    | .none | .reg _ _ _ | .generator _ _ | .spill _ _ _ | .refill _ _ | .egress _ _ | .merged => false)
  ({ s with accs := s.accs.filter fun a => !mine a } : State).setCore c
    { k with bte := k.bte.map fun r => r.map fun r => BteRun.start r.cmd r.shrunk }

/-- A fill of a WTW reaches its target, or waits there (R288). -/
def State.wtwArrive (s : State) (c e : Nat) : State :=
  match (s.coreAt c).bteAt e with
  | none => s
  | some r =>
    match r.pending with
    | [] => s
    | bs :: rest =>
      let d := wtwCore r.cmd.cmd
      let w := cmdDstw r.cmd.cmd
      let x := s.winAt d w
      let detail (why : Nat) : Word := winFaultArg x w .fill true 0 why
      if x.held then s.bteWait c e r { cmdFillEdge c w r.cmd.site (.remoteWindowOperation c (.engine e)) with core := d }
      else if !x.v then s.bteFail c e r 6 (detail 1) 0
      else if !x.mode.allows .fill then s.bteFail c e r 6 (detail 5) 0
      else if r.cmd.total % x.esize ≠ 0 then s.bteFail c e r 6 (detail 7) 0
      else if !(s.coreAt d).fillRoom w then
        s.bteWait c e r { cmdFillEdge c w r.cmd.site (.remoteWindowOperation c (.engine e)) with core := d }
      else
        let r := { r with pending := rest, cmd := { r.cmd with doneb := r.cmd.doneb + BitVec.ofNat 32 bs.length } }
        let s := (s.bteGo c e (.remoteWindowOperation c (.engine e)) r).fillWin d w bs r.cmd.site (issuerOf r.cmd.site)
        let s := (s.post (.bteElementFill c e)).post (.remoteAnswer c (.engine e))
        if rest.isEmpty then s else s.post (.remoteWindowOperation c (.engine e))

/-- A fill of a WTW is answered (R288, R292). -/
def State.wtwAnswer (s : State) (c e : Nat) : State :=
  match (s.coreAt c).bteAt e with
  | none => s
  | some r =>
    (s.setBte c e (some { r with flight := r.flight - 1 })).post
      (if r.cmd.total ≤ r.cmd.doneb.toNat then .bteCommandComplete c e else .bteRequestIssue c e)

end Sys2Proof.Machine
end

