-- ==== Sys2Proof/Machine/Bulk.lean ====
section
/-! DEFINITION. Memory reached in one step: reading and writing bytes by physical key, walking the page table, and the
transfers of images (R227, R236, R364, R381), which the model performs whole (DESIGN CHOICE, log 11). -/

namespace Sys2Proof.Machine

open Sys2Proof

/-! ## Metering (R398) -/

/-- The link ports a request from a die enters at on its way to a place: the die link or the pod link that it crosses
first (R384, R398, R417). -/
def linkPorts (pkg : BitVec 6) (d id tier pa : Nat) : List Nat :=
  let home := pa / 2 ^ 50
  if tier = 2 then []
  else if home / 4 ≠ pkg.toNat then [6156 + 4 * d + Config.podLink id % 4]
  else if home % 4 ≠ d then [6144 + 3 * d + (home % 4 + 3 - d) % 4]
  else []

/-- The tenant that a core's requests are metered for. -/
def State.meterTenant (s : State) (c : Nat) : Nat :=
  match s.tenantOf c with
  | some f => f.toNat
  | none => 0

/-- The share of a tenant at a port (R398): until it is set, tenant 0 has the whole (DESIGN CHOICE, log 5).
Marked DEDUCED, log 47. -/
def State.share (s : State) (port ten : Nat) : Nat :=
  tget (if ten = 0 then 256 else 0) s.shares (port * 32 + ten)

/-- The bytes in a bucket: `buckets` holds how far it stands below its top (R398). -/
def State.bucket (s : State) (port ten : Nat) : Nat := 512 * s.share port ten - tget 0 s.buckets (port * 32 + ten)

/-- Taking the size of a request from a tenant's buckets at some ports (R398). -/
def State.take (s : State) (ports : List Nat) (ten size : Nat) : State :=
  ports.foldl (init := s) fun s p =>
    { s with buckets := tput 0 s.buckets (p * 32 + ten) (tget 0 s.buckets (p * 32 + ten) + size) }

/-- Letting requests of one size go one after another, each at its ports, where the buckets hold them all (R398). -/
def State.payAll (s : State) (ten size : Nat) (reqs : List (List Nat)) : Option State :=
  match reqs with
  | [] => some s
  | ports :: rest =>
    if ports.all fun p => decide (size ≤ s.bucket p ten) then (s.take ports ten size).payAll ten size rest else none

/-- Whether memory at a physical address of a tier has left service with its die (R429). Marked DEDUCED, log 57. -/
def State.lostMemory (s : State) (tier pa : Nat) : Bool :=
  let d := pa / 2 ^ 50
  tier != 2 && decide (d / 4 = s.pkg.toNat) && (s.dieAt (d % 4)).fenced

/-! ## Bytes of memory -/

/-- The n bytes at a key of memory; a byte nothing has written reads as 0 (DESIGN CHOICE, log 3). -/
def State.readMem (s : State) (key n : Nat) : List Byte := tgets 0 s.mem key n

/-- The canonical form of memory: addresses strictly rising, and no entry that reads as an unlisted address does. -/
def Memory.wf (m : List Host.Cell) : Bool := twf 0 m

/-- Writing bytes at a key of memory: with new data goes a new check (R428). -/
def State.writeMem (s : State) (key : Nat) (bs : List Byte) : State :=
  { s with
    mem := tputs 0 s.mem key bs
    spoiled := s.spoiled.filter fun k => !(decide (key ≤ k) && decide (k < key + bs.length)) }

/-- A write by key of a unit of the device, which the memory of a fenced die does not take (R429). -/
def State.writeServed (s : State) (key : Nat) (bs : List Byte) : State :=
  if s.lostMemory (key / 2 ^ 58) (key % 2 ^ 58) then s else s.writeMem key bs

/-- Whether the check of one of n bytes of memory cannot correct it (R428). -/
def State.spoils (s : State) (key n : Nat) : Bool := s.spoiled.any fun k => decide (key ≤ k) && decide (k < key + n)

/-- What a walk finds: the leaf and its level, or the fault and its level (R236, R238, R243). -/
abbrev Found := Except (Nat × Nat) (Word × Nat)

/-- Walking the page table from a node at a level (R236). Marked DEDUCED, log 22. -/
def State.walkFrom (fuel : Nat) (s : State) (level tier pa va : Nat) : Found :=
  match fuel with
  | 0 => .error (5, level)
  | fuel + 1 =>
    let at_ := pa + 8 * vaIndex va level
    if !paOk tier at_ 8 || s.lostMemory tier at_ then .error (6, level)
    else if s.spoils (memKey tier at_) 8 then .error (9, 7)
    else
      let p : Word := BitVec.ofNat 64 (ofBytes (s.readMem (memKey tier at_) 8))
      if !pteV p then .error (1, level)
      else if badPte s.pkg p level then .error (5, level)
      else if pteLeaf p then .ok (p, level)
      else State.walkFrom fuel s (level - 1) (pteTier p) (ptePa p) va

/-- Walking the page table of a context from its root (R239). -/
def State.walkRoot (s : State) (root : Word) (va : Nat) : Found :=
  if rootV root then s.walkFrom 5 4 (rootTier root) (rootPa root) va else .error (1, 4)

/-- The leaf that translates an address at a core: a TLB's, or the page table's (R240, R241). -/
def State.leafAt (s : State) (c va : Nat) : Found :=
  let k := s.clusterAt (clusterOf c)
  if !rootV k.ptroot then .error (1, 4)
  else
    match ((s.coreAt c).utlb ++ k.tlb).find? (·.covers (rootAsid k.ptroot) va) with
    | some e => .ok (e.pte, e.level.toNat)
    | none => s.walkRoot k.ptroot va

/-- The key of memory an access of n bytes reaches, or the fault it meets (R243, R428, R429). -/
def State.translate (s : State) (c : Nat) (op : AccOp) (va n : Nat) : Except (Nat × Nat) Nat :=
  match s.leafAt c va with
  | .error e => .error e
  | .ok (p, level) =>
    match leafFault (s.clusterAt (clusterOf c)).ptroot s.pkg p level op va n with
    | some why => .error (why, level)
    | none =>
      let key := memKey (pteTier p) (leafPa p level va)
      if s.lostMemory (pteTier p) (leafPa p level va) then .error (6, level)
      else if opReads op && s.spoils key n then .error (9, 7)
      else .ok key

/-- A fault of a bulk transfer: its kind, level and address. -/
structure BulkFault where
  why : Nat
  level : Nat
  va : Addr
  deriving DecidableEq, Repr

/-- The first fault that n chunks of 16 bytes from an address meet; the last chunk has `last` bytes.
Marked DEDUCED, log 24. -/
def State.bulkFault (s : State) (c : Nat) (op : AccOp) (va : Addr) (n last : Nat) : Option BulkFault :=
  match n with
  | 0 => none
  | n + 1 =>
    match s.translate c op va.toNat (if n = 0 then last else 16) with
    | .error e => some ⟨e.1, e.2, va⟩
    | .ok _ => s.bulkFault c op (va + 16) n last

/-- Chunks of 16 bytes that n bytes make. -/
def chunks (n : Nat) : Nat := (n + 15) / 16
/-- Bytes of the last chunk. -/
def lastChunk (n : Nat) : Nat := if n % 16 = 0 then 16 else n % 16

/-- The bytes of n chunks that translate. -/
def State.bulkBytes (s : State) (c : Nat) (va : Addr) (n : Nat) : List Byte :=
  match n with
  | 0 => []
  | n + 1 =>
    (match s.translate c .load va.toNat 16 with
      | .ok k => s.readMem k 16
      | .error _ => List.replicate 16 0) ++ s.bulkBytes c (va + 16) n

/-- Reading n bytes at a 16-byte aligned virtual address of a core's context. -/
def State.bulkRead (s : State) (c : Nat) (va : Addr) (n : Nat) : Except BulkFault (List Byte) :=
  match s.bulkFault c .load va (chunks n) (lastChunk n) with
  | some f => .error f
  | none => .ok ((s.bulkBytes c va (chunks n)).take n)

/-- Writing chunks that translate. -/
def State.bulkPut (n : Nat) (s : State) (c : Nat) (va : Addr) (bs : List Byte) : State :=
  match n with
  | 0 => s
  | n + 1 =>
    let s := match s.translate c (.store []) va.toNat (min 16 bs.length) with
      | .ok k => s.writeMem k (bs.take 16)
      | .error _ => s
    State.bulkPut n s c (va + 16) (bs.drop 16)

/-- The ports one request of a transfer enters at (R384, R398); none where its address does not translate. -/
def State.transferPorts (s : State) (c : Nat) (op : AccOp) (va : Addr) : List Nat :=
  match s.translate c op va.toNat 16 with
  | .ok k => c :: linkPorts s.pkg (dieOf c) 0 (k / 2 ^ 58) (k % 2 ^ 58)
  | .error _ => []

/-- The requests of up to 64 bytes that a transfer makes. -/
def requests (bytes : Nat) : Nat := (bytes + 63) / 64

/-- Letting n requests of a transfer go in their order while the buckets hold their sizes; how many are left. `size` is
64 with data and 16 without (R364, R398). -/
def State.pay (n : Nat) (s : State) (c : Nat) (op : AccOp) (va : Addr) (size : Nat) : State × Nat :=
  match n with
  | 0 => (s, 0)
  | n + 1 =>
    match s.payAll (s.meterTenant c) size [s.transferPorts c op va] with
    | some s => State.pay n s c op (va + 64) size
    | none => (s, n + 1)

/-- A transfer of some bytes, of whose requests `gone` have gone, lets more of them go; how many have gone then. -/
def State.payMore (s : State) (c : Nat) (op : AccOp) (va : Addr) (bytes size gone : Nat) : State × Nat :=
  let n := requests bytes
  let r := State.pay (n - gone) s c op (va + BitVec.ofNat 80 (64 * gone)) size
  (r.1, n - r.2)

/-- Writing bytes at a 16-byte aligned virtual address of a core's context: all of them, or none at a fault. -/
def State.bulkWrite (s : State) (c : Nat) (va : Addr) (bs : List Byte) : Except BulkFault State :=
  match s.bulkFault c (.store []) va (chunks bs.length) (lastChunk bs.length) with
  | some f => .error f
  | none => .ok (State.bulkPut (chunks bs.length) s c va bs)

/-- The precise trap of a bulk transfer's fault at an instruction. Marked DEDUCED, log 24. -/
def BulkFault.trap (f : BulkFault) (code : BitVec 3) : Trap := memTrap f.why f.level code f.va

/-- A transfer that follows the task's earlier accesses (R246): it issues once they are performed. -/
def settled (s : State) (k : State → Out) : Out :=
  if s.quiet s.cur s.slot then k s else .moved (s.holdAgain .release)

/-- A transfer of some bytes by the issuing slot: it takes place, whole, once the buckets have let all its requests go
(R398). Marked DESIGN CHOICE, log 11. -/
def metered (op : AccOp) (va : Addr) (bytes size : Nat) (s : State) (k : State → Out) : Out :=
  let r := s.payMore s.cur op va bytes size s.me.paid
  if r.2 = requests bytes then k (r.1.setMe { r.1.me with paid := 0 })
  else .moved ((r.1.setMe { r.1.me with paid := r.2 }).holdAgain .meter)

end Sys2Proof.Machine
end

