-- ==== Sys2Proof/Machine/Barriers.lean ====
section
/-! DEFINITION. Barriers: instances, tokens, firings, releases (R165 to R167, R393). -/

namespace Sys2Proof.Machine

open Sys2Proof

/-- A group by number; a core of no group has a group without members. Marked DEDUCED, log 32. -/
def State.groupAt (s : State) (g : Nat) : Group :=
  (tget none s.groups g).getD ⟨0, false, 0, [], [], [], false, false, false⟩

/-- Replacing a group. -/
def State.setGroup (s : State) (g : Nat) (x : Group) : State := { s with groups := tput none s.groups g (some x) }

/-- The region of a level that holds a core (R165). -/
def regionOf (l : Level) (c : Nat) : Nat :=
  match l with
  | .lane | .core => c
  | .quad => clusterOf c * 64 + rowOf c / 2 * 8 + colOf c / 2
  | .clus => clusterOf c
  | .die => dieOf c
  | .pkg | .pod => 0

/-- The key of a barrier instance of a group. -/
def barrierKey (l : Level) (c : Nat) (b : BitVec 4) : Nat := (l.code * 8192 + regionOf l c) * 16 + b.toNat

/-- The members of a group in the instance that holds a core (R165). -/
def Group.inInstance (g : Group) (l : Level) (c : Nat) : List Nat :=
  g.members.filter fun m => regionOf l m = regionOf l c

/-- An instance as launch leaves it: its arcs are its members; a pod instance of a group without a pod entry has none
(R161, R393). -/
def Group.fresh (g : Group) (l : Level) (c : Nat) : Barrier :=
  ⟨match l with
    | .pod => 0
    | .lane | .core | .quad | .clus | .die | .pkg => BitVec.ofNat 16 (g.inInstance l c).length, 0, 0, false, []⟩

/-- The barrier instance of a group that holds a core. Marked DEDUCED, log 32. -/
def Group.barrierAt (g : Group) (l : Level) (c : Nat) (b : BitVec 4) : Barrier :=
  tget (g.fresh l c) g.barriers (barrierKey l c b)

/-- Replacing a barrier instance of a group. -/
def Group.setBarrier (g : Group) (l : Level) (c : Nat) (b : BitVec 4) (x : Barrier) : Group :=
  { g with barriers := tput (g.fresh l c) g.barriers (barrierKey l c b) x }

/-- A firing: the tokens are cleared, the generation advances, and a release goes to every member (R166). -/
def State.fireBarrier (s : State) (gn : Nat) (l : Level) (c : Nat) (b : BitVec 4) (lost : Bool) : State :=
  let g := s.groupAt gn
  let x := g.barrierAt l c b
  let gen := x.gen + 1
  let s := s.setGroup gn (g.setBarrier l c b { x with tokens := 0, gen := gen, lost := lost })
  (g.inInstance l c).foldl (init := s) fun s m => s.post (.barrierReleaseArrival m l b gen lost)

/-- Firing an instance whose tokens have reached its arcs (R166). -/
def State.settleBarrier (s : State) (gn : Nat) (l : Level) (c : Nat) (b : BitVec 4) : State :=
  let x := (s.groupAt gn).barrierAt l c b
  if x.arcs ≠ 0 ∧ x.arcs.toNat ≤ x.tokens then s.fireBarrier gn l c b false else s

/-- The barrier operand z of a level and number (R76). -/
def barrierOperand (l : Level) (b : BitVec 4) : Nat := l.code * 16 + b.toNat

/-- BARA: its token leaves when its release is performed; the task holds until it has counted (R166). -/
def execBara (d : BitVec 5) (l : Level) (b : BitVec 4) (s : State) : Res :=
  finish s (released s fun s =>
    .hold ((s.setMe { s.me with hold := .bara d }).post (.baraTokenCount s.cur (some s.slot) l b)))

/-- The destination of a BARA that holds its slot. -/
def Slot.baraDest (sl : Slot) : Option (BitVec 5) :=
  match sl.hold with
  | .bara d => some d
  | _ => none

/-- A BARA whose token found its instance disabled: the fault is precise at the BARA (R166). -/
def State.baraFault (s : State) (c t : Nat) (l : Level) (b : BitVec 4) : State :=
  let sl := s.slotAt c t
  match sl.baraDest with
  | some _ =>
    (s.setSlot c t { sl with hold := .none }).takeTrap c t (taskTrap (barrierOperand l b) 3 12) sl.pc
  | none => s

/-- A BARA whose token has counted: its result is the generation it counted in (R166). -/
def State.baraDone (s : State) (c t : Nat) (gen : BitVec 16) : State :=
  let sl := s.slotAt c t
  match sl.baraDest with
  | some d => (s.setSlot c t ({ sl with hold := .none }.writeG d (gen.setWidth 64))).advance c t
  | none => s

/-- The parties that have arrived at an instance, with one more (R354). -/
def Barrier.arrive (x : Barrier) (p : Option Party) : List Party := (x.arrived ++ p.toList).eraseDups

/-- The party of a token that has no slot: the FRUN of the round, at level lane; another package's is none of this one
(R187, R354). -/
def State.tokenParty (s : State) (c : Nat) (l : Level) : Option Party :=
  if l = .lane then (s.coreAt c).round.map fun r => .cmd r.cmd.site else none

/-- The entry of the pod group table for the groups of a GID that a cluster's function launches: the entry's pod tag is
the PTAG of that function (R393). Marked DEDUCED, log 56. -/
def State.podFor (s : State) (cl gid : Nat) : Option PodEntry :=
  let tag := tget 0 s.ptags ((s.clusterAt cl).owner.getD 0).toNat
  (s.pods.find? fun e => e.2.gid.toNat == gid && e.2.tag == tag).map Prod.snd

/-- Whether the pod instances of a core's group have members in another package (R393). -/
def State.podShared (s : State) (c : Nat) (g : Group) : Bool :=
  match s.podFor (clusterOf c) g.gid.toNat with
  | some e => decide (e.mask &&& ~~~(1#64 <<< s.pkg.toNat) ≠ 0)
  | none => false

/-- A BARA token counts at the join element: it may fire; a disabled instance faults the BARA (R166). A token without
a slot comes from the fabric (R187) or from another package (R393). Marked DEDUCED, log 32. -/
def execBaraTokenCount (c : Nat) (src : Option Nat) (l : Level) (b : BitVec 4) (s : State) : Res :=
  .next <|
    let gn := (s.coreAt c).group.getD s.nextGroup
    let g := s.groupAt gn
    let x := g.barrierAt l c b
    match src with
    | some t =>
      if x.arcs = 0 then s.baraFault c t l b
      else
        ((s.setGroup gn (g.setBarrier l c b { x with tokens := x.tokens + 1, arrived := x.arrive (some (.task c t)) })).settleBarrier
          gn l c b).baraDone c t x.gen
    | none =>
      if (s.coreAt c).group.isSome then
        (s.setGroup gn (g.setBarrier l c b
          { x with tokens := x.tokens + 1, arrived := x.arrive (s.tokenParty c l) })).settleBarrier gn l c b
      else s

/-- The generation of a barrier that a core has seen (R166). -/
def Core.genSeen (k : Core) (l : Level) (b : BitVec 4) : BitVec 16 := tget 0 k.gens (barrierOperand l b)

/-- BARW: it proceeds when the generation seen at this core differs from the one held, and else waits (R166). -/
def execBarw (l : Level) (b : BitVec 4) (g : BitVec 5) (s : State) : Res :=
  finish s (
    let gen := (s.me.readG g).setWidth 16
    if (s.coreAt s.cur).genSeen l b ≠ gen then .done s
    else .hold (s.waitMe (.barw l b gen) {
      party := .task s.cur s.slot
      at_ := s.cur
      kind := .barrier
      core := s.cur
      win := b.toNat
      level := l.code
      arg := gen.setWidth 32
      site := s.siteOf s.cur s.slot
      retry := none
      reported := false }))

/-- BARC at issue (R166). -/
def execBarc (l : Level) (b : BitVec 4) (c : BitVec 5) (s : State) : Res :=
  finish s (
    let n := s.me.readG c
    if 2 ^ 16 ≤ n.toNat then .trap (taskTrap (n.toNat % 2 ^ 32) 4 14)
    else .done (s.post (.barcArrival s.cur l b (n.setWidth 16))))

/-- BARC reaches the join element: N is set, and the tokens may now suffice (R166). -/
def execBarcArrival (c : Nat) (l : Level) (b : BitVec 4) (n : BitVec 16) (s : State) : Res :=
  .next <|
    match (s.coreAt c).group with
    | some gn =>
      let g := s.groupAt gn
      (s.setGroup gn (g.setBarrier l c b { g.barrierAt l c b with arcs := n })).settleBarrier gn l c b
    | none => s

/-- Releasing the tasks of a core that wait in a BARW for a generation before this one; a lost member traps them
(R166). -/
def State.releaseBarws (s : State) (c : Nat) (l : Level) (b : BitVec 4) (gen : BitVec 16) (lost : Bool) : State :=
  (s.coreAt c).slots.foldl (init := s) fun s e =>
    match (s.slotAt c e.1).wait with
    | some (.barw l' b' held) =>
      if l' = l ∧ b' = b ∧ held ≠ gen then
        let s := s.wake c e.1
        if lost then
          s.takeTrap c e.1 (trapOf 10 (BitVec.ofNat 64 ((gen - 1).toNat * 2 ^ 16 + barrierOperand l b)))
            (s.slotAt c e.1).pc
        else s.advance c e.1
      else s
    | some (.window _ _ _ _ _ _) | some (.tkn _ _ _) | some .again | none => s

/-- The wait edge of a release that is held back at a core (R150, R354). Marked DEDUCED, log 40. -/
def heldRelease (c : Nat) (l : Level) (b : BitVec 4) (gen : BitVec 16) (lost : Bool) : Edge where
  party := .unit c
  at_ := c
  kind := .barrier
  core := c
  win := b.toNat
  level := l.code
  arg := 0
  site := mkSite c 0 0 0
  retry := some (.barrierReleaseArrival c l b gen lost)
  reported := false

/-- A pod generation that a reset of another package's function ended: it has fired, which clears the tokens and
advances the generation, and the instance has no members any more (R166; R399, step 5). -/
def State.losePod (s : State) (c : Nat) (b : BitVec 4) (gen : BitVec 16) : State :=
  match (s.coreAt c).group with
  | some gn =>
    let g := s.groupAt gn
    s.setGroup gn (g.setBarrier .pod c b { g.barrierAt .pod c b with tokens := 0, gen := gen, lost := true, arcs := 0 })
  | none => s

/-- A release arrives at a member: the generation seen advances, BARWs proceed, and the bar source is counted and
delivered; a full count holds the release back (R150, R166). A pod release that is lost leaves the instance without
members (R399). -/
def State.releaseArrives (s : State) (c : Nat) (l : Level) (b : BitVec 4) (gen : BitVec 16) (lost : Bool) : State :=
  let key := sourceKey 5 (barrierOperand l b)
  let k := s.coreAt c
  let edge := heldRelease c l b gen lost
  let s := if l = .pod ∧ lost ∧ !s.edges.any (·.same edge) then s.losePod c b gen else s
  if k.countFull key then (s.addEdge edge).post (.barrierReleaseArrival c l b gen lost)
  else
    let s := s.dropEdge edge
    let data : BitVec 32 := BitVec.ofNat 32 (gen.toNat + (if lost then 65536 else 0))
    let s := s.setCore c ({ k with gens := tput 0 k.gens (barrierOperand l b) gen }.count key data)
    ((s.progress c).releaseBarws c l b gen lost).deliverSource c key

end Sys2Proof.Machine
end

