-- ==== Sys2Proof/Machine/FpInstr.lean ====
section
/-! DEFINITION. The scalar floating-point instructions (R127 to R135). -/

namespace Sys2Proof.Machine

open Sys2Proof

/-- The format of a scalar type's lanes (R33). -/
def fpFmt : FpTy → Fmt
  | .f32 => .f32 | .bf16x2 => .bf16 | .f16x2 => .f16

/-- Lane i of a register, for lanes of n bits (R33). -/
def lane (n i : Nat) (v : Word) : Nat := v.toNat / 2 ^ (n * i) % 2 ^ n

/-- Applying an operation in every lane: the packed result and the flags of all lanes (R33, R127). -/
def mapLanes (t : FpTy) (f : Nat → Nat × Flags) : Word × Flags :=
  match t with
  | .f32 => (BitVec.ofNat 64 (f 0).1, (f 0).2)
  | .bf16x2 | .f16x2 => (BitVec.ofNat 64 ((f 1).1 * 2 ^ 16 + (f 0).1), (f 0).2 ||| (f 1).2)

/-- An F3 floating-point instruction: the result to g_d, the flags to FPSTAT (R127). -/
def fpOp (t : FpTy) (d : BitVec 5) (g : Guard) (f : Slot → Nat → Nat × Flags) (s : State) : Res :=
  guarded g s fun s =>
    let r := mapLanes t (f s.me)
    .done (s.setMe ((s.me.writeG d r.1).raiseFlags r.2))

/-- Lane i of a register operand in a scalar type. -/
def laneOf (t : FpTy) (sl : Slot) (a : BitVec 5) (i : Nat) : Nat := lane (fpFmt t).width i (sl.readG a)

/-- FADD (R128). -/
def execFadd (t : FpTy) (r : Rnd) (d a b : BitVec 5) (g : Guard) (s : State) : Res :=
  fpOp t d g (fun sl i => (fpFmt t).add r (laneOf t sl a i) (laneOf t sl b i)) s
/-- FSUB (R128). -/
def execFsub (t : FpTy) (r : Rnd) (d a b : BitVec 5) (g : Guard) (s : State) : Res :=
  fpOp t d g (fun sl i => (fpFmt t).sub r (laneOf t sl a i) (laneOf t sl b i)) s
/-- FMUL (R128). -/
def execFmul (t : FpTy) (r : Rnd) (d a b : BitVec 5) (g : Guard) (s : State) : Res :=
  fpOp t d g (fun sl i => (fpFmt t).mul r (laneOf t sl a i) (laneOf t sl b i)) s
/-- FFMA: a × b + d, rounded once (R128). -/
def execFfma (t : FpTy) (r : Rnd) (d a b : BitVec 5) (g : Guard) (s : State) : Res :=
  fpOp t d g (fun sl i => (fpFmt t).fma r (laneOf t sl a i) (laneOf t sl b i) (laneOf t sl d i)) s
/-- FMIN (R129). -/
def execFmin (t : FpTy) (d a b : BitVec 5) (g : Guard) (s : State) : Res :=
  fpOp t d g (fun sl i => (fpFmt t).minMax false (laneOf t sl a i) (laneOf t sl b i)) s
/-- FMAX (R129). -/
def execFmax (t : FpTy) (d a b : BitVec 5) (g : Guard) (s : State) : Res :=
  fpOp t d g (fun sl i => (fpFmt t).minMax true (laneOf t sl a i) (laneOf t sl b i)) s
/-- FSGN (R130). -/
def execFsgn (t : FpTy) (o : SgnOp) (d a b : BitVec 5) (g : Guard) (s : State) : Res :=
  fpOp t d g (fun sl i => (fpFmt t).sgn o (laneOf t sl a i) (laneOf t sl b i)) s

/-- FCMP: true when the condition holds in every lane (R131). -/
def execFcmp (t : FpTy) (c : FCond) (d : BitVec 3) (a b : BitVec 5) (g : Guard) (s : State) : Res :=
  guarded g s fun s =>
    let f := fun i => (fpFmt t).cmp c (laneOf t s.me a i) (laneOf t s.me b i)
    let r : Bool × Flags := match t with
      | .f32 => f 0
      | .bf16x2 | .f16x2 => ((f 0).1 && (f 1).1, (f 0).2 ||| (f 1).2)
    .done (s.setMe ((s.me.writeP d r.1).raiseFlags r.2))

/-- FRCE (R132). -/
def execFrce (d a : BitVec 5) (g : Guard) (s : State) : Res :=
  fpOp .f32 d g (fun sl i => frceVal (laneOf .f32 sl a i)) s
/-- FRSQE (R133). -/
def execFrsqe (d a : BitVec 5) (g : Guard) (s : State) : Res :=
  fpOp .f32 d g (fun sl i => frsqeVal (laneOf .f32 sl a i)) s
/-- FCLASS sets no flag (R134). -/
def execFclass (d a : BitVec 5) (g : Guard) (s : State) : Res :=
  fpOp .f32 d g (fun sl i => (fclassVal (laneOf .f32 sl a i), 0)) s

/-- The value of a source lane of FCVT: an integer source is the 32-bit value (R43, R135). -/
def cvtSource (x : CvtTy) (i : Nat) (v : Word) : FVal :=
  match x with
  | .f32 => Fmt.f32.decode (lane 32 0 v)
  | .bf16x2 => Fmt.bf16.decode (lane 16 i v)
  | .f16x2 => Fmt.f16.decode (lane 16 i v)
  | .e4m3x4 => Fmt.e4m3.decode (lane 8 i v)
  | .i32 => let n := signedOf 32 v.toNat; .num (decide (n < 0)) n.natAbs 0
  | .n32 => .num false (lane 32 0 v) 0

/-- The flags of an exact widening conversion: only a signalling NaN raises one (R44). -/
def widenFlags (v : FVal) : Flags := if v.isSnan then fNV else 0

/-- FCVT: the result and its flags, by the letters of R135. -/
def cvtVal (y x : CvtTy) (r : Rnd) (v : Word) : Word × Flags :=
  let a := cvtSource x 0 v
  let b := cvtSource x 1 v
  let one (f : Fmt) : Word × Flags := (BitVec.ofNat 64 (f.convert r a).1, (f.convert r a).2)
  let two (f : Fmt) (n : Nat) : Word × Flags :=
    (BitVec.ofNat 64 ((f.convert r b).1 * 2 ^ n + (f.convert r a).1), (f.convert r a).2 ||| (f.convert r b).2)
  match y, x with
  | .i32, _ => let z := toInteger r (-2 ^ 31) (2 ^ 31 - 1) a; (BitVec.ofInt 64 z.1, z.2)
  | .n32, _ => let z := toInteger r 0 (2 ^ 32 - 1) a; (BitVec.ofInt 64 z.1, z.2)
  | .f32, .i32 | .f32, .n32 => one .f32
  | .bf16x2, .i32 | .bf16x2, .n32 | .bf16x2, .f32 => one .bf16
  | .f16x2, .i32 | .f16x2, .n32 | .f16x2, .f32 => one .f16
  | .f32, _ => ((one .f32).1, widenFlags a)
  | .bf16x2, .e4m3x4 => ((two .bf16 16).1, widenFlags a ||| widenFlags b)
  | .f16x2, .e4m3x4 => ((two .f16 16).1, widenFlags a ||| widenFlags b)
  | .bf16x2, _ => two .bf16 16
  | .f16x2, _ => two .f16 16
  | .e4m3x4, .f32 => one .e4m3
  | .e4m3x4, _ => two .e4m3 8

/-- FCVT (R135). -/
def execFcvt (y x : CvtTy) (r : Rnd) (d a : BitVec 5) (g : Guard) (s : State) : Res :=
  guarded g s fun s =>
    let z := cvtVal y x r (s.me.readG a)
    .done (s.setMe ((s.me.writeG d z.1).raiseFlags z.2))

end Sys2Proof.Machine
end

