-- ==== Sys2Proof/Machine/FabricOps.lean ====
section
/-! DEFINITION. What the element operations of the fabric compute on tokens (R195 to R208): types and lanes, arithmetic,
unit operations, random numbers, lut4, packing, reducers; their input, type, rounding and latency tables. -/

namespace Sys2Proof.Machine

open Sys2Proof

/-- A field of n bits of a configuration word from bit lo (R80, R82). -/
def fld (x lo n : Nat) : Nat := x / 2 ^ lo % 2 ^ n
/-- Bit i of a configuration word. -/
def fbit (x i : Nat) : Bool := decide (x / 2 ^ i % 2 = 1)

/-! ## Types (R80, R191, R195) -/

/-- The lane width of a type code. -/
def tyWidth (t : Nat) : Nat := if t = 0 ∨ t = 4 ∨ t = 5 then 32 else if t = 3 ∨ t = 7 then 8 else 16
/-- Whether a type code is one of F. -/
def tyF (t : Nat) : Bool := decide (t < 3)
/-- Whether a type code is one of I. -/
def tyI (t : Nat) : Bool := decide (4 ≤ t)
/-- Whether a type code is a signed integer type. -/
def tySigned (t : Nat) : Bool := decide (t = 4 ∨ t = 6 ∨ t = 7)
/-- The format of a floating-point type code. -/
def tyFmt (t : Nat) : Fmt := if t = 0 then .f32 else if t = 1 then .bf16 else if t = 2 then .f16 else .e4m3
/-- Lane i of a token. -/
def tyLane (t v i : Nat) : Nat := v / 2 ^ (tyWidth t * i) % 2 ^ tyWidth t
/-- The integer a lane stands for (R31). -/
def tyInt (t n : Nat) : Int := if tySigned t then signedOf (tyWidth t) n else (n : Int)
/-- The least integer of a lane. -/
def tyMin (t : Nat) : Int := if tySigned t then -(2 ^ (tyWidth t - 1) : Nat) else 0
/-- The greatest integer of a lane. -/
def tyMax (t : Nat) : Int := if tySigned t then (2 ^ (tyWidth t - 1) : Nat) - 1 else (2 ^ tyWidth t : Nat) - 1

/-- No census event. -/
def noEvents : Events := ⟨false, false, false, false⟩
/-- A saturation, or nothing. -/
def satEvent (b : Bool) : Events := ⟨false, false, b, false⟩
/-- A result with the events of each of its lanes. Marked DEDUCED, log 67. -/
abbrev Counted := Nat × List Events

/-- A result without events. -/
def plainResult (v : Nat) : Counted := (v % 2 ^ 32, [])

/-- Working lane by lane (R33). -/
def byLane (t : Nat) (f : Nat → Nat × Events) : Counted :=
  let r := (List.range (32 / tyWidth t)).map fun i => f i
  ((r.zipIdx.map fun x => x.1.1 % 2 ^ tyWidth t * 2 ^ (tyWidth t * x.2)).sum, r.map Prod.snd)

/-- A floating-point lane with its flags and operands. -/
def fpLane (t : Nat) (ops : List Nat) (r : Nat × Flags) : Nat × Events :=
  (r.1, fpEvents (tyFmt t) r.1 r.2 (ops.all fun o => ((tyFmt t).decode o).isFinite))

/-- An integer lane: modulo the lane, or clamped, which is a saturation where it changes the value (R197). -/
def intLane (t : Nat) (sat : Bool) (x : Int) : Nat × Events :=
  if sat then
    let y := max (tyMin t) (min (tyMax t) x)
    ((y % (2 ^ tyWidth t : Nat)).toNat, satEvent (decide (y ≠ x)))
  else ((x % (2 ^ tyWidth t : Nat)).toNat, noEvents)

/-- The lesser or greater of two lanes (R198). -/
def laneMinMax (t : Nat) (mx : Bool) (a b : Nat) : Nat :=
  if tyF t then ((tyFmt t).minMax mx a b).1
  else if mx then (if tyInt t a < tyInt t b then b else a)
  else (if tyInt t b < tyInt t a then b else a)

/-! ## Unit operations (R204): fixed point with 256 fraction bits, then one rounding -/

/-- One in the fixed point. -/
def fxOne : Nat := 2 ^ 256

/-- The sum of v × t^j / ((k + 1) … (k + j)) over n + 1 terms. -/
def expTerms (n k v t : Nat) : Nat :=
  match n with
  | 0 => v
  | n + 1 => v + expTerms n (k + 1) (v * t / fxOne / (k + 1)) t

/-- e^t. -/
def fxExp (t : Nat) : Nat := expTerms 200 0 fxOne t

/-- The sum of p × z^j / (2(k + j) + 1) over n terms. -/
def atanhTerms (n k p z : Nat) : Nat :=
  match n with
  | 0 => 0
  | n + 1 => p / (2 * k + 1) + atanhTerms n (k + 1) (p * z / fxOne) z

/-- The natural logarithm of a / b, for b ≤ a ≤ 2b. -/
def fxLn (a b : Nat) : Nat :=
  let z := (a - b) * fxOne / (a + b)
  2 * atanhTerms 90 0 z (z * z / fxOne)

/-- A fixed-point value that is not exact, rounded to nearest even. -/
def fxRound (s : Bool) (v : Nat) (e : Int) : Nat × Flags := Fmt.f32.round .rne s (2 * v + 1) (e - 257)

/-- 2^x of a finite x. -/
def exp2Finite (s : Bool) (m : Nat) (e : Int) : Nat × Flags :=
  if m = 0 then (0x3F800000, 0)
  else
    let lead := e + Nat.log2 m
    if 8 ≤ lead then (if s then (0, fUF ||| fNX) else (Fmt.f32.infMag, fOF ||| fNX))
    else
      let x : Int := (if s then -1 else 1) * (m * 2 ^ (e + 256).toNat : Nat)
      let n := x / (fxOne : Int)
      let f := (x % (fxOne : Int)).toNat
      if 128 ≤ n then (Fmt.f32.infMag, fOF ||| fNX)
      else if f = 0 then Fmt.f32.round .rne false 1 n
      else fxRound false (fxExp (f * fxLn 2 1 / fxOne)) n

/-- log₂ of a positive m × 2^e. -/
def log2Finite (m : Nat) (e : Int) : Nat × Flags :=
  let k := Nat.log2 m
  if m = 2 ^ k then Fmt.f32.ofInteger .rne (e + k)
  else
    let v : Int := (e + k) * (fxOne : Int) + (fxLn m (2 ^ k) * fxOne / fxLn 2 1 : Nat)
    if 0 ≤ v then fxRound false v.toNat 0 else fxRound true (-v - 1).toNat 0

/-- tanh of a finite x that is not zero. -/
def tanhFinite (a : Nat) (s : Bool) (m : Nat) (e : Int) : Nat × Flags :=
  let lead := e + Nat.log2 m
  if lead ≤ -21 then (a, fNX)
  else if 4 ≤ lead then (Fmt.f32.pack s 0x3F800000, fNX)
  else
    let x := fxExp (m * 2 ^ (e + 257).toNat)
    fxRound s ((x - fxOne) * fxOne / (x + fxOne)) 0

/-- The reply of a column unit (R132, R133, R204). -/
def unitVal (op a : Nat) : Nat × Flags :=
  let x := Fmt.f32.decode a
  if op = 0x1D then frceVal a
  else if op = 0x1E then frsqeVal a
  else
    match x with
    | .nan _ => (Fmt.f32.nan, 0)
    | .inf s =>
      if op = 0x1B then (if s then 0 else Fmt.f32.infMag, 0)
      else if op = 0x1C then (if s then Fmt.f32.nan else Fmt.f32.infMag, 0)
      else (Fmt.f32.pack s 0x3F800000, 0)
    | .num s m e =>
      if op = 0x1B then exp2Finite s m e
      else if op = 0x1C then
        if m = 0 then (Fmt.f32.pack true Fmt.f32.infMag, 0)
        else if s then (Fmt.f32.nan, 0) else log2Finite m e
      else if m = 0 then (a, 0) else tanhFinite a s m e

/-- The reply with its census events. -/
def unitResult (op a : Nat) : Counted :=
  let r := unitVal op a
  (r.1, [fpEvents .f32 r.1 r.2 (Fmt.f32.decode a).isFinite])

/-! ## Conversions (R202) and packing (R207) -/

/-- The type a code names in FCVT. -/
def fabCvtTy (t : Nat) : CvtTy :=
  if t = 0 then .f32 else if t = 1 then .bf16x2 else if t = 2 then .f16x2 else if t = 3 then .e4m3x4
  else if t = 4 then .i32 else .n32

/-- Whether a pair of types converts (R135): from, to. -/
def cvtPair (x y : Nat) : Bool :=
  (decide (x = 0) && decide (1 ≤ y ∧ y ≤ 5)) || (decide (x = 1) && decide (y = 0 ∨ 2 ≤ y ∧ y ≤ 5))
    || (decide (x = 2) && decide (y = 0 ∨ y = 1 ∨ 3 ≤ y ∧ y ≤ 5)) || (decide (x = 3) && decide (y ≤ 2))
    || (decide (x = 4 ∨ x = 5) && decide (y ≤ 2))

/-- cvt with the census events of its result lanes (R135, R202). A NaN that becomes 0 counts as no clamp. Marked DESIGN
CHOICE, log 75. -/
def cvtResult (y x : Nat) (r : Rnd) (a : Nat) : Counted :=
  let v := (cvtVal (fabCvtTy y) (fabCvtTy x) r (BitVec.ofNat 64 a)).1.toNat % 2 ^ 32
  let src (i : Nat) : FVal := cvtSource (fabCvtTy x) i (BitVec.ofNat 64 a)
  if y = 4 ∨ y = 5 then
    let z := toInteger r (tyMin y) (tyMax y) (src 0)
    (v, [satEvent (z.2.getLsbD 0 && !(src 0).isNan)])
  else
    let two := decide (1 ≤ x ∧ x ≤ 3) && decide (1 ≤ y)
    (v, (if two then [0, 1] else [0]).map fun i =>
      fpEvents (tyFmt y) (tyLane y v i) ((tyFmt y).convert r (src i)).2 (src i).isFinite)

/-- One lane of pack (R41, R45, R207). -/
def packLane (t : Nat) (sat : Bool) (r : Rnd) (a : Nat) : Nat × Events :=
  if tyI t then intLane t sat (signedOf 32 a)
  else
    let z := (tyFmt t).convert r (Fmt.f32.decode a)
    (z.1, fpEvents (tyFmt t) z.1 z.2 (Fmt.f32.decode a).isFinite)

/-- One lane of unpack (R44, R207). -/
def unpackLane (t v i : Nat) : Nat :=
  let n := tyLane t v i
  if tyI t then (signedOf (tyWidth t) n % (2 ^ 32 : Nat)).toNat
  else (Fmt.f32.convert .rne ((tyFmt t).decode n)).1

/-! ## Random numbers, lut4 (R185, R205, R206) -/

/-- hash (R205). -/
def hashVal (c k : Nat) : Nat :=
  let h := k ^^^ (c * 0x9E3779B9 % 2 ^ 32)
  let h := (h ^^^ (h / 2 ^ 16)) * 0x85EBCA6B % 2 ^ 32
  let h := (h ^^^ (h / 2 ^ 13)) * 0xC2B2AE35 % 2 ^ 32
  h ^^^ (h / 2 ^ 16)

/-- unif (R205). -/
def unifVal (a : Nat) : Nat := (Fmt.f32.round .rne false (a / 2 ^ 8) (-24)).1

/-- A number of n bytes of a list from byte at_. -/
def numAt (bs : List Byte) (at_ n : Nat) : Nat := ofBytes ((bs.drop at_).take n)

/-- Selector k of a lut4 record: source, BASE, STEP and the bits that must be zero (R185). -/
def lutSel (ext : List Byte) (k : Nat) : Nat := numAt ext (50 + 2 * k) 2

/-- lut4 (R185). -/
def lutVal (ext : List Byte) (a b c : Nat) : Nat :=
  let bit (j k : Nat) : Nat :=
    let x := lutSel ext k
    let src := ([a, b, c, 0] : List Nat).getD (x % 4) 0
    src / 2 ^ ((fld x 2 5 + fld x 7 5 * j) % 32) % 2
  ((List.range 32).map fun j =>
    let idx := numAt ext (34 + j / 2) 1 / 2 ^ (4 * (j % 2)) % 16
    let i := bit j 3 * 8 + bit j 2 * 4 + bit j 1 * 2 + bit j 0
    numAt ext (2 + 2 * idx) 2 / 2 ^ i % 2 * 2 ^ j).sum

/-! ## Element words (R80, R81, R195) -/

/-- An element's configuration (R80). -/
structure ElemCfg where
  op : Nat
  ty : Nat
  rnd : Nat
  opt : Bool
  sel : List Nat
  imode : Nat
  omask : Nat
  konst : Nat
  deriving DecidableEq, Repr

/-- Reading an element word (R80). -/
def elemCfg (x : Nat) : ElemCfg where
  op := fld x 0 6
  ty := fld x 6 3
  rnd := fld x 9 2
  opt := fbit x 11
  sel := [fld x 12 4, fld x 16 4, fld x 20 4]
  imode := fld x 24 2
  omask := fld x 26 6
  konst := fld x 32 32

/-- The select of an input. -/
def ElemCfg.selOf (x : ElemCfg) (k : Nat) : Nat := x.sel.getD k 0

/-- The inputs an op uses (R195); those of lut4 are the ones its selectors name (R185). -/
def opInputs (op : Nat) (ext : List Byte) : List Nat :=
  if op = 0x22 then [0, 1, 2].filter fun k => (List.range 4).any fun q => lutSel ext q % 4 == k
  else if op = 0 then []
  else if op = 0x05 ∨ op = 0x0B ∨ op = 0x14 then [0, 1, 2]
  else if (0x02 ≤ op ∧ op ≤ 0x04) ∨ op = 0x06 ∨ op = 0x07 ∨ op = 0x0A ∨ (0x0C ≤ op ∧ op ≤ 0x0E)
      ∨ (0x10 ≤ op ∧ op ≤ 0x12) ∨ op = 0x15 ∨ op = 0x20 ∨ op = 0x2B then [0, 1]
  else if 0x1B ≤ op ∧ op ≤ 0x1F then [0, 2]
  else [0]

/-- The types an op accepts (R195). -/
def opTakes (op t : Nat) : Bool :=
  if op = 0 ∨ op = 0x21 ∨ (0x1B ≤ op ∧ op ≤ 0x1F) then decide (t = 0)
  else if op = 0x05 then tyF t
  else if op = 0x08 ∨ op = 0x09 then tyF t || tySigned t
  else if 0x0C ≤ op ∧ op ≤ 0x0F then decide (t = 4 ∨ t = 5)
  else if 0x10 ≤ op ∧ op ≤ 0x12 then tyI t
  else if op = 0x16 ∨ op = 0x20 ∨ op = 0x22 then decide (t = 5)
  else if op = 0x23 ∨ op = 0x24 then decide (t = 1 ∨ t = 2 ∨ t = 3 ∨ t = 6 ∨ t = 7)
  else if 0x25 ≤ op ∧ op ≤ 0x29 then decide (t = 0 ∨ t = 4 ∨ t = 5)
  else if op = 0x13 then decide (t ≤ 5)
  else if (0x02 ≤ op ∧ op ≤ 0x04) ∨ op = 0x06 ∨ op = 0x07 ∨ op = 0x0A ∨ op = 0x14 ∨ op = 0x17 ∨ op = 0x18 then
    tyF t || tyI t
  else true

/-- Whether MOD [11] has a meaning (R195). -/
def opOpt (op t : Nat) : Bool :=
  if (0x02 ≤ op ∧ op ≤ 0x04) ∨ op = 0x17 then tyI t
  else if op = 0x08 ∨ op = 0x09 then tySigned t
  else if op = 0x23 then decide (t = 6 ∨ t = 7)
  else decide (op = 0x0A ∨ op = 0x16 ∨ op = 0x18 ∨ op = 0x28 ∨ op = 0x29)

/-- Whether the rounding field is read (R191, R195). -/
def opRounds (op t : Nat) : Bool :=
  if (0x02 ≤ op ∧ op ≤ 0x04) ∨ op = 0x17 ∨ op = 0x18 then tyF t
  else if op = 0x05 then true
  else if op = 0x13 then decide (t ≠ 3)
  else if op = 0x23 then decide (t = 1 ∨ t = 2)
  else decide (op = 0x25 ∧ t = 0)

/-- The latency L, which is the results an element holds less one (R172, R195). -/
def opLat (op t : Nat) : Nat :=
  if op = 0x02 ∨ op = 0x03 ∨ op = 0x17 ∨ op = 0x18 then (if tyF t then 4 else 1)
  else if op = 0x04 then (if tyF t then 4 else 3)
  else if op = 0x05 ∨ op = 0x13 ∨ op = 0x23 then 4
  else if op = 0x06 ∨ op = 0x07 ∨ op = 0x0A ∨ op = 0x14 then (if tyF t then 2 else 1)
  else if op = 0x20 then 3
  else if op = 0x25 then (if t = 0 then 16 else 4)
  else if 0x26 ≤ op ∧ op ≤ 0x29 then (if t = 0 then 8 else 4)
  else 1

/-- Whether an op is a unit op (R184). -/
def isUnitOp (op : Nat) : Bool := decide (0x1B ≤ op ∧ op ≤ 0x1F)
/-- Whether an op is a reducer (R183). -/
def isReducer (op : Nat) : Bool := decide (0x25 ≤ op ∧ op ≤ 0x29)

/-! ## Operations of one firing (R196 to R202, R205, R206) -/

/-- The comparison of cmp in a lane (R199). -/
def laneHolds (t : Nat) (eq : Bool) (a b : Nat) : Bool :=
  if tyF t then ((tyFmt t).cmp (if eq then .eq else .lt) a b).1
  else if eq then decide (a = b) else decide (tyInt t a < tyInt t b)

/-- One lane of a shift (R200). -/
def shiftLane (op t a n : Nat) : Nat :=
  let w := tyWidth t
  if op = 0x10 then (if n < w then a * 2 ^ n % 2 ^ w else 0)
  else if op = 0x11 then (if n < w then a / 2 ^ n else 0)
  else (signedOf w a / (2 ^ min n w : Nat) % (2 ^ w : Nat)).toNat

/-- add, sub, mul and fma in a lane (R197). -/
def arithLane (x : ElemCfg) (a b c : Nat) : Nat × Events :=
  let t := x.ty
  let r := rndOf x.rnd
  if tyF t then
    let f := tyFmt t
    if x.op = 0x02 then fpLane t [a, b] (f.add r a b)
    else if x.op = 0x03 then fpLane t [a, b] (f.sub r a b)
    else if x.op = 0x04 then fpLane t [a, b] (f.mul r a b)
    else fpLane t [a, b, c] (f.fma r a b c)
  else
    let p := tyInt t a
    let q := tyInt t b
    intLane t x.opt (if x.op = 0x02 then p + q else if x.op = 0x03 then p - q else p * q)

/-- abs and neg in a lane (R198). -/
def signLane (x : ElemCfg) (a : Nat) : Nat × Events :=
  let t := x.ty
  if tyF t then
    let f := tyFmt t
    let v := if (f.decode a).isNan then f.nan
      else if x.op = 0x08 then a % f.signBit else (a + f.signBit) % 2 ^ f.width
    fpLane t [a] (v, 0)
  else intLane t x.opt (if x.op = 0x08 then (tyInt t a).natAbs else -tyInt t a)

/-- clamp in a lane (R198). -/
def clampLane (t a b c : Nat) : Nat × Events :=
  let v := laneMinMax t false (laneMinMax t true a b) c
  let nan := tyF t && ((tyFmt t).decode a).isNan
  if tyF t then
    let e := fpLane t [a, b, c] (v, 0)
    (v, { e.2 with sat := decide (v ≠ a) && !nan })
  else (v, satEvent (decide (v ≠ a)))

/-- The bit token of cmp: the condition holds in every lane (R199). -/
def cmpBit (x : ElemCfg) (a b : Nat) : Bool :=
  (List.range (32 / tyWidth x.ty)).all fun i => laneHolds x.ty x.opt (tyLane x.ty a i) (tyLane x.ty b i)

/-- The result of a firing of an op without state. -/
def opResult (x : ElemCfg) (ext : List Byte) (a b c : Nat) : Counted :=
  let t := x.ty
  let op := x.op
  let la (i : Nat) : Nat := tyLane t a i
  let lb (i : Nat) : Nat := tyLane t b i
  let lc (i : Nat) : Nat := tyLane t c i
  if 0x02 ≤ op ∧ op ≤ 0x05 then byLane t fun i => arithLane x (la i) (lb i) (lc i)
  else if op = 0x06 ∨ op = 0x07 then
    byLane t fun i =>
      let v := laneMinMax t (decide (op = 0x07)) (la i) (lb i)
      if tyF t then fpLane t [la i, lb i] (v, 0) else (v, noEvents)
  else if op = 0x08 ∨ op = 0x09 then byLane t fun i => signLane x (la i)
  else if op = 0x0A then
    byLane t fun i => (if laneHolds t x.opt (la i) (lb i) then 2 ^ tyWidth t - 1 else 0, noEvents)
  else if op = 0x0B then plainResult (if c ≠ 0 then a else b)
  else if op = 0x0C then plainResult (a &&& b)
  else if op = 0x0D then plainResult (a ||| b)
  else if op = 0x0E then plainResult (a ^^^ b)
  else if op = 0x0F then plainResult (2 ^ 32 - 1 - a)
  else if 0x10 ≤ op ∧ op ≤ 0x12 then byLane t fun i => (shiftLane op t (la i) (lb i), noEvents)
  else if op = 0x13 then cvtResult t (x.konst % 8) (rndOf x.rnd) a
  else if op = 0x14 then byLane t fun i => clampLane t (la i) (lb i) (lc i)
  else if op = 0x1A then plainResult x.konst
  else if op = 0x20 then plainResult (hashVal a b)
  else if op = 0x21 then plainResult (unifVal a)
  else if op = 0x22 then plainResult (lutVal ext a b c)
  else plainResult a

/-! ## Running sums (R203): the value, what its last step raised, which lanes met an operand that is not finite -/

/-- A running value in a lane after a token: the new value, whether the step underflowed, whether it clamped. -/
def stepLane (x : ElemCfg) (v a : Nat) : Nat × Bool × Bool :=
  if tyF x.ty then
    let r := (tyFmt x.ty).add (rndOf x.rnd) v a
    (r.1, r.2.getLsbD 3, false)
  else
    let r := intLane x.ty (x.opt && decide (x.op = 0x17)) (tyInt x.ty v + tyInt x.ty a)
    (r.1, false, r.2.sat)

/-- Bits of a word, one for each lane that meets a test. -/
def laneMask (t : Nat) (p : Nat → Bool) : Nat :=
  ((List.range (32 / tyWidth t)).map fun i => if p i then 2 ^ i else 0).sum

/-- The three state words of a running sum at the start of a stream (R203). -/
def sumStart (x : ElemCfg) : List (BitVec 32) :=
  let nf := if tyF x.ty then laneMask x.ty fun i => !((tyFmt x.ty).decode (tyLane x.ty x.konst i)).isFinite else 0
  [BitVec.ofNat 32 x.konst, 0, BitVec.ofNat 32 nf]

/-- The three state words after a token. -/
def sumStep (x : ElemCfg) (st : List (BitVec 32)) (a : Nat) : List (BitVec 32) :=
  let t := x.ty
  let v := (st.getD 0 0).toNat
  let lanes := (List.range (32 / tyWidth t)).map fun i => stepLane x (tyLane t v i) (tyLane t a i)
  let value := (lanes.zipIdx.map fun z => z.1.1 * 2 ^ (tyWidth t * z.2)).sum
  let unf := laneMask t fun i => (lanes.getD i (0, false, false)).2.1
  let sat := laneMask t fun i => (lanes.getD i (0, false, false)).2.2
  let nf := if tyF t then laneMask t fun i => !((tyFmt t).decode (tyLane t a i)).isFinite else 0
  [BitVec.ofNat 32 value, BitVec.ofNat 32 (unf + ((st.getD 1 0).toNat / 256 ||| sat) * 256),
    st.getD 2 0 ||| BitVec.ofNat 32 nf]

/-- A floating-point lane as a result: every NaN is the canonical one (R36). -/
def canonLane (t v : Nat) : Nat := if tyF t && ((tyFmt t).decode v).isNan then (tyFmt t).nan else v

/-- A running value as a result (R36, R203): an infinity counts unless a token or CONST was not finite, underflow is the
last step's, a clamp any step's. Marked DESIGN CHOICE, log 81. -/
def sumResult (x : ElemCfg) (st : List (BitVec 32)) : Counted :=
  let t := x.ty
  byLane t fun i =>
    let v := canonLane t (tyLane t (st.getD 0 0).toNat i)
    (v,
      if tyF t then fpEvents (tyFmt t) v (if (st.getD 1 0).getLsbD i then fUF else 0) (!(st.getD 2 0).getLsbD i)
      else satEvent ((st.getD 1 0).getLsbD (8 + i)))

/-! ## Reducers (R208) -/

/-- A node of the tree: a value with its lane, and whether its last step underflowed. -/
structure RedNode where
  v : Nat
  lane : Nat
  unf : Bool
  deriving DecidableEq, Repr

/-- Whether y wins over x in ramax and ramin (R208). Marked DEDUCED, log 62. -/
def redWins (t : Nat) (mx : Bool) (x y : Nat) : Bool :=
  if t = 0 then
    let p := Fmt.f32.decode x
    let q := Fmt.f32.decode y
    if q.isNan then false
    else if p.isNan then true
    else if mx then decide (p.cmp q < 0) else decide (q.cmp p < 0)
  else if mx then decide (tyInt t x < tyInt t y) else decide (tyInt t y < tyInt t x)

/-- Combining two nodes (R208). Marked DEDUCED, log 62. -/
def redCombine (c : ElemCfg) (x y : RedNode) : RedNode :=
  if c.op = 0x25 then
    if c.ty = 0 then
      let r := Fmt.f32.add (rndOf c.rnd) x.v y.v
      ⟨r.1, 0, r.2.getLsbD 3⟩
    else ⟨(x.v + y.v) % 2 ^ 32, 0, false⟩
  else if c.op = 0x26 ∨ c.op = 0x27 then ⟨laneMinMax c.ty (decide (c.op = 0x26)) x.v y.v, 0, false⟩
  else if redWins c.ty (decide (c.op = 0x28)) x.v y.v then y else x

/-- One level of the tree (R208). -/
def redLevel (c : ElemCfg) (xs : List (Option RedNode)) : List (Option RedNode) :=
  match xs with
  | some x :: some y :: r => some (redCombine c x y) :: redLevel c r
  | some x :: none :: r => some x :: redLevel c r
  | none :: y :: r => y :: redLevel c r
  | [x] => [x]
  | [] => []

/-- A reducer's token for the lanes of a row word (R36, R208). -/
def redResult (c : ElemCfg) (lanes : List (Option (BitVec 32))) : Counted :=
  let start := lanes.zipIdx.map fun x => x.1.map fun v => (⟨v.toNat, x.2, false⟩ : RedNode)
  let r := (((redLevel c (redLevel c (redLevel c (redLevel c start)))).head?).join).getD ⟨0, 0, false⟩
  let fin := lanes.all fun x => x.all fun v => (Fmt.f32.decode v.toNat).isFinite
  let nan := decide (c.ty = 0) && (Fmt.f32.decode r.v).isNan
  let v := if nan then Fmt.f32.nan else r.v
  if 0x28 ≤ c.op then plainResult (if c.opt then v else if nan then 2 ^ 32 - 1 else r.lane)
  else (v, if c.ty = 0 then [fpEvents .f32 v (if r.unf then fUF else 0) fin] else [])

end Sys2Proof.Machine
end

