-- ==== Sys2Proof/Machine/FabricImage.lean ====
section
/-! DEFINITION. A configuration image: its words (R80 to R84, R180, R186), the links of the patch it makes (R170 to R176,
R187), the checks of FCFG (R85, R189). -/

namespace Sys2Proof.Machine

open Sys2Proof

/-- A configuration image: a configuration store and the byte at which the image begins (R84). -/
structure Image where
  store : Table Byte
  base : Nat
  deriving DecidableEq, Repr

/-- Image slot n of a core's configuration store (R84). -/
def Core.image (k : Core) (n : Nat) : Image := ⟨k.cstore, n * 2048⟩

/-- The n bytes at an offset. -/
def Image.bytes (m : Image) (o n : Nat) : List Byte := tgets 0 m.store (m.base + o) n
/-- The number that n bytes at an offset hold. -/
def Image.num (m : Image) (o n : Nat) : Nat := ofBytes (Image.bytes m o n)
/-- The word at a byte offset. -/
def Image.word (m : Image) (o : Nat) : Nat := Image.num m o 8
/-- The word of element e = 16r + c. -/
def Image.elem (m : Image) (e : Nat) : Nat := Image.word m (64 + 8 * e)
/-- The configuration of an element. -/
def Image.cfg (m : Image) (e : Nat) : ElemCfg := elemCfg (Image.elem m e)
/-- The word of router e. -/
def Image.router (m : Image) (e : Nat) : Nat := Image.word m (576 + 8 * e)
/-- The shape record of generator g. -/
def Image.shape (m : Image) (g : Nat) : BitVec 256 := BitVec.ofNat 256 (Image.num m (1088 + 32 * g) 32)
/-- The word of sink k. -/
def Image.sink (m : Image) (k : Nat) : Nat := Image.word m (1344 + 8 * k)
/-- NEXT. -/
def Image.next (m : Image) : Nat := fld (Image.word m 0) 44 4
/-- Whether generator g has a shape record (AGV). -/
def Image.hasGen (m : Image) (g : Nat) : Bool := fbit (Image.word m 0) (36 + g)
/-- Whether sink k is used (SKV). -/
def Image.hasSink (m : Image) (k : Nat) : Bool := fbit (Image.word m 0) (28 + k)
/-- Extension record i. -/
def Image.ext (m : Image) (i : Nat) : List Byte := Image.bytes m (1408 + 64 * i) 64
/-- Whether an op takes an extension record, and of which kind (R84). -/
def extKind (op : Nat) : Nat := if op = 0x22 then 1 else if op = 0x2A then 2 else 0
/-- The extension record of a lut4 or reord element; none reads as zero. -/
def Image.extOf (m : Image) (e : Nat) : List Byte :=
  if extKind (Image.cfg m e).op = 0 then []
  else
    match (List.range (Image.next m)).find? fun i => Image.num m (1408 + 64 * i) 1 == e with
    | some i => Image.ext m i
    | none => []

/-! ## Shape records (R180) -/

/-- A field of a shape record. -/
def gfld (x : BitVec 256) (lo n : Nat) : Nat := x.toNat / 2 ^ lo % 2 ^ n
/-- BASE. -/
def gBase (x : BitVec 256) : Nat := gfld x 0 80
/-- EXT0 to EXT2. -/
def gExt (x : BitVec 256) (i : Nat) : Nat := gfld x (80 + 16 * i) 16
/-- STR0 to STR2. -/
def gStr (x : BitVec 256) (i : Nat) : Int := (BitVec.ofNat 24 (gfld x (128 + 24 * i) 24)).toInt
/-- KIND. -/
def gKind (x : BitVec 256) : Nat := gfld x 204 2
/-- WIN. -/
def gWin (x : BitVec 256) : Nat := gfld x 206 4
/-- SHN. -/
def gShn (x : BitVec 256) : Nat := gfld x 210 16
/-- PSEL. -/
def gPsel (x : BitVec 256) : Nat := gfld x 226 3
/-- Tokens of a pass. -/
def gTotal (x : BitVec 256) : Nat := gExt x 0 * gExt x 1 * gExt x 2

/-- k of request n of a pass (R179). -/
def gStep (x : BitVec 256) (n : Nat) : Int :=
  (n % gExt x 0 : Nat) * gStr x 0 + (n / gExt x 0 % gExt x 1 : Nat) * gStr x 1
    + (n / (gExt x 0 * gExt x 1) : Nat) * gStr x 2

/-- Writing a field that PSEL or AGPRM names (R181, R217). -/
def gWrite (x : BitVec 256) (field : Nat) (v : BitVec 32) : BitVec 256 :=
  let lo := if field = 1 then 0 else 80 + 16 * (field - 2)
  let n := if field = 1 then 32 else 16
  BitVec.ofNat 256 (x.toNat - gfld x lo n * 2 ^ lo + v.toNat % 2 ^ n * 2 ^ lo)

/-! ## Router words (R82) -/

/-- The source of word output o. -/
def rtSrc (x o : Nat) : Nat := fld x (4 * o) 4
/-- STI. -/
def rtSti (x : Nat) : Nat := fld x 16 4
/-- STC. -/
def rtStc (x : Nat) : Nat := fld x 20 2
/-- MGA. -/
def rtMga (x : Nat) : Nat := fld x 22 4
/-- MGB. -/
def rtMgb (x : Nat) : Nat := fld x 26 4
/-- MGC. -/
def rtMgc (x : Nat) : Nat := fld x 30 2
/-- CYI. -/
def rtCyi (x : Nat) : Nat := fld x 32 4
/-- RDN. -/
def rtRdn (x : Nat) : Bool := fbit x 36
/-- CTLS. -/
def rtCtls (x : Nat) : Nat := fld x 40 4
/-- CTLO of direction o. -/
def rtCtlo (x o : Nat) : Bool := fbit x (44 + o)

/-! ## Places. Buffer e × 32 + p of element e: p 0 to 2 the inputs, 3 steer data, 5 and 6 the merge inputs, 8 the carry
input, 9 + o the pass-through to output o; 2048 + g the parameter port of generator g, 2056 + k the input of sink k.
Control input e × 4 + d; 256 + g the parameter port, 264 + k the sink, 300 + n lane barrier n. Directions 0 to 3 are
north, east, south, west (R170, R171, R174). -/

/-- The neighbour of a router in a direction. -/
def neighbour (e d : Nat) : Option Nat :=
  if d = 0 then (if 16 ≤ e then some (e - 16) else none)
  else if d = 1 then (if e % 16 < 15 then some (e + 1) else none)
  else if d = 2 then (if e < 48 then some (e + 16) else none)
  else if 0 < e % 16 then some (e - 1) else none

/-- The opposite direction. -/
def opposite (d : Nat) : Nat := (d + 2) % 4

/-- The router operators and their data inputs: place, source code. -/
def opPlaces (x : Nat) : List (Nat × Nat) := [(3, rtSti x), (5, rtMga x), (6, rtMgb x), (8, rtCyi x)]

/-- Whether an operator's place belongs to an enabled operator (R176). -/
def placeOn (x p : Nat) : Bool := if p = 5 ∨ p = 6 then decide (rtMga x ≠ 0) else true

/-- The buffers that take the words arriving at router e from direction d; what nothing takes is discarded. Marked
DESIGN CHOICE, log 80. -/
def Image.wordIn (m : Image) (e d : Nat) : List Nat :=
  let c := Image.cfg m e
  let x := Image.router m e
  (((List.range 3).filter fun k => c.selOf k == d + 1).map fun k => e * 32 + k)
    ++ (((List.range 4).filter fun o => rtSrc x o == d + 1).map fun o => e * 32 + 9 + o)
    ++ (((opPlaces x).filter fun p => p.2 == d + 1 && placeOn x p.1).map fun p => e * 32 + p.1)

/-- The buffers a word that leaves router e in direction o enters (R170); what leaves toward an unused sink or a
parameter port without a use is discarded. Marked DESIGN CHOICE, log 80. -/
def Image.wordOut (m : Image) (e o : Nat) : List Nat :=
  match neighbour e o with
  | some q => Image.wordIn m q (opposite o)
  | none =>
    if o = 0 ∧ e % 2 = 0 then
      let g := e / 2
      if Image.hasGen m g && decide (gPsel (Image.shape m g) ≠ 0) then [2048 + g] else []
    else if o = 2 ∧ e % 2 = 1 then
      let k := e % 16 / 2
      if Image.hasSink m k then [2056 + k] else []
    else []

/-- The control input that a control token leaving router e in direction o enters (R170, R187). Marked DESIGN CHOICE,
log 80. -/
def Image.ctlOut (m : Image) (e o : Nat) : Option Nat :=
  match neighbour e o with
  | some q => some (q * 4 + opposite o)
  | none =>
    if o = 0 ∧ e % 2 = 0 then
      (if Image.hasGen m (e / 2) && decide (gPsel (Image.shape m (e / 2)) ≠ 0) then some (256 + e / 2) else none)
    else if o = 2 ∧ e % 2 = 1 then (if Image.hasSink m (e % 16 / 2) then some (264 + e % 16 / 2) else none)
    else if o = 1 then some (300 + e / 16) else none

/-- The users of a control input for a token: an input k, a data place, 4 the steer's control, 7 the merge's, 20 the
router's control output (R174). -/
def Image.ctlUsers (m : Image) (key : Nat) (t : CTok) : List Nat :=
  if 300 ≤ key then []
  else if 256 ≤ key then (if t = .e then [0] else [])
  else
    let e := key / 4
    let d := key % 4
    let c := Image.cfg m e
    let x := Image.router m e
    (if t = .e then
      ((List.range 3).filter fun k => c.selOf k == d + 1)
        ++ (((opPlaces x).filter fun p => p.2 == d + 1 && placeOn x p.1).map Prod.fst)
     else [])
    ++ (if rtSti x ≠ 0 ∧ rtStc x = d then [4] else [])
    ++ (if rtMga x ≠ 0 ∧ rtMgc x = d then [7] else [])
    ++ (if rtCtls x = d + 1 then [20] else [])

/-- The direction from which a buffer is fed, if it is fed from a link. -/
def Image.feed (m : Image) (key : Nat) : Option Nat :=
  let e := key / 32
  let p := key % 32
  let x := Image.router m e
  let code :=
    if p ≤ 2 then (Image.cfg m e).selOf p
    else if 9 ≤ p then rtSrc x (p - 9)
    else (((opPlaces x).find? fun q => q.1 == p).map Prod.snd).getD 0
  if 1 ≤ code ∧ code ≤ 4 then some (code - 1) else none

/-- The inputs of element e that read an operator's output, coded as a router source 6 to 9. -/
def Image.opInputsOf (m : Image) (e code : Nat) : List Nat :=
  ((List.range 3).filter fun k => (Image.cfg m e).selOf k == code + 3).map fun k => e * 32 + k

/-- The buffers that take an operator's output, coded as a router source 6 to 9 (R176). -/
def Image.readers (m : Image) (e code : Nat) : List Nat :=
  Image.opInputsOf m e code
    ++ (List.range 4).flatMap fun o => if rtSrc (Image.router m e) o = code then Image.wordOut m e o else []

/-- The operator places that read an element's output, code 5 (R82). -/
def Image.forkOps (m : Image) (e : Nat) : List Nat :=
  let x := Image.router m e
  ((opPlaces x).filter fun p => p.2 == 5 && placeOn x p.1).map fun p => e * 32 + p.1

/-- The feedback inputs of an element (R173). -/
def Image.feedback (m : Image) (e : Nat) : List Nat :=
  ((List.range 3).filter fun k => (Image.cfg m e).selOf k == 7).map fun k => e * 32 + k

/-- The branches of an element's fork that end in buffers, but for feedback (R173). -/
def Image.fork (m : Image) (e : Nat) : List Nat :=
  (List.range 4).flatMap (fun o => if fbit (Image.cfg m e).omask o then Image.wordOut m e o else [])
    ++ Image.forkOps m e

/-- Whether an element's result goes to its row lane. -/
def Image.toLane (m : Image) (e : Nat) : Bool := fbit (Image.cfg m e).omask 4

/-- The control inputs the element's end-of-stream output reaches (R177). -/
def Image.endOut (m : Image) (e : Nat) : List Nat :=
  let x := Image.router m e
  if rtCtls x = 5 then (List.range 4).filterMap fun o => if rtCtlo x o then Image.ctlOut m e o else none else []

/-- The control inputs that the control input from direction d is passed on to. -/
def Image.passOut (m : Image) (e d : Nat) : List Nat :=
  let x := Image.router m e
  if rtCtls x = d + 1 then (List.range 4).filterMap fun o => if rtCtlo x o then Image.ctlOut m e o else none else []

/-! ## The row network (R175) -/

/-- Whether lane c of the word that row r sends down is valid; each row may pass on what the row above sends. -/
def Image.laneValid (m : Image) (fuel r c : Nat) : Bool :=
  match fuel with
  | 0 => false
  | fuel + 1 =>
    let e := 16 * r + c
    Image.toLane m e || (rtRdn (Image.router m e) && decide (0 < r) && Image.laneValid m fuel (r - 1) c)

/-- The valid lanes of the word that row r sends down. -/
def Image.lanesOf (m : Image) (r : Nat) : List Nat := (List.range 16).filter fun c => Image.laneValid m 3 r c

/-- The users of row r's buffer: c × 4 + k an input, 64 + c a router that passes a valid lane on, 100 the reducer
(R175). A router with RDN on a lane that is not valid, or beside OMASK [30], is no user. Marked DESIGN CHOICE, log 92.
-/
def Image.rowUsers (m : Image) (r : Nat) : List Nat :=
  ((List.range 16).flatMap fun c =>
      let x := Image.cfg m (16 * r + c)
      if isReducer x.op then [100]
      else ((List.range 3).filter fun k => x.selOf k == 5).map fun k => c * 4 + k)
    ++ ((List.range 16).filter fun c => rtRdn (Image.router m (16 * r + c)) && !Image.toLane m (16 * r + c)
      && decide (0 < r) && Image.laneValid m 3 (r - 1) c).map fun c => 64 + c

/-! ## Loop inputs (R370) -/

/-- The buffers that what stands in a buffer can go on to; 3000 + e stands for the lane of element e's column and row.
-/
def Image.succs (m : Image) (key : Nat) : List Nat :=
  let lane (e : Nat) : List Nat :=
    if e < 48 then
      (((List.range 3).filter fun k => (Image.cfg m (e + 16)).selOf k == 5).map fun k => (e + 16) * 32 + k)
        ++ (if rtRdn (Image.router m (e + 16)) then [3000 + e + 16] else [])
        ++ (if isReducer (Image.cfg m (16 * (e / 16) + 31)).op then [(16 * (e / 16) + 31) * 32] else [])
    else []
  if 3000 ≤ key then lane (key - 3000)
  else if 2048 ≤ key then []
  else
    let e := key / 32
    let p := key % 32
    if p ≤ 2 then Image.fork m e ++ Image.feedback m e ++ (if Image.toLane m e then [3000 + e] else [])
    else if p = 3 then Image.readers m e 6 ++ Image.readers m e 7
    else if p = 5 ∨ p = 6 then Image.readers m e 8
    else if p = 8 then Image.readers m e 9
    else Image.wordOut m e (p - 9)

/-- What can be reached from a list of buffers. -/
def Image.reach (m : Image) (fuel : Nat) (todo seen : List Nat) : List Nat :=
  match fuel, todo with
  | 0, _ => seen
  | _, [] => seen
  | fuel + 1, x :: r =>
    if seen.contains x then Image.reach m fuel r seen
    else Image.reach m fuel (r ++ Image.succs m x) (x :: seen)

/-- Whether an input of an element, or the data place of an operator, is a loop input: fed back from the element's own
fork, or from the operator's own output. Marked DEDUCED, log 63. -/
def Image.loopInput (m : Image) (key : Nat) : Bool :=
  let e := key / 32
  let start := Image.succs m (e * 32) ++ (if key % 32 ≤ 2 then [] else Image.succs m key)
  (Image.reach m 8192 start []).contains key

/-- The element whose end-of-stream output reaches the control input from direction d of router e (R174, R177). -/
def Image.ctlSource (m : Image) (fuel e d : Nat) : Option Nat :=
  match fuel, neighbour e d with
  | 0, _ | _, none => none
  | fuel + 1, some q =>
    let x := Image.router m q
    if !rtCtlo x (opposite d) ∨ rtCtls x = 0 then none
    else if rtCtls x = 5 then (if (Image.cfg m q).op = 0 then none else some q)
    else Image.ctlSource m fuel q (rtCtls x - 1)

/-- The direction from which a steer (0) or a merge (1) takes its control, if the operator is enabled. -/
def Image.opControl (m : Image) (e o : Nat) : Option Nat :=
  let x := Image.router m e
  if o = 0 ∧ rtSti x ≠ 0 then some (rtStc x) else if o = 1 ∧ rtMga x ≠ 0 then some (rtMgc x) else none

/-- Whether the control of an operator leads back from its own output: its source element is reached from it. Marked
DEDUCED, log 64. -/
def Image.loopControl (m : Image) (e o d : Nat) : Bool :=
  let out := if o = 0 then Image.readers m e 6 ++ Image.readers m e 7 else Image.readers m e 8
  match Image.ctlSource m 256 e d with
  | some q => let seen := Image.reach m 8192 out []; (List.range 3).any fun k => seen.contains (q * 32 + k)
  | none => false

/-- The inputs of an element that take part in alignment (R370). -/
def Image.aligned (m : Image) (e : Nat) : List Nat :=
  (List.range 3).filter fun k =>
    let z := (Image.cfg m e).selOf k
    decide (z ≠ 0 ∧ z ≠ 6 ∧ z ≠ 7 ∧ z ≠ 8) && !Image.loopInput m (e * 32 + k)

/-- Whether all the inputs of an element are constants or its own output (R188, R369). -/
def Image.sourceless (m : Image) (e : Nat) : Bool :=
  let c := Image.cfg m e
  decide (c.op ≠ 0) && c.sel.all fun z => z == 0 || z == 6 || z == 7

/-! ## The checks of FCFG (R85, R189): the offsets of the words that fail (R348) -/

/-- Whether a word input direction leads nowhere. -/
def noWordIn (e d : Nat) : Bool := (neighbour e d).isNone && !(decide (d = 0 ∧ e % 2 = 0))
/-- Whether a word output direction leads nowhere. -/
def noWordOut (e o : Nat) : Bool :=
  (neighbour e o).isNone && !(decide (o = 0 ∧ e % 2 = 0)) && !(decide (o = 2 ∧ e % 2 = 1))
/-- Whether a control input direction leads nowhere. -/
def noCtlIn (e d : Nat) : Bool := (neighbour e d).isNone && !(decide (d = 0 ∧ e % 2 = 0)) && !(decide (d = 3))
/-- Whether a control output direction leads nowhere. -/
def noCtlOut (e o : Nat) : Bool := noWordOut e o && !(decide (o = 1))

/-- Whether an op stands where R83 and R189 forbid it. -/
def badPlace (op e : Nat) : Bool :=
  (decide (e % 16 = 15) && !(decide (op ≤ 1)) && !isReducer op)
    || (isReducer op && !(decide (e % 16 = 15 ∧ 16 ≤ e)))
    || (decide (op = 0x2A) && !(decide (e < 16 ∧ e % 2 = 0)))

/-- Whether an element's word breaks a rule that concerns it alone. Marked DEDUCED, log 64. -/
def badElem (c : ElemCfg) (ext : List Byte) (e : Nat) : Bool :=
  let unit := isUnitOp c.op
  let uses := opInputs c.op ext
  decide (0x2D ≤ c.op) || badPlace c.op e || decide (c.imode = 3)
    || (List.range 3).any (fun k =>
      let z := c.selOf k
      decide (13 ≤ z) || (decide (z ≠ 0) && !uses.contains k) || (decide (1 ≤ z ∧ z ≤ 4) && noWordIn e (z - 1))
        || (decide (z = 5) && decide (e < 16)) || (decide (z = 8) && !(unit && decide (k = 2))))
    || (List.range 4).any (fun o => fbit c.omask o && noWordOut e o)
    || (fbit c.omask 4 && decide (48 ≤ e))
    || (fbit c.omask 5 != unit) || (unit && decide (c.selOf 2 ≠ 8))
    || !opTakes c.op c.ty || (decide (c.rnd ≠ 0) && !opRounds c.op c.ty) || (c.opt && !opOpt c.op c.ty)
    || (decide (c.op = 0x13) && (decide (8 ≤ c.konst) || decide (c.selOf 0 = 6) || !cvtPair c.konst c.ty))
    || (decide (c.op = 0x2B) && decide (c.imode ≠ 0))
    || (decide (c.op = 0x19 ∨ c.op = 0x1A ∨ c.op = 0x2C) && decide (c.selOf 0 = 6 ∨ c.selOf 0 = 7))
    || (isReducer c.op && decide (c.selOf 0 ≠ 5)) || (decide (c.op = 0x2A) && decide (c.selOf 0 ≠ 1))

/-- Whether a router's word breaks a rule. -/
def badRouter (x e : Nat) : Bool :=
  decide (2 ^ 48 ≤ x) || decide (fld x 37 3 ≠ 0) || decide (6 ≤ rtCtls x)
    || (opPlaces x).any (fun p => decide (6 ≤ p.2) || (decide (1 ≤ p.2 ∧ p.2 ≤ 4) && noWordIn e (p.2 - 1)))
    || (List.range 4).any (fun o =>
      let z := rtSrc x o
      decide (z = 5 ∨ 10 ≤ z) || (decide (1 ≤ z ∧ z ≤ 4) && noWordIn e (z - 1)) || (decide (z ≠ 0) && noWordOut e o)
        || (rtCtlo x o && noCtlOut e o))
    || (decide (1 ≤ rtCtls x) && decide (rtCtls x ≤ 4) && noCtlIn e (rtCtls x - 1))
    || (decide (rtSti x ≠ 0) && noCtlIn e (rtStc x)) || (decide (rtMga x ≠ 0) && noCtlIn e (rtMgc x))
    || (rtRdn x && decide (e < 16 ∨ 48 ≤ e))

/-- The first word of a shape record that fails (R180, R189), as an offset in the record. -/
def shapeFault (x : BitVec 256) : Option Nat :=
  let word0 := decide (gKind x = 0) && decide (gfld x 32 32 ≠ 0)
  let word1 := (decide (gKind x = 0) && decide (gfld x 64 16 ≠ 0)) || decide (gTotal x = 0)
  let word3 := decide (gfld x 200 4 ≠ 0) || decide (gfld x 229 27 ≠ 0) || decide (4 < gPsel x) || decide (1 < gKind x)
    || (decide (gKind x = 1) && decide (gShn x ≠ 0))
  if word0 then some 0 else if word1 then some 8 else if word3 then some 24 else none

/-- The places of a reord's block in the order they are emitted (R182). -/
def reordMap (ext : List Byte) : List Nat :=
  let x0 := numAt ext 2 1 + 1
  let x1 := numAt ext 3 1 + 1
  (List.range (x0 * x1)).map fun n =>
    (n % x0 * numAt ext 4 2 + n / x0 * numAt ext 6 2 + numAt ext 8 2) % (x0 * x1)

/-- The first word of an extension record that fails by itself, as an offset in the record (R182, R185). -/
def extFault (ext : List Byte) : Option Nat :=
  let kind := numAt ext 1 1
  let zeroFrom (n : Nat) : Option Nat :=
    ((List.range 64).find? fun i => decide (n ≤ i) && decide (numAt ext i 1 ≠ 0)).map fun i => i / 8 * 8
  if 64 ≤ numAt ext 0 1 ∨ kind = 0 ∨ 3 ≤ kind then some 0
  else if kind = 1 then
    match (List.range 4).find? fun k => decide (2 ^ 12 ≤ lutSel ext k) with
    | some k => some ((50 + 2 * k) / 8 * 8)
    | none => zeroFrom 58
  else
    let map := reordMap ext
    if 256 < map.length ∨ !((List.range map.length).all fun i => map.contains i) then some 0 else zeroFrom 10

/-- The offsets of the words that fail. Marked DEDUCED, log 64. The records of generators and sinks that the header does
not name are not looked at. Marked DESIGN CHOICE, log 76. -/
def Image.faults (m : Image) : List Nat :=
  let h := Image.word m 0
  let next := Image.next m
  let elems := List.range 64
  let headBad := decide (fld h 48 16 ≠ 0) || decide (10 < next) || decide (fld h 36 8 = 0)
    || decide (fld h 16 12 ≠ 1408 + 64 * next) || decide (fld h 8 8 ≠ 1) || decide (fld h 0 8 ≠ 0xE4)
  (if headBad then [0] else [])
    ++ ((List.range 8).filter fun i => decide (1 ≤ i) && decide (Image.word m (8 * i) ≠ 0)).map (8 * ·)
    ++ (elems.filter fun e =>
      let c := Image.cfg m e
      let x := Image.router m e
      let recs := (List.range next).filter fun i => numAt (Image.ext m i) 0 1 == e
      let kinds := recs.map fun i => numAt (Image.ext m i) 1 1
      (decide (c.op = 0) && decide (Image.elem m e ≠ 0))
        || badElem c (Image.extOf m e) e
        || (List.range 4).any (fun o => fbit c.omask o && decide (rtSrc x o ≠ 0))
        || kinds != (if extKind c.op = 0 then [] else [extKind c.op])
        || (opInputs c.op (Image.extOf m e)).any (fun k => decide (c.op = 0x22) && decide (c.selOf k = 0))
        || (decide (e % 2 = 0 ∧ e < 16) && Image.hasGen m (e / 2) && (Image.wordIn m e 0).isEmpty)
        || (decide (e < 48) && !isReducer (Image.cfg m (e + 16)).op && !Image.laneValid m 3 (e / 16) (e % 16)
          && (Image.cfg m (e + 16)).sel.contains 5)
        || (decide (e % 16 = 0 ∧ e < 48) && isReducer (Image.cfg m (e + 31)).op
          && (Image.lanesOf m (e / 16)).isEmpty)).map (64 + 8 * ·)
    ++ (elems.filter fun e => badRouter (Image.router m e) e).map (576 + 8 * ·)
    ++ (List.range 8).filterMap (fun g =>
      if Image.hasGen m g then (shapeFault (Image.shape m g)).map fun o => 1088 + 32 * g + o else none)
    ++ ((List.range 8).filter fun k => Image.hasSink m k && decide (64 ≤ Image.sink m k)).map (1344 + 8 * ·)
    ++ (List.range (min next 10)).filterMap fun i => (extFault (Image.ext m i)).map fun o => 1408 + 64 * i + o

/-- The lowest offset of a word that fails. Marked DEDUCED, log 64. -/
def Image.fault (m : Image) : Option Nat := (Image.faults m).min?

end Sys2Proof.Machine
end

