-- ==== Sys2Proof/Machine/Fabric.lean ====
section
/-! DEFINITION. A fabric round: buffers and forks, element firing, router operators, the row network, reducers, reorder
blocks, units, generators, sinks, the end of a round and its faults (R171 to R188, R196 to R208, R349). -/

namespace Sys2Proof.Machine

open Sys2Proof

/-! ## Buffers -/

/-- Element e of a round. -/
def Round.elemAt (r : Round) (e : Nat) : Elem := tget Elem.init r.elems e
/-- Replacing an element. -/
def Round.setElem (r : Round) (e : Nat) (x : Elem) : Round := { r with elems := tput Elem.init r.elems e x }
/-- A word buffer. -/
def Round.bufAt (r : Round) (key : Nat) : Option Tok := tget none r.bufs key
/-- Replacing a word buffer. -/
def Round.setBuf (r : Round) (key : Nat) (t : Option Tok) : Round := { r with bufs := tput none r.bufs key t }
/-- A control input buffer. -/
def Round.ctlAt (r : Round) (key : Nat) : Option CBuf := tget none r.ctl key
/-- Replacing a control input buffer. -/
def Round.setCtl (r : Round) (key : Nat) (t : Option CBuf) : Round := { r with ctl := tput none r.ctl key t }
/-- A generator. -/
def Round.genAt (r : Round) (g : Nat) : Gen := tget Gen.init r.gens g
/-- Replacing a generator. -/
def Round.setGen (r : Round) (g : Nat) (x : Gen) : Round := { r with gens := tput Gen.init r.gens g x }
/-- A sink. -/
def Round.sinkAt (r : Round) (k : Nat) : Sink := tget Sink.init r.sinks k
/-- Replacing a sink. -/
def Round.setSink (r : Round) (k : Nat) (x : Sink) : Round := { r with sinks := tput Sink.init r.sinks k x }
/-- The reorder block of element 0,2g. -/
def Round.reordAt (r : Round) (g : Nat) : Reord := tget Reord.init r.reords g
/-- Replacing a reorder block. -/
def Round.setReord (r : Round) (g : Nat) (x : Reord) : Round := { r with reords := tput Reord.init r.reords g x }

/-- Whether an end on the paired control link is still to be used before a further word may enter a buffer: by the
buffer's own user, or, for what goes on from there, by the router's control output (R174). -/
def Round.blocked (r : Round) (m : Image) (key : Nat) : Bool :=
  if 2048 ≤ key then (r.ctlAt (key - 1792)).isSome
  else
    match Image.feed m key with
    | none => false
    | some d =>
      match r.ctlAt (key / 32 * 4 + d) with
      | some b => b.tok == .e && (b.left.contains (key % 32) || (decide (3 ≤ key % 32) && b.left.contains 20))
      | none => false

/-- Whether a buffer has room for a token. -/
def Round.room (r : Round) (m : Image) (key : Nat) : Bool := (r.bufAt key).isNone && !r.blocked m key
/-- Whether every buffer of a list has room (R173). -/
def Round.roomAll (r : Round) (m : Image) (keys : List Nat) : Bool := keys.all fun k => r.room m k
/-- A token enters every buffer of a list (R173). -/
def Round.put (r : Round) (keys : List Nat) (t : Tok) : Round := keys.foldl (init := r) fun r k => r.setBuf k (some t)

/-- Whether every control input of a list has room for a token. -/
def Round.ctlRoom (r : Round) (m : Image) (keys : List Nat) (t : CTok) : Bool :=
  keys.all fun k => (Image.ctlUsers m k t).isEmpty || (r.ctlAt k).isNone

/-- A control token enters every control input of a list that has a user for it (R174). -/
def Round.putCtl (r : Round) (m : Image) (keys : List Nat) (t : CTok) : Round :=
  keys.foldl (init := r) fun r k =>
    let us := Image.ctlUsers m k t
    if us.isEmpty then r else r.setCtl k (some ⟨t, us⟩)

/-- A user takes a control token; the token leaves when every user has taken it (R174). -/
def Round.takeCtl (r : Round) (key user : Nat) : Round :=
  match r.ctlAt key with
  | none => r
  | some b =>
    let left := b.left.filter (· != user)
    r.setCtl key (if left.isEmpty then none else some { b with left := left })

/-- What stands at the head of an input. -/
inductive InTok
  | none
  | tok (v : BitVec 32)
  | e
  | m
  deriving DecidableEq, Repr

/-- Whether a word stands at an input. -/
def InTok.isTok : InTok → Bool
  | .tok _ => true
  | .none | .e | .m => false

/-- The word at an input, zero where there is none. -/
def InTok.val : InTok → Nat
  | .tok v => v.toNat
  | .none | .e | .m => 0

/-- What stands at a place of router or element e (R174). -/
def Round.placeTok (r : Round) (m : Image) (e p : Nat) : InTok :=
  match r.bufAt (e * 32 + p) with
  | some (.w v) | some (.c v _) => .tok v
  | some .e => .e
  | some .m => .m
  | none =>
    match Image.feed m (e * 32 + p) with
    | none => .none
    | some d =>
      match r.ctlAt (e * 4 + d) with
      | some b => if b.tok = .e ∧ b.left.contains p then .e else .none
      | none => .none

/-- Taking what stands at a place. -/
def Round.takePlace (r : Round) (m : Image) (e p : Nat) : Round :=
  match r.bufAt (e * 32 + p) with
  | some _ => r.setBuf (e * 32 + p) none
  | none =>
    match Image.feed m (e * 32 + p) with
    | none => r
    | some d => r.takeCtl (e * 4 + d) p

/-- What a user sees of row x's buffer. -/
def Round.rowTok (r : Round) (x user c : Nat) : InTok :=
  match tget none r.rows x with
  | none => .none
  | some b =>
    if !b.left.contains user then .none
    else
      match b.kind with
      | .e => .e
      | .m => .m
      | .w _ | .c _ _ =>
        match b.lanes.getD c none with
        | some v => .tok v
        | none => .none

/-- A user takes a row word; the buffer empties when every user has taken it (R175). -/
def Round.takeRow (r : Round) (x user : Nat) : Round :=
  match tget none r.rows x with
  | none => r
  | some b =>
    let left := b.left.filter (· != user)
    { r with rows := tput none r.rows x (if left.isEmpty then none else some { b with left := left }) }

/-- What stands at the head of input k of element e (R172, R177). -/
def Round.input (r : Round) (m : Image) (e k : Nat) : InTok :=
  let c := Image.cfg m e
  let z := c.selOf k
  if z = 0 ∨ z = 8 then .none
  else if z = 6 then .tok (BitVec.ofNat 32 c.konst)
  else if z = 5 then r.rowTok (e / 16) (e % 16 * 4 + k) (e % 16)
  else r.placeTok m e k

/-- Taking what stands at an input. -/
def Round.takeInput (r : Round) (m : Image) (e k : Nat) : Round :=
  let z := (Image.cfg m e).selOf k
  if z = 6 then r
  else if z = 5 then r.takeRow (e / 16) (e % 16 * 4 + k)
  else r.takePlace m e k

/-! ## Elements (R172, R177, R178, R196 to R207) -/

/-- Results waiting behind the fork. -/
def Elem.results (x : Elem) : Nat :=
  (x.q.filter fun i => match i with
    | .w _ => true
    | .b _ | .e | .m => false).length

/-- Whether an element has room for a result (R172). -/
def Elem.room (x : Elem) (c : ElemCfg) : Bool := decide (x.results < opLat c.op c.ty + 1)

/-- Adding items behind an element's fork. -/
def Round.push (r : Round) (e : Nat) (is : List QItem) : Round :=
  let x := r.elemAt e
  r.setElem e { x with q := x.q ++ is }

/-- Counting the events of a result (R48, R194). -/
def Round.count (r : Round) (es : List Events) : Round := { r with cmd := es.foldl (init := r.cmd) Cmd.tally }

/-- A result with its events goes behind the fork. -/
def Round.result (r : Round) (e : Nat) (v : Counted) : Round := (r.push e [.w (BitVec.ofNat 32 v.1)]).count v.2

/-- The inputs of an element that can end (R177). -/
def ElemCfg.ends (c : ElemCfg) : List Nat :=
  (List.range 3).filter fun k => let z := c.selOf k; decide (z ≠ 0 ∧ z ≠ 6 ∧ z ≠ 7 ∧ z ≠ 8)

/-- The inputs that have reached E, unless all that can have. -/
def endedSet (c : ElemCfg) (l : List Nat) : List Nat := if c.ends.all fun k => l.contains k then [] else l

/-- Setting state words. -/
def Elem.keep (x : Elem) (st : List (BitVec 32)) (nv : Nat) : Elem := { x with st := st, nv := nv }

/-- What an element emits before its E, and its E; its state is cleared (R177, R196, R201, R203, R207). -/
def Round.endStream (r : Round) (c : ElemCfg) (e : Nat) : Round :=
  let x := r.elemAt e
  let s0 := x.st.getD 0 0
  let r :=
    if c.op = 0x17 then r.result e (sumResult c (if x.nv = 0 then sumStart c else x.st))
    else if c.op = 0x16 ∧ c.opt then r.result e (plainResult (if x.nv = 0 then 0 else s0.toNat))
    else if (c.op = 0x2C ∨ c.op = 0x23) ∧ x.nv ≠ 0 then r.result e (plainResult s0.toNat)
    else r
  let x := r.elemAt e
  r.setElem e { x with q := x.q ++ [.e], st := [0, 0, 0], nv := 0 }

/-- One firing: the tokens have been taken, the operation runs (R196 to R207). A lane of pack is counted as it is
packed. Marked DESIGN CHOICE, log 93. -/
def Round.fire (r : Round) (m : Image) (c : ElemCfg) (e a b d : Nat) : Round :=
  let x := r.elemAt e
  let n := if x.nv = 0 then 0 else (x.st.getD 0 0).toNat
  let w32 (v : Nat) : BitVec 32 := BitVec.ofNat 32 v
  if c.op = 0x17 ∨ c.op = 0x18 then
    let old := if x.nv = 0 then sumStart c else x.st
    let new := sumStep c old a
    let r := r.setElem e (x.keep new 1)
    if c.op = 0x17 then r else r.result e (sumResult c (if c.opt then old else new))
  else if c.op = 0x16 then
    let r := r.setElem e (x.keep [w32 (n + 1), 0, 0] 1)
    if c.opt then r else r.result e (plainResult n)
  else if c.op = 0x19 then
    if n < c.konst then r.setElem e (x.keep [w32 (n + 1), 0, 0] 1) else r.result e (plainResult a)
  else if c.op = 0x2C then r.setElem e (x.keep [w32 a, 0, 0] 1)
  else if c.op = 0x15 then if b ≠ 0 then r.result e (plainResult a) else r
  else if c.op = 0x23 then
    let lane := packLane c.ty c.opt (rndOf c.rnd) a
    let v := n + lane.1 * 2 ^ (tyWidth c.ty * x.nv)
    if x.nv + 1 = 32 / tyWidth c.ty then (r.setElem e (x.keep [0, 0, 0] 0)).result e (v, [lane.2])
    else (r.setElem e (x.keep [w32 v, 0, 0] (x.nv + 1))).count [lane.2]
  else if c.op = 0x24 then
    (r.setElem e (x.keep [w32 a, 0, 0] (32 / tyWidth c.ty - 1))).result e (plainResult (unpackLane c.ty a 0))
  else if c.op = 0x2A then
    let y := r.reordAt (e / 2)
    let block := y.block ++ [w32 a]
    let full := decide ((reordMap (Image.extOf m e)).length ≤ block.length)
    r.setReord (e / 2) ⟨block, if full then some 0 else none⟩
  else if isUnitOp c.op then
    { r.setElem e { x with credits := x.credits + 1 } with
      units := r.units ++ [(e, w32 a)]
      served := e % 16 :: r.served
      unitLast := tput 3 r.unitLast (e % 16) (e / 16) }
  else if c.op = 0x0A then (r.result e (opResult c [] a b d)).push e [.b (cmpBit c a b)]
  else r.result e (opResult c (Image.extOf m e) a b d)

/-- Discarding the tokens of the inputs that have not ended, up to their E (R178, R196). -/
def Round.discard (r : Round) (m : Image) (c : ElemCfg) (e : Nat) : Round :=
  let x := r.elemAt e
  match c.ends.find? fun k => !x.ended.contains k && (r.input m e k != .none) && (r.input m e k != .m) with
  | none => r
  | some k =>
    let ended := if r.input m e k = .e then endedSet c (x.ended ++ [k]) else x.ended
    (r.takeInput m e k).setElem e { x with ended := ended }

/-- bcast (R196): the token of A is held while B's pass. Marked DEDUCED, log 63. -/
def Round.bcast (r : Round) (m : Image) (c : ElemCfg) (e : Nat) : Round :=
  let x := r.elemAt e
  let a := r.input m e 0
  let b := r.input m e 1
  let held := decide (x.nv ≠ 0)
  let close (r : Round) (ended : List Nat) : Round :=
    let r := r.endStream c e
    r.setElem e { r.elemAt e with ended := endedSet c ended }
  if b = .e ∧ a = .e ∧ !held then close ((r.takeInput m e 0).takeInput m e 1) [0, 1]
  else if a = .e ∧ !held then close (r.takeInput m e 0) [0]
  else if b = .e then if held || a.isTok then close (r.takeInput m e 1) [1] else r
  else if b.isTok && (held || a.isTok) && x.room c then
    let v := if held then (x.st.getD 0 0).toNat else a.val
    let r := if held then r else r.takeInput m e 0
    ((r.takeInput m e 1).setElem e ((r.elemAt e).keep [BitVec.ofNat 32 v, 0, 0] 1)).result e (plainResult v)
  else r

/-- Whether an op has work that must come before it ends or takes more: lanes of unpack, a full block, unit requests. -/
def Round.busy (r : Round) (c : ElemCfg) (e : Nat) : Bool :=
  (decide (c.op = 0x24) && decide ((r.elemAt e).nv ≠ 0)) || (decide (c.op = 0x2A) && (r.reordAt (e / 2)).next.isSome)

/-- Whether an element has a request for its column unit: a token on A and a free credit (R184). -/
def Round.unitWants (r : Round) (m : Image) (e : Nat) : Bool :=
  isUnitOp (Image.cfg m e).op && (r.input m e 0).isTok && decide ((r.elemAt e).credits < 4)
    && !(r.drain.isSome && Image.sourceless m e)

/-- Whether the unit of an element's column accepts its request now: one a tick, round-robin from the row after the one
served last; a round begins with row 0 (R184). Marked DESIGN CHOICE, log 82. -/
def Round.unitServes (r : Round) (m : Image) (e : Nat) : Bool :=
  let q := e % 16
  let rows := (List.range 4).map fun i => (tget 3 r.unitLast q + 1 + i) % 4
  !r.served.contains q && (rows.find? fun x => r.unitWants m (16 * x + q)) == some (e / 16)

/-- An element fires, ends a stream, or discards (R172, R177, R178); none is a stream-length fault. `free` is the value
of an input that an op uses and the image does not configure. Marked DESIGN CHOICE, log 61. -/
def Round.elementStep (r : Round) (m : Image) (e : Nat) (free : BitVec 32) : Option Round :=
  let c := Image.cfg m e
  let x := r.elemAt e
  let ended := decide (x.ended ≠ [])
  let at_ := c.ends.filter fun k => x.ended.contains k || r.input m e k == .e
  let rest := c.ends.filter fun k => !at_.contains k
  let takeEnds (r : Round) : Round :=
    at_.foldl (init := r) fun r k => if x.ended.contains k then r else r.takeInput m e k
  if c.op = 0 ∨ isReducer c.op ∨ (r.drain.isSome ∧ Image.sourceless m e) then some r
  else if c.op = 0x24 ∧ x.nv ≠ 0 then
    if x.room c then
      let n := 32 / tyWidth c.ty
      some ((r.setElem e { x with nv := x.nv - 1 }).result e
        (plainResult (unpackLane c.ty (x.st.getD 0 0).toNat (n - x.nv))))
    else some r
  else if r.busy c e then some r
  else if (c.imode = 2 ∨ c.op = 0x2B) ∧ ended then some (r.discard m c e)
  else if c.op = 0x2B then some (r.bcast m c e)
  else if at_ ≠ [] ∧ rest = [] then
    if (isUnitOp c.op && r.units.any fun u => u.1 == e) || !(x.room c) then some r
    else if c.op = 0x2A ∧ (r.reordAt (e / 2)).block ≠ [] then none
    else
      let r := (takeEnds r).endStream c e
      some (r.setElem e { r.elemAt e with ended := [] })
  else if at_ ≠ [] ∧ !ended ∧ !(rest.any fun k => (r.input m e k).isTok) then some r
  else if at_ ≠ [] ∧ !ended ∧ c.imode = 0 then none
  else if at_ ≠ [] ∧ !ended ∧ c.imode = 2 then
    if x.room c then
      let r := (takeEnds r).endStream c e
      some (r.setElem e { r.elemAt e with ended := at_ })
    else some r
  else
    let r := (takeEnds r).setElem e { x with ended := at_ }
    let go := (List.range 3).filter fun k => let z := c.selOf k; decide (z ≠ 0 ∧ z ≠ 8) && !at_.contains k
    let hasRoom := if isUnitOp c.op then r.unitServes m e else decide (c.op = 0x2A) || x.room c
    if hasRoom && go.all fun k => (r.input m e k).isTok then
      let uses := opInputs c.op (Image.extOf m e)
      let v (k : Nat) : Nat :=
        if at_.contains k then 0
        else if c.selOf k = 0 ∧ uses.contains k then free.toNat
        else (r.input m e k).val
      some ((go.foldl (init := r) fun r k => r.takeInput m e k).fire m c e (v 0) (v 1) (v 2))
    else some r

/-! ## The state around a round -/

/-- Replacing the round of a core. -/
def State.setRound (s : State) (c : Nat) (r : Round) : State := s.setCore c { s.coreAt c with round := some r }

/-- A step of the round in progress of a core, unless it is suspended (R371). -/
def withRound (c : Nat) (s : State) (k : Image → Round → State) : State :=
  match (s.coreAt c).round with
  | some r => if r.suspended = .no then k ((s.coreAt c).image r.image) r else s
  | none => s

/-- An E that leaves east of column 15 adds a token to a lane barrier (R187). -/
def State.endsEast (s : State) (c : Nat) (keys : List Nat) : State :=
  (keys.filter (300 ≤ ·)).foldl (init := s) fun s k => s.post (.baraTokenCount c none .lane (BitVec.ofNat 4 (k - 300)))

/-- A control token leaves along a list of control inputs (R174, R187). -/
def State.sendCtl (s : State) (c : Nat) (m : Image) (r : Round) (keys : List Nat) (t : CTok) : State :=
  let s := s.setRound c (r.putCtl m keys t)
  if t = .e then s.endsEast c keys else s

/-- The windows that the sinks of an image fill (R186, R349). Marked DEDUCED, log 65. -/
def Image.sinkWins (m : Image) : List Nat :=
  ((List.range 8).filter fun k => Image.hasSink m k && !fbit (Image.sink m k) 5).map fun k => Image.sink m k % 16

/-- The round is over: requests are abandoned, and what waited for its drain goes on (R188, R215, R374). -/
def State.dropRound (s : State) (c : Nat) (r : Round) : State :=
  let s := s.setCore c { s.coreAt c with round := none }
  let s := { s.dropEdges (.cmd r.cmd.site) with
    accs := s.accs.filter fun a => !(a.holder == .cmd r.cmd.site) }
  match r.drain with
  | none => s
  | some d =>
    let s := d.fscan.foldl (init := s) fun s x =>
      let sl := s.slotAt c x.1
      if sl.hold = .scan then s.setSlot c x.1 { sl with hold := .none } else s
    d.fmark.foldl (init := s) fun s x => s.endCommand c x .fab false false false

/-- A fault of the round (R349). -/
def State.roundFault (s : State) (c : Nat) (r : Round) (cls : Nat) (detail : Word) (va : Addr) : State :=
  let m := (s.coreAt c).image r.image
  (s.dropRound c r).failCommand c r.cmd .fab (Image.sinkWins m) cls detail va false

/-- A stream-length fault at an element (R348). -/
def State.lengthFault (s : State) (c e : Nat) (r : Round) : State := s.roundFault c r 2 (BitVec.ofNat 64 e) 0

/-- An element fires (R172). Marked DESIGN CHOICE, log 61. -/
def execElementFire (c e : Nat) (s : State) : Res :=
  .next <| withRound c s fun m r =>
    let x := Image.cfg m e
    let open_ := (opInputs x.op (Image.extOf m e)).any fun k => decide (x.selOf k = 0)
    let z := if open_ then s.freeBelow (2 ^ 32) else (0, s)
    match r.elementStep m e (BitVec.ofNat 32 z.1) with
    | some r => z.2.setRound c r
    | none => s.lengthFault c e r

/-! ## Tokens on the move (R171, R173, R174) -/

/-- Whether every branch of an element's fork but its lane has room for the token at the head of its queue (R173). -/
def Round.forkReady (r : Round) (m : Image) (e : Nat) : Bool :=
  match (r.elemAt e).q with
  | .w _ :: _ => r.roomAll m (Image.fork m e ++ Image.feedback m e)
  | .e :: _ => r.roomAll m (Image.forkOps m e) && r.ctlRoom m (Image.endOut m e) .e
  | .m :: _ => r.roomAll m (Image.fork m e)
  | .b _ :: _ | [] => false

/-- The token at the head of an element's queue enters every branch of its fork but its lane (R173, R177, R184). -/
def Round.forkOut (r : Round) (m : Image) (e : Nat) : Round :=
  let x := r.elemAt e
  match x.q with
  | .w v :: q =>
    let credits := if isUnitOp (Image.cfg m e).op then x.credits - 1 else x.credits
    (r.setElem e { x with q := q, credits := credits }).put (Image.fork m e ++ Image.feedback m e) (.w v)
  | .e :: q => ((r.setElem e { x with q := q }).put (Image.forkOps m e) .e).putCtl m (Image.endOut m e) .e
  | .m :: q => (r.setElem e { x with q := q }).put (Image.fork m e) .m
  | .b _ :: _ | [] => r

/-- The head of an element's queue leaves by the fork (R173, R177); with a lane among its branches it leaves as the row
word moves (R175). -/
def State.forkHop (s : State) (c e : Nat) (m : Image) (r : Round) : State :=
  let x := r.elemAt e
  let ends := Image.endOut m e
  match x.q with
  | .b b :: q =>
    if r.ctlRoom m ends (.bit b) then s.sendCtl c m (r.setElem e { x with q := q }) ends (.bit b) else s
  | t :: _ =>
    if Image.toLane m e || !r.forkReady m e then s
    else
      let s := s.setRound c (r.forkOut m e)
      if t = .e then s.endsEast c ends else s
  | [] => s

/-- A pass-through sends its token on (R171). -/
def State.passHop (s : State) (c e o : Nat) (m : Image) (r : Round) : State :=
  let key := e * 32 + 9 + o
  match r.bufAt key with
  | none => s
  | some t =>
    let keys := Image.wordOut m e o
    if r.roomAll m keys then s.setRound c ((r.setBuf key none).put keys t) else s

/-- The buffers that hold words on the way from a direction to the outputs a control token is passed on to: it waits for
them (R174). -/
def Image.guards (m : Image) (e d : Nat) : List Nat :=
  let x := Image.router m e
  let outs := (List.range 4).filter fun o => rtCtlo x o
  ((outs.filter fun o => rtSrc x o == d + 1).map fun o => e * 32 + 9 + o)
    ++ ((opPlaces x).filter fun p =>
        let code := if p.1 = 5 ∨ p.1 = 6 then 8 else if p.1 = 8 then 9 else 6
        p.2 == d + 1 && placeOn x p.1
          && outs.any fun o => rtSrc x o == code || (p.1 == 3 && rtSrc x o == 7)).map fun p => e * 32 + p.1

/-- A release of a lane barrier enters from the west; without a user it is discarded (R187). -/
def Round.enterWest (r : Round) (m : Image) (e : Nat) : Round :=
  let n := e / 16
  if e % 16 = 0 ∧ r.west.contains n ∧ r.ctlRoom m [e * 4 + 3] (.bit true) then
    { r.putCtl m [e * 4 + 3] (.bit true) with west := r.west.erase n }
  else r

/-- A control token is passed on by its router (R174). -/
def State.ctlHop (s : State) (c e d : Nat) (m : Image) (r : Round) : State :=
  let r := if d = 3 then r.enterWest m e else r
  let s := s.setRound c r
  match r.ctlAt (e * 4 + d) with
  | none => s
  | some b =>
    let keys := Image.passOut m e d
    if b.left.contains 20 && (Image.guards m e d).all (fun k => (r.bufAt k).isNone) && r.ctlRoom m keys b.tok then
      s.sendCtl c m (r.takeCtl (e * 4 + d) 20) keys b.tok
    else s

/-- A token moves one link, or passes through a router: from an element's fork (source 0), a pass-through to output
src − 1, or the control input from direction src − 9 (R171). -/
def execTokenHop (c e src : Nat) (s : State) : Res :=
  .next <| withRound c s fun m r =>
    if src = 0 then s.forkHop c e m r
    else if src ≤ 4 then s.passHop c e (src - 1) m r
    else if 9 ≤ src ∧ src ≤ 12 then s.ctlHop c e (src - 9) m r
    else s

/-! ## Router operators (R176) -/

/-- What stands at a control input for one of its users. -/
def Round.ctlFor (r : Round) (key user : Nat) : Option CTok :=
  match r.ctlAt key with
  | some b => if b.left.contains user then some b.tok else none
  | none => none

/-- Steer (R176); none is a stream-length fault. -/
def Round.steer (r : Round) (m : Image) (e : Nat) : Option Round :=
  let x := Image.router m e
  let key := e * 4 + rtStc x
  let taken := (r.takePlace m e 3).takeCtl key 4
  match r.placeTok m e 3, r.ctlFor key 4 with
  | .tok v, some (.bit b) =>
    let out := Image.readers m e (if b then 7 else 6)
    some (if r.roomAll m out then taken.put out (.w v) else r)
  | .e, some .e =>
    let out := Image.opInputsOf m e 6 ++ Image.opInputsOf m e 7
    some (if r.roomAll m out then taken.put out .e else r)
  | .tok _, some .e | .e, some (.bit _) => none
  | .none, _ | .m, _ | _, none => some r

/-- Merge (R176). -/
def Round.merge (r : Round) (m : Image) (e : Nat) : Round :=
  let x := Image.router m e
  let key := e * 4 + rtMgc x
  let el := r.elemAt e
  match el.mdisc with
  | p :: rest =>
    let p := if (r.placeTok m e p).isTok || r.placeTok m e p == .e then p else rest.headD p
    match r.placeTok m e p with
    | .tok _ => r.takePlace m e p
    | .e => (r.takePlace m e p).setElem e { el with mdisc := el.mdisc.filter (· != p) }
    | .none | .m => r
  | [] =>
    match r.ctlFor key 7 with
    | some (.bit b) =>
      let p := if b then 6 else 5
      let out := Image.readers m e 8
      match r.placeTok m e p with
      | .tok v => if r.roomAll m out then ((r.takePlace m e p).takeCtl key 7).put out (.w v) else r
      | .none | .e | .m => r
    | some .e =>
      let out := Image.opInputsOf m e 8
      if r.roomAll m out then
        let r := (r.takeCtl key 7).put out .e
        r.setElem e { r.elemAt e with mdisc := if rtMgb x = 0 then [5] else [5, 6] }
      else r
    | none => r

/-- Carry (R176). -/
def Round.carry (r : Round) (m : Image) (e : Nat) : Round :=
  let el := r.elemAt e
  let out := Image.readers m e 9
  if el.armed then
    if r.roomAll m out then
      (r.put out (.c (BitVec.ofNat 32 (Image.cfg m e).konst) e)).setElem e { el with armed := false, fresh := true }
    else r
  else
    match r.placeTok m e 8 with
    | .tok v =>
      if r.roomAll m out then ((r.takePlace m e 8).put out (.w v)).setElem e { el with fresh := false } else r
    | .e =>
      let ins := Image.opInputsOf m e 9
      if r.roomAll m ins then
        ((r.takePlace m e 8).put ins .e).setElem e { el with armed := true, fresh := false }
      else r
    | .none | .m => r

/-- A steer, merge or carry passes a token (R176). -/
def execRouterOperatorFire (c e : Nat) (o : RouterOp) (s : State) : Res :=
  .next <| withRound c s fun m r =>
    let x := Image.router m e
    match o with
    | .steer =>
      if rtSti x = 0 then s
      else
        match r.steer m e with
        | some r => s.setRound c r
        | none => s.lengthFault c e r
    | .merge => if rtMga x = 0 then s else s.setRound c (r.merge m e)
    | .carry => if rtCyi x = 0 then s else s.setRound c (r.carry m e)

/-! ## Rows, reducers, reorder blocks, units (R175, R182 to R184) -/

/-- What the source of lane q of row x holds: the head of an element's queue once its other branches have room (R173),
or the lane of the row above. -/
def Round.laneTok (r : Round) (m : Image) (x q : Nat) : InTok :=
  let e := 16 * x + q
  if !Image.toLane m e then r.rowTok x (64 + q) q
  else if !r.forkReady m e then .none
  else
    match (r.elemAt e).q with
    | .w v :: _ => .tok v
    | .e :: _ => .e
    | .m :: _ => .m
    | .b _ :: _ | [] => .none

/-- The word moves once every valid lane's source holds the same kind and the buffer below is empty; an element's result
enters its other branches in the same tick (R173, R175). -/
def State.moveRow (s : State) (c x : Nat) (m : Image) (r : Round) (toks : List (Nat × InTok)) (kind : Tok) : State :=
  let fits (t : InTok) : Bool := match kind with
    | .e => t == .e
    | .m => t == .m
    | .w _ | .c _ _ => t.isTok
  if toks.isEmpty || !(toks.all fun t => fits t.2) || (tget none r.rows (x + 1)).isSome then s
  else
    let users := Image.rowUsers m (x + 1)
    let word := (List.range 16).map fun q => match toks.find? fun t => t.1 == q with
      | some (_, .tok v) => some v
      | some (_, .none) | some (_, .e) | some (_, .m) | none => none
    let r := toks.foldl (init := r) fun r t =>
      if Image.toLane m (16 * x + t.1) then r.forkOut m (16 * x + t.1) else r.takeRow x (64 + t.1)
    let buf := if users.isEmpty then none else some (⟨kind, word, users⟩ : RowBuf)
    let s := s.setRound c { r with rows := tput none r.rows (x + 1) buf }
    let ends := toks.flatMap fun t => if Image.toLane m (16 * x + t.1) then Image.endOut m (16 * x + t.1) else []
    if kind = .e then s.endsEast c ends else s

/-- A row word moves down; ends among data are a stream-length fault (R175). -/
def execRowWordMove (c x : Nat) (s : State) : Res :=
  .next <| withRound c s fun m r =>
    let lanes := Image.lanesOf m x
    let toks := lanes.map fun q => (q, r.laneTok m x q)
    let endAt := toks.find? fun t => t.2 == .e
    match endAt with
    | some t =>
      if toks.any fun u => u.2.isTok then s.lengthFault c (16 * x + t.1) r
      else s.moveRow c x m r toks .e
    | none => s.moveRow c x m r toks (if toks.any fun u => u.2 == .m then .m else .w 0)

/-- A reducer fires (R183, R208). -/
def execReducerFire (c x : Nat) (s : State) : Res :=
  .next <| withRound c s fun m r =>
    let e := 16 * x + 15
    let k := Image.cfg m e
    match tget none r.rows x with
    | none => s
    | some b =>
      if !b.left.contains 100 then s
      else
        match b.kind with
        | .e => s.setRound c ((r.takeRow x 100).push e [.e])
        | .m => s
        | .w _ | .c _ _ =>
          if (r.elemAt e).room k then s.setRound c ((r.takeRow x 100).result e (redResult k b.lanes)) else s

/-- A full reorder block emits its next token (R182). -/
def execReordBlockEmit (c g : Nat) (s : State) : Res :=
  .next <| withRound c s fun m r =>
    let e := 2 * g
    let y := r.reordAt g
    match y.next with
    | none => s
    | some i =>
      if !(r.elemAt e).room (Image.cfg m e) then s
      else
        let map := reordMap (Image.extOf m e)
        let r := r.push e [.w (y.block.getD (map.getD i 0) 0)]
        s.setRound c (r.setReord g (if map.length ≤ i + 1 then Reord.init else { y with next := some (i + 1) }))

/-- The oldest reply of a unit op goes behind its element's fork (R184, R204). -/
def Round.unitReply (r : Round) (m : Image) (e : Nat) : Round :=
  match r.units.find? fun u => u.1 == e with
  | none => r
  | some u => { r with units := r.units.erase u }.result e (unitResult (Image.cfg m e).op u.2.toNat)

/-- A transcendental reply reaches its element (R204). -/
def execUnitReply (c e : Nat) (s : State) : Res := .next <| withRound c s fun m r => s.setRound c (r.unitReply m e)

/-! ## Generators (R179, R181) -/

/-- A pass has ended: its E follows the last reply, then the next pass or the end of the round's work. -/
def Gen.passed (x : Gen) : Gen :=
  { x with queue := x.queue ++ [.e], phase := if gPsel x.shape = 0 then .finished else .waitParam, pos := 0 }

/-- All reads of a pass are performed: E follows, or first the shrink, at the generator's place in the tick (R179). -/
def State.genEnd (s : State) (c g : Nat) (r : Round) : State :=
  let x := r.genAt g
  if gKind x.shape ≠ 0 ∨ gShn x.shape = 0 then s.setRound c (r.setGen g x.passed)
  else (s.setRound c (r.setGen g { x with phase := .ending })).later (.generatorRequest c g)

/-- The shrink at the end of a pass, then E (R27, R179). Marked DEDUCED, log 65. Marked DEDUCED, log 66. -/
def State.genShrink (s : State) (c g : Nat) (r : Round) : State :=
  let x := r.genAt g
  let w := gWin x.shape
  let n := gShn x.shape
  if (s.winAt c w).held then s.addEdge (cmdShrinkEdge c w n r.cmd.site (.generatorRequest c g))
  else
    (s.setRound c (r.setGen g x.passed)).cmdShrink c w n r.cmd.site (.generatorRequest c g)
      (fun d => s.roundFault c r 6 d 0) id

/-- A generator begins a pass with the token at its parameter port, or ends its work with the E there (R181). -/
def execGeneratorPassStart (c g : Nat) (s : State) : Res :=
  .next <| withRound c s fun _ r =>
    let x := r.genAt g
    if x.phase ≠ .waitParam then s
    else
      match r.bufAt (2048 + g) with
      | some (.w v) | some (.c v _) =>
        let x := { x with shape := gWrite x.shape (gPsel x.shape) v, pos := 0, phase := .running }
        let x := if gTotal x.shape = 0 then x.passed else x
        s.setRound c ((r.setBuf (2048 + g) none).setGen g x)
      | some .e | some .m => s
      | none =>
        if (r.ctlAt (256 + g)).isSome then
          s.setRound c ((r.setCtl (256 + g) none).setGen g { x with phase := .finished })
        else s

/-- A read of global memory by a generator (R179). -/
def genAcc (c g : Nat) (site : BitVec 46) (va : Addr) (tag : Nat) : Acc where
  id := 0
  core := c
  holder := .cmd site
  site := site
  op := .load
  va := va
  size := 4
  code := 4
  rel := false
  acq := false
  after := []
  dest := .generator g tag
  stage := .lookup
  asid := 0
  pa := 0
  level := 0
  clg := 0
  repc := 0
  data := []

/-- A generator issues its next request, or its pass ends (R179). -/
def execGeneratorRequest (c g : Nat) (s : State) : Res :=
  .next <| withRound c s fun _ r =>
    let x := r.genAt g
    let me : Instr := .generatorRequest c g
    let site := r.cmd.site
    let words := (x.queue.filter fun t => t != .e && t != .m).length
    if x.stopped then s
    else if x.phase = .ending then s.genShrink c g r
    else if x.phase ≠ .running ∨ gTotal x.shape ≤ x.pos ∨ 8 ≤ words + x.order.length then s
    else
      let k := gStep x.shape x.pos
      if gKind x.shape = 0 then
        let o := (((gBase x.shape % 2 ^ 32 : Nat) + k) % (2 ^ 32 : Nat)).toNat
        let w := gWin x.shape
        let core := s.coreAt c
        match core.engRead w o (some 0#4) with
        | .wait => s.addEdge (cmdReadEdge c w o site me)
        | .fault cls d => s.roundFault c r cls d 0
        | .ready base =>
          let s := (s.dropRetry (.cmd site) me).useRows c base 4
          let v := BitVec.ofNat 32 (ofBytes (tgets 0 core.wstore base 4))
          let x := { x with queue := x.queue ++ [.w v], pos := x.pos + 1 }
          let r := r.setGen g x
          if gTotal x.shape ≤ x.pos then s.genEnd c g r else s.setRound c r
      else
        let a : Addr := BitVec.ofInt 80 ((gBase x.shape : Int) + k)
        if !aligned a.toNat 4 then s.roundFault c r 3 (memFaultArg 7 7 4) a
        else
          let tag := x.firstTag + x.order.length
          let x := { x with order := x.order ++ [none], pos := x.pos + 1 }
          (s.setRound c (r.setGen g x)).startAcc (genAcc c g site a tag)

/-- Replies at the head of the outstanding requests enter the queue, in request order (R179). -/
def Gen.collect (fuel : Nat) (x : Gen) : Gen :=
  match fuel, x.order with
  | fuel + 1, some v :: rest =>
    Gen.collect fuel { x with order := rest, firstTag := x.firstTag + 1, queue := x.queue ++ [.w v] }
  | _, _ => x

/-- In a drain a generator places its marker behind its last performed reply (R369). -/
def State.genMark (s : State) (c g : Nat) : State :=
  match (s.coreAt c).round with
  | none => s
  | some r =>
    let x := r.genAt g
    if x.stopped && x.order.isEmpty then s.setRound c (r.setGen g { x with queue := x.queue ++ [.m] }) else s

/-- A global read of a generator has been performed (R179, R369). -/
def State.genData (s : State) (c g tag : Nat) (bs : List Byte) : State :=
  match (s.coreAt c).round with
  | none => s
  | some r =>
    let x := r.genAt g
    let i := tag - x.firstTag
    if tag < x.firstTag ∨ x.order.length ≤ i then s
    else
      let x := Gen.collect 9 { x with order := lset x.order i (some (BitVec.ofNat 32 (ofBytes bs))) }
      let r := r.setGen g x
      let s := if gTotal x.shape ≤ x.pos ∧ x.order = [] ∧ x.phase = .running then s.genEnd c g r else s.setRound c r
      s.genMark c g

/-- The head of a generator's queue moves to element 0,2g, an end on the paired control link (R170, R179). -/
def execGeneratorReply (c g : Nat) (s : State) : Res :=
  .next <| withRound c s fun m r =>
    let x := r.genAt g
    match x.queue with
    | [] => s
    | .e :: q =>
      if r.ctlRoom m [8 * g] .e then s.sendCtl c m (r.setGen g { x with queue := q }) [8 * g] .e else s
    | t :: q =>
      let keys := Image.wordIn m (2 * g) 0
      if r.roomAll m keys then s.setRound c ((r.setGen g { x with queue := q }).put keys t) else s

/-! ## Sinks (R186) -/

/-- A sink fills the element it holds, or waits (R23, R186). Marked DEDUCED, log 65. -/
def State.sinkPut (s : State) (c k : Nat) (m : Image) (r : Round) : State :=
  let x := r.sinkAt k
  let word := Image.sink m k
  let w := word % 16
  let core := s.coreAt c
  let win := core.winAt w
  let me : Instr := .sinkFill c k
  let fail (why : Nat) : State := s.roundFault c r 6 (winFaultArg win w .fill false 0 why) 0
  if win.held then (s.setRound c r).addEdge (cmdFillEdge c w r.cmd.site me)
  else if !win.v then fail 1
  else if !win.engineFills then fail 5
  else if !fbit word 4 && win.esz != 0#4 then fail 7
  else if !core.fillRoom w then (s.setRound c r).addEdge (cmdFillEdge c w r.cmd.site me)
  else
    let bs := x.hold.flatMap fun v => bytesOf 4 v.toNat
    ((s.setRound c (r.setSink k { x with hold := [], full := false })).dropRetry (.cmd r.cmd.site) me).fillWin c w bs
      r.cmd.site (issuerOf r.cmd.site)

/-- A sink takes a token, an end or a marker, and fills a whole element (R186, R370). -/
def execSinkFill (c k : Nat) (s : State) : Res :=
  .next <| withRound c s fun m r =>
    let x := r.sinkAt k
    let word := Image.sink m k
    let drop := fbit word 5
    let need := if fbit word 4 then 2 ^ (s.winAt c (word % 16)).esz.toNat else 1
    let key := 2056 + k
    if x.full then s.sinkPut c k m r
    else
      match r.bufAt key with
      | some (.w v) | some (.c v _) =>
        let r := r.setBuf key none
        if drop then s.setRound c r
        else
          let x := { x with hold := x.hold ++ [v], full := decide (need ≤ x.hold.length + 1) }
          let r := r.setSink k x
          if x.full then s.sinkPut c k m r else s.setRound c r
      | some .m => s.setRound c ((r.setBuf key none).setSink k { x with drained := true })
      | some .e => s.setRound c (r.setBuf key none)
      | none =>
        if (r.ctlAt (264 + k)).isNone then s
        else
          let r := r.setCtl (264 + k) none
          if x.hold.isEmpty then s.setRound c r
          else s.sinkPut c k m (r.setSink k { x with full := true })

/-! ## Starting and ending a round (R188) -/

/-- A round at its start (R188). -/
def Round.start (n : Nat) (m : Image) (x : Cmd) : Round :=
  let r : Round := {
    image := n
    cmd := x
    elems := []
    bufs := []
    ctl := []
    rows := []
    reords := []
    gens := []
    sinks := []
    units := []
    served := []
    unitLast := []
    opMarks := []
    west := []
    drain := none
    suspended := .no }
  let r := (List.range 64).foldl (init := r) fun r e =>
    let r := r.put (Image.feedback m e) (.w (BitVec.ofNat 32 (Image.cfg m e).konst))
    if rtCyi (Image.router m e) ≠ 0 then r.setElem e { Elem.init with armed := true } else r
  (List.range 8).foldl (init := r) fun r g =>
    if Image.hasGen m g then
      let shape := Image.shape m g
      r.setGen g { Gen.init with shape := shape, phase := if gPsel shape = 0 then .running else .waitParam }
    else r

/-- Whether a buffered token counts against the end of a round: not a feedback input's, nor the CONST a carry emits for
a stream that has received no other token (R188). -/
def Round.counts (r : Round) (m : Image) (key : Nat) (t : Tok) : Bool :=
  !(decide (key < 2048) && (Image.feedback m (key / 32)).contains key)
    && (match t with
      | .c _ src => !(r.elemAt src).fresh
      | .w _ | .e | .m => true)

/-- Whether nothing is left to do but fill partial elements (R188). -/
def Round.quiet (r : Round) (m : Image) : Bool :=
  r.gens.all (fun g => g.2.phase == .finished && g.2.queue.isEmpty && g.2.order.isEmpty)
    && r.bufs.all (fun b => b.2.all fun t => !r.counts m b.1 t)
    && r.ctl.isEmpty && r.rows.isEmpty && r.units.isEmpty
    && r.reords.all (fun x => x.2.block.isEmpty)
    && r.elems.all (fun x => x.2.q.isEmpty && !(decide ((Image.cfg m x.1).op = 0x24) && decide (x.2.nv ≠ 0)))
    && !((List.range 64).any fun e => Image.sourceless m e)
    && r.sinks.all (fun x => !x.2.full)

/-- The round ends once it is quiet; partial elements are filled first (R186, R188, R214). -/
def execRoundEnd (c : Nat) (s : State) : Res :=
  .next <| withRound c s fun m r =>
    if !r.quiet m then s
    else
      match r.sinks.find? fun x => !x.2.hold.isEmpty with
      | some x => s.sinkPut c x.1 m (r.setSink x.1 { x.2 with full := true })
      | none => (s.dropRound c r).endCommand c r.cmd .fab false false false

/-- A release of a lane barrier reaches the patch (R187). -/
def State.laneRelease (s : State) (c n : Nat) : State :=
  match (s.coreAt c).round with
  | some r => if n < 4 then s.setRound c { r with west := r.west ++ [n] } else s
  | none => s

/-- A release reaches a member (R166, R187). -/
def execBarrierReleaseArrival (c : Nat) (l : Level) (b : BitVec 4) (gen : BitVec 16) (lost : Bool) (s : State) : Res :=
  .next <|
    if (s.coreAt c).countFull (sourceKey 5 (barrierOperand l b)) then s.releaseArrives c l b gen lost
    else
      let s := s.releaseArrives c l b gen lost
      if l = .lane then s.laneRelease c b.toNat else s

end Sys2Proof.Machine
end

