-- ==== Sys2Proof/Machine/FabricDrain.lean ====
section
/-! DEFINITION. Draining a round by markers, scanning it out, the fabric section of a context image, resuming (R369 to
R374, R380), and the fab commands (R209 to R218). -/

namespace Sys2Proof.Machine

open Sys2Proof

/-! ## The fabric section (R380) -/

/-- A scan entry: value, kind, marker, buffer, element, place; bits 39 to 35, which R380 leaves unnamed, hold what is
still to happen to the token. Marked DEDUCED, log 66. -/
def scanEntry (value kind : Nat) (marker : Bool) (buf el place left : Nat) : Nat :=
  value % 2 ^ 32 + kind * 2 ^ 32 + (if marker then 2 ^ 34 else 0) + left % 2 ^ 5 * 2 ^ 35 + buf * 2 ^ 40 + el * 2 ^ 48
    + place * 2 ^ 56

/-- The entry of a word token. -/
def tokEntry (t : Tok) (buf el place : Nat) : Nat :=
  match t with
  | .w v | .c v _ => scanEntry v.toNat 0 false buf el place 0
  | .e => scanEntry 0 3 false buf el place 0
  | .m => scanEntry 0 0 true buf el place 0

/-- The kind of a control token. -/
def CTok.kind : CTok → Nat
  | .bit false => 1
  | .bit true => 2
  | .e => 3

/-- The entry of an item of a result queue. -/
def itemEntry (i : QItem) (el place : Nat) : Nat :=
  match i with
  | .w v => scanEntry v.toNat 0 false 3 el place 0
  | .b b => scanEntry 0 (if b then 2 else 1) false 3 el place 0
  | .e => scanEntry 0 3 false 3 el place 0
  | .m => scanEntry 0 0 true 3 el place 0

/-- The entries of a control token: it stands at each user that is still to take it, behind a word there (R174). The
places of a router are 3 and 4 the data and control of its steer, 5 to 7 those of its merge, 8 its carry, 9 to 12 its
pass-throughs, 20 its control output; 21 to 24 the ports of a sink and a generator, 28 a release from the west. -/
def Round.ctlEntries (r : Round) (key : Nat) (b : CBuf) : List Nat :=
  let kind := b.tok.kind
  if 264 ≤ key then [scanEntry 0 kind false 4 (48 + 2 * (key - 264) + 1) 23 0]
  else if 256 ≤ key then [scanEntry 0 kind false 4 (2 * (key - 256)) 22 0]
  else
    b.left.map fun u =>
      let e := key / 4
      if u ≤ 2 then scanEntry 0 kind false u e (if (r.bufAt (e * 32 + u)).isSome then 1 else 0) 0
      else scanEntry 0 kind false 4 e u 0

/-- The users of row x's buffer at column q that are still to take it: bits 0 to 2 its inputs, 3 the way down. -/
def RowBuf.leftAt (b : RowBuf) (q : Nat) : Nat :=
  (b.left.map fun u => if u = 64 + q then 8 else if u < 64 ∧ u / 4 = q then 2 ^ (u % 4) else 0).sum

/-- The entries of row x's buffer: a word's valid lanes, an end or a marker at each column that is to take it; bit 4 of
the first says that the reducer is to take it. -/
def RowBuf.entries (b : RowBuf) (x : Nat) : List Nat :=
  let word := b.kind != .e && b.kind != .m
  let cols := (List.range 16).filter fun q =>
    if word then (b.lanes.getD q none).isSome else decide (b.leftAt q ≠ 0) || (decide (q = 15) && b.left.contains 100)
  let red := if !b.left.contains 100 then none else if word then cols.head? else some 15
  cols.map fun q =>
    scanEntry ((b.lanes.getD q none).getD 0).toNat (if b.kind = .e then 3 else 0) (decide (b.kind = .m)) 5 (16 * x + q) 0
      (b.leftAt q + (if red = some q then 16 else 0))

/-- The scan entries of a round: element inputs, places of the routers (32 + i a packing sink's tokens, with bit 0 once
the element is to be filled), result queues, row buffers, generator queues (R372, R380). -/
def Round.scanEntries (r : Round) : List Nat :=
  r.bufs.flatMap (fun b =>
    let e := b.1 / 32
    match b.2 with
    | none => []
    | some t =>
      if 2056 ≤ b.1 then [tokEntry t 4 (48 + 2 * (b.1 - 2056) + 1) 21]
      else if 2048 ≤ b.1 then [tokEntry t 4 (2 * (b.1 - 2048)) 24]
      else if b.1 % 32 ≤ 2 then [tokEntry t (b.1 % 32) e 0] else [tokEntry t 4 e (b.1 % 32)])
    ++ r.ctl.flatMap (fun b =>
      match b.2 with
      | none => []
      | some t => r.ctlEntries b.1 t)
    ++ r.west.map (fun n => scanEntry 0 2 false 4 (16 * n) 28 0)
    ++ r.sinks.flatMap (fun x => x.2.hold.zipIdx.map fun v =>
      scanEntry v.1.toNat 0 false 4 (48 + 2 * x.1 + 1) (32 + v.2) (if x.2.full then 1 else 0))
    ++ r.elems.flatMap (fun x => x.2.q.zipIdx.map fun i => itemEntry i.1 x.1 i.2)
    ++ r.rows.flatMap (fun x => match x.2 with
      | some b => b.entries x.1
      | none => [])
    ++ r.gens.flatMap fun x => x.2.queue.zipIdx.map fun t => tokEntry t.1 6 x.1 t.2

/-- The place of a generator's next request (R369, R380). Marked DEDUCED, log 66. -/
def Gen.place (x : Gen) : Nat :=
  let n := if x.phase = .running then x.pos else gTotal x.shape
  let e0 := gExt x.shape 0
  let e1 := gExt x.shape 1
  n % e0 + n / e0 % e1 * 2 ^ 16 + n / (e0 * e1) * 2 ^ 32

/-- The field of its shape record that a generator's parameter port writes, as it stands (R181). -/
def Gen.param (x : Gen) : Nat :=
  let f := gPsel x.shape
  if f = 0 then 0 else if f = 1 then gfld x.shape 0 32 else gExt x.shape (f - 2)

/-- The code of a generator's phase in a fabric section. -/
def Gen.code (x : Gen) : Nat :=
  if x == Gen.init then 0
  else match x.phase with
    | .running => 0
    | .waitParam => 1
    | .finished => 2
    | .ending => 3

/-- The 16 bytes of an element's record (R380); a reord element keeps its block's next place and length. -/
def Round.elemRecord (r : Round) (e : Nat) : List Byte :=
  let x := r.elemAt e
  let y := r.reordAt (e / 2)
  let reord := decide (e < 16 ∧ e % 2 = 0) && !y.block.isEmpty
  let st := if reord then [BitVec.ofNat 32 (y.next.getD 65535), BitVec.ofNat 32 y.block.length, 0] else x.st
  let flags := (if reord then y.block.length % 256 else x.nv % 256) + (if x.armed then 2 ^ 8 else 0)
    + (x.ended.map fun k => 2 ^ (9 + k)).sum + (x.mdisc.map fun p => 2 ^ (7 + p)).sum + (if x.fresh then 2 ^ 14 else 0)
  st.flatMap (fun v => bytesOf 4 v.toNat) ++ bytesOf 4 flags

/-- The fabric section of a suspended round (R380); bytes 16 to 55, which R380 leaves unnamed, hold for each generator
the field its parameter port writes and its phase. Marked DEDUCED, log 66. -/
def Round.fabricSection (r : Round) : List Byte :=
  let entries := r.scanEntries
  let fst := match r.suspended with
    | .no => 0
    | .drained => 1
    | .scanned => 2
  let head := bytesOf 8 (fst + r.image * 4) ++ bytesOf 8 entries.length
    ++ (List.range 8).flatMap (fun g => bytesOf 4 (r.genAt g).param)
    ++ (List.range 8).flatMap (fun g => bytesOf 1 (r.genAt g).code) ++ bytesOf 8 0
    ++ (List.range 8).flatMap (fun g => bytesOf 8 (r.genAt g).place)
    ++ (List.range 64).flatMap (fun e => r.elemRecord e)
    ++ (List.range 8).flatMap fun g =>
      let b := (r.reordAt g).block.flatMap fun v => bytesOf 4 v.toNat
      b ++ List.replicate (1024 - b.length) 0
  (head ++ (entries.take 880).flatMap (fun n => bytesOf 8 n) ++ List.replicate 7040 0).take 16384

/-- The fabric section of a core: without a round all zero (R380, R381). -/
def Core.fabricSection (k : Core) : List Byte :=
  match k.round with
  | some r => r.fabricSection
  | none => List.replicate 16384 0

/-! ## Draining (R369 to R373) -/

/-- How many of a generator's outstanding requests have been performed, up to the first that has not (R369). Marked
DEDUCED, log 66. -/
def Gen.performed (x : Gen) (done : Nat → Bool) : Nat :=
  (x.order.zipIdx.takeWhile fun o => o.1.isSome || done (x.firstTag + o.2)).length

/-- The sources stop: a generator abandons its requests from the first that is not performed, keeps its position, and
places its marker behind its last performed reply; elements that only repeat constants or their own output place theirs
(R369). `done g tag` says that a request of generator g has been performed. -/
def Round.startDrain (r : Round) (m : Image) (d : Drain) (done : Nat → Nat → Bool) : Round :=
  let r := (List.range 8).foldl (init := r) fun r g =>
    if Image.hasGen m g then
      let x := r.genAt g
      let n := x.performed (done g)
      r.setGen g { x with
        pos := x.pos - (x.order.length - n)
        order := x.order.take n
        queue := if n = 0 then x.queue ++ [.m] else x.queue
        stopped := true }
    else r
  let r := (List.range 64).foldl (init := r) fun r e =>
    if Image.sourceless m e then (r.push e [.m]).setElem e { (r.push e [.m]).elemAt e with mark := true } else r
  { r with drain := some d }

/-- A drain begins, or joins the one in progress (R369, R374). -/
def State.startDrain (s : State) (c : Nat) (d : Drain) : State :=
  match (s.coreAt c).round with
  | none => s
  | some r =>
    match r.drain with
    | some old =>
      s.setRound c { r with drain := some { old with
        fmark := old.fmark ++ d.fmark
        fscan := old.fscan ++ d.fscan
        save := old.save || d.save } }
    | none =>
      let m := (s.coreAt c).image r.image
      let done (g tag : Nat) : Bool := s.accs.any fun (a : Acc) =>
        a.holder == Holder.cmd r.cmd.site && a.dest == Dest.generator g tag && a.stage == AccStage.performed
      let kept (a : Acc) : Bool := match a.dest with
        | .generator g tag => let x := r.genAt g; decide (tag < x.firstTag + x.performed (done g))
        | _ => false
      let s := { s with
        accs := s.accs.filter fun (a : Acc) => !(a.holder == Holder.cmd r.cmd.site) || kept a
        edges := s.edges.filter fun (e : Edge) => !(e.party == Party.cmd r.cmd.site && e.kind == WaitKind.read) }
      s.setRound c (r.startDrain m d done)

/-- An element aligns: markers stand on every aligning input, and its replies and lanes are out (R370).
Marked DEDUCED, log 63. -/
def Round.alignElem (r : Round) (m : Image) (e : Nat) : Round :=
  let c := Image.cfg m e
  let x := r.elemAt e
  let done (r : Round) : Round :=
    let r := r.push e [.m]
    r.setElem e { r.elemAt e with mark := true }
  if c.op = 0 ∨ x.mark then r
  else if isReducer c.op then
    match tget none r.rows (e / 16) with
    | some b => if b.kind = .m ∧ b.left.contains 100 then done (r.takeRow (e / 16) 100) else r
    | none => r
  else
    let ins := Image.aligned m e
    if (ins.all fun k => r.input m e k == .m) && !r.busy c e && !(r.units.any fun u => u.1 == e) then
      done (ins.foldl (init := r) fun r k => r.takeInput m e k)
    else r

/-- The places of an operator at which it takes markers: 0 steer, 1 merge, 2 carry, which passes on the marker of a loop
too (R370). -/
def Image.opAligned (m : Image) (e o : Nat) : List Nat :=
  let x := Image.router m e
  ((opPlaces x).filter fun p =>
    (if o = 0 then p.1 == 3 else if o = 1 then p.1 == 5 || p.1 == 6 else p.1 == 8)
      && decide (p.2 ≠ 0) && placeOn x p.1 && (o == 2 || !Image.loopInput m (e * 32 + p.1))).map Prod.fst

/-- The buffers an operator's marker enters. -/
def Image.opOut (m : Image) (e o : Nat) : List Nat :=
  if o = 0 then Image.readers m e 6 ++ Image.readers m e 7
  else if o = 1 then Image.readers m e 8 else Image.readers m e 9

/-- The direction of an operator's control, if it takes part in alignment (R370). -/
def Image.opCtlAligned (m : Image) (e o : Nat) : Option Nat :=
  (Image.opControl m e o).filter fun d => !Image.loopControl m e o d

/-- Whether router e has an operator with an output to a configured input: it emits a marker (R370, R371). -/
def Image.hasOp (m : Image) (e o : Nat) : Bool :=
  let x := Image.router m e
  decide ((if o = 0 then rtSti x else if o = 1 then rtMga x else rtCyi x) ≠ 0) && !(Image.opOut m e o).isEmpty

/-- Whether every control token that came toward router e from direction d ahead of its source's marker has been taken.
Markers move on the word network only (R369), so a control input aligns once its source has emitted its marker and
nothing is on the way. Marked DEDUCED, log 64. -/
def Round.ctlAligned (r : Round) (m : Image) (fuel e d : Nat) : Bool :=
  match fuel, neighbour e d with
  | 0, _ => false
  | _, none => !(decide (d = 0 ∧ e % 2 = 0) && (r.genAt (e / 2)).queue.contains .e)
  | fuel + 1, some q =>
    let x := Image.router m q
    if !rtCtlo x (opposite d) ∨ rtCtls x = 0 then true
    else if rtCtls x = 5 then
      let y := r.elemAt q
      decide ((Image.cfg m q).op = 0) || (y.mark && y.q.all fun i => match i with
        | .b _ | .e => false
        | .w _ | .m => true)
    else (r.ctlFor (q * 4 + (rtCtls x - 1)) 20).isNone && r.ctlAligned m fuel q (rtCtls x - 1)

/-- Whether an operator's control input is aligned, if it takes part (R370). -/
def Round.opCtlDone (r : Round) (m : Image) (e o : Nat) : Bool :=
  (Image.opCtlAligned m e o).all fun d =>
    (r.ctlFor (e * 4 + d) (if o = 0 then 4 else 7)).isNone && r.ctlAligned m 256 e d

/-- A router operator aligns; one without an input that takes part emits its marker at once, as an element does (R370).
Marked DEDUCED, log 63. -/
def Round.alignOp (r : Round) (m : Image) (e o : Nat) : Round :=
  let ps := Image.opAligned m e o
  let out := Image.opOut m e o
  if !Image.hasOp m e o || r.opMarks.contains (e * 4 + o) || !(ps.all fun p => r.placeTok m e p == .m)
      || !r.opCtlDone m e o || !r.roomAll m out then r
  else
    let r := (ps.foldl (init := r) fun r p => r.takePlace m e p).put out .m
    { r with opMarks := r.opMarks ++ [e * 4 + o] }

/-- An element and its router's operators align (R370). -/
def execMarkerAlign (c e : Nat) (s : State) : Res :=
  .next <| withRound c s fun m r =>
    if r.drain.isNone then s
    else s.setRound c (((((r.alignElem m e).alignOp m e 0).alignOp m e 1)).alignOp m e 2)

/-- Whether an element has an output that a marker leaves by. -/
def Image.hasOutput (m : Image) (e : Nat) : Bool :=
  decide ((Image.cfg m e).op ≠ 0) && (decide ((Image.cfg m e).omask % 32 ≠ 0) || !(Image.forkOps m e).isEmpty)

/-- Whether a drain is complete (R371). -/
def Round.drained (r : Round) (m : Image) : Bool :=
  (List.range 8).all (fun k => !Image.hasSink m k || (r.sinkAt k).drained)
    && (List.range 64).all fun e =>
      (!Image.hasOutput m e || ((r.elemAt e).mark && !(r.elemAt e).q.contains .m))
        && (List.range 3).all fun o =>
          !Image.hasOp m e o || r.opMarks.contains (e * 4 + o)

/-- A round resumes: every marker is discarded, and the tokens behind it keep their places (R373). -/
def Round.resume (r : Round) : Round :=
  { r with
    bufs := r.bufs.filter fun b => b.2 != some .m
    rows := r.rows.filter fun b => b.2.all fun x => x.kind != .m
    elems := (r.elems.map fun x => (x.1, { x.2 with q := x.2.q.filter (· != .m), mark := false })).filter fun x =>
      x.2 != Elem.init
    gens := (r.gens.map fun x => (x.1, { x.2 with queue := x.2.queue.filter (· != .m), stopped := false })).filter fun x =>
      x.2 != Gen.init
    sinks := (r.sinks.map fun x => (x.1, { x.2 with drained := false })).filter fun x => x.2 != Sink.init
    opMarks := []
    drain := none
    suspended := .no }

/-- Resuming the round of a core; the FMARKs that drained it complete (R373, R374). -/
def State.resumeRound (s : State) (c : Nat) : State :=
  match (s.coreAt c).round with
  | none => s
  | some r =>
    let s := s.setRound c r.resume
    match r.drain with
    | none => s
    | some d => d.fmark.foldl (init := s) fun s x => s.endCommand c x .fab false false false

/-- An FSCAN of a slot writes the section of the suspended round once the buckets have let it go, or meets a memory
fault; whether it is over (R381, R398). -/
def State.scanOut (s : State) (c t : Nat) (a : Addr) : State × Bool :=
  let sl := s.slotAt c t
  if sl.hold ≠ .scan then (s, true)
  else
    match s.bulkFault c (.store []) a 1024 16 with
    | some f => ((s.setSlot c t { sl with hold := .none }).takeTrap c t (f.trap 1) sl.pc, true)
    | none =>
      let x := s.payMore c (.store []) a 16384 64 sl.paid
      if x.2 = 256 then
        let s := State.bulkPut 1024 x.1 c a (s.coreAt c).fabricSection
        ((s.setSlot c t { s.slotAt c t with hold := .none, paid := 0 }).advance c t, true)
      else (x.1.setSlot c t { sl with paid := x.2 }, false)

/-- The FSCANs that wait for a suspended round write its section; when all have, the round resumes but for a save (R371,
R374, R381). -/
def State.scanRest (s : State) (c : Nat) : State :=
  match (s.coreAt c).round.bind Round.drain with
  | none => s
  | some d =>
    let x := d.fscan.foldl (init := (s, [])) fun x f =>
      let y := x.1.scanOut c f.1 f.2
      (y.1, if y.2 then x.2 else x.2 ++ [f])
    let s := match (x.1.coreAt c).round with
      | some r => x.1.setRound c { r with drain := some { d with fscan := x.2 } }
      | none => x.1
    if x.2 = [] ∧ !d.save then s.resumeRound c else s

/-- The patch is suspended: the FSCANs write their sections, and without a save the round resumes (R371, R372, R374). -/
def State.suspendRound (s : State) (c : Nat) (r : Round) (how : Suspended) : State :=
  if r.drain.isNone then s else (s.setRound c { r with suspended := how }).scanRest c

/-- Whether FSCANs still wait for the buckets at a suspended round. -/
def Core.scanning (k : Core) : Bool :=
  k.round.any fun r => r.suspended != .no && r.drain.any fun d => !d.fscan.isEmpty

/-- The drain is complete (R371). -/
def execDrainComplete (c : Nat) (s : State) : Res :=
  .next <|
    if (s.coreAt c).scanning then s.scanRest c
    else withRound c s fun m r => if r.drain.isSome && r.drained m then s.suspendRound c r .drained else s

/-- A drain that is not complete after 4096 ticks is scanned out, the units having completed what they accepted (R372).
-/
def execFabricScanOut (c : Nat) (s : State) : Res :=
  .next <| withRound c s fun m r =>
    match r.drain with
    | some d =>
      if 4096 ≤ d.ticks then
        let r := r.units.foldl (init := r) fun r u => r.unitReply m u.1
        s.suspendRound c r .scanned
      else s
    | none => s

/-! ## Restoring (R373, R380) -/

/-- The word token of a scan entry. -/
def entryTok (n : Nat) : Tok := if fbit n 34 then .m else if fld n 32 2 = 3 then .e else .w (BitVec.ofNat 32 n)

/-- The control token of a scan entry. -/
def entryCtl (n : Nat) : CTok := if fld n 32 2 = 3 then .e else .bit (decide (fld n 32 2 = 2))

/-- The control input of router e that feeds one of its users (R174, R177). -/
def Image.ctlKey (m : Image) (e u : Nat) : Option Nat :=
  let x := Image.router m e
  if u = 4 then some (e * 4 + rtStc x)
  else if u = 7 then some (e * 4 + rtMgc x)
  else if u = 20 then some (e * 4 + (rtCtls x - 1))
  else (Image.feed m (e * 32 + u)).map fun d => e * 4 + d

/-- A control token is still to be taken by a user. -/
def Round.addCtl (r : Round) (key : Nat) (t : CTok) (u : Nat) : Round :=
  r.setCtl key (some ⟨t, ((r.ctlAt key).elim [] CBuf.left) ++ [u]⟩)

/-- What stands at a place of router or element e goes back: a word to its buffer, a control token to its control input,
unless it is the E of an operator or an element's own (R174, R177). -/
def Round.placeIn (r : Round) (m : Image) (e u n : Nat) : Round :=
  if fbit n 34 ∨ fld n 32 2 = 0 then r.setBuf (e * 32 + u) (some (entryTok n))
  else
    match Image.ctlKey m e u with
    | some key => r.addCtl key (entryCtl n) u
    | none => r.setBuf (e * 32 + u) (some (entryTok n))

/-- A scan entry goes back to its buffer. -/
def Round.scanIn (r : Round) (m : Image) (n : Nat) : Round :=
  let buf := fld n 40 3
  let el := fld n 48 8
  let place := fld n 56 8
  let g := el / 2
  let k := (el - 48) / 2
  if buf ≤ 2 then r.placeIn m el buf n
  else if buf = 3 then
    let item : QItem := if fbit n 34 then .m else if fld n 32 2 = 3 then .e
      else if fld n 32 2 = 0 then .w (BitVec.ofNat 32 n) else .b (decide (fld n 32 2 = 2))
    let x := (r.push el [item]).elemAt el
    (r.push el [item]).setElem el (if isUnitOp (Image.cfg m el).op then { x with credits := x.results } else x)
  else if buf = 4 then
    if place ≤ 20 then r.placeIn m el place n
    else if place = 21 then r.setBuf (2056 + k) (some (entryTok n))
    else if place = 22 then r.addCtl (256 + g) (entryCtl n) 0
    else if place = 23 then r.addCtl (264 + k) (entryCtl n) 0
    else if place = 24 then r.setBuf (2048 + g) (some (entryTok n))
    else if place = 28 then { r with west := r.west ++ [el / 16] }
    else
      let x := r.sinkAt k
      r.setSink k { x with hold := x.hold ++ [BitVec.ofNat 32 n], full := fbit n 35 }
  else if buf = 5 then
    let x := el / 16
    let q := el % 16
    let b := (tget none r.rows x).getD ⟨.w 0, List.replicate 16 none, []⟩
    let left := ((List.range 3).filter fun i => fbit n (35 + i)).map (fun i => q * 4 + i)
      ++ (if fbit n 38 then [64 + q] else []) ++ (if fbit n 39 then [100] else [])
    let kind : Tok := if fbit n 34 then .m else if fld n 32 2 = 3 then .e else .w 0
    let lanes := if kind = .w 0 then lset b.lanes q (some (BitVec.ofNat 32 n)) else b.lanes
    { r with rows := tput none r.rows x (some ⟨kind, lanes, b.left ++ left⟩) }
  else
    let x := r.genAt el
    r.setGen el { x with queue := x.queue ++ [entryTok n] }

/-- The CONST that is alone of the stream of element e's carry: the word that was sent last along each way from it
(R188). -/
def Round.markLone (r : Round) (m : Image) (fuel e : Nat) (keys : List Nat) : Round :=
  match fuel with
  | 0 => r
  | fuel + 1 =>
    keys.foldl (init := r) fun r k =>
      match r.bufAt k with
      | some (.w v) => r.setBuf k (some (.c v e))
      | some (.c _ _) | some .e | some .m => r
      | none => if k < 2048 ∧ 9 ≤ k % 32 then r.markLone m fuel e (Image.wordOut m (k / 32) (k % 32 - 9)) else r

/-- Generator g as a fabric section records it: the field its port has written, then its place in the pass (R380). -/
def genOf (m : Image) (g : Nat) (bs : List Byte) : Gen :=
  let shape := Image.shape m g
  let shape := if gPsel shape = 0 then shape else gWrite shape (gPsel shape) (BitVec.ofNat 32 (numAt bs (16 + 4 * g) 4))
  let p := numAt bs (64 + 8 * g) 8
  let pos := fld p 0 16 + fld p 16 16 * gExt shape 0 + fld p 32 16 * (gExt shape 0 * gExt shape 1)
  let code := numAt bs (48 + g) 1
  { Gen.init with
    shape := shape
    pos := pos
    phase := if code = 1 then .waitParam else if code = 3 then .ending
      else if code = 0 ∧ pos < gTotal shape then .running else .finished }

/-- A round as a fabric section records it, resumed (R373, R380). -/
def roundOf (m : Image) (n : Nat) (x : Cmd) (bs : List Byte) : Round :=
  let r := { Round.start n m x with bufs := [] }
  let r := (List.range 8).foldl (init := r) fun r g =>
    if Image.hasGen m g then r.setGen g (genOf m g bs) else r
  let r := (List.range 64).foldl (init := r) fun r e =>
    let at_ := 128 + 16 * e
    let st := (List.range 3).map fun i => BitVec.ofNat 32 (numAt bs (at_ + 4 * i) 4)
    let f := numAt bs (at_ + 12) 4
    let reord := decide ((Image.cfg m e).op = 0x2A)
    let x := { Elem.init with
      st := if reord then [0, 0, 0] else st
      nv := if reord then 0 else fld f 0 8
      ended := (List.range 3).filter fun k => fbit f (9 + k)
      armed := fbit f 8
      fresh := fbit f 14
      mdisc := (if fbit f 12 then [5] else []) ++ (if fbit f 13 then [6] else []) }
    let r := r.setElem e x
    if reord then
      let len := min 256 (st.getD 1 0).toNat
      let next := (st.getD 0 0).toNat
      r.setReord (e / 2) ⟨(List.range len).map fun i => BitVec.ofNat 32 (numAt bs (1152 + 1024 * (e / 2) + 4 * i) 4),
        if next < 256 then some next else none⟩
    else r
  let r := ((List.range (min 880 (numAt bs 8 8))).foldl (init := r) fun r i =>
    r.scanIn m (numAt bs (9344 + 8 * i) 8)).resume
  (List.range 64).foldl (init := r) fun r e =>
    if (r.elemAt e).fresh then r.markLone m 256 e (Image.readers m e 9) else r

/-! ## The fab port (R209 to R218) -/

/-- Whether the command before the head of the fab port has completed and no round is in progress; one that had started
before the round does not wait for it when it starts again (R209). -/
def Core.fabFree (k : Core) : Bool :=
  (k.round.all fun r => k.fabq.head?.any fun x => decide (k.cmdAge x < k.cmdAge r.cmd))
    && k.fabLast.all fun site =>
      !(k.fabRun.any fun x => x.site == site) && !(k.ended.any fun e => e.census && e.cmd.site == site)

/-- A configuration fault of a fab command (R85, R213, R348). -/
def State.configFault (s : State) (c : Nat) (x : Cmd) (detail : Nat) : State :=
  s.failCommand c x .fab [] 1 (BitVec.ofNat 64 detail) 0 false

/-- Marking an image slot ready or not. -/
def Core.setReady (k : Core) (n : Nat) (on : Bool) : Core := { k with cready := k.cready.setIfInBounds n on }
/-- Whether an image slot is ready. -/
def Core.isReady (k : Core) (n : Nat) : Bool := k.cready.toList.getD n false

/-- FCFG checks the bytes of its slot (R85, R189, R213). -/
def State.checkImage (s : State) (c : Nat) (x : Cmd) : State :=
  let n := cf x.cmd 24 2
  let k := s.coreAt c
  match Image.fault (k.image n) with
  | some o => (s.setCore c (k.setReady n false)).configFault c x o
  | none => (s.setCore c (k.setReady n true)).endCommand c x .fab false false false

/-- A request of an FCFG that reads its image from global memory (R213). -/
def fcfgAcc (c : Nat) (x : Cmd) (i : Nat) : Acc :=
  { genAcc c 0 x.site (BitVec.ofNat 80 (cf x.cmd 32 80 + 64 * i)) 0 with size := 64, dest := .engine 4 i }

/-- A fab command that has started and goes on without a round. -/
def State.runFab (s : State) (c : Nat) (x : Cmd) : State :=
  s.setCore c { s.coreAt c with fabRun := (s.coreAt c).fabRun ++ [x] }

/-- Fab commands but the one of a site. -/
def otherFab (l : List Cmd) (site : BitVec 46) : List Cmd := l.filter fun x => x.site != site

/-- FCFG (R213). -/
def execFcfg (c : Nat) (s : State) : Res :=
  .next <|
    let k := s.coreAt c
    match k.headOf .fab 0x01 with
    | none => s
    | some x =>
      if !k.fabFree then s
      else
        let s := s.takeHead c .fab
        let s := s.setCore c ((s.coreAt c).setReady (cf x.cmd 24 2) false)
        if cmdMod x.cmd 0 then
          let s := s.runFab c x
          (List.range 32).foldl (init := s) fun s i => s.startAcc (fcfgAcc c x i)
        else s.checkImage c x

/-- 64 bytes of an FCFG's image have been read; the last lets the check begin (R213). -/
def State.fcfgData (s : State) (c : Nat) (site : BitVec 46) (tag : Nat) (bs : List Byte) : State :=
  let k := s.coreAt c
  match k.fabRun.find? fun x => x.site == site with
  | none => s
  | some x =>
    let x := { x with doneb := x.doneb + 64 }
    let k := { k with cstore := tputs 0 k.cstore (cf x.cmd 24 2 * 2048 + 64 * tag) bs }
    if x.doneb = 2048 then (s.setCore c { k with fabRun := otherFab k.fabRun site }).checkImage c x
    else s.setCore c { k with fabRun := k.fabRun.map fun y => if y.site = site then x else y }

/-- An FCFG ends in a memory fault or exception: its slot holds no image (R213). -/
def State.fcfgFail (s : State) (c : Nat) (site : BitVec 46) (cls : Nat) (detail : Word) (va : Addr) : State :=
  let k := s.coreAt c
  match k.fabRun.find? fun x => x.site == site with
  | none => s
  | some x =>
    let s := s.setCore c { k with fabRun := otherFab k.fabRun site }
    let s := { s with accs := s.accs.filter fun (a : Acc) => !(a.holder == Holder.cmd x.site) }
    s.failCommand c x .fab [] cls detail va false

/-- FRUN (R188, R214). -/
def execFrun (c : Nat) (s : State) : Res :=
  .next <|
    let k := s.coreAt c
    match k.headOf .fab 0x02 with
    | none => s
    | some x =>
      if !k.fabFree then s
      else
        let n := cf x.cmd 24 2
        let s := s.takeHead c .fab
        if !k.isReady n then s.configFault c x 0xFFF else s.setRound c (Round.start n (k.image n) x)

/-- FSTOP: the round ends, and the FSTOP completes behind its FRUN, also one that a save has cut off
between the two (R215). -/
def execFstop (c : Nat) (s : State) : Res :=
  .next <|
    match (s.coreAt c).headOf .fab 0x03 with
    | none => s
    | some x =>
      let s := s.takeHead c .fab
      match (s.coreAt c).round with
      | some r => ((s.runFab c x).dropRound c r).endCommand c r.cmd .fab false true false
      | none =>
        if (s.coreAt c).ended.any fun e => e.port == .fab && e.census && e.stop then s.runFab c x
        else s.endCommand c x .fab false false false

/-- The image with the shape record of a generator replaced and its bit of AGV set (R216). -/
def Image.withShape (m : Image) (g : Nat) (bs : List Byte) : Image :=
  let h := Image.word m 0
  let h := if Image.hasGen m g then h else h + 2 ^ (36 + g)
  { m with store := tputs 0 (tputs 0 m.store m.base (bytesOf 8 h)) (m.base + 1088 + 32 * g) bs }

/-- An AGSET that has started: it waits for its element, and shrinks the window once the record is written (R216). -/
def State.agsetRead (s : State) (c : Nat) (x : Cmd) : State :=
  let k := s.coreAt c
  let n := cf x.cmd 28 2
  let g := cf x.cmd 24 3
  let w := cmdSrcw x.cmd
  let win := k.winAt w
  let edge := cmdReadEdge c w 0 x.site (.agset c)
  let done := (s.dropRetry (.cmd x.site) (.agset c)).setCore c { k with fabRun := otherFab k.fabRun x.site }
  if win.held then s.addEdge edge
  else if !(win.v && win.esz == 3#4 && win.mode == .plain) then done.configFault c x 0xFFE
  else
    match k.engRead w 0 none with
    | .wait => s.addEdge edge
    | .fault cls d => done.failCommand c x .fab [] cls d 0 false
    | .ready base =>
      let m := Image.withShape (k.image n) g (tgets 0 k.wstore base 32)
      let done := done.useRows c base 32
      if (Image.fault m).isSome then done.configFault c x (1088 + 32 * g)
      else
        let s := done.setCore c { done.coreAt c with cstore := m.store }
        (s.shrinkWin c w 1 x.site (issuerOf x.site)).endCommand c x .fab false false false

/-- AGSET (R209, R216): it starts, and then reads its element. -/
def execAgset (c : Nat) (s : State) : Res :=
  .next <|
    let waiting := if (s.coreAt c).portsRun then (s.coreAt c).fabRun.filter fun x => decide (cmdOp x.cmd = 0x04) else []
    let s := waiting.foldl (init := s) fun s x => s.agsetRead c x
    let k := s.coreAt c
    match k.headOf .fab 0x04 with
    | none => s
    | some x =>
      if !k.fabFree then s
      else
        let s := s.takeHead c .fab
        if !k.isReady (cf x.cmd 28 2) then s.configFault c x 0xFFF else (s.runFab c x).agsetRead c x

/-- AGPRM (R217). -/
def execAgprm (c : Nat) (s : State) : Res :=
  .next <|
    let k := s.coreAt c
    match k.headOf .fab 0x05 with
    | none => s
    | some x =>
      if !k.fabFree then s
      else
        let n := cf x.cmd 28 2
        let g := cf x.cmd 24 3
        let s := s.takeHead c .fab
        if !k.isReady n then s.configFault c x 0xFFF
        else if !Image.hasGen (k.image n) g then s.configFault c x (1088 + 32 * g)
        else
          let shape := gWrite (Image.shape (k.image n) g) (cf x.cmd 16 3) (BitVec.ofNat 32 (cf x.cmd 32 32))
          let cs := tputs 0 k.cstore (n * 2048 + 1088 + 32 * g) (bytesOf 32 shape.toNat)
          (s.setCore c { s.coreAt c with cstore := cs }).endCommand c x .fab false false false

/-- FMARK (R218, R374). -/
def execFmark (c : Nat) (s : State) : Res :=
  .next <|
    match (s.coreAt c).headOf .fab 0x06 with
    | none => s
    | some x =>
      let s := s.takeHead c .fab
      if (s.coreAt c).round.isSome then s.startDrain c ⟨0, [x], [], false⟩
      else s.endCommand c x .fab false false false

/-- The issuing slot's FSCAN writes the fabric section as it stands (R381). -/
def State.fscanNow (s : State) (va : Addr) : State :=
  State.bulkPut 1024 s s.cur va (s.coreAt s.cur).fabricSection

/-- FSCAN (R381): privileged; with a round in progress it waits for the drain. -/
def execFscan (a : BitVec 4) (s : State) : Res :=
  finish s (privileged (.fscan a) s fun s =>
    let va := s.me.readA a
    if !aligned va.toNat 64 then .trap (memTrap 7 7 1 va)
    else settled s fun s =>
      match s.bulkFault s.cur (.store []) va 1024 16 with
      | some f => .trap (f.trap 1)
      | none =>
        match (s.coreAt s.cur).round with
        | some r =>
          if r.suspended = .no then
            .hold ((s.setMe { s.me with hold := .scan }).startDrain s.cur ⟨0, [], [(s.slot, va)], false⟩)
          else
            metered (.store []) va 16384 64 s fun s => .done (s.fscanNow va)
        | none => metered (.store []) va 16384 64 s fun s => .done (s.fscanNow va))

end Sys2Proof.Machine
end

