-- ==== Sys2Proof/Machine/Memory.lean ====
section
/-! DEFINITION. The global-memory instructions of a task: GLD, GST, RED, AMO, FENCE and TLBINV (R246 to R253). -/

namespace Sys2Proof.Machine

open Sys2Proof

/-- The accesses of a task in flight (R246). -/
def State.outstanding (s : State) (c t : Nat) : List Acc := s.accs.filter fun a => a.holder == s.holderOf c t

/-- Whether an access is a task's, for the core's limit (R246). -/
def Holder.isTask : Holder → Bool
  | .task _ _ _ => true
  | .cmd _ | .agent _ => false

/-- Whether a task may have one more access outstanding: at most 16 of a task and 64 of a core (R246). -/
def State.belowLimit (s : State) (c t : Nat) : Bool :=
  decide ((s.outstanding c t).length < 16)
    && decide ((s.accs.filter fun a => a.core == c && a.holder.isTask).length < 64)

/-- The order of an access: whether it releases, and at which scope (R73). -/
def Order.release : Order → Option Scope
  | .none => Option.none
  | .acq _ => Option.none
  | .rel x => some x
  | .acqRel x => some x

/-- Whether an access acquires (R73). -/
def Order.acquire : Order → Bool
  | .none | .rel _ => false
  | .acq _ | .acqRel _ => true

/-- Whether an access is plain: a load or store without an order modifier (R265). -/
def AccOp.plain (op : AccOp) (rel acq : Bool) : Bool :=
  (match op with
    | .load | .store _ => true
    | .red _ _ _ _ | .amo _ _ _ => false) && !rel && !acq

/-- The accesses in flight that must be performed first: a release waits for every earlier access of the task, one that
is not plain for the earlier ones that are not, any access for the earlier ones that touch a common byte (R246, R247,
R265). Marked DEDUCED, log 98. -/
def State.mustFollow (s : State) (c t : Nat) (rel plain : Bool) (va : Addr) (n : Nat) : List Nat :=
  ((s.outstanding c t).filter fun a =>
    rel || (!plain && !a.op.plain a.rel a.acq)
      || (decide (a.va.toNat < va.toNat + n) && decide (va.toNat < a.va.toNat + a.size))).map Acc.id

/-- A scalar access as it issues. -/
def scalarAcc (s : State) (op : AccOp) (va : Addr) (n : Nat) (code : BitVec 3) (o : Order) (dest : Dest) : Acc where
  id := 0
  core := s.cur
  holder := s.holderOf s.cur s.slot
  site := s.siteOf s.cur s.slot
  op := op
  va := va
  size := n
  code := code
  rel := (Order.release o).isSome
  acq := Order.acquire o
  after := s.mustFollow s.cur s.slot (Order.release o).isSome (op.plain (Order.release o).isSome (Order.acquire o)) va n
  dest := dest
  stage := .lookup
  asid := 0
  pa := 0
  level := 0
  clg := 0
  repc := s.me.repc
  data := []

/-- Whether the condition of a task's latest FENCE.rel holds: the accesses before it are performed (R252). -/
def State.fencePassed (s : State) (c t : Nat) : Bool :=
  match (s.slotAt c t).fenceRel with
  | some n => !s.accs.any fun a => a.holder == s.holderOf c t && decide (a.id < n)
  | none => true

/-- A pending FENCE.rel holds the task's next GST, RED or AMO until its earlier accesses are performed, and then
releases the task's claims (R252). -/
def fenced (s : State) (k : State → Out) : Out :=
  if s.me.fenceRel.isNone then k s
  else if s.fencePassed s.cur s.slot then
    k ((s.setMe { s.me with fenceRel := none }).releaseClaims (s.holderOf s.cur s.slot))
  else .moved (s.holdAgain .rel)

/-- The tier of an access that is translated. -/
def Acc.tier (a : Acc) : Nat := a.pa / 2 ^ 58
/-- The physical address of an access that is translated (R234). -/
def Acc.phys (a : Acc) : Nat := a.pa % 2 ^ 58

/-- Whether the memory an access names has left service (R429). -/
def State.outOfService (s : State) (a : Acc) : Bool := s.lostMemory a.tier a.phys

/-- Whether a translated access needs no more of its task: no claim is to be checked and its memory is in service (R246,
R271). -/
def State.goesOn (s : State) (a : Acc) : Bool := a.stage == .translated && a.clg == 0#2 && !s.outOfService a

/-- Whether the page of a posted access permits it as the tables stand: its translation then waits without its task
(R241). -/
def State.postedMay (s : State) (c : Nat) (op : AccOp) (va n : Nat) : Bool :=
  match s.leafAt c va with
  | .error _ => false
  | .ok (p, level) =>
    (leafFault (s.clusterAt (clusterOf c)).ptroot s.pkg p level op va n).isNone && pteClg p == 0#2
      && !s.lostMemory (pteTier p) (leafPa p level va)

/-- The register that the value of an access goes to is owed from now on (R246). -/
def Slot.expect (sl : Slot) (a : Acc) : Slot :=
  match a.dest with
  | .reg _ d _ => { sl with loads := sl.loads ++ [⟨a.id, d, a.acq⟩] }
  | .none | .engine _ _ | .generator _ _ | .spill _ _ _ | .refill _ _ | .egress _ _ | .merged => sl

/-- Starting a scalar access: alignment comes before translation (R243), then what the access waits for (R246, R252). A
store or reduction leaves its task at once where its page permits it; a load or atomic holds it until it is translated,
and then only its destination; on a page with CLG ≠ 0 each holds it until its claims are checked (R241, R246, R271).
Marked DEDUCED, log 12. -/
def access (op : AccOp) (va : Addr) (n : Nat) (code : BitVec 3) (o : Order) (dest : Dest) (s : State) : Out :=
  if !aligned va.toNat n then .trap (memTrap 7 7 code va)
  else if s.me.loads.any (·.acq) then .moved (s.holdAgain .acquire)
  else if !s.belowLimit s.cur s.slot then .moved (s.holdAgain .limit)
  else
    let id := s.nextAcc
    let may := dest == .none && s.postedMay s.cur op va.toNat n
    let s := s.startAcc (scalarAcc s op va n code o dest)
    match s.accAt id with
    | some a =>
      if s.goesOn a || (may && a.stage != .translated) then .done (s.setMe (s.me.expect a))
      else .hold (s.setMe { s.me with hold := .access id })
    | none => .done s

/-- GLD (R247). -/
def gld (n : Nat) (signed : Bool) (d : BitVec 5) (a : BitVec 4) (o : Order) (f : BitVec 11) (s : State) : Res :=
  finish s (access .load (accessAddr (s.me.readA a) f n) n 0 o (.reg s.slot d signed) s)

/-- GST (R247). -/
def gst (n : Nat) (z : BitVec 5) (a : BitVec 4) (o : Order) (f : BitVec 11) (s : State) : Res :=
  finish s (fenced s fun s =>
    access (.store (bytesOf n (s.me.readG z).toNat)) (accessAddr (s.me.readA a) f n) n 1 o .none s)

/-- GLD.b.z (R247). -/
def execGldBZ (d : BitVec 5) (a : BitVec 4) (o : Order) (f : BitVec 11) (s : State) : Res := gld 1 false d a o f s
/-- GLD.b.s (R247). -/
def execGldBS (d : BitVec 5) (a : BitVec 4) (o : Order) (f : BitVec 11) (s : State) : Res := gld 1 true d a o f s
/-- GLD.h.z (R247). -/
def execGldHZ (d : BitVec 5) (a : BitVec 4) (o : Order) (f : BitVec 11) (s : State) : Res := gld 2 false d a o f s
/-- GLD.h.s (R247). -/
def execGldHS (d : BitVec 5) (a : BitVec 4) (o : Order) (f : BitVec 11) (s : State) : Res := gld 2 true d a o f s
/-- GLD.w.z (R247). -/
def execGldWZ (d : BitVec 5) (a : BitVec 4) (o : Order) (f : BitVec 11) (s : State) : Res := gld 4 false d a o f s
/-- GLD.w.s (R247). -/
def execGldWS (d : BitVec 5) (a : BitVec 4) (o : Order) (f : BitVec 11) (s : State) : Res := gld 4 true d a o f s
/-- GLD.d (R247). -/
def execGldD (d : BitVec 5) (a : BitVec 4) (o : Order) (f : BitVec 11) (s : State) : Res := gld 8 false d a o f s
/-- GST.b (R247). -/
def execGstB (z : BitVec 5) (a : BitVec 4) (o : Order) (f : BitVec 11) (s : State) : Res := gst 1 z a o f s
/-- GST.h (R247). -/
def execGstH (z : BitVec 5) (a : BitVec 4) (o : Order) (f : BitVec 11) (s : State) : Res := gst 2 z a o f s
/-- GST.w (R247). -/
def execGstW (z : BitVec 5) (a : BitVec 4) (o : Order) (f : BitVec 11) (s : State) : Res := gst 4 z a o f s
/-- GST.d (R247). -/
def execGstD (z : BitVec 5) (a : BitVec 4) (o : Order) (f : BitVec 11) (s : State) : Res := gst 8 z a o f s

/-- RED (R249). -/
def execRed (op : RedOp) (dbl signed fast : Bool) (o : Order) (d : BitVec 5) (a : BitVec 4) (g : Guard) (s : State) :
    Res :=
  guarded g s fun s => fenced s fun s =>
    access (.red op signed fast (s.me.readG d)) (s.me.readA a) (if dbl then 8 else 4) 2 o .none s

/-- AMO: the operand is g_d, the new value of .cas g_(d+1) (R251); one that releases issues once its release is
performed (R262). -/
def execAmo (op : AmoOp) (dbl : Bool) (o : Order) (d : BitVec 5) (a : BitVec 4) (g : Guard) (s : State) : Res :=
  guarded g s fun s => fenced s fun s =>
    let n := if dbl then 8 else 4
    let go (s : State) : Out :=
      access (.amo op (s.me.readG d) (s.me.readG (d + 1))) (s.me.readA a) n 3 o (.reg s.slot d false) s
    if (Order.release o).isSome && aligned (s.me.readA a).toNat n then released s go else go s

/-- FENCE (R252): the full form holds the task until its accesses are performed, the acquire form until its loads have
returned; the release form leaves a mark for the next store. -/
def fenceOut (o : FenceKind) (s : State) : Out :=
  match o with
  | .full => released s fun s => .done (s.setMe { s.me with fenceRel := none })
  | .acq => if s.me.loads.isEmpty then .done s else .moved (s.holdAgain .acquire)
  | .rel =>
    if s.quiet s.cur s.slot then .done (s.releaseClaims (s.holderOf s.cur s.slot))
    else .done (s.setMe { s.me with fenceRel := some s.nextAcc })

/-- FENCE (R252). -/
def execFence (o : FenceKind) (_z : Scope) (s : State) : Res := finish s (fenceOut o s)

/-- Whether TLBINV of a kind invalidates a held translation (R253). -/
def tlbMatches (k : TlbKind) (asid : BitVec 12) (va : Nat) (e : TlbEntry) : Bool :=
  match k with
  | .page => e.covers asid va
  | .all => e.asid == asid

/-- Step 2 of TLBINV: entries of the package's TLBs and node caches go, and walks of the ASID run again (R242, R253).
Marked DEDUCED, log 20. -/
def State.invalidate (s : State) (k : TlbKind) (asid : BitVec 12) (va : Nat) : State :=
  let s := s.cores.foldl (init := s) fun s e =>
    s.setCore e.1 { s.coreAt e.1 with utlb := (s.coreAt e.1).utlb.filter fun x => !tlbMatches k asid va x }
  let s := s.clusters.foldl (init := s) fun s e =>
    s.setCluster e.1 { s.clusterAt e.1 with
      tlb := (s.clusterAt e.1).tlb.filter fun x => !tlbMatches k asid va x }
  s.dies.foldl (init := s) fun s e =>
    let d := s.dieAt e.1
    s.setDie e.1 { d with
      nodes := d.nodes.filter fun x => x.asid != asid
      walks := d.walks.map fun w => if w.asid = asid then { w with redo := true } else w }

/-- The accesses of an ASID in flight that step 3 of TLBINV waits for (R253); an access held at a fault is in none.
Marked DEDUCED, log 20. -/
def State.inFlight (s : State) (asid : BitVec 12) : List Nat :=
  (s.accs.filter fun a => a.asid == asid && a.stage != .performed && a.stage != .faulted).map Acc.id

/-- TLBINV (R253). Marked DEDUCED, log 20. -/
def execTlbinv (a : BitVec 4) (k : TlbKind) (s : State) : Res :=
  finish s (privileged (.tlbinv a k) s fun s => released s fun s =>
    let asid := rootAsid (s.clusterAt (clusterOf s.cur)).ptroot
    let ids := s.inFlight asid
    let s := s.invalidate k asid (s.me.readA a).toNat
    if ids.isEmpty then .done s else .hold (s.setMe { s.me with hold := .asid asid ids }))

end Sys2Proof.Machine
end

