-- ==== Sys2Proof/Machine/Service.lean ====
section
/-! DEFINITION. The windows of the special core numbers 0x1FFD, 0x1FFE and 0x1FFF of each cluster (R158, R245, R345). -/

namespace Sys2Proof.Machine

open Sys2Proof

/-- A special core number of a cluster, as one number that no core has. -/
def serviceKey (cl num : Nat) : Nat := cl * 8192 + num

/-- The capacity of a service window; none where the number names no window (R158, R245, R345). -/
def serviceCap (num w : Nat) : Option Nat :=
  match num, w with
  | 0x1FFF, 0 => some 768
  | 0x1FFF, 1 => some 64
  | 0x1FFE, 0 => some 192
  | 0x1FFE, 1 => some 64
  | 0x1FFD, 0 => some 1024
  | _, _ => none

/-- Whether a service window is one that its users fill (R158, R245, R345). -/
def serviceFilled (num w : Nat) : Bool := decide (num = 0x1FFF ∧ w = 0) || decide (num = 0x1FFE ∧ w = 1)

/-- What its users may do with a service window. -/
def serviceAllows (num w : Nat) (op : OpKind) : Bool :=
  match op with
  | .query => true
  | .fill => serviceFilled num w
  | .read | .shrink => !serviceFilled num w
  | .update | .define => false

/-- The elements that stand in a service window. -/
def Service.ext (x : Service) : Nat := (x.fill - x.head).toNat

/-- Adding an element. -/
def Service.push (x : Service) (v : Word) : Service := { x with fill := x.fill + 1, elems := x.elems ++ [v] }

/-- Removing the oldest n elements. -/
def Service.drop (x : Service) (n : Nat) : Service :=
  { x with head := x.head + BitVec.ofNat 32 n, elems := x.elems.drop n }

/-- A service window of a cluster. -/
def State.service (s : State) (cl num w : Nat) : Service :=
  let k := s.clusterAt cl
  match num, w with
  | 0x1FFF, 0 => k.unit.records
  | 0x1FFF, _ => k.unit.status
  | 0x1FFE, 0 => k.faults
  | 0x1FFE, _ => k.answers
  | _, _ => k.reports

/-- Replacing a service window of a cluster. -/
def State.setService (s : State) (cl num w : Nat) (x : Service) : State :=
  let k := s.clusterAt cl
  s.setCluster cl
    (match num, w with
    | 0x1FFF, 0 => { k with unit := { k.unit with records := x } }
    | 0x1FFF, _ => { k with unit := { k.unit with status := x } }
    | 0x1FFE, 0 => { k with faults := x }
    | 0x1FFE, _ => { k with answers := x }
    | _, _ => { k with reports := x })

/-- Raising a vector of the function that owns a cluster (R396). Marked DEDUCED, log 69. -/
def State.notifyOwner (s : State) (cl v : Nat) : State :=
  match (s.clusterAt cl).owner with
  | some f => s.raiseMsix f.toNat v
  | none => s

/-- Moving the elements of fault records that wait for room into the fault queue, in order (R245). -/
def State.pumpFaults (fuel : Nat) (s : State) (cl : Nat) : State :=
  match fuel with
  | 0 => s
  | fuel + 1 =>
    let k := s.clusterAt cl
    match k.faultPosts with
    | [] => s
    | [] :: r => State.pumpFaults fuel ((s.setCluster cl { k with faultPosts := r }).notifyOwner cl 2) cl
    | (v :: vs) :: r =>
      if k.faults.ext < 192 then
        State.pumpFaults fuel
          ((s.setCluster cl { k with faultPosts := vs :: r, faults := k.faults.push v }).retryWin
            (serviceKey cl 0x1FFE) 0) cl
      else s

/-- Forming a fault record of three elements, filled as the queue has room (R245). -/
def State.faultRecord (s : State) (cl : Nat) (site : BitVec 46) (why : Nat) (code : BitVec 3) (va : Addr)
    (level : Nat) : State :=
  let k := s.clusterAt cl
  let e0 := BitVec.ofNat 64 (code.toNat * 2 ^ 54 + why * 2 ^ 46 + site.toNat)
  let e2 := BitVec.ofNat 64 (level * 2 ^ 16 + va.toNat / 2 ^ 64)
  let s := s.setCluster cl { k with faultPosts := k.faultPosts ++ [[e0, va.setWidth 64, e2]] }
  s.pumpFaults (4 * (k.faultPosts.length + 1)) cl

/-- A fill of a service window that has room, and the unit that takes it. -/
def State.serviceFill (s : State) (cl num w : Nat) (v : Word) : State :=
  let s := (s.setService cl num w ((s.service cl num w).push v)).retryWin (serviceKey cl num) w
  if num = 0x1FFF then s.post (.launchRecordRead cl) else s.post (.faultAnswer cl)

/-- A shrink of a service window, and the unit that may fill it now. -/
def State.serviceShrink (s : State) (cl num w n : Nat) : State :=
  let s := s.setService cl num w ((s.service cl num w).drop n)
  if num = 0x1FFF then s.post (.launchStatusPost cl)
  else if num = 0x1FFE then s.pumpFaults (4 * ((s.clusterAt cl).faultPosts.length + 1)) cl
  else s.post (.reportRecordPost cl)

/-- The word a query of a service window returns: its counts, V, ESZ and CAP; the spec gives its other descriptor bits
no value (DESIGN CHOICE, log 8). -/
def serviceWord (x : Service) (cap : Nat) (q : BitVec 2) (v : Word) : Word :=
  match q.toNat with
  | 0 => BitVec.ofNat 64 (2 ^ 63 + 2 ^ 35 + cap * 2 ^ 19) ||| (v &&& 0x003FFF800007FF80#64)
  | 1 => BitVec.ofNat 64 (x.fill.toNat * 2 ^ 32 + x.head.toNat)
  | _ => v &&& 0x0001FFFEFFFFFFFF#64

end Sys2Proof.Machine
end

