-- ==== Sys2Proof/Machine/Access.lean ====
section
/-! DEFINITION. What happens to a global access after it starts: the cluster TLB, misses and walks (R240 to R242), memory
faults and their answers (R243 to R245, R257), metering (R398), its place at the home slice (R235, R248 to R251), claims
(R267 to R271), and its reply. -/

namespace Sys2Proof.Machine

open Sys2Proof

/-! ## Faults (R243, R244, R257, R270) -/

/-- The slot an access holds, where its activation still stands there. -/
def State.heldBy (s : State) (a : Acc) : Option (Nat × Nat) :=
  match a.holder with
  | .task c t act =>
    if (s.slotAt c t).act = act ∧ (s.slotAt c t).hold = .access a.id then some (c, t) else none
  | .cmd _ | .agent _ => none

/-- A precise trap for an access of a task, at the instruction that made the access, with REPC as it was there (R113,
R244, R270): a store or reduction that has left its task, or a load whose task has gone on, traps there too. A slot that
stands in the trapped state stays in it and posts a second record. Marked DEDUCED, log 21. -/
def State.taskFault (s : State) (a : Acc) (tr : Trap) : State :=
  let s := s.dropAcc a.id
  match a.holder with
  | .task c t act =>
    let sl := s.slotAt c t
    if sl.act = act then
      let sl := { sl with loads := sl.loads.filter fun l => l.id != a.id }
      let pc := BitVec.ofNat 12 (sitePc a.site)
      if sl.killing then s.setSlot c t sl
      else
        match sl.status with
        | .runnable | .waiting =>
          (s.setSlot c t (if sl.traps = [] then { sl with hold := .none, pc := pc, repc := a.repc } else sl)).takeTrap c t tr pc
        | .trapped => (s.setSlot c t sl).stopTrapped c t (tr.cause.toNat % 256) true a.site tr.arg
        | .free | .bound => s.setSlot c t sl
    else s
  | .cmd _ | .agent _ => s

/-- An access of the backing agent that is lost: the window is poisoned at the element's count and the report posted,
which names the window unless an earlier poison stands (R257, R348, R351, R396). -/
def State.agentFail (s : State) (a : Acc) (w : Nat) (count : BitVec 32) (detail : Word) : State :=
  (s.setPoison a.core w count 3 a.site detail).engineReport a.core a.site none 3
    (if (s.winAt a.core w).poisons count then 2 ^ w else 0) detail a.va

/-- The refill reads of a window from the j-th on are given up; the places they were to take are still there (R257). -/
def State.dropRefills (s : State) (c w j : Nat) : State :=
  let x := s.winAt c w
  let gone := (x.refills.drop j).map Prod.fst
  let accs := s.accs.map fun a =>
    match a.dest with
    | .refill v e => if a.core = c ∧ v = w ∧ gone.contains e then { a with dest := .none } else a
    | .none | .reg _ _ _ | .engine _ _ | .generator _ _ | .spill _ _ _ | .egress _ _ | .merged => a
  { s with accs := accs }.setWin c w { x with
    refills := x.refills.take j
    causes := (x.refills.drop j).map (fun (r : Nat × BitVec 46) => (1, r.2)) ++ x.causes }

/-- An unrecoverable fault of an access of an engine or of the backing agent (R244, R257, R270). -/
def State.engineFault (s : State) (a : Acc) (cls : Nat) (detail : Word) : State :=
  let c := a.core
  let s := s.dropAcc a.id
  match a.dest with
  | .engine e _ =>
    if e = 4 then s.fcfgFail c a.site cls detail a.va
    else
      match (s.coreAt c).bteAt e with
      | some r => if r.cmd.site = a.site then s.bteFail c e r cls detail a.va else s
      | none => s
  | .generator _ _ =>
    match (s.coreAt c).round with
    | some r => s.roundFault c r cls detail a.va
    | none => s
  | .spill w _ count =>
    (s.setWin c w { s.winAt c w with refillStop := .spillFailed }).agentFail a w count detail
  | .refill w e =>
    let x := s.winAt c w
    let j := x.refills.findIdx fun y => y.1 == e
    let s := s.dropRefills c w j
    let x := s.winAt c w
    let stop := if x.refillStop = .spillFailed then RefillStop.spillFailed else .readFailed
    (s.setWin c w { x with refillStop := stop }).agentFail a w (x.fill + BitVec.ofNat 32 j) detail
  | .egress w count => s.agentFail a w count detail
  | .none | .reg _ _ _ | .merged => s

/-- A memory fault of an access (R243, R244): a precise trap of a task; at an engine, WHY 1 to 3 hold the access and
report it to the fault queue, and the rest ends the work. -/
def State.accFault (s : State) (a : Acc) (why level : Nat) : State :=
  match a.holder with
  | .task _ _ _ => s.taskFault a (memTrap why level a.code a.va)
  | .cmd _ | .agent _ =>
    if recoverable why then
      let s := s.setAcc { a with stage := .faulted, pa := why, level := BitVec.ofNat 3 level }
      let s := match a.dest with
        | .engine e _ => if e < 4 then s.bteHold a.core e true else s
        | .none | .reg _ _ _ | .generator _ _ | .spill _ _ _ | .refill _ _ | .egress _ _ | .merged => s
      s.faultRecord (clusterOf a.core) a.site why a.code a.va level
    else s.engineFault a 3 (memFaultArg why level a.code)

/-! ## Translation (R240 to R242) -/

/-- A translated access holds its task no longer, where no claim is to be checked; a load or atomic goes on holding its
destination (R241, R246, R271). Marked DEDUCED, log 12. -/
def State.taskGoes (s : State) (a : Acc) : State :=
  match s.heldBy a with
  | some (c, t) =>
    if s.goesOn a then (s.setSlot c t { (s.slotAt c t).expect a with hold := .none }).advance c t else s
  | none => s

/-- An access meets the leaf that covers it: it is translated, or takes the leaf's fault (R237, R238, R243). -/
def State.applyLeaf (s : State) (a : Acc) (e : TlbEntry) : State :=
  let cl := clusterOf a.core
  let root := (s.clusterAt cl).ptroot
  let level := e.level.toNat
  match leafFault root s.pkg e.pte level a.op a.va.toNat a.size with
  | some why => s.accFault a why level
  | none =>
    let pa := memKey (pteTier e.pte) (leafPa e.pte level a.va.toNat)
    let a := { a with stage := .translated, asid := e.asid, level := e.level, clg := pteClg e.pte, pa := pa }
    let k := s.coreAt a.core
    ((s.setAcc a).setCore a.core { k with utlb := utlbFill k.utlb e }).taskGoes a

/-- The key of the miss an access waits for (R241). -/
def Acc.missKey (a : Acc) : BitVec 12 × Nat := (a.asid, a.va.toNat / 2 ^ 15)
/-- The key of a miss entry (R241). -/
def Miss.key (m : Miss) : BitVec 12 × Nat := (m.asid, m.frame)

/-- An access joins the open miss of its frame, opens one, or waits for an entry (R241). -/
def State.miss (s : State) (a : Acc) : State :=
  let cl := clusterOf a.core
  let k := s.clusterAt cl
  let m : Miss := ⟨a.asid, a.va.toNat / 2 ^ 15, false⟩
  let s := s.setAcc { a with stage := .miss }
  if k.misses.any (fun x => x.key == m.key) || k.missQueue.any (fun x => x.key == m.key) then s
  else if k.misses.length < 64 then s.setCluster cl { k with misses := k.misses ++ [m] }
  else s.setCluster cl { k with missQueue := k.missQueue ++ [m] }

/-- A lookup in the cluster TLB (R239 to R241). -/
def State.lookup (s : State) (a : Acc) : State :=
  let cl := clusterOf a.core
  let k := s.clusterAt cl
  let a := { a with asid := rootAsid k.ptroot }
  if !rootV k.ptroot then s.accFault a 1 4
  else
    match ((s.coreAt a.core).utlb ++ k.tlb).find? (fun e => e.covers a.asid a.va.toNat) with
    | some e =>
      let s := if k.tlb.contains e then s.setCluster cl { k with tlb := touch k.tlb e } else s
      s.applyLeaf a e
    | none => s.miss a

/-- CLUSTER_TLB_LOOKUP (R241). -/
def execClusterTlbLookup (id : Nat) (s : State) : Res :=
  .next <|
    match s.accAt id with
    | some a => if a.stage = .lookup then s.lookup a else s
    | none => s

/-- The oldest miss of a cluster that no walker works on. -/
def Cluster.waitingMiss (k : Cluster) : Option Miss := k.misses.find? fun m => !m.walking

/-- The cluster a walker of a die takes its next miss from: round-robin from the die's turn (R241). -/
def State.walkTurn (s : State) (die : Nat) : Option (Nat × Miss) :=
  (List.range 6).findSome? fun i =>
    let q := ((s.dieAt die).turn + i) % 6
    ((s.clusterAt (6 * die + q)).waitingMiss).map fun m => (q, m)

/-- PAGE_WALK_START (R241). -/
def execPageWalkStart (die : Nat) (s : State) : Res :=
  .next <|
    let d := s.dieAt die
    if 64 ≤ d.walks.length then s
    else
      match s.walkTurn die with
      | none => s
      | some (q, m) =>
        let cl := 6 * die + q
        let k := s.clusterAt cl
        let misses := k.misses.map fun x => if x.key = m.key then { x with walking := true } else x
        (s.setDie die { d with walks := d.walks ++ [⟨cl, m.asid, m.frame, false⟩], turn := (q + 1) % 6 }).setCluster cl
          { k with misses := misses }

/-- What a walk ends in. -/
inductive WalkEnd
  | leaf (level : Nat) (p : Word)
  | fault (why level : Nat)
  deriving DecidableEq, Repr

/-- The entry of a node for an address, in memory; none beyond the tier's limit, and none in memory that has left
service (R234, R236, R429). -/
def State.nodeEntry (s : State) (level va tier pa : Nat) : Option Word :=
  let at_ := pa + 8 * vaIndex va level
  if paOk tier at_ 8 && !s.lostMemory tier at_ then some (BitVec.ofNat 64 (ofBytes (tgets 0 s.mem (memKey tier at_) 8)))
  else none

/-- A walk from the node that stands above level n, with the non-leaf entries it read; `bad` is the level whose entry
cannot be corrected, if one cannot (R236, R238, R242, R243, R428). -/
def State.nodeWalk (s : State) (asid : BitVec 12) (bad : Option (BitVec 3)) (va n tier pa : Nat) :
    WalkEnd × List NodeEntry :=
  match n with
  | 0 => (.fault 5 0, [])
  | level + 1 =>
    match s.nodeEntry level va tier pa with
    | none => (.fault 6 level, [])
    | some p =>
      if bad = some (BitVec.ofNat 3 level) || s.spoils (memKey tier (pa + 8 * vaIndex va level)) 8 then (.fault 9 7, [])
      else if !pteV p then (.fault 1 level, [])
      else if badPte s.pkg p level then (.fault 5 level, [])
      else if pteLeaf p then (.leaf level p, [])
      else
        let r := s.nodeWalk asid bad va level (pteTier p) (ptePa p)
        (r.1, ⟨asid, BitVec.ofNat 3 level, va / 2 ^ pageBits level, p⟩ :: r.2)

/-- A walk from the root (R241, R242). -/
def State.walkWhole (s : State) (bad : Option (BitVec 3)) (root : Word) (asid : BitVec 12) (va : Nat) :
    WalkEnd × List NodeEntry :=
  if rootV root then s.nodeWalk asid bad va 5 (rootTier root) (rootPa root) else (.fault 1 4, [])

/-- The deepest entry of an address that a die's node cache holds (R240, R241). -/
def State.deepest (s : State) (die : Nat) (asid : BitVec 12) (va : Nat) : Option NodeEntry :=
  [1, 2, 3, 4].findSome? fun level =>
    (s.dieAt die).nodes.find? fun e => e.asid == asid && e.level.toNat == level && e.index == va / 2 ^ pageBits level

/-- A walk for an address (R241): it starts below the deepest entry that the die's node cache holds.
Marked DEDUCED, log 22. -/
def State.walk (s : State) (die : Nat) (bad : Option (BitVec 3)) (root : Word) (asid : BitVec 12) (va : Nat) :
    WalkEnd × List NodeEntry :=
  match s.deepest die asid va with
  | some e =>
    if rootV root then s.nodeWalk asid bad va e.level.toNat (pteTier e.pte) (ptePa e.pte) else (.fault 1 4, [])
  | none => s.walkWhole bad root asid va

/-- The tenant a cluster's walks are metered for. -/
def Cluster.tenant (k : Cluster) : Nat := (k.owner.getD 0).toNat

/-- The node a walk reads first: its tier and address (R239, R241). -/
def State.firstNode (s : State) (die : Nat) (w : Walk) : Nat × Nat :=
  let root := (s.clusterAt w.cluster).ptroot
  match if w.redo then none else s.deepest die w.asid (w.frame * 2 ^ 15) with
  | some e => (pteTier e.pte, ptePa e.pte)
  | none => (rootTier root, rootPa root)

/-- The requests of a walk, each with the ports it enters at: the reads of a walker enter the network at the die links
they cross; `below` are the entries that led it on (R383, R398). -/
def State.walkRequests (s : State) (die : Nat) (first : Nat × Nat) (below : List NodeEntry) : List (List Nat) :=
  (first :: below.map fun e => (pteTier e.pte, ptePa e.pte)).map fun n => linkPorts s.pkg die 0 n.1 n.2

/-- The misses that leave a cluster make room for those that wait (R241). -/
def Cluster.closeMisses (k : Cluster) (closed : Miss → Bool) : Cluster :=
  let left := k.misses.filter fun m => !closed m
  let n := 64 - left.length
  { k with misses := left ++ k.missQueue.take n, missQueue := k.missQueue.drop n }

/-- A walk ended at a leaf: it completes every open miss its page covers (R241); a leaf that faults an access that
waited for it is not cached (R242). Marked DEDUCED, log 22. Marked DESIGN CHOICE, log 37. -/
def State.walkLeaf (s : State) (cl : Nat) (e : TlbEntry) : State :=
  let k := s.clusterAt cl
  let covered (m : Miss) : Bool := e.covers m.asid (m.frame * 2 ^ 15)
  let keys := (k.misses.filter covered).map Miss.key
  let waiting := s.accs.filter fun a => a.stage == .miss && clusterOf a.core == cl && keys.contains a.missKey
  let faults := waiting.any fun a =>
    (leafFault k.ptroot s.pkg e.pte e.level.toNat a.op a.va.toNat a.size).isSome
  let k := k.closeMisses covered
  let k := if faults then k else { k with tlb := clusterFill k.tlb e }
  waiting.foldl (init := s.setCluster cl k) fun s a => s.applyLeaf a e

/-- A walk ended in a fault, which every access that waits for its miss takes (R243). -/
def State.walkFault (s : State) (cl : Nat) (key : BitVec 12 × Nat) (why level : Nat) : State :=
  let k := s.clusterAt cl
  let waiting := s.accs.filter fun a => a.stage == .miss && clusterOf a.core == cl && a.missKey == key
  waiting.foldl (init := s.setCluster cl (k.closeMisses fun m => m.key == key)) fun s a => s.accFault a why level

/-- WALK_COMPLETE (R241, R242): a walk that a TLBINV passed has run again from the root; one that the buckets do not let
read all its nodes goes on later (R398). -/
def execWalkComplete (die : Nat) (k : WalkRead) (s : State) : Res :=
  .next <|
    let d := s.dieAt die
    match d.walks[k.walk]? with
    | none => s
    | some w =>
      let cl := s.clusterAt w.cluster
      let done := s.setDie die { d with walks := d.walks.eraseIdx k.walk }
      if !cl.misses.any fun m => m.key == (w.asid, w.frame) then done
      else
        let va := w.frame * 2 ^ 15
        let r := if w.redo then s.walkWhole k.bad cl.ptroot w.asid va else s.walk die k.bad cl.ptroot w.asid va
        match s.payAll cl.tenant 16 (s.walkRequests die (s.firstNode die w) r.2) with
        | none => s
        | some paid =>
          let nodes := (r.2 ++ d.nodes.filter fun e => !r.2.contains e).take 512
          let s := paid.setDie die { done.dieAt die with nodes := nodes }
          match r.1 with
          | .leaf level p => s.walkLeaf w.cluster ⟨w.asid, va / 2 ^ pageBits level, BitVec.ofNat 3 level, p⟩
          | .fault why level => s.walkFault w.cluster (w.asid, w.frame) why level

/-- One answer to the fault queue (R245): the held accesses of the site, an image transfer of the launch unit among
them, translate again, or are aborted (R164, R244). -/
def State.answer (s : State) (cl : Nat) (v : Word) : State :=
  let site : BitVec 46 := v.setWidth 46
  let held := s.accs.filter fun a => a.stage == .faulted && a.site == site && clusterOf a.core == cl
  let k := s.clusterAt cl
  let s := if k.unit.faultSite = some site then
    s.setCluster cl { k with unit := { k.unit with faultSite := none, aborted := v.getLsbD 63 } } else s
  if v.getLsbD 63 then
    held.foldl (init := s) fun s a =>
      match s.accAt a.id with
      | some a => s.engineFault a 3 (memFaultArg a.pa a.level.toNat a.code)
      | none => s
  else
    held.foldl (init := s) fun s a =>
      let s := s.setAcc { a with stage := .lookup }
      match a.dest with
      | .engine e _ => if e < 4 then s.bteHold a.core e false else s
      | .none | .reg _ _ _ | .generator _ _ | .spill _ _ _ | .refill _ _ | .egress _ _ | .merged => s

/-- FAULT_ANSWER: the cluster TLB takes the answers that stand in its window (R245). -/
def execFaultAnswer (cl : Nat) (s : State) : Res :=
  .next <|
    let xs := (s.clusterAt cl).answers
    if xs.elems.isEmpty then s
    else
      let s := s.setCluster cl { s.clusterAt cl with answers := xs.drop xs.elems.length }
      (xs.elems.foldl (init := s) fun s v => s.answer cl v).retryWin (serviceKey cl 0x1FFE) 1

/-! ## Places (R235, R269, R398) -/

/-- The home slice of an access: 64 for each die of each package, or the CXL port (R235). Marked DEDUCED, log 23. -/
def Acc.home (a : Acc) : Nat := if a.tier = 2 then 2 ^ 16 else a.phys / 2 ^ 50 * 64 + a.phys / 2 ^ 8 % 64

/-- Where the claims of an access stand: the entry of `State.dies`, one of this package's dies or 4 above the die of a
peer, and the slice of it; the CXL port is slice 64 of entry 0 (R269). Marked DESIGN CHOICE, log 31. -/
def Acc.claimPlace (pkg : BitVec 6) (a : Acc) : Nat × Nat :=
  if a.tier = 2 then (0, 64)
  else
    let d := a.phys / 2 ^ 50
    (if d / 4 = pkg.toNat then d % 4 else d + 4, a.phys / 2 ^ 12 % 64)

/-- Whether two accesses come from one source: a core's tasks, an engine slot, a core's backing agent (R235, R383). -/
def Acc.sameSource (a b : Acc) : Bool :=
  match a.holder, b.holder with
  | .task c _ _, .task d _ _ => c == d
  | .cmd x, .cmd y =>
    match a.dest, b.dest with
    | .engine e _, .engine f _ => a.core == b.core && e == f
    | _, _ => x == y
  | .agent c, .agent d => c == d
  | _, _ => false

/-- The ports an access enters the package network at: its core's, and the die link or the pod link that it crosses
first (R384, R398, R417). -/
def Acc.ports (pkg : BitVec 6) (a : Acc) : List Nat :=
  a.core :: linkPorts pkg (dieOf a.core) a.id a.tier a.phys

/-- The size of a request (R398). -/
def Acc.requestSize (a : Acc) : Nat :=
  match a.op with
  | .load => 16
  | .store _ | .red _ _ _ _ | .amo _ _ _ => 64

/-- Whether every bucket an access takes from holds enough (R398). -/
def State.injectable (s : State) (a : Acc) : Bool :=
  (Acc.ports s.pkg a).all fun p => decide (a.requestSize ≤ s.bucket p (s.meterTenant a.core))

/-- Taking an access's size from its buckets (R398). -/
def State.inject (s : State) (a : Acc) : State :=
  s.take (Acc.ports s.pkg a) (s.meterTenant a.core) a.requestSize

/-- Whether an earlier access of a source may still be one before a translated one at its home slice: it has not arrived
there, or its slice is not known yet. Marked DEDUCED, log 99. -/
def Acc.comesBefore (b a : Acc) : Bool :=
  decide (b.id < a.id) && a.sameSource b
    && (b.stage == .lookup || b.stage == .miss || (b.stage == .translated && b.home == a.home))

/-- Whether a translated access is the next its source has at its home slice, after the accesses it must follow, and
may be injected (R235, R246, R398). -/
def State.mayPerform (s : State) (a : Acc) : Bool :=
  a.stage == .translated
    && !(s.accs.any fun b => a.after.contains b.id && b.stage != .performed)
    && !(s.accs.any fun b => b.comesBefore a)
    && s.injectable a

/-! ## Claims (R267 to R270) -/

/-- Whether an access is checked against claims: not the backing agent's (R267). Marked DEDUCED, log 23. -/
def Acc.checked (a : Acc) : Bool :=
  a.clg != 0#2 && (match a.holder with
    | .task _ _ _ | .cmd _ => true
    | .agent _ => false)

/-- Whether an access takes a claim: a plain store, a WTG or SCAT write (R267). -/
def Acc.claims (a : Acc) : Bool :=
  a.checked && !a.rel && (match a.op with
    | .store _ => true
    | .load | .red _ _ _ _ | .amo _ _ _ => false)

/-- The slice of a place. -/
def State.sliceAt (s : State) (p : Nat × Nat) : Slice := tget Slice.init (s.dieAt p.1).slices p.2
/-- Replacing a slice. -/
def State.setSlice (s : State) (p : Nat × Nat) (x : Slice) : State :=
  s.setDie p.1 { s.dieAt p.1 with slices := tput Slice.init (s.dieAt p.1).slices p.2 x }

/-- Whether a claim covers a byte of an access. -/
def Claim.meets (x : Claim) (a : Acc) : Bool := decide (x.base < a.pa + a.size ∧ a.pa < x.base + x.size)

/-- The open claim of another holder that an access meets (R267, R270). -/
def State.claimMet (s : State) (a : Acc) : Option Claim :=
  if a.checked then
    (s.sliceAt (Acc.claimPlace s.pkg a)).claims.find? fun x => x.holder != a.holder && x.meets a
  else none

/-- How many entries of a list one holder has in one 4 KiB block. -/
def blockCount (l : List Claim) (x : Claim) : Nat :=
  (l.filter fun y => y.holder == x.holder && y.base / 4096 == x.base / 4096).length

/-- The entry whose holder and block have the most entries, the lowest address on a tie (R269). -/
def mostClaims (l : List Claim) : Option Claim :=
  l.foldl (init := none) fun best x =>
    match best with
    | none => some x
    | some b =>
      let n := blockCount l x
      let m := blockCount l b
      if m < n ∨ (m = n ∧ x.base / 4096 < b.base / 4096) then some x else some b

/-- Making room in a full slice: entries of one holder in one block are merged, or the oldest entry is closed (R269). -/
def Slice.makeRoom (z : Slice) : Slice :=
  match mostClaims z.claims with
  | none => z
  | some x =>
    if 2 ≤ blockCount z.claims x then
      let mine (y : Claim) : Bool := y.holder == x.holder && y.base / 4096 == x.base / 4096
      let site := match z.claims.find? mine with
        | some y => y.site
        | none => x.site
      { z with
        claims := (z.claims.filter fun y => !mine y) ++ [⟨x.holder, site, x.base / 4096 * 4096, true, 4096⟩]
        merges := z.merges + 1 }
    else { z with claims := z.claims.tail, evictions := z.evictions + 1 }

/-- A write's claim on its granule: the holder's entry for it is used again (R267, R269). -/
def Slice.take (z : Slice) (a : Acc) : Slice :=
  let g := if a.clg = 1#2 then 256 else 4096
  let base := a.pa / g * g
  let own (l : List Claim) : Bool :=
    l.any fun x => x.holder == a.holder && decide (x.base ≤ base ∧ base + g ≤ x.base + x.size)
  if own z.claims then z
  else
    let z := if 2048 ≤ z.claims.length then z.makeRoom else z
    if own z.claims then z else { z with claims := z.claims ++ [⟨a.holder, a.site, base, false, g⟩] }

/-- TRAPARG of a memory-model exception: HPKG is this package, whose parties are the holders the model has (R270, R392).
-/
def claimArg (pkg : BitVec 6) (a : Acc) (x : Claim) : Word :=
  let eng := match x.holder with
    | .cmd _ => 1
    | .task _ _ _ | .agent _ => 0
  BitVec.ofNat 64 ((if x.coarse then 2 ^ 63 else 0) + pkg.toNat * 2 ^ 52 + a.code.toNat * 2 ^ 47 + eng * 2 ^ 46
    + x.site.toNat)

/-- An access met a claim: it has no effect, and its task or command takes the exception (R270). -/
def State.claimFault (s : State) (a : Acc) (x : Claim) : State :=
  let p := Acc.claimPlace s.pkg a
  let z := s.sliceAt p
  let s := s.setSlice p { z with exceptions := z.exceptions + 1 }
  let arg := claimArg s.pkg a x
  match a.holder with
  | .task _ _ _ => s.taskFault a ⟨13, arg, none, some a.va⟩
  | .cmd _ | .agent _ => s.engineFault a 4 arg

/-! ## Performing an access (R247 to R251) -/

/-- The value a reduction leaves in memory (R249). -/
def redVal (op : RedOp) (signed : Bool) (n m v : Nat) : Nat :=
  let less := if signed then decide (signedOf n v < signedOf n m) else decide (v < m)
  match op with
  | .add => (m + v) % 2 ^ n
  | .min => if less then v else m
  | .max => if less then m else v
  | .and => m &&& v
  | .or => m ||| v
  | .xor => m ^^^ v
  | .fadd => (Fmt.f32.add .rne m v).1

/-- The bytes an access leaves in memory; none where it writes none (R247, R249, R251). -/
def newBytes (op : AccOp) (n : Nat) (old : List Byte) : Option (List Byte) :=
  let m := ofBytes old
  match op with
  | .load => none
  | .store bs => some bs
  | .red op signed _ v => some (bytesOf n (redVal op signed (8 * n) m (v.toNat % 2 ^ (8 * n))))
  | .amo .swap v _ => some (bytesOf n v.toNat)
  | .amo .cas v w => if m = v.toNat % 2 ^ (8 * n) then some (bytesOf n w.toNat) else none
  | .amo .add v _ => some (bytesOf n (m + v.toNat))

/-- Whether an access reads the bytes it finds, and so meets data that cannot be corrected (R243). -/
def AccOp.readsData (op : AccOp) : Bool :=
  match op with
  | .store _ => false
  | .load | .red _ _ _ _ | .amo _ _ _ => true

/-- A fast floating-point reduction that a router may merge into another (R250). -/
def State.mergeable (s : State) (a b : Acc) : Bool :=
  (match a.op, b.op with
    | .red .fadd _ true _, .red .fadd _ true _ => true
    | _, _ => false)
    && decide (a.id ≠ b.id ∧ a.pa = b.pa ∧ a.size = b.size) && !a.rel && !b.rel
    && s.tenantOf a.core == s.tenantOf b.core && s.mayPerform b && (s.claimMet b).isNone

/-- Two fast reductions merge where the routers do it, which the spec leaves open (R250, DESIGN CHOICE, log 2). -/
def State.tryMerge (s : State) (a : Acc) : State × Acc :=
  match s.accs.find? (s.mergeable a), a.op with
  | some b, .red op signed fast v =>
    let r := s.freeBelow 2
    if r.1 = 0 then (r.2, a)
    else
      match b.op with
      | .red _ _ _ w =>
        let sum := redVal .fadd false 32 (v.toNat % 2 ^ 32) (w.toNat % 2 ^ 32)
        ((r.2.inject b).setAcc { b with stage := .performed }, { a with op := .red op signed fast (BitVec.ofNat 64 sum) })
      | .load | .store _ | .amo _ _ _ => (r.2, a)
  | _, _ => (s, a)

/-- An access is performed at its home slice, as one step (R235, R248, R264). Marked DEDUCED, log 21.
Marked DEDUCED, log 23. -/
def State.performAcc (s : State) (a : Acc) (uncorrectable : Bool) : State :=
  match s.claimMet a with
  | some x => (s.inject a).claimFault a x
  | none =>
    if s.outOfService a then (s.inject a).accFault a 6 a.level.toNat
    else if (uncorrectable || s.spoils a.pa a.size) && a.op.readsData then (s.inject a).accFault a 9 7
    else
      let r := s.tryMerge a
      let s := r.1.inject a
      let a := r.2
      let s := if a.rel then s.releaseClaims a.holder else s
      let s := if a.claims then
          let p := Acc.claimPlace s.pkg a
          s.setSlice p ((s.sliceAt p).take a)
        else s
      let old := tgets 0 s.mem a.pa a.size
      let s := match newBytes a.op a.size old with
        | some bs => s.writeMem a.pa bs
        | none => s
      s.setAcc { a with stage := .performed, data := old }

/-- HOME_SLICE_ACCESS (R235, R248). -/
def execHomeSliceAccess (id : Nat) (uncorrectable : Bool) (s : State) : Res :=
  .next <|
    match s.accAt id with
    | some a => if s.mayPerform a then s.performAcc a uncorrectable else s
    | none => s

/-! ## Replies -/

/-- The value a load or atomic writes to its register (R247, R251). -/
def Acc.value (a : Acc) (signed : Bool) : Word :=
  extend (if signed then .s else .z) (8 * a.size) (ofBytes a.data)

/-- The reply of a task's access: the destination is written, and a task that the access still holds goes on (R246,
R271). Marked DEDUCED, log 12. -/
def State.replyTask (s : State) (a : Acc) : State :=
  match a.holder with
  | .task c t act =>
    let sl := s.slotAt c t
    if sl.act = act then
      let held := sl.hold == .access a.id
      let owed := held || sl.loads.any fun l => l.id == a.id
      let sl := { sl with
        hold := if held then .none else sl.hold
        loads := sl.loads.filter fun l => l.id != a.id }
      let sl := match a.dest with
        | .reg _ d signed => if owed then sl.writeG d (a.value signed) else sl
        | .none | .engine _ _ | .generator _ _ | .spill _ _ _ | .refill _ _ | .egress _ _ | .merged => sl
      if held then (s.setSlot c t sl).advance c t else s.setSlot c t sl
    else s
  | .cmd _ | .agent _ => s

/-- A pointer write of a mirror that asks for an interrupt raises vector 3 (R396). -/
def State.mirrorDone (s : State) (a : Acc) (w : Nat) : State :=
  match (s.coreAt a.core).mirrorOf w with
  | some m => if m.irq && decide (a.va.toNat = m.base.toNat * 2 ^ 16) then s.notifyOwner (clusterOf a.core) 3 else s
  | none => s

/-- ACCESS_REPLY: the reply of a performed access returns (R246, R248). -/
def execAccessReply (id : Nat) (s : State) : Res :=
  .next <|
    match s.accAt id with
    | none => s
    | some a =>
      if a.stage ≠ .performed then s
      else
        let gone := s.dropAcc id
        match a.dest with
        | .none | .reg _ _ _ => gone.replyTask a
        | .engine e tag =>
          if e = 4 then gone.fcfgData a.core a.site tag a.data
          else if ((s.coreAt a.core).bteAt e).all fun r => r.cmd.site != a.site then gone
          else if a.op = .load then gone.bteData a.core e tag a.data
          else gone.bteAck a.core e tag a.size
        | .generator g tag => gone.genData a.core g tag a.data
        | .spill w _ _ => gone.post (.refillReadStart a.core w)
        | .refill w _ => s.post (.refillLand a.core w)
        | .egress w _ => gone.mirrorDone a w
        | .merged => gone

/-! ## Backed windows and mirrors (R256, R257, R396) -/

/-- Whether the spill of a ring element has not been performed yet (R256). -/
def State.spillOpen (s : State) (c w elem : Nat) : Bool :=
  s.accs.any fun a => a.core == c && a.stage != .performed && (match a.dest with
    | .spill v e _ => v == w && e.toNat == elem
    | .none | .reg _ _ _ | .engine _ _ | .generator _ _ | .refill _ _ | .egress _ _ | .merged => false)

/-- The shrink that made the place a refill takes: its site, and the causes that are left (R257). -/
def Win.refillCause (x : Win) : BitVec 46 × List (Nat × BitVec 46) :=
  match x.causes with
  | [] => (x.refillSite, [])
  | (n, site) :: r => (site, if n ≤ 1 then r else (n - 1, site) :: r)

/-- REFILL_READ_START (R256, R257, R363). -/
def execRefillReadStart (c w : Nat) (s : State) : Res :=
  .next <|
    let x := s.winAt c w
    let j := x.refills.length
    let elem := (x.rhead.toNat + j) % 2 ^ 28
    if !x.v || x.mode != .backed || x.held || x.refillStop ≠ .go || decide (8 ≤ j ∨ x.rc ≤ j ∨ x.cap.toNat ≤ x.ext + j)
        || s.spillOpen c w elem then s
    else
      let y := x.refillCause
      let s := s.setWin c w { x with refills := x.refills ++ [(elem, y.1)], causes := y.2 }
      (s.startAcc (agentAcc c y.1 .load (x.ringAddr elem) x.esize (.refill w elem))).post (.refillReadStart c w)

/-- The refill read of a ring element that has been performed. -/
def State.refillRead (s : State) (c w elem : Nat) : Option Acc :=
  s.accs.find? fun a => a.core == c && a.stage == .performed && a.dest == .refill w elem

/-- The edge of a refill that a full count of a source of its window holds back: a wait of the core's backing agent
(R27, R150). -/
def refillEdge (c w : Nat) (site : BitVec 46) : Edge where
  party := .unit c
  at_ := c
  kind := .fill
  core := c
  win := w
  level := 0
  arg := 0
  site := site
  retry := some (.refillLand c w)
  reported := false

/-- REFILL_LAND: refills land in ring order (R256). -/
def execRefillLand (c w : Nat) (s : State) : Res :=
  .next <|
    let x := s.winAt c w
    match x.refills with
    | [] => s
    | (elem, site) :: rest =>
      match s.refillRead c w elem with
      | none => s
      | some a =>
        if (s.coreAt c).fillHeldBack w then s.addEdge (refillEdge c w site)
        else
          let causes := if x.rc ≤ 1 then [] else x.causes
          let s := ((s.dropAcc a.id).dropRetry (.unit c) (.refillLand c w)).setWin c w { x with refills := rest, rhead := x.rhead + 1, causes := causes }
          ((s.landRaw c w a.data).afterFill c w).post (.refillLand c w)

/-- The bytes of the element with a given count, which the window still holds (R22). -/
def Core.elemByCount (k : Core) (w : Win) (count : BitVec 32) : List Byte :=
  let slot := ((w.hslot.toNat : Int) + (count - w.head).toInt) % (w.cap.toNat : Int)
  tgets 0 k.wstore (w.base.toNat * 32 + slot.toNat * w.esize) w.esize

/-- Writing a mirror's pointer word after another access, for the fill or host shrink with a site (R257, R396). -/
def State.pointerWrite (s : State) (c w : Nat) (m : Mirror) (site : BitVec 46) (fill count : BitVec 32)
    (after : List Nat) : State :=
  let x := s.winAt c w
  let a := agentAcc c site (.store (bytesOf 8 (x.head.toNat * 2 ^ 32 + fill.toNat)))
    (BitVec.ofNat 80 (m.base.toNat * 2 ^ 16)) 8 (.egress w count)
  s.startAcc { a with after := after }

/-- EGRESS_MIRROR_WRITE: the element and then the pointer word of the oldest fill not mirrored yet (R257, R396). -/
def execEgressMirrorWrite (c w : Nat) (s : State) : Res :=
  .next <|
    let x := s.winAt c w
    let k := s.coreAt c
    match x.mirrors with
    | [] => s
    | (count, site) :: rest =>
      let s := s.setWin c w { x with mirrors := rest }
      match k.mirrorOf w with
      | none => s
      | some m =>
        if !x.v || x.mode != .egress || x.esz != 1#4 then s
        else
          let id := s.nextAcc
          let va := BitVec.ofNat 80 (m.base.toNat * 2 ^ 16 + 64 + 8 * (count.toNat % x.cap.toNat))
          let s := s.startAcc (agentAcc c site (.store (k.elemByCount x count)) va 8 (.egress w count))
          s.pointerWrite c w m site (count + 1) count [id]

end Sys2Proof.Machine
end

