-- ==== Sys2Proof/Machine/Control.lean ====
section
/-! DEFINITION. Compare, select, bit-field, address, predicate and control instructions (R101 to R114), and reserved
encodings (R64). -/

namespace Sys2Proof.Machine

open Sys2Proof

/-- The truth of a condition on two values, as their unsigned and signed readings (R67, R101). -/
def condHolds (c : Cond) (ua ub : Nat) (sa sb : Int) : Bool :=
  match c with
  | .eq => decide (ua = ub)
  | .ne => decide (ua ≠ ub)
  | .lt => decide (sa < sb)
  | .le => decide (sa ≤ sb)
  | .gt => decide (sb < sa)
  | .ge => decide (sb ≤ sa)
  | .lo => decide (ua < ub)
  | .ls => decide (ua ≤ ub)
  | .hi => decide (ub < ua)
  | .hs => decide (ub ≤ ua)

/-- CMP (R101). -/
def execCmp (c : Cond) (z : Size) (d : BitVec 3) (a b : BitVec 5) (g : Guard) (s : State) : Res :=
  guarded g s fun s =>
    let n := sizeBits z
    let x := lowBits n (s.me.readG a)
    let y := lowBits n (s.me.readG b)
    .done (s.setP d (condHolds c x y (signedOf n x) (signedOf n y)))

/-- SEL always executes; its guard chooses (R102). -/
def execSel (d a b : BitVec 5) (p : Guard) (s : State) : Res :=
  finish s (.done (s.setG d (if s.me.guard p then s.me.readG a else s.me.readG b)))

/-- BFX of a field at pos of width wid (R103). -/
def bfxVal (e : Ext) (v : Word) (pos wid : Nat) : Word :=
  if wid = 0 then 0
  else
    match e with
    | .z => BitVec.ofNat 64 (v.toNat / 2 ^ pos % 2 ^ wid)
    | .s => BitVec.ofInt 64 (signedOf wid ((v.toInt / ((2 ^ pos : Nat) : Int) % ((2 ^ wid : Nat) : Int)).toNat))

/-- BFI of the low wid bits at pos; positions beyond 63 are not written (R103). -/
def bfiVal (old v : Word) (pos wid : Nat) : Word :=
  let mask := BitVec.ofNat 64 ((2 ^ wid - 1) * 2 ^ pos)
  (old &&& ~~~mask) ||| (BitVec.ofNat 64 (v.toNat * 2 ^ pos) &&& mask)

/-- pos of the register form (R103). -/
def bfPos (b : Word) : Nat := b.toNat % 256
/-- wid of the register form (R103). -/
def bfWid (b : Word) : Nat := min 64 (b.toNat / 256 % 256)

/-- BFX.z, immediate (R103). -/
def execBfxZImm (d a : BitVec 5) (w p : BitVec 6) (s : State) : Res :=
  finish s (.done (s.setG d (bfxVal .z (s.me.readG a) p.toNat (w.toNat + 1))))
/-- BFX.s, immediate (R103). -/
def execBfxSImm (d a : BitVec 5) (w p : BitVec 6) (s : State) : Res :=
  finish s (.done (s.setG d (bfxVal .s (s.me.readG a) p.toNat (w.toNat + 1))))
/-- BFI, immediate (R103). -/
def execBfiImm (d a : BitVec 5) (w p : BitVec 6) (s : State) : Res :=
  finish s (.done (s.setG d (bfiVal (s.me.readG d) (s.me.readG a) p.toNat (w.toNat + 1))))
/-- BFX.z, register (R103). -/
def execBfxZReg (d a b : BitVec 5) (g : Guard) (s : State) : Res :=
  guarded g s fun s => .done (s.setG d (bfxVal .z (s.me.readG a) (bfPos (s.me.readG b)) (bfWid (s.me.readG b))))
/-- BFX.s, register (R103). -/
def execBfxSReg (d a b : BitVec 5) (g : Guard) (s : State) : Res :=
  guarded g s fun s => .done (s.setG d (bfxVal .s (s.me.readG a) (bfPos (s.me.readG b)) (bfWid (s.me.readG b))))
/-- BFI, register (R103). -/
def execBfiReg (d a b : BitVec 5) (g : Guard) (s : State) : Res :=
  guarded g s fun s =>
    .done (s.setG d (bfiVal (s.me.readG d) (s.me.readG a) (bfPos (s.me.readG b)) (bfWid (s.me.readG b))))

/-- AADD, register (R105). -/
def execAaddReg (d a : BitVec 4) (b : BitVec 5) (g : Guard) (s : State) : Res :=
  guarded g s fun s => .done (s.setA d (s.me.readA a + sext80 (s.me.readG b)))
/-- ASET (R105). -/
def execAset (d : BitVec 4) (a b : BitVec 5) (g : Guard) (s : State) : Res :=
  guarded g s fun s =>
    .done (s.setA d (BitVec.ofNat 80 ((s.me.readG b).toNat % 2 ^ 16 * 2 ^ 64 + (s.me.readG a).toNat)))
/-- AGET (R105). -/
def execAget (d : BitVec 5) (a : BitVec 4) (g : Guard) (s : State) : Res :=
  guarded g s fun s => .done (s.setG d ((s.me.readA a).setWidth 64))
/-- AGET.h (R105). -/
def execAgetH (d : BitVec 5) (a : BitVec 4) (g : Guard) (s : State) : Res :=
  guarded g s fun s => .done (s.setG d (BitVec.ofNat 64 ((s.me.readA a).toNat / 2 ^ 64)))

/-- ASTEP within a block of 2^M bytes (R106). -/
def astepVal (v : Addr) (b : Word) : Addr :=
  let m := b.toNat / 2 ^ 56
  let stride : Addr := (b.setWidth 48).signExtend 80
  if m = 0 then v
  else if 80 ≤ m then v + stride
  else
    let mask := BitVec.ofNat 80 (2 ^ m - 1)
    (v &&& ~~~mask) ||| ((v + stride) &&& mask)

/-- ASTEP (R106). -/
def execAstep (d a : BitVec 4) (b : BitVec 5) (g : Guard) (s : State) : Res :=
  guarded g s fun s => .done (s.setA d (astepVal (s.me.readA a) (s.me.readG b)))
/-- AADD, immediate (R105). -/
def execAaddImm (d a : BitVec 4) (i : BitVec 16) (s : State) : Res :=
  finish s (.done (s.setA d (s.me.readA a + i.signExtend 80)))
/-- ACMP (R107). -/
def execAcmp (c : Cond) (d : BitVec 3) (a b : BitVec 4) (g : Guard) (s : State) : Res :=
  guarded g s fun s =>
    let x := (s.me.readA a).toNat
    let y := (s.me.readA b).toNat
    .done (s.setP d (condHolds c x y x y))

/-- PAND (R108). -/
def execPand (d a b : BitVec 3) (g : Guard) (s : State) : Res :=
  guarded g s fun s => .done (s.setP d (s.me.readP a && s.me.readP b))
/-- POR (R108). -/
def execPor (d a b : BitVec 3) (g : Guard) (s : State) : Res :=
  guarded g s fun s => .done (s.setP d (s.me.readP a || s.me.readP b))
/-- PXOR (R108). -/
def execPxor (d a b : BitVec 3) (g : Guard) (s : State) : Res :=
  guarded g s fun s => .done (s.setP d (s.me.readP a ^^ s.me.readP b))
/-- PNOT (R108). -/
def execPnot (d a : BitVec 3) (g : Guard) (s : State) : Res :=
  guarded g s fun s => .done (s.setP d (!s.me.readP a))
/-- PSET (R108). -/
def execPset (d : BitVec 3) (v : Bool) (g : Guard) (s : State) : Res :=
  guarded g s fun s => .done (s.setP d v)

/-- BR (R109). -/
def execBr (g : Guard) (o : BitVec 22) (s : State) : Res :=
  guarded g s fun s => .jump s (target s.me.pc o.toInt)

/-- JAL (R109): the link is written only when the target is one. -/
def execJal (d : BitVec 5) (i : BitVec 16) (s : State) : Res :=
  finish s (.jump (s.setG d (BitVec.ofNat 64 (s.me.pc.toNat + 1))) (target s.me.pc i.toInt))

/-- JR (R109): the target is all 64 bits of g_a. -/
def execJr (a : BitVec 5) (g : Guard) (s : State) : Res :=
  guarded g s fun s => .jump s (s.me.readG a).toNat

/-- LOOP (R110). -/
def execLoop (d : BitVec 5) (i : BitVec 16) (s : State) : Res :=
  finish s
    (if 1 < (s.me.readG d).toNat then .jump (s.setG d (s.me.readG d - 1)) (target s.me.pc i.toInt)
     else .done (s.setG d 0))

/-- The illegal-instruction trap of a word (R64). -/
def illegalWord (w : Code) : Trap := trapOf 1 (w.setWidth 64)

/-- REP (R112, R113): the target is checked, and REPC loaded unless it holds what a stop left. -/
def repOut (n : BitVec 6) (sd sa sb : Bool) (s : State) : Out :=
  let sl := s.me
  let k := s.coreAt s.cur
  let count := n.toNat + 1
  if sl.pc = 4095#12 then .trap (addressTrap 4096)
  else
    let self := tget 0 k.istore sl.pc.toNat
    let tw := tget 0 k.istore (sl.pc.toNat + 1)
    match decode tw with
    | .error _ => .trap (illegalWord tw)
    | .ok i =>
      if !repTargetOk tw i count sd sa sb || decide (count < sl.repc.toNat) then
        .trap (trapOf 1 (BitVec.ofNat 64 (tw.toNat * 2 ^ 32 + self.toNat)))
      else
        .moved (s.setMe { sl with inRep := true, repc := if sl.repc = 0 then BitVec.ofNat 7 count else sl.repc })

/-- REP (R112, R113). -/
def execRep (n : BitVec 6) (sd sa sb : Bool) (s : State) : Res := finish s (repOut n sd sa sb s)

/-- A reserved encoding traps even under a false guard (R9, R64). -/
def execReservedEncoding (w : Code) (s : State) : Res := finish s (.trap (illegalWord w))

end Sys2Proof.Machine
end

