-- ==== Sys2Proof/Machine/Issue.lean ====
section
/-! DEFINITION. Choosing what issues, fetching it and charging the tick (R8, R113, R114, R155, R156, R413, R414). -/

namespace Sys2Proof.Machine

open Sys2Proof

/-- Whether a slot is runnable, held by nothing and not to be freed (R145, R156). -/
def Slot.eligible (sl : Slot) : Bool := sl.status == .runnable && sl.hold == .none && !sl.stopped && !sl.killing

/-- Whether a slot takes part in the choice of the charged slot (R413). -/
def Slot.chargeable (sl : Slot) : Bool :=
  sl.status == .runnable || sl.status == .waiting || sl.status == .trapped

/-- Whether slot t is chosen before slot u (R156). -/
def Core.before (k : Core) (t u : Nat) : Bool :=
  let x := k.slotAt t
  let y := k.slotAt u
  decide (y.prio.toNat < x.prio.toNat)
    || (x.prio == y.prio && (decide (x.ready.toNat < y.ready.toNat) || (x.ready == y.ready && decide (t < u))))

/-- The slot R156 chooses among those that pass a test. -/
def Core.chooseAmong (k : Core) (p : Nat → Slot → Bool) : Option Nat :=
  k.slots.foldl (init := none) fun best e =>
    if p e.1 e.2 then
      match best with
      | none => some e.1
      | some b => if k.before e.1 b then some e.1 else best
    else best

/-- Whether a core issues from a slot at all: from none of a stopped core's but the slot a CTXSAV excludes (R368). -/
def Core.issuesFrom (k : Core) (t : Nat) : Bool :=
  match k.stop with
  | .none => true
  | .saved x => x == some t
  | .halted => false

/-- The word a slot executes next: the word at its PC, or the stepped target of the REP there (R113). -/
def Core.fetch (k : Core) (sl : Slot) : Code :=
  let w := tget 0 k.istore sl.pc.toNat
  if sl.inRep then
    match instrOf w with
    | .rep n sd sa sb => stepWord (tget 0 k.istore (sl.pc.toNat + 1)) sd sa sb (n.toNat + 1 - sl.repc.toNat)
    | _ => w
  else w

/-- A slot whose instruction has issued and runs again in this tick, apart from the issue of the tick (R125, R155). -/
def Core.rerun (k : Core) : Option Nat :=
  (k.slots.find? fun e => k.issuesFrom e.1 && e.2.eligible && e.2.again).map Prod.fst

/-- Charging a tick to a stall counter other than IDLE; entry 1 of the counters holds IDLE less TICK (R413). -/
def Core.charge (k : Core) (n : Fin 16) : Core :=
  { k with stall := (k.stall.set n.val (k.stall[n.val]'n.isLt + 1) n.isLt).set 1 (k.stall[1] - 1) }

/-- Counting an issue of a slot: the 256th since its stamp was set sets it again (R155). Marked DEDUCED, log 15. -/
def Slot.countIssue (sl : Slot) (tick : BitVec 64) : Slot :=
  if 255 ≤ sl.issues then { sl with ready := tick, issues := 0 } else { sl with issues := sl.issues + 1 }

end Sys2Proof.Machine
end

