-- ==== Sys2Proof/Machine/Tasks.lean ====
section
/-! DEFINITION. Task slots: binding, spawning, retiring, priority, yielding, class masks (R145 to R156, R168). -/

namespace Sys2Proof.Machine

open Sys2Proof

/-- Whether a binding word names a source: a kind of 1 to 7, and no reserved or required-zero bit set (R148, R152). R148
gives no source to an ARG above what its kind has, nor to a barrier of level 7: their bits count as nonzero reserved
ones. Marked DESIGN CHOICE, log 78. -/
def bindingOk (n : Nat) : Bool :=
  let kind := n / 2 ^ 12 % 16
  let arg := n / 2 ^ 16 % 128
  decide (n < 2 ^ 26) && decide (1 ≤ kind ∧ kind ≤ 7)
    && (if kind = 5 then decide (arg < 112) else if kind = 3 ∨ kind = 7 then decide (arg = 0) else decide (arg < 16))

/-- A slot taken from free: every register zeroed, bound (R10, R151); its activation number runs on. -/
def Slot.taken (sl : Slot) (b : BitVec 26) : Slot := { Slot.init with status := .bound, bind := b, act := sl.act }

/-- Waking what waits on a core for a kind of thing, to issue again (R153). -/
def State.wakeKind (s : State) (c : Nat) (kind : WaitKind) : State :=
  (s.edges.filter fun e => e.at_ == c && e.kind == kind).foldl (init := s) fun s e =>
    match e.party with
    | .task _ t => if (s.slotAt c t).wait = some .again then s.wake c t else s
    | .cmd _ | .unit _ => s

/-- TBIND of slot t (R152): a free slot becomes bound; the source's count exists from here on (R150). -/
def State.bindSlot (s : State) (c t : Nat) (b : BitVec 26) : State :=
  let k := (s.coreAt c).nameSource (bindSource b)
  let sl := k.slotAt t
  let sl := if sl.status = .free then sl.taken b else { sl with bind := b, lsup := false }
  (s.setCore c (k.setSlot t sl)).deliverSource c (bindSource b)

/-- The slot an operand names; none where the operand is out of range (R152). -/
def slotOperand (v : Word) : Option Nat := if v.toNat < 32 then some v.toNat else none

/-- TBIND (R152); where slot and binding are both bad, the slot is reported. Marked DESIGN CHOICE, log 88. -/
def execTbind (z e : BitVec 5) (s : State) : Res :=
  finish s (
    match slotOperand (s.me.readG z) with
    | none => .trap (taskTrap ((s.me.readG z).toNat % 2 ^ 32) 1 9)
    | some t =>
      let n := (s.me.readG e).toNat
      if bindingOk n then .done (s.bindSlot s.cur t (BitVec.ofNat 26 n))
      else .trap (taskTrap (n % 2 ^ 32) 2 9))

/-- TUNB of slot t (R152); what waits to spawn is retried (R153). -/
def State.unbindSlot (s : State) (c t : Nat) : State :=
  let sl := s.slotAt c t
  (match sl.status with
    | .free => s
    | .bound => s.setSlot c t { sl with status := .free, bind := 0 }
    | .runnable | .waiting | .trapped => s.setSlot c t { sl with bind := 0 }).wakeKind c .spawn

/-- TUNB (R152). -/
def execTunb (z : BitVec 5) (s : State) : Res :=
  finish s (
    match slotOperand (s.me.readG z) with
    | none => .trap (taskTrap ((s.me.readG z).toNat % 2 ^ 32) 1 10)
    | some t => .done (s.unbindSlot s.cur t))

/-- A binding with another PRIO (R152). -/
def bindWithPrio (b : BitVec 26) (n : BitVec 2) : BitVec 26 :=
  BitVec.ofNat 26 (b.toNat / 2 ^ 25 * 2 ^ 25 + n.toNat * 2 ^ 23 + b.toNat % 2 ^ 23)

/-- TPRIO of slot t (R152). -/
def State.setPrio (s : State) (c t : Nat) (n : BitVec 2) : State :=
  let sl := s.slotAt c t
  s.setSlot c t
    (match sl.status with
    | .free | .bound => { sl with bind := bindWithPrio sl.bind n }
    | .runnable | .waiting | .trapped => { sl with prio := n })

/-- TPRIO (R152). -/
def execTprio (z : BitVec 5) (n : BitVec 2) (s : State) : Res :=
  finish s (
    match slotOperand (s.me.readG z) with
    | none => .trap (taskTrap ((s.me.readG z).toNat % 2 ^ 32) 1 11)
    | some t => .done (s.setPrio s.cur t n))

/-- YIELD (R152, R155). -/
def execYield (s : State) : Res := finish s (.done (s.setMe { s.me with ready := s.tick, issues := 0 }))

/-- The slot a SPAWN takes: a bound slot of its kind and entry, else the lowest free one (R153). -/
def Core.spawnSlot (k : Core) (entry : BitVec 12) : Option Nat :=
  match leastBelow (fun t => (k.slotAt t).status == .bound && bindKind (k.slotAt t).bind == 7
      && bindEntry (k.slotAt t).bind == entry) Config.slots with
  | some t => some t
  | none => leastBelow (fun t => (k.slotAt t).status == .free) Config.slots

/-- The binding a SPAWN gives a free slot: its entry and priority, kind spawn, ONCE (R153). -/
def spawnBind (n : Nat) : BitVec 26 := BitVec.ofNat 26 (2 ^ 25 + n / 2 ^ 12 % 4 * 2 ^ 23 + 7 * 2 ^ 12 + n % 2 ^ 12)

/-- SPAWN (R153). A bound slot is activated with its own binding's priority (DEDUCED, log 9). -/
def execSpawn (e a : BitVec 5) (s : State) : Res :=
  finish s (
    let n := (s.me.readG e).toNat
    if 2 ^ 14 ≤ n then .trap (taskTrap (n % 2 ^ 32) 2 8)
    else
      match (s.coreAt s.cur).spawnSlot (bits n 0 12) with
      | some t =>
        let sl := s.slotAt s.cur t
        let arg := s.me.readG a
        let s := if sl.status = .free then s.setSlot s.cur t (sl.taken (spawnBind n)) else s
        .done (s.activate s.cur t arg)
      | none => .hold (s.waitMe .again {
          party := .task s.cur s.slot
          at_ := s.cur
          kind := .spawn
          core := s.cur
          win := 0
          level := 0
          arg := BitVec.ofNat 32 n
          site := s.siteOf s.cur s.slot
          retry := none
          reported := false }))

/-- Marking the encounter a slot runs as retired, which its finish then counts (R154, R329). Marked DEDUCED, log 38. -/
def State.retireEncounter (s : State) (c t : Nat) : State :=
  let k := s.coreAt c
  if k.ring.queue.any fun q => q.slot == some t && !q.retired then
    (s.setCore c { k with ring := { k.ring with
      queue := k.ring.queue.map fun q => if q.slot = some t then { q with retired := true } else q } }).post
      (.encounterFinish c)
  else s

/-- Moving a retiring slot to bound or free, its source's pending events delivered at once (R154). -/
def State.retireSlot (s : State) (c t : Nat) : State :=
  let sl := s.slotAt c t
  let free := bindOnce sl.bind || sl.bind == 0#26
  let sl := { sl with
    status := if free then .free else .bound
    bind := if free then 0 else sl.bind
    tv := false
    hold := .none
    inRep := false }
  let s := s.setSlot c t sl
  let s := if free then s else s.deliverSource c (bindSource sl.bind)
  s.wakeKind c .spawn

/-- TRET after its release (R154): the trace record, the progress event, the retired encounter, the slot. -/
def State.retire (s : State) (c t : Nat) : State :=
  let s := (s.trace c ⟨2, s.siteOf c t, 0, 0, 0, t⟩).progress c
  (s.retireEncounter c t).retireSlot c t

/-- TRET (R154, R262). -/
def execTret (s : State) : Res := finish s (released s fun s => .moved (s.retire s.cur s.slot))

/-- CMSK (R168). -/
def execCmsk (c : BitVec 4) (s : State) : Res :=
  finish s (
    let k := s.coreAt s.cur
    .done (s.setCore s.cur { k with cmask := k.cmask ||| (1#16 <<< c.toNat) }))

/-- CUMSK (R168): what stands in the class's queue is delivered in order. -/
def execCumsk (c : BitVec 4) (s : State) : Res :=
  finish s (
    let k := s.coreAt s.cur
    .done ((s.setCore s.cur { k with cmask := k.cmask &&& ~~~(1#16 <<< c.toNat) }).post (.packetDelivery s.cur c)))

end Sys2Proof.Machine
end

