-- ==== Sys2Proof/Machine/System.lean ====
section
/-! DEFINITION. System registers (R13, R15, R137 to R139, R225, R239, R243, R254, R282, R292, R312, R340, R344, R346,
R350, R360, R363, R385, R396, R400, R407, R413), program traps, breakpoints and return (R142 to R144). -/

namespace Sys2Proof.Machine

open Sys2Proof

/-- How a system register may be used (R13): read only, supervisor write, read and write. -/
inductive SysAccess | ro | sw | rw
  deriving DecidableEq, Repr

/-- The access of each assigned system register number; none where no table assigns it (R13). -/
def sysAccess (n : Nat) : Option SysAccess :=
  if n ≤ 0x003 ∨ n = 0x020 ∨ n = 0x060 then some .ro
  else if n = 0x011 then some .rw
  else if n = 0x010 ∨ n = 0x012 ∨ (0x018 ≤ n ∧ n ≤ 0x01B) then some .sw
  else if (0x040 ≤ n ∧ n ≤ 0x047) ∨ (0x050 ≤ n ∧ n ≤ 0x057) then some .sw
  else if 0x070 ≤ n ∧ n ≤ 0x073 then some .ro
  else if 0x080 ≤ n ∧ n ≤ 0x09F then some .sw
  else if n = 0x0A0 ∨ n = 0x0A1 ∨ n = 0x0B1 ∨ n = 0x0B2 then some .ro
  else if n = 0x0B0 ∨ n = 0x0B3 ∨ n = 0x0B4 then some .sw
  else if 0x0C0 ≤ n ∧ n ≤ 0x0DF then some .rw
  else if (0x0E0 ≤ n ∧ n ≤ 0x0F3) ∨ (0x100 ≤ n ∧ n ≤ 0x11F) then some .sw
  else if n = 0x131 ∨ (0x140 ≤ n ∧ n ≤ 0x14F) then some .sw
  else if n = 0x130 ∨ (0x138 ≤ n ∧ n ≤ 0x13D) ∨ n = 0x13F then some .ro
  else none

/-- An entry of a vector by number; a number beyond it reads the default. -/
def vget {α : Type} {n : Nat} (d : α) (v : Vector α n) (i : Nat) : α := v.toList.getD i d

/-- The controller of the segment that holds a core, if it belongs to one (R318, R319). -/
def State.segmentOf (s : State) (c : Nat) : Option Nat :=
  ([3, 2, 1, 0].map fun q => clusterOf c * 64 + rowOf c * 4 + q).find? fun k =>
    (s.ctrlAt k).seg && decide (4 * (k % 4) ≤ colOf c ∧ colOf c < 4 * (k % 4) + 2 ^ ((s.ctrlAt k).len.toNat + 2))

/-- RGSTAT of a core (R340). -/
def State.rgstat (s : State) (c : Nat) : Word :=
  match s.segmentOf c with
  | none => 0
  | some k =>
    let x := s.ctrlAt k
    let b (v : Bool) : Nat := if v then 1 else 0
    BitVec.ofNat 64 (2 ^ 63 + b (x.run != .idle) * 2 ^ 62 + b x.flow * 2 ^ 61
      + b (x.recov && x.run != .idle && !x.boundary) * 2 ^ 60
      + x.len.toNat * 2 ^ 58 + (colOf c - 4 * (k % 4)) * 2 ^ 54 + 4 * (k % 4) * 2 ^ 50
      + x.deferral.length % 2048 * 2 ^ 39 + x.beat / 2 ^ (x.len.toNat + 3) % 256 * 2 ^ 24 + x.beat % 2 ^ 24)

/-- RGCNT of a core (R340). -/
def RingCore.rgcnt (r : RingCore) : Word :=
  BitVec.ofNat 64 (r.enc.toNat * 2 ^ 48 + r.defs.toNat * 2 ^ 32 + r.uns.toNat * 2 ^ 16 + r.queue.length % 8 * 2 ^ 8)

/-- BTEP of an engine slot (R292). -/
def bteProgress (r : Option BteRun) (waiting : Bool) : Word :=
  match r with
  | none => 0
  | some x =>
    BitVec.ofNat 64 (2 ^ 63 + (if x.hold then 2 ^ 62 else 0) + (if waiting then 2 ^ 61 else 0)
      + x.cmd.doneb.toNat * 2 ^ 16 + siteSeq x.cmd.site)

/-- MXPROG (R312). -/
def Mx.progress (m : Mx) : Word :=
  let cur := if m.cur then 2 ^ 54 else 0
  match m.run with
  | some r =>
    if cmdOp r.cmd.cmd = 0x24 ∧ r.step < 148 then
      BitVec.ofNat 64 (2 ^ 63 + (if r.stopped && r.row == 0 then 2 ^ 62 else 0) + cur + r.step % 256 * 2 ^ 46 + r.cmd.site.toNat)
    else BitVec.ofNat 64 cur
  | none => BitVec.ofNat 64 cur

/-- Whether what runs in an engine slot waits on a window: it has a wait edge (R27, R292). -/
def State.bteWaits (s : State) (r : Option BteRun) : Bool :=
  r.any fun x => s.edges.any fun e => e.party == .cmd x.cmd.site

/-- WHOLD (R363). -/
def Core.whold (k : Core) : Word :=
  BitVec.ofNat 64 (((List.range 16).map fun w => if (k.winAt w).held then 2 ^ w else 0).foldl (· + ·) 0)

/-- WBKS of a window (R254). -/
def Win.wbks (w : Win) : Word :=
  BitVec.ofNat 64 (w.rlog.toNat * 2 ^ 59 + w.rhead.toNat * 2 ^ 28 + w.rfill.toNat)

/-- CENSST (R400). -/
def Cens.word (x : Cens) : Word :=
  let b (v : Bool) : Nat := if v then 1 else 0
  BitVec.ofNat 64 (x.cdrop.toNat * 2 ^ 32 + b x.ccore * 2 ^ 24 + b x.cseq * 2 ^ 23 + b x.rpm * 2 ^ 22 + b x.rpv * 2 ^ 21
    + x.rwin.toNat * 2 ^ 16 + b x.v * 16 + x.cwin.toNat)

/-- TRCCTL (R407). -/
def Trc.word (x : Trc) : Word :=
  BitVec.ofNat 64 (x.drop.toNat * 2 ^ 48 + x.kmask.toNat * 2 ^ 10 + (if x.v then 16 else 0) + x.win.toNat)

/-- EGMC of a mirror (R396). -/
def Mirror.control (m : Mirror) : Word :=
  BitVec.ofNat 64 ((if m.v then 2 ^ 63 else 0) + (if m.irq then 2 ^ 62 else 0) + m.win.toNat)

/-- TSTAT (R15). -/
def Slot.tstat (sl : Slot) : Word := BitVec.ofNat 64 (sl.prio.toNat * 2 + (if sl.sup then 1 else 0))

/-- A stall counter of a core as the live set holds it; entry 1 is kept less TICK (R413). -/
def Core.stallLive (k : Core) (n : Nat) (tick : Word) : Word :=
  if n = 1 then vget 0 k.stall 1 + tick else vget 0 k.stall n

/-- Reading a system register of slot t of core c; `tick` counts the ticks charged so far (R13, R137). A guest under a
loan reads its shadow (R415). -/
def State.sysRead (s : State) (c t n : Nat) (tick : Word) (guest : Bool) : Option Word :=
  let k := s.coreAt c
  let sl := k.slotAt t
  match sysAccess n with
  | none => none
  | some _ => some <|
    if n = 0x000 then BitVec.ofNat 64 c
    else if n = 0x001 then BitVec.ofNat 64 t
    else if n = 0x002 then k.seq.setWidth 64
    else if n = 0x003 then s.tick
    else if n = 0x010 then sl.tstat
    else if n = 0x011 then sl.fpstat.setWidth 64
    else if n = 0x012 then sl.repc.setWidth 64
    else if n = 0x018 then sl.trapcause
    else if n = 0x019 then sl.trappc.setWidth 64
    else if n = 0x01A then sl.trapsite.setWidth 64
    else if n = 0x01B then sl.traparg
    else if n = 0x020 then k.mx.progress
    else if n = 0x040 then BitVec.ofNat 64 ((if k.tvecEn then 4096 else 0) + k.tvec.toNat)
    else if n = 0x041 then BitVec.ofNat 64 ((if sl.tv then 2 else 0) + (if sl.psup then 1 else 0))
    else if n = 0x042 then sl.trapva
    else if n = 0x043 then sl.trapvah.setWidth 64
    else if n ≤ 0x047 then vget 0 sl.tscr (n - 0x044)
    else if n ≤ 0x057 then (vget 0 k.bnh (n - 0x050)).setWidth 64
    else if n = 0x060 then (s.clusterAt (clusterOf c)).ptroot
    else if n ≤ 0x073 then
      let r := vget none k.bte (n - 0x070)
      bteProgress r (s.bteWaits r)
    else if n ≤ 0x09F then
      let w := k.winAt ((n - 0x080) / 2)
      if n % 2 = 0 then w.wbkb else w.wbks
    else if n = 0x0A0 then s.rgstat c
    else if n = 0x0A1 then k.ring.rgcnt
    else if n = 0x0B0 then k.wdctl.setWidth 64
    else if n = 0x0B1 then k.wdcnt
    else if n = 0x0B2 then k.whold
    else if n = 0x0B3 then k.rpnot.setWidth 64
    else if n = 0x0B4 then 0
    else if n ≤ 0x0DF then vget 0 k.bxsh (n - 0x0C0)
    else if n ≤ 0x0EF then (vget 0 k.pkrt (n - 0x0E0)).setWidth 64
    else if n ≤ 0x0F3 then
      let m := vget ⟨0, false, false, 0⟩ k.egm ((n - 0x0F0) / 2)
      if n % 2 = 0 then m.base else m.control
    else if n ≤ 0x11F then
      let w := k.winAt ((n - 0x100) / 2)
      if n % 2 = 0 then BitVec.ofNat 64 (w.wpsClass.toNat * 2 ^ 46 + w.wpsSite.toNat) else w.wpd
    else if n = 0x130 then k.cens.word
    else if n = 0x131 then (if guest && k.trcLent then k.trcShadow else k.trc).word
    else if n = 0x138 then k.dbgctl.setWidth 64
    else if n = 0x139 then k.dbgev
    else if n ≤ 0x13D then vget 0 k.bks (n - 0x13A)
    else if n = 0x13F then BitVec.ofNat 64 ((if k.stallLent then 1 else 0) + (if k.trcLent then 2 else 0))
    else if guest && k.stallLent then vget 0 k.stallShadow (n - 0x140)
    else k.stallLive (n - 0x140) tick

/-- SRD (R137): a number that no table assigns is an illegal instruction (R13). -/
def execSrd (d : BitVec 5) (n : BitVec 10) (s : State) : Res :=
  finish s (
    match s.sysRead s.cur s.slot n.toNat (s.tick + 1) true with
    | some v => .done (s.setG d v)
    | none => .trap (illegalWord ((s.coreAt s.cur).fetch s.me)))

/-- The slot registers an SWR writes (R137, R139, R243). -/
def Slot.sysStore (sl : Slot) (n : Nat) (v : Word) : Slot :=
  match n with
  | 0x010 => { sl with sup := v.getLsbD 0 }
  | 0x011 => { sl with fpstat := v.setWidth 6 }
  | 0x012 => { sl with repc := v.setWidth 7 }
  | 0x018 => { sl with trapcause := v }
  | 0x019 => { sl with trappc := v.setWidth 12 }
  | 0x01A => { sl with trapsite := v.setWidth 46 }
  | 0x01B => { sl with traparg := v }
  | 0x041 => { sl with tv := v.getLsbD 1, psup := v.getLsbD 0 }
  | 0x042 => { sl with trapva := v }
  | 0x043 => { sl with trapvah := v.setWidth 16 }
  | 0x044 => { sl with tscr := sl.tscr.set 0 v }
  | 0x045 => { sl with tscr := sl.tscr.set 1 v }
  | 0x046 => { sl with tscr := sl.tscr.set 2 v }
  | 0x047 => { sl with tscr := sl.tscr.set 3 v }
  | _ => sl

/-- The core registers an SWR writes; `tick` as in `sysRead` (R139, R225, R282, R346, R350, R360, R385, R396, R407,
R413). -/
def Core.sysStore (k : Core) (n : Nat) (v : Word) (tick : Word) (guest : Bool) : Core :=
  if n = 0x040 then { k with tvecEn := v.getLsbD 12, tvec := v.setWidth 12 }
  else if 0x050 ≤ n ∧ n ≤ 0x057 then { k with bnh := k.bnh.setIfInBounds (n - 0x050) (v.setWidth 9 &&& 0x11F#9) }
  else if n = 0x0B0 then { k with wdctl := v.setWidth 40 &&& 0xFF0000003F#40, wdcnt := 0 }
  else if n = 0x0B3 then { k with rpnot := v.setWidth 5 }
  else if 0x0C0 ≤ n ∧ n ≤ 0x0DF then { k with bxsh := k.bxsh.setIfInBounds (n - 0x0C0) v }
  else if 0x0E0 ≤ n ∧ n ≤ 0x0EF then { k with pkrt := k.pkrt.setIfInBounds (n - 0x0E0) (v.setWidth 41) }
  else if 0x0F0 ≤ n ∧ n ≤ 0x0F3 then
    let j := (n - 0x0F0) / 2
    let m := vget ⟨0, false, false, 0⟩ k.egm j
    let m := if n % 2 = 0 then { m with base := v }
      else { m with v := v.getLsbD 63, irq := v.getLsbD 62, win := v.setWidth 4 }
    { k with egm := k.egm.setIfInBounds j m }
  else if 0x100 ≤ n ∧ n ≤ 0x11F then
    let j := (n - 0x100) / 2
    let w := k.winAt j
    k.setWin j (if n % 2 = 0 then { w with wpsClass := bits v.toNat 46 8, wpsSite := v.setWidth 46 }
      else { w with wpd := v })
  else if n = 0x131 then
    let x : Trc := ⟨0, bits v.toNat 10 6, v.getLsbD 4, v.setWidth 4⟩
    if guest && k.trcLent then { k with trcShadow := x } else { k with trc := x }
  else if 0x140 ≤ n ∧ n ≤ 0x14F then
    if guest && k.stallLent then { k with stallShadow := k.stallShadow.setIfInBounds (n - 0x140) v }
    else { k with stall := k.stall.setIfInBounds (n - 0x140) (if n = 0x141 then v - tick else v) }
  else k

/-! ## Loans (R415) -/

/-- The core lends its stall counters: the guest's values stand in the shadow, the live ones start from zero. -/
def Core.lendStall (k : Core) (tick : Word) : Core :=
  if k.stallLent then k
  else { k with
    stallShadow := k.stall.set 1 (k.stall[1] + tick)
    stall := Core.init.stall.set 1 (0 - tick)
    stallLent := true }

/-- The core has its stall counters back as the shadow holds them. -/
def Core.takeStall (k : Core) (tick : Word) : Core :=
  if k.stallLent then { k with stall := k.stallShadow.set 1 (k.stallShadow[1] - tick), stallLent := false } else k

/-- The core lends its trace unit. -/
def Core.lendTrace (k : Core) : Core := if k.trcLent then k else { k with trcShadow := k.trc, trcLent := true }
/-- The core has its trace unit back. -/
def Core.takeTrace (k : Core) : Core := if k.trcLent then { k with trc := k.trcShadow, trcLent := false } else k

/-- SLOTCTL acts before the writing task's next instruction (R344). -/
def State.slotctl (s : State) (c : Nat) (v : Word) : State :=
  let t := v.toNat % 32
  match v.toNat / 256 % 4 with
  | 1 => s.urgent [.slotResume c t]
  | 2 => s.urgent [.slotKill c t]
  | _ => s

/-- Writing a system register that may be written (R137). -/
def State.sysWrite (s : State) (c t n : Nat) (v : Word) (tick : Word) (guest : Bool) : State :=
  if n = 0x0B4 then s.slotctl c v
  else
    let k := (s.coreAt c).sysStore n v tick guest
    s.setCore c (k.setSlot t ((k.slotAt t).sysStore n v))

/-- The checks of an SWR, in R13's terms: an unassigned or read-only number is an illegal instruction; a supervisor
register needs TSTAT.SUP. -/
def writable (n : Nat) (s : State) (k : State → Out) : Out :=
  let w := (s.coreAt s.cur).fetch s.me
  match sysAccess n with
  | none | some .ro => .trap (illegalWord w)
  | some .rw => k s
  | some .sw => if s.me.sup then k s else .trap (trapOf 3 (w.setWidth 64))

/-- Whether a word written to SLOTCTL kills another slot of the core that still has accesses in flight (R262, R344). -/
def State.killWaits (s : State) (c t : Nat) (v : Word) : Bool :=
  decide (v.toNat / 256 % 4 = 2 ∧ v.toNat % 32 ≠ t) && (s.slotAt c (v.toNat % 32)).status != .free
    && !s.quiet c (v.toNat % 32)

/-- An SWR that only stores (R137); a kill takes effect before the task's next instruction (R344). -/
def swrOut (n : Nat) (v : Word) (s : State) : Out :=
  writable n s fun s =>
    let t := s.sysWrite s.cur s.slot n v (s.tick + 1) true
    if n = 0x0B4 ∧ s.killWaits s.cur s.slot v then .hold (t.holdMe (.kill (v.toNat % 32))) else .done t

/-- SWR of a register with no behaviour of its own (R137). -/
def execSwr (n : BitVec 10) (z : BitVec 5) (s : State) : Res := finish s (swrOut n.toNat (s.me.readG z) s)
/-- SWR of FPSTAT (R137): an earlier instruction has written its flags when the next one issues. -/
def execFpstatWrite (z : BitVec 5) (s : State) : Res := finish s (swrOut 0x011 (s.me.readG z) s)
/-- SWR of REPC (R113, R137). -/
def execRepcWrite (z : BitVec 5) (s : State) : Res := finish s (swrOut 0x012 (s.me.readG z) s)
/-- SWR of WDCTL, which clears WDCNT (R360). -/
def execWdctlWrite (z : BitVec 5) (s : State) : Res := finish s (swrOut 0x0B0 (s.me.readG z) s)
/-- SWR of TRCCTL: KMASK, V and WIN; DROP is cleared (R407). -/
def execTrcctlWrite (z : BitVec 5) (s : State) : Res := finish s (swrOut 0x131 (s.me.readG z) s)

/-- An SWR to a backing register: a window operand fault while its ring holds elements or a refill is in flight
(R254). -/
def backingOut (n w : Nat) (f : Win → Win) (s : State) : Out :=
  writable n s fun s =>
    let x := s.winAt s.cur w
    if (x.mode == .backed && decide (x.rc ≠ 0)) || !x.refills.isEmpty then .trap (winTrap x w .define false 0 5)
    else .done (s.setWin s.cur w (f x))

/-- SWR of WBKBn (R254). -/
def execWbkbWrite (n : BitVec 4) (z : BitVec 5) (s : State) : Res :=
  finish s (backingOut (0x080 + 2 * n.toNat) n.toNat (fun x => { x with wbkb := s.me.readG z }) s)
/-- SWR of WBKSn: RLOG is stored, the counts are cleared (R254). -/
def execWbksWrite (n : BitVec 4) (z : BitVec 5) (s : State) : Res :=
  finish s (backingOut (0x081 + 2 * n.toNat) n.toNat
    (fun x => { x with rlog := bits (s.me.readG z).toNat 59 5, rhead := 0, rfill := 0 }) s)

/-- Resuming a trapped slot as ERET would (R344). -/
def State.resumeSlot (s : State) (c t : Nat) : State :=
  let sl := s.slotAt c t
  if sl.status = .trapped then
    s.setSlot c t { sl.returnFromTrap with status := .runnable, ready := s.tick, issues := 0 }
  else s

/-- SLOTCTL resume (R344). -/
def execSlotResume (c t : Nat) (s : State) : Res := .next (s.resumeSlot c t)

/-- Freeing a slot: its waits, claims and binding go, the values of its tokens are discarded when they come, and what
waits to spawn is retried (R231, R262, R344). -/
def State.freeSlot (s : State) (c t : Nat) : State :=
  let sl := s.slotAt c t
  let s := (s.dropEdges (.task c t)).releaseClaims (s.holderOf c t)
  (s.setSlot c t { sl with
    status := .free, bind := 0, hold := .none, wait := none, remote := none, inRep := false, tv := false,
    fenceRel := none, loads := [], tkns := [], again := false, banked := 0, paid := 0, killing := false,
    stopped := false }).wakeKind c .spawn

/-- Killing a slot that is not free (R344): freeing it is a release, which waits until its accesses are performed
(R262); meanwhile it issues nothing, and the values of its tokens are discarded (R231). Marked DEDUCED, log 38. -/
def State.killSlot (s : State) (c t : Nat) : State :=
  let sl := s.slotAt c t
  if sl.status = .free then s
  else if s.quiet c t then s.freeSlot c t
  else (s.dropEdges (.task c t)).setSlot c t { sl with
    status := .runnable, hold := .none, wait := none, remote := none, inRep := false, tkns := [], killing := true }

/-- SLOTCTL kill (R344). -/
def execSlotKill (c t : Nat) (s : State) : Res := .next (s.killSlot c t)

/-- A trap whose TRAPPC is not the instruction's own PC. -/
def State.raise (s : State) (tr : Trap) (ret : BitVec 12) : Res := .next (s.takeTrap s.cur s.slot tr ret)

/-- TRAP (R143): at word 4095 the instruction-address trap instead. -/
def execTrap (n : BitVec 10) (s : State) : Res :=
  if s.me.pc = 4095#12 then s.raise (addressTrap 4096) s.me.pc
  else s.raise (trapOf 4 (n.setWidth 64)) (s.me.pc + 1)

/-- A BRK in debug mode (R144): the trap registers, subject to R141, and the trapped state; a debug event, no report. -/
def State.debugBreak (s : State) (n : BitVec 10) : State :=
  let c := s.cur
  let t := s.slot
  let site := s.siteOf c t
  let s := s.trace c ⟨5, site, n.setWidth 64, 5, 0, t⟩
  let sl := s.slotAt c t
  let sl := if sl.tv then sl else { sl with trappc := sl.pc, trapcause := 5, traparg := n.setWidth 64, trapsite := site }
  (s.setSlot c t { sl with status := .trapped, inRep := false }).debugEvent c 1 site

/-- BRK (R144). -/
def execBrk (n : BitVec 10) (s : State) : Res :=
  if (s.coreAt s.cur).dbgctl.getLsbD 0 then .next (s.debugBreak n)
  else s.raise (trapOf 5 (n.setWidth 64)) s.me.pc

/-- ERET (R142). -/
def execEret (s : State) : Res :=
  finish s (privileged .eret s fun s => .moved (s.setMe s.me.returnFromTrap))

end Sys2Proof.Machine
end

