-- ==== Sys2Proof/Machine/Matrix.lean ====
section
/-! DEFINITION. The matrix unit (R295 to R317) and what it does for an encounter ring (R310, R325, R328, R329). -/

namespace Sys2Proof.Machine

open Sys2Proof

/-- +0 of the block buffer and the slots. -/
abbrev F32 := BitVec 32

/-- The matrix unit of a core. -/
def State.mxAt (s : State) (c : Nat) : Mx := (s.coreAt c).mx
/-- Replacing the matrix unit of a core. -/
def State.setMx (s : State) (c : Nat) (m : Mx) : State := s.setCore c { s.coreAt c with mx := m }

/-- A bank of the unit. -/
def Mx.bank (m : Mx) (b : Bool) : Bank := m.banks[b.toNat]'(Bool.toNat_lt b)
/-- Replacing a bank. -/
def Mx.setBank (m : Mx) (b : Bool) (x : Bank) : Mx := { m with banks := m.banks.set b.toNat x (Bool.toNat_lt b) }
/-- An accumulator slot. -/
def Mx.acc (m : Mx) (z : Bool) : Table F32 := m.slots[z.toNat]'(Bool.toNat_lt z)
/-- Replacing an accumulator slot. -/
def Mx.setAcc (m : Mx) (z : Bool) (x : Table F32) : Mx := { m with slots := m.slots.set z.toNat x (Bool.toNat_lt z) }

/-! ## Fields (R304) -/

/-- The format of an operand: E4M3, or BF16 where its bit is set (R304). -/
def mxFmt (bf : Bool) : Fmt := if bf then .bf16 else .e4m3
/-- SLOT of MXA, MXTM, MXZ and MXOUT. -/
def mxSlot (x : Wide) : Bool := cmdMod x 2
/-- AF of MXA and MXTM. -/
def mxAf (x : Wide) : Bool := cmdMod x 0
/-- WF of MXW and MXTM. -/
def mxWf (x : Wide) : Bool := cmdMod x 1
/-- PRO of MXA. -/
def mxPro (x : Wide) : Bool := decide (cmdOp x = 0x22) && cmdMod x 1
/-- SPLIT of MXTM. -/
def mxSplit (x : Wide) : Bool := decide (cmdOp x = 0x24) && cmdMod x 3
/-- RING of MXTM. -/
def mxRing (x : Wide) : Bool := decide (cmdOp x = 0x24) && cmdMod x 4
/-- PEER of MXTM. -/
def mxPeer (x : Wide) : Nat := cf x 104 13

/-- Where a matrix command finds an operand: window and offset. -/
structure Operand where
  win : Nat
  off : Nat
  deriving DecidableEq, Repr

/-- The four operands of an MXTM: A, B, A scales, B scale; a ring MXTM takes those of its segment at offset 0
(R304, R310, R319). -/
def State.mxtmOperands (s : State) (c : Nat) (x : Wide) : Operand × Operand × Operand × Operand :=
  if mxRing x then
    match s.segmentOf c with
    | some q =>
      let k := s.ctrlAt q
      (⟨k.ewin, 0⟩, ⟨k.wwin, 0⟩, ⟨k.eswin, 0⟩, ⟨k.wswin, 0⟩)
    | none => (⟨0, 0⟩, ⟨0, 0⟩, ⟨0, 0⟩, ⟨0, 0⟩)
  else (⟨cmdSrcw x, cf x 32 16⟩, ⟨cmdDstw x, cf x 48 16⟩, ⟨cf x 64 4, cf x 72 16⟩, ⟨cf x 68 4, cf x 88 16⟩)

/-! ## Tiles (R296) -/

/-- The element of a tile that holds row i of A, or the block of rows i of B. -/
def tileElem (p : Operand) (bf : Bool) (i : Nat) : Nat := p.off + (if bf then i / 64 else 0)

/-- The pattern of value j of row i of a tile whose element lies at a byte address. -/
def tileValue (k : Core) (base : Nat) (bf : Bool) (i j : Nat) : Nat :=
  if bf then ofBytes (tgets 0 k.wstore (base + 256 * (i % 64) + 2 * j) 2)
  else (tget 0 k.wstore (base + 128 * i + j)).toNat

/-- Row i of a tile, 32 values from column j. -/
def tileRow (k : Core) (base : Nat) (bf : Bool) (i j : Nat) : List Nat :=
  (List.range 32).map fun n => tileValue k base bf i (j + n)

/-! ## Arithmetic (R298 to R301) -/

/-- Adding an exact product to a partial sum; none is the NaN of an invalid product (R298). -/
def chainAdd (z : Nat) (p : Option FVal) : Nat :=
  let x := Fmt.f32.decode z
  match p with
  | none => Fmt.f32.nan
  | some v => if x.isNan || v.isNan then Fmt.f32.nan else (Fmt.f32.sum .rne x v).1

/-- The exact product of two operands, none for a NaN or 0 × ∞ (R298). -/
def exactProduct (x y : FVal) : Option FVal := if x.isNan || y.isNan then none else x.mul y

/-- The chain of 32 products down the rows (R298). -/
def chain (af wf : Bool) (a w : List Nat) : Nat :=
  let ps := (a.zip w).map fun e => exactProduct ((mxFmt af).decode e.1) ((mxFmt wf).decode e.2)
  match ps with
  | [] => 0
  | p :: r =>
    r.foldl chainAdd (match p with
      | none => Fmt.f32.nan
      | some v => (Fmt.f32.roundVal .rne v).1)

/-- Whether every operand of a chain is finite (R301). -/
def chainFinite (af wf : Bool) (a w : List Nat) : Bool :=
  (a.all fun v => ((mxFmt af).decode v).isFinite) && w.all fun v => ((mxFmt wf).decode v).isFinite

/-- Column c of a bank. -/
def Bank.column (b : Bank) (c : Nat) : List Nat := (List.range 32).map fun r => (tget 0 b.w (32 * r + c)).toNat

/-- WS of a bank where it is used: 1.0 stands in for a BF16 operand (R296). -/
def Bank.scale (b : Bank) : F32 := if b.wf then 0x3F800000#32 else b.ws

/-- Combining one chain result into the block buffer (R299). -/
def Mx.combine (m : Mx) (i c kb : Nat) (v : Nat) (mark : Bool) : Mx :=
  let key := 32 * i + c
  if kb = 0 then
    { m with buf := tput 0 m.buf key (BitVec.ofNat 32 v), marks := tput false m.marks key mark }
  else
    { m with
      buf := tput 0 m.buf key (BitVec.ofNat 32 (Fmt.f32.add .rne (tget 0 m.buf key).toNat v).1)
      marks := tput false m.marks key (tget false m.marks key || mark) }

/-- Row i of activations through a bank, into the block buffer (R298, R299). -/
def Mx.computeRow (m : Mx) (af : Bool) (a : List Nat) (b : Bool) (i kb : Nat) : Mx :=
  let k := m.bank b
  (List.range 32).foldl (init := m) fun m c =>
    let w := k.column c
    m.combine i c kb (chain af k.wf a w) (!chainFinite af k.wf a w)

/-- The sums and marks of row i of the block buffer. -/
def Mx.bufRow (m : Mx) (i : Nat) : List (F32 × Bool) :=
  (List.range 32).map fun c => (tget 0 m.buf (32 * i + c), tget false m.marks (32 * i + c))

/-- sc of a row: its scale times WS, rounded (R300). -/
def rowScale (sa ws : F32) : F32 := BitVec.ofNat 32 (Fmt.f32.mul .rne sa.toNat ws.toNat).1

/-- Whether an FP32 pattern is finite. -/
def finite32 (v : F32) : Bool := (Fmt.f32.decode v.toNat).isFinite

/-- Promoting one row of sums into columns 32ng … of an accumulator slot; each result is counted if asked (R300,
R301). -/
def promoteRow (t : Table F32) (row : List (F32 × Bool)) (i ng : Nat) (sc : F32) (scFin count : Bool) (x : Cmd) :
    Table F32 × Cmd :=
  let go (p : Table F32 × Cmd × Nat) (e : F32 × Bool) : Table F32 × Cmd × Nat :=
    let key := 128 * i + 32 * ng + p.2.2
    let old := tget 0 p.1 key
    let r := Fmt.f32.fma .rne e.1.toNat sc.toNat old.toNat
    let ev := fpEvents .f32 r.1 (r.2 &&& fUF) (!e.2 && scFin && finite32 old)
    (tput 0 p.1 key (BitVec.ofNat 32 r.1), if count then p.2.1.tally ev else p.2.1, p.2.2 + 1)
  let r := row.foldl go (t, x, 0)
  (r.1, r.2.1)

/-- Promoting rows from i on (R300). -/
def promoteRows (t : Table F32) (rows : List (List (F32 × Bool))) (scs : List (F32 × Bool)) (i ng : Nat)
    (count : Bool) (x : Cmd) : Table F32 × Cmd :=
  match rows, scs with
  | row :: rows, sc :: scs =>
    let r := promoteRow t row i ng sc.1 sc.2 count x
    promoteRows r.1 rows scs (i + 1) ng count r.2
  | _, _ => (t, x)

/-! ## Running commands -/

/-- A command as it begins to run. Marked DEDUCED, log 17. -/
def MxRun.start (x : Cmd) (bank slot : Bool) (entry : Option Nat) : MxRun where
  cmd := x
  step := 0
  bank := bank
  entry := entry
  scale := none
  scales := []
  slot := slot
  peerWait := false
  stopped := false
  reload := false
  row := 0
  ended := false
  fault := false

/-- The run of a site, wherever it stands in the unit, replaced. -/
def Mx.put (m : Mx) (r : MxRun) : Mx :=
  let f (x : MxRun) : MxRun := if x.cmd.site = r.cmd.site then r else x
  { m with run := m.run.map f, load := m.load.map f, out := m.out.map f }

/-- Marking the encounter a ring MXTM served as done, with its fault (R329). -/
def State.encounterDone (s : State) (c : Nat) (site : Nat) (fault : Bool) : State :=
  let k := s.coreAt c
  (s.setCore c { k with ring := { k.ring with
      queue := k.ring.queue.map fun q =>
        if q.entry = site ∧ q.served ∧ !q.mxDone then { q with mxDone := true, faulted := fault, unpinned := true }
        else q } }).post (.encounterFinish c)

/-- What follows the completion of a matrix command: its encounter finishes, an MXOUT with FREE releases its slot to
the ring (R314, R325, R329). -/
def State.mxFollow (s : State) (c : Nat) (r : MxRun) : State :=
  let s := match r.entry with
    | some e => s.encounterDone c e r.fault
    | none => s
  if cmdOp r.cmd.cmd = 0x26 ∧ cmdMod r.cmd.cmd 5 ∧ !r.fault then
    let k := s.coreAt c
    s.setCore c { k with ring := { k.ring with holders := k.ring.holders.set r.slot.toNat none (Bool.toNat_lt r.slot) } }
  else s

/-- A matrix command whose census entry has gone leaves the unit (R302, R402). -/
def State.mxRelease (s : State) (c : Nat) (site : BitVec 46) : State :=
  let m := s.mxAt c
  let all := m.run.toList ++ m.load ++ m.out.toList
  let keep (x : MxRun) : Bool := x.cmd.site != site
  let s := s.setMx c { m with run := m.run.filter keep, load := m.load.filter keep, out := m.out.filter keep }
  match all.find? fun x => x.cmd.site == site with
  | some r => s.mxFollow c r
  | none => s

/-- Ending a running matrix command that has done its last step (R315). -/
def State.mxEnd (s : State) (c : Nat) (r : MxRun) (slotSide : Bool) : State :=
  (s.setMx c ((s.mxAt c).put { r with ended := true })).endCommand c r.cmd .mx false false slotSide

/-- A running matrix command meets an unrecoverable fault (R297, R305, R315). Marked DEDUCED, log 35. -/
def State.mxFail (s : State) (c : Nat) (r : MxRun) (cls : Nat) (detail : Word) : State :=
  let out := decide (cmdOp r.cmd.cmd = 0x26)
  let ws := if out then [cmdDstw r.cmd.cmd] else []
  (s.setMx c ((s.mxAt c).put { r with ended := true, fault := true })).failCommand c r.cmd .mx ws cls detail 0 out

/-- The detail of the fault of a command whose windows no longer pass its checks at its start: WHY 1 for the first that
is undefined, else 7 for the first window (R28, R305). Marked DEDUCED, log 35. -/
def State.mxStartDetail (s : State) (c : Nat) (x : Wide) : Word :=
  let ws := match cmdOp x with
    | 0x22 => if mxPro x && !mxAf x then [cmdSrcw x, cmdDstw x] else [cmdSrcw x]
    | 0x24 => [cmdSrcw x, cmdDstw x] ++ (if mxAf x then [] else [cf x 64 4]) ++ (if mxWf x then [] else [cf x 68 4])
    | 0x26 => [cmdDstw x]
    | 0x21 => [cmdSrcw x]
    | _ => []
  let k := s.coreAt c
  let op : OpKind := if cmdOp x = 0x26 then .fill else .read
  let bad (w : Nat) : Bool :=
    if cmdOp x = 0x26 then !(k.winAt w).engineFills
    else (k.winAt w).esz != (if w = cmdSrcw x ∨ (cmdOp x = 0x24 ∧ w = cmdDstw x) then 12#4 else 7#4)
  match ws.find? fun w => !(k.winAt w).v with
  | some w => winFaultArg (k.winAt w) w op false 0 1
  | none =>
    match ws.find? bad with
    | some w => winFaultArg (k.winAt w) w op false 0 (if cmdOp x = 0x26 then 5 else 7)
    | none =>
      let w := (doneWin x).getD 0
      winFaultArg (k.winAt w) w .fill false 0 (if (k.winAt w).v then 7 else 1)

/-- Whether the windows of a command still pass the checks of its issue at its start (R305). -/
def State.mxStartOk (s : State) (c : Nat) (x : Wide) : Bool := mxIssueOk (s.coreAt c) c x

/-- Starting a command: it leaves the queue and runs, with what its start does to the unit, or faults at once where its
windows have changed (R305). -/
def State.mxStart (s : State) (c : Nat) (r : MxRun) (place effect : Mx → Mx) (next : Instr) : State :=
  let s := s.takeHead c .mx
  let s := s.setMx c (place (s.mxAt c))
  if s.mxStartOk c r.cmd.cmd then (s.setMx c (effect (s.mxAt c))).post next
  else s.mxFail c r 6 (s.mxStartDetail c r.cmd.cmd)

/-- Whether nothing in the unit writes or reads an accumulator slot on the slot side (R302). -/
def Mx.outFree (m : Mx) (z : Bool) : Bool :=
  match m.out with
  | none => true
  | some r => r.slot != z

/-- MXW starts (R302, R306). -/
def execMxw (c : Nat) (s : State) : Res :=
  .next <|
    match (s.coreAt c).headOf .mx 0x21 with
    | none => s
    | some x =>
      let m := s.mxAt c
      let b := cmdMod x.cmd 0
      let free := m.load.isEmpty && (match m.run with
        | none => true
        | some r => cmdOp r.cmd.cmd = 0x22 && r.bank != b)
      if free then
        let r := MxRun.start x b false none
        s.mxStart c r (fun m => { m with load := [r] }) id (.mxTileRead c)
      else s

/-- MXA starts, capturing the bank CUR names (R302, R303, R307). Marked DEDUCED, log 17. -/
def execMxa (c : Nat) (s : State) : Res :=
  .next <|
    match (s.coreAt c).headOf .mx 0x22 with
    | none => s
    | some x =>
      let m := s.mxAt c
      let free := m.run.isNone && (m.load.all fun r => r.bank != m.cur) && m.outFree (mxSlot x.cmd)
      if free then
        let r := MxRun.start x m.cur (mxSlot x.cmd) none
        s.mxStart c r (fun m => { m with run := some r }) id (.mxTileRead c)
      else s

/-- MXSWP flips CUR and completes (R303, R305, R308). -/
def execMxswp (c : Nat) (s : State) : Res :=
  .next <|
    match (s.coreAt c).headOf .mx 0x23 with
    | none => s
    | some x =>
      let s := s.takeHead c .mx
      let m := s.mxAt c
      if s.mxStartOk c x.cmd then (s.setMx c { m with cur := !m.cur }).endCommand c x .mx false false false
      else s.failCommand c x .mx [] 6 (s.mxStartDetail c x.cmd) 0 false

/-- The oldest pending encounter of a core that a ring MXTM's INDEX matches (R310). -/
def State.pendingEncounter (s : State) (c : Nat) (x : Wide) : Option Encounter :=
  (s.coreAt c).ring.queue.find? fun q => !q.served && decide (q.entry % 256 = cf x 24 8)

/-- A match entry of the controller of a core's segment (R323). -/
def State.matchEntry (s : State) (c e : Nat) : BitVec 32 :=
  match s.segmentOf c with
  | some q => tget offEntry (s.ctrlAt q).table e
  | none => offEntry

/-- MXTM starts; with RING it takes its encounter, or faults (R302, R309, R310, R319, R338). -/
def execMxtm (c : Nat) (s : State) : Res :=
  .next <|
    match (s.coreAt c).headOf .mx 0x24 with
    | none => s
    | some x =>
      let m := s.mxAt c
      let enc := if mxRing x.cmd then s.pendingEncounter c x.cmd else none
      let slot := match enc with
        | some q => (s.matchEntry c q.entry).getLsbD 20
        | none => mxSlot x.cmd
      let ringBad := mxRing x.cmd && (mxAf x.cmd || mxWf x.cmd || enc.isNone)
      if m.run.isNone && m.load.isEmpty && (ringBad || m.outFree slot) then
        let r := MxRun.start x m.cur slot (if ringBad then none else enc.map Encounter.entry)
        if ringBad then
          let s := s.takeHead c .mx
          (s.setMx c { s.mxAt c with run := some r }).mxFail c r 7
            (if mxAf x.cmd || mxWf x.cmd then 9 else 8)
        else
          let k := s.coreAt c
          let s := match enc with
            | none => s
            | some e => s.setCore c { k with ring := { k.ring with
                queue := k.ring.queue.map fun q => if q = e then { q with served := true } else q } }
          s.mxStart c r (fun m => { m with run := some r }) id (.mxtmStep c)
      else s

/-- Whether a compute command of core c writes its slot: the upper core of a split product does not (R307, R311). -/
def mxWrites (c : Nat) (x : Wide) : Bool :=
  if cmdOp x = 0x22 then mxPro x else !(mxSplit x && decide (mxPeer x < c))

/-- Whether the slot side may start on a slot: every earlier command that writes it has completed (R302). -/
def Mx.slotFree (m : Mx) (c : Nat) (z : Bool) : Bool :=
  m.out.isNone && (match m.run with
    | none => true
    | some r => r.slot != z || !mxWrites c r.cmd.cmd)

/-- MXZ writes +0 to a slot (R302, R313). -/
def execMxz (c : Nat) (s : State) : Res :=
  .next <|
    match (s.coreAt c).headOf .mx 0x25 with
    | none => s
    | some x =>
      let z := mxSlot x.cmd
      if (s.mxAt c).slotFree c z then
        let r := MxRun.start x false z none
        s.mxStart c r (fun m => { m with out := some r }) (fun m => m.setAcc z []) (.mxCommandComplete c true)
      else s

/-- MXOUT starts (R302, R314). -/
def execMxout (c : Nat) (s : State) : Res :=
  .next <|
    match (s.coreAt c).headOf .mx 0x26 with
    | none => s
    | some x =>
      let z := mxSlot x.cmd
      if (s.mxAt c).slotFree c z then
        let r := MxRun.start x false z none
        s.mxStart c r (fun m => { m with out := some r }) id (.mxoutElementFill c)
      else s

/-! ## Reads and steps (R297, R306, R307, R309) -/

/-- The banks that a matrix read of 32 values uses (R124, R297). -/
def State.useRow (s : State) (c base : Nat) (bf : Bool) (i j : Nat) : State :=
  if bf then s.useRows c (base + 256 * (i % 64) + 2 * j) 64 else s.useRows c (base + 128 * i + j) 32

/-- A command's read that must wait: an edge, kept until the read is tried again. -/
def State.mxWait (s : State) (c : Nat) (r : MxRun) (p : Operand) (o : Nat) (retry : Instr) : State :=
  s.addEdge (cmdReadEdge c p.win o r.cmd.site retry)

/-- Row r of a weight block into a bank; the first latches the format and the scale (R306). -/
def Mx.loadRow (m : Mx) (b : Bool) (wf : Bool) (ws : F32) (r : Nat) (vs : List Nat) : Mx :=
  let k := m.bank b
  m.setBank b { k with
    w := tputs 0 k.w (32 * r) (vs.map fun v => BitVec.ofNat 16 v)
    wf := wf
    ws := if wf then 0 else ws }

/-- One read of an MXW: row `step` of its block (R297, R306). -/
def State.mxwRead (s : State) (c : Nat) (r : MxRun) : State :=
  let x := r.cmd.cmd
  let p : Operand := ⟨cmdSrcw x, cf x 32 16⟩
  let i := 32 * cf x 48 2 + r.step
  let k := s.coreAt c
  match k.engRead p.win (tileElem p (mxWf x) i) (some 12#4) with
  | .wait => s.mxWait c r p (tileElem p (mxWf x) i) (.mxTileRead c)
  | .fault cls d => s.mxFail c r cls d
  | .ready base =>
    let s := (s.dropEdges (.cmd r.cmd.site)).useRow c base (mxWf x) i (32 * cf x 50 2)
    let m := s.mxAt c
    let m := m.loadRow r.bank (mxWf x) (BitVec.ofNat 32 (cf x 64 32)) r.step
      (tileRow k base (mxWf x) i (32 * cf x 50 2))
    (s.setMx c (m.put { r with step := r.step + 1 })).post
      (if r.step = 31 then .mxCommandComplete c false else .mxTileRead c)

/-- The scale elements that rows of A need, read once: the 128 scales, or a wait or a fault (R296, R297). -/
inductive Scales
  | wait
  | fault (cls : Nat) (detail : Word)
  | ready (vs : List F32)

/-- The A scales of a command: 1.0 for BF16 (R296). -/
def State.mxScales (s : State) (c : Nat) (r : MxRun) (p : Operand) : Scales :=
  if mxAf r.cmd.cmd then .ready (List.replicate 128 0x3F800000#32)
  else if !r.scales.isEmpty then .ready r.scales
  else
    let k := s.coreAt c
    match k.engRead p.win p.off (some 7#4) with
    | .wait => .wait
    | .fault cls d => .fault cls d
    | .ready base => .ready ((List.range 128).map fun i => BitVec.ofNat 32 (ofBytes (tgets 0 k.wstore (base + 4 * i) 4)))

/-- A scale with whether it and WS are finite (R300, R301). -/
def scaleOf (sa ws : F32) : F32 × Bool := (rowScale sa ws, finite32 sa && finite32 ws)

/-- The step of an MXA is over. -/
def State.mxaNext (s : State) (c : Nat) (m : Mx) (r : MxRun) : State :=
  let r := { r with step := r.step + 1, row := 0 }
  (s.setMx c (m.put r)).post (if cf r.cmd.cmd 75 7 < r.step then .mxCommandComplete c false else .mxTileRead c)

/-- Promoting the row of an MXA that has been combined, once its scales are there (R297, R307). -/
def State.mxaPromote (s : State) (c : Nat) (r : MxRun) : State :=
  let x := r.cmd.cmd
  let i := cf x 68 7 + r.step
  let sp : Operand := ⟨cmdDstw x, cf x 48 16⟩
  match s.mxScales c r sp with
  | .wait => s.mxWait c r sp sp.off (.mxTileRead c)
  | .fault cls d => s.mxFail c r cls d
  | .ready vs =>
    let m := s.mxAt c
    let sc := scaleOf (vs.getD i 0) (m.bank r.bank).scale
    let t := promoteRow (m.acc r.slot) (m.bufRow i) i (cf x 66 2) sc.1 sc.2 true r.cmd
    (s.dropEdges (.cmd r.cmd.site)).mxaNext c (m.setAcc r.slot t.1) { r with scales := vs, cmd := t.2 }

/-- One row of an MXA: it is read and combined, and then promoted where PRO asks; `row` is 1 between the two (R297,
R307). -/
def State.mxaRead (s : State) (c : Nat) (r : MxRun) : State :=
  let x := r.cmd.cmd
  let p : Operand := ⟨cmdSrcw x, cf x 32 16⟩
  let i := cf x 68 7 + r.step
  let e := tileElem p (mxAf x) i
  let k := s.coreAt c
  if r.row = 1 then s.mxaPromote c r
  else match k.engRead p.win e (some 12#4) with
  | .wait => s.mxWait c r p e (.mxTileRead c)
  | .fault cls d => s.mxFail c r cls d
  | .ready base =>
    let kb := cf x 64 2
    let s := (s.dropEdges (.cmd r.cmd.site)).useRow c base (mxAf x) i (32 * kb)
    let m := (s.mxAt c).computeRow (mxAf x) (tileRow k base (mxAf x) i (32 * kb)) r.bank i kb
    let r' := { r with row := 1 }
    if mxPro x then (s.setMx c (m.put r')).mxaPromote c r' else s.mxaNext c m r

/-- A read of a matrix command: the weights being loaded, and the activations being streamed (R297). -/
def execMxTileRead (c : Nat) (s : State) : Res :=
  .next <|
    let go (s : State) (r : MxRun) : State :=
      if r.ended then s
      else if cmdOp r.cmd.cmd = 0x21 ∧ r.step < 32 then s.mxwRead c r
      else if cmdOp r.cmd.cmd = 0x22 ∧ r.step ≤ cf r.cmd.cmd 75 7 then s.mxaRead c r
      else s
    let m := s.mxAt c
    (m.load ++ m.run.toList).foldl go s

/-- The bank of a block in an MXTM that began on bank b0 (R309). -/
def blockBank (b0 : Bool) (ng kb : Nat) : Bool := b0 != decide ((4 * ng + kb) % 2 = 1)

/-- Loading block (kb, ng) of B into its bank, with the B scale, which the first load reads before its block (R297,
R309). Marked DESIGN CHOICE, log 101. -/
def State.mxtmLoad (s : State) (c : Nat) (r : MxRun) (ng kb : Nat) (retry : Instr) (k : State → MxRun → State) :
    State :=
  let x := r.cmd.cmd
  let ops := s.mxtmOperands c x
  let p := ops.2.1
  let sp := ops.2.2.2
  let core := s.coreAt c
  let e := tileElem p (mxWf x) (32 * kb)
  let sc : Scales := if mxWf x then .ready [0] else
    match r.scale with
    | some v => .ready [v]
    | none =>
      match core.engRead sp.win sp.off (some 7#4) with
      | .wait => .wait
      | .fault cls d => .fault cls d
      | .ready b => .ready [BitVec.ofNat 32 (ofBytes (tgets 0 core.wstore b 4))]
  match sc with
  | .wait => s.mxWait c r sp sp.off retry
  | .fault cls d => s.mxFail c r cls d
  | .ready vs =>
    let ws := vs.headD 0
    match core.engRead p.win e (some 12#4) with
    | .wait =>
      let s := if r.scale.isSome then s
        else (s.dropEdges (.cmd r.cmd.site)).setMx c ((s.mxAt c).put { r with scale := some ws })
      s.mxWait c r p e retry
    | .fault cls d => s.mxFail c r cls d
    | .ready base =>
      let s := (s.dropEdges (.cmd r.cmd.site)).useRow c base (mxWf x) (32 * kb) (32 * ng)
      let b := blockBank r.bank ng kb
      let m := (List.range 32).foldl (init := s.mxAt c) fun m i =>
        m.loadRow b (mxWf x) ws i (tileRow core base (mxWf x) (32 * kb + i) (32 * ng))
      let r := { r with scale := some ws }
      k (s.setMx c (m.put r)) r

/-- Going on to the next step of an MXTM; the reads of its tiles end before the last step (R309, R328). -/
def State.mxtmNext (s : State) (c : Nat) (r : MxRun) : State :=
  let s := s.setMx c ((s.mxAt c).put { r with step := r.step + 1 })
  let s := if r.step = 146 ∧ r.entry.isSome then s.post (.tileUnpin c) else s
  s.post (if r.step = 147 then .mxCommandComplete c false else .mxtmStep c)

/-- The next of the rows 16q to 16q + 15 of an MXTM through the bank of block (kb, ng): each is a read of its own (R297,
R309). -/
def State.mxtmRow (s : State) (c : Nat) (r : MxRun) (ng kb q : Nat) : State :=
  let x := r.cmd.cmd
  let p := (s.mxtmOperands c x).1
  let core := s.coreAt c
  let i := 16 * q + r.row
  let e := tileElem p (mxAf x) i
  match core.engRead p.win e (some 12#4) with
  | .wait => s.mxWait c r p e (.mxtmStep c)
  | .fault cls d => s.mxFail c r cls d
  | .ready base =>
    let s := (s.dropEdges (.cmd r.cmd.site)).useRow c base (mxAf x) i (32 * kb)
    let m := (s.mxAt c).computeRow (mxAf x) (tileRow core base (mxAf x) i (32 * kb)) (blockBank r.bank ng kb) i kb
    if r.row = 15 then (s.setMx c m).mxtmNext c { r with row := 0 }
    else (s.setMx c (m.put { r with row := r.row + 1 })).post (.mxtmStep c)

/-- The edge of the lower core that waits for its peer's block (R311, R359). -/
def State.peerWait (s : State) (c : Nat) (r : MxRun) : State :=
  s.addEdge {
    party := .cmd r.cmd.site
    at_ := c
    kind := .peer
    core := mxPeer r.cmd.cmd
    win := 0
    level := 0
    arg := 0
    site := r.cmd.site
    retry := some (.splitBlockArrival c)
    reported := false }

/-- The rows of a block that arrived, with their marks. -/
def PeerBlock.rows (b : PeerBlock) : List (List (F32 × Bool)) :=
  (List.range 128).map fun i =>
    (List.range 32).map fun c => (b.sums.getD (32 * i + c) 0, b.marks.getD (32 * i + c) false)

/-- The promotion at the end of a column group; in a split product the upper core sends its block, and the lower core
promotes its own and then the other, for which it waits (R309, R311); no part of the step is done before both are there
(R312). -/
def State.mxtmPromote (s : State) (c : Nat) (r : MxRun) (ng : Nat) : State :=
  let x := r.cmd.cmd
  let sp := (s.mxtmOperands c x).2.2.1
  match s.mxScales c r sp with
  | .wait => s.mxWait c r sp sp.off (.mxtmStep c)
  | .fault cls d => s.mxFail c r cls d
  | .ready vs =>
    let s := s.dropEdges (.cmd r.cmd.site)
    let m := s.mxAt c
    let ws := (m.bank (blockBank r.bank ng 3)).scale
    let scs := vs.map fun sa => scaleOf sa ws
    let rows := (List.range 128).map m.bufRow
    let r := { r with scales := vs }
    if mxSplit x && decide (mxPeer x < c) then
      let lower := mxPeer x
      let block : PeerBlock := {
        src := c
        sums := rows.flatMap fun row => row.map Prod.fst
        scales := scs.map Prod.fst
        marks := (rows.zip scs).flatMap fun e => e.1.map fun v => v.2 || !e.2.2 }
      let s := s.setMx c (m.put r)
      let n := s.mxAt lower
      ((s.setMx lower { n with peer := n.peer ++ [block] }).post (.splitBlockArrival lower)).mxtmNext c r
    else if mxSplit x then
      match m.peer.find? fun b => b.src == mxPeer x with
      | none => (s.setMx c (m.put { r with peerWait := true })).peerWait c r
      | some b =>
        let t := promoteRows (m.acc r.slot) rows scs 0 ng false r.cmd
        let t := promoteRows t.1 b.rows (b.scales.map fun v => (v, true)) 0 ng true t.2
        (s.setMx c { m.setAcc r.slot t.1 with peer := m.peer.erase b }).mxtmNext c { r with cmd := t.2, peerWait := false }
    else
      let t := promoteRows (m.acc r.slot) rows scs 0 ng true r.cmd
      (s.setMx c (m.setAcc r.slot t.1)).mxtmNext c { r with cmd := t.2 }

/-- One step of the macro sequencer; after a resume among the compute steps of a block, that block is loaded again
first (R309, R312). -/
def execMxtmStep (c : Nat) (s : State) : Res :=
  .next <|
    match (s.mxAt c).run with
    | none => s
    | some r =>
      if cmdOp r.cmd.cmd ≠ 0x24 ∨ r.ended ∨ r.peerWait ∨ 148 ≤ r.step then s
      else if (r.stopped || !(s.coreAt c).portsRun) && r.row == 0 then s
      else
        let ng := r.step / 37
        let j := r.step % 37
        if j = 36 then s.mxtmPromote c r ng
        else
          let kb := j / 9
          let q := j % 9
          let go (k : State → MxRun → State) : State :=
            s.mxtmLoad c r ng kb (.mxtmStep c) fun s r => k s { r with reload := false }
          if q = 0 then go fun s r => s.mxtmNext c r
          else if r.reload then go fun s r => s.mxtmRow c r ng kb (q - 1)
          else s.mxtmRow c r ng kb (q - 1)

/-- The upper core's block arrives: the lower core, if it waits for it, makes its promotions and goes on; a stopped one
leaves its step as it is (R311, R312). -/
def execSplitBlockArrival (c : Nat) (s : State) : Res :=
  .next <|
    match (s.mxAt c).run with
    | none => s
    | some r =>
      if !r.peerWait || r.ended || r.stopped || !(s.coreAt c).portsRun then s else s.mxtmPromote c r (r.step / 37)

/-! ## MXOUT (R314) -/

/-- The format of OF (R304). -/
def outFmt (x : Wide) : Fmt :=
  match cf x 16 2 with
  | 0 => .f32 | 1 => .bf16 | 2 => .f16 | _ => .e4m3

/-- One value of an MXOUT and its events (R301, R314). -/
def outValue (x : Wide) (v : F32) : Nat × Events :=
  let f := outFmt x
  let m : Nat := if cmdMod x 6 then cf x 32 32 else 0x3F800000
  let a := Fmt.f32.decode v.toNat
  let b := Fmt.f32.decode m
  let r := match exactProduct a b with
    | none => (f.nan, 0)
    | some p => f.convert (rndOf (cf x 19 2)) p
  (r.1, fpEvents f r.1 r.2 (a.isFinite && b.isFinite))

/-- The values of element n of an MXOUT's target, in bytes, with the command's counts (R314). -/
def outElement (x : Cmd) (t : Table F32) (size n : Nat) : List Byte × Cmd :=
  let per := (outFmt x.cmd).width / 8
  let count := size / per
  (List.range count).foldl (init := ([], x)) fun p k =>
    let v := outValue x.cmd (tget 0 t (n * count + k))
    (p.1 ++ bytesOf per v.1, p.2.tally v.2)

/-- MXOUT fills its next element, waiting while its target is full; a target that takes no engine fills any more ends
it; with FREE the slot is +0 after its last read (R23, R286, R314). -/
def execMxoutElementFill (c : Nat) (s : State) : Res :=
  .next <|
    match (s.mxAt c).out with
    | none => s
    | some r =>
      let x := r.cmd.cmd
      let w := cmdDstw x
      let k := s.coreAt c
      let y := k.winAt w
      let total := 16384 * ((outFmt x).width / 8) / y.esize
      if cmdOp x ≠ 0x26 ∨ r.ended ∨ total ≤ r.step then s
      else if !y.held && !y.engineFills then s.mxFail c r 6 (winFaultArg y w .fill false 0 (if y.v then 5 else 1))
      else if y.held || !k.fillRoom w then s.addEdge (cmdFillEdge c w r.cmd.site (.mxoutElementFill c))
      else
        let s := s.dropEdges (.cmd r.cmd.site)
        let m := s.mxAt c
        let e := outElement r.cmd (m.acc r.slot) y.esize r.step
        let last := decide (total ≤ r.step + 1)
        let m := if last && cmdMod x 5 then m.setAcc r.slot [] else m
        ((s.setMx c (m.put { r with cmd := e.2, step := r.step + 1 })).fillWin c w e.1 r.cmd.site
          (issuerOf r.cmd.site)).post (if last then .mxCommandComplete c true else .mxoutElementFill c)

/-- A matrix command completes after its last step (R315). -/
def execMxCommandComplete (c : Nat) (slotSide : Bool) (s : State) : Res :=
  .next <|
    let m := s.mxAt c
    let done (r : MxRun) : Bool :=
      !r.ended && (match cmdOp r.cmd.cmd with
        | 0x21 => decide (32 ≤ r.step)
        | 0x22 => decide (cf r.cmd.cmd 75 7 < r.step)
        | 0x24 => decide (148 ≤ r.step)
        | 0x26 => decide (16384 * ((outFmt r.cmd.cmd).width / 8) / ((s.coreAt c).winAt (cmdDstw r.cmd.cmd)).esize
            ≤ r.step)
        | _ => true)
    ((if slotSide then m.out.toList else m.load ++ m.run.toList).filter done).foldl (init := s) fun s r =>
      s.mxEnd c r slotSide

end Sys2Proof.Machine
end

