-- ==== Sys2Proof/Machine/Rings.lean ====
section
/-! DEFINITION. Encounter rings: segments, beats, meetings, encounters, completion tokens, the ring port's commands
(R318 to R341). -/

namespace Sys2Proof.Machine

open Sys2Proof

/-- L of a segment (R318, R335). -/
def Ctrl.length (x : Ctrl) : Nat := 2 ^ (x.len.toNat + 2)
/-- The first core of a controller's segment (R318). -/
def ctrlFirst (k : Nat) : Nat := k / 64 * 256 + k / 4 % 16 * 16 + 4 * (k % 4)
/-- The cores of a controller's segment, by position (R318). -/
def State.segCores (s : State) (k : Nat) : List Nat := (List.range (s.ctrlAt k).length).map (ctrlFirst k + ·)
/-- The controller at a core's column, for a segment that starts there (R318). -/
def ctrlHere (c : Nat) : Nat := clusterOf c * 64 + rowOf c * 4 + colOf c / 4

/-- EID of a match entry (R323). -/
def entEid (e : BitVec 32) : BitVec 8 := bits e.toNat 0 8
/-- WID of a match entry (R323). -/
def entWid (e : BitVec 32) : BitVec 8 := bits e.toNat 8 8
/-- OWN of a match entry (R323). -/
def entOwn (e : BitVec 32) : Nat := e.toNat / 2 ^ 16 % 16
/-- SLOT of a match entry (R323). -/
def entSlot (e : BitVec 32) : Bool := e.getLsbD 20
/-- TGT of a match entry (R323). -/
def entTgt (e : BitVec 32) : Nat := e.toNat / 2 ^ 21 % 64
/-- OFF of a match entry (R323). -/
def entOff (e : BitVec 32) : Bool := e.getLsbD 27

/-- The entries of a table with OFF = 0, with their indices; unlisted entries have OFF = 1. -/
def Ctrl.entries (x : Ctrl) : List (Nat × BitVec 32) := x.table.filter fun e => !entOff e.2

/-- The ring state of a core. -/
def State.ringAt (s : State) (c : Nat) : RingCore := (s.coreAt c).ring
/-- Replacing the ring state of a core. -/
def State.setRing (s : State) (c : Nat) (r : RingCore) : State := s.setCore c { s.coreAt c with ring := r }

/-- The windows a ring family has at a core: tile and scale (R319). -/
def Ctrl.family (x : Ctrl) (west : Bool) : Nat × Nat := if west then (x.wwin, x.wswin) else (x.ewin, x.eswin)

/-- The windows a ring command fills: an RGPUT its family's at this core (R337, R434). -/
def State.ringTargets (s : State) (c : Nat) (cmd : Wide) : List Nat :=
  if cmdOp cmd = 0x63 then
    match s.segmentOf c with
    | some k => let f := (s.ctrlAt k).family (cmdMod cmd 0); [f.1, f.2]
    | none => []
  else []

/-- A ring command ends in an unrecoverable fault, its targets poisoned (R338, R351, R352). -/
def State.ringFail (s : State) (c : Nat) (cmd : Cmd) (cls : Nat) (detail : Word) : State :=
  (s.setRing c { s.ringAt c with run := none, buf := [] }).failCommand c cmd .ring (s.ringTargets c cmd.cmd) cls detail 0
    false

/-- A ring fault: it ends the command, and its segment's sweep with it (R338). Marked DEDUCED, log 33. -/
def State.ringFault (s : State) (c : Nat) (cmd : Cmd) (why : Nat) : State := s.ringFail c cmd 7 (BitVec.ofNat 64 why)

/-- A ring command completes (R339). -/
def State.ringEnd (s : State) (c : Nat) (cmd : Cmd) : State :=
  (s.setRing c { s.ringAt c with run := none, buf := [] }).endCommand c cmd .ring false false false

/-- The head of the ring port, if it is a command of an opcode and none runs (R335). -/
def State.ringHead (s : State) (c op : Nat) : Option Cmd :=
  if (s.ringAt c).run.isNone then (s.coreAt c).headOf .ring op else none

/-- Whether a window may be one of a segment's (R319). -/
def Win.ringOk (w : Win) (m : WinMode) (esz : BitVec 4) : Bool :=
  w.v && w.mode == m && w.esz == esz && decide (2 ≤ w.cap.toNat)

/-- Whether the four ring windows of a core are fit for a segment (R319). Marked DEDUCED, log 33. -/
def Core.ringWindowsOk (k : Core) (x : Ctrl) : Bool :=
  (k.winAt x.ewin).ringOk .ringEast 12 && (k.winAt x.wwin).ringOk .ringWest 12
    && (k.winAt x.eswin).ringOk .ringEast 7 && (k.winAt x.wswin).ringOk .ringWest 7

/-- Whether a core's windows are fit for a segment: its ring windows, and its completion window (R319, R338). -/
def Core.segmentOk (k : Core) (x : Ctrl) : Bool := k.ringWindowsOk x && (k.winAt x.cwin).doneOk

/-- Whether the windows of every core of a segment are fit for it (R319, R338). -/
def State.windowsOk (s : State) (k : Nat) : Bool := (s.segCores k).all fun c => (s.coreAt c).segmentOk (s.ctrlAt k)

/-- A sweep or rotation ends in a ring fault: no further beat or meeting happens, the tokens that are still to come come
(R338). -/
def State.sweepFault (s : State) (k : Nat) (cmd : Cmd) (why : Nat) : State :=
  (s.setCtrl k { s.ctrlAt k with run := .idle, moving := false, boundary := false, recov := false, meet := [] }).ringFault
    (ctrlFirst k) cmd why

/-- The command of a controller's sweep or rotation. -/
def Ctrl.command (x : Ctrl) : Option Cmd :=
  match x.run with
  | .idle => none
  | .sweep cmd | .rotate cmd _ => some cmd

/-- Whether a controller's segment runs a sweep or a rotation. -/
def Ctrl.running (x : Ctrl) : Bool := x.run != .idle

/-- The controllers of a row whose segments overlap the columns of a new one (R337). -/
def State.overlapping (s : State) (k len : Nat) : List Nat :=
  (List.range 4).filterMap fun q =>
    let j := k / 4 * 4 + q
    let x := s.ctrlAt j
    if x.seg && decide (4 * q < 4 * (k % 4) + len ∧ 4 * (k % 4) < 4 * q + x.length) then some j else none

/-- The controller RGCFG leaves (R337): the match table is kept. Marked DEDUCED, log 34. -/
def Ctrl.configure (x : Ctrl) (cmd : Wide) (group : Option Nat) : Ctrl :=
  { Ctrl.init with
    seg := true
    len := bits cmd.toNat 32 2
    flow := cmdMod cmd 0
    ewin := cf cmd 36 4
    wwin := cf cmd 40 4
    eswin := cf cmd 44 4
    wswin := cf cmd 48 4
    cwin := cf cmd 52 4
    rlim := bits cmd.toNat 56 8
    group := group
    table := x.table }

/-- Clearing the tiles, encounters and slot holders of a core (R337, R341). Marked DEDUCED, log 34. -/
def State.clearRingCore (s : State) (c : Nat) : State :=
  s.setRing c { s.ringAt c with east := none, west := none, queue := [], holders := Vector.replicate 2 none }

/-- RGCFG (R337, R338). Marked DEDUCED, log 34. -/
def execRgcfg (c : Nat) (s : State) : Res :=
  .next <|
    match s.ringHead c 0x61 with
    | none => s
    | some cmd =>
      let s := s.takeHead c .ring
      let k := ctrlHere c
      let x := (s.ctrlAt k).configure cmd.cmd (s.coreAt c).group
      let cores := (List.range x.length).map (c + ·)
      let olds := s.overlapping k x.length
      if olds.any fun j => (s.ctrlAt j).running then s.ringFault c cmd 2
      else if !(cores.all fun j => (s.coreAt j).group == (s.coreAt c).group) then s.ringFault c cmd 7
      else if !(cores.all fun j => (s.coreAt j).segmentOk x) then s.ringFault c cmd 3
      else
        let s := olds.foldl (init := s) fun s j => s.setCtrl j { Ctrl.init with table := (s.ctrlAt j).table }
        let s := cores.foldl (init := s) fun s j => s.clearRingCore j
        (s.setCtrl k x).ringEnd c cmd

/-- Whether a core is the first core of a configured segment (R338). -/
def State.isFirst (s : State) (c : Nat) : Bool := s.segmentOf c == some (ctrlHere c) && decide (ctrlFirst (ctrlHere c) = c)

/-- Starting a command of a segment's first core, with WHY 1 elsewhere (R338). -/
def State.firstCommand (s : State) (c op : Nat) (k : State → Cmd → State) : State :=
  match s.ringHead c op with
  | none => s
  | some cmd =>
    let s := s.takeHead c .ring
    if s.isFirst c then k (s.setRing c { s.ringAt c with run := some cmd, buf := [] }) cmd else s.ringFault c cmd 1

/-- The edge of a ring command's read (R23, R27). -/
def State.ringWait (s : State) (c w o : Nat) (cmd : Cmd) (retry : Instr) : State :=
  s.addEdge (cmdReadEdge c w o cmd.site retry)

/-- RGMT reads its next element; after the last it ends with the shrink (R23, R337). DONEB of the command counts them.
-/
def State.rgmtRead (s : State) (c : Nat) (cmd : Cmd) : State :=
  let n := cf cmd.cmd 42 11
  let o := cmd.doneb.toNat
  let w := cmdSrcw cmd.cmd
  let k := s.coreAt c
  if n ≤ o then s.cmdShrink c w n cmd.site (.rgmt c) (fun d => s.ringFail c cmd 6 d) fun s => s.ringEnd c cmd
  else match k.engRead w o (some 0#4) with
  | .wait => s.ringWait c w o cmd (.rgmt c)
  | .fault cls d => s.ringFail c cmd cls d
  | .ready base =>
    let s := (s.dropEdges (.cmd cmd.site)).useRows c base 4
    let j := ctrlHere c
    let x := s.ctrlAt j
    let v := BitVec.ofNat 32 (ofBytes (tgets 0 k.wstore base 4))
    let s := s.setCtrl j { x with table := tput offEntry x.table (cf cmd.cmd 32 10 + o) (v &&& 0x0FFFFFFF#32) }
    (s.setRing c { s.ringAt c with run := some { cmd with doneb := cmd.doneb + 1 } }).post (.rgmt c)

/-- RGMT (R337, R338). -/
def execRgmt (c : Nat) (s : State) : Res :=
  .next <|
    match (s.ringAt c).run with
    | some cmd => if cmdOp cmd.cmd = 0x62 then s.rgmtRead c cmd else s
    | none => s.firstCommand c 0x62 fun s cmd =>
      if s.windowsOk (ctrlHere c) then s.rgmtRead c cmd else s.ringFault c cmd 3

/-- A unit scale element (R337). -/
def unitScale : List Byte := (List.range 128).flatMap fun _ => bytesOf 4 0x3F800000

/-- RGPUT has its bytes: the tile and its scale are filled, and the tile takes its id (R337). -/
def State.rgputFill (s : State) (c : Nat) (cmd : Cmd) (x : Ctrl) : State :=
  let f := x.family (cmdMod cmd.cmd 0)
  let r := s.ringAt c
  let id := some (bits cmd.cmd.toNat 24 8)
  let room (w : Nat) : Bool := !(s.winAt c w).held && (s.coreAt c).fillRoom w
  if room f.1 && room f.2 then
    let scale := if cmdMod cmd.cmd 1 then unitScale else r.buf.drop 16384
    let who := issuerOf cmd.site
    let s := s.setRing c (if cmdMod cmd.cmd 0 then { r with west := id } else { r with east := id })
    ((s.fillWin c f.1 (r.buf.take 16384) cmd.site who).fillWin c f.2 scale cmd.site who).ringEnd c cmd
  else s.addEdge (cmdFillEdge c (if room f.1 then f.2 else f.1) cmd.site (.rgput c))

/-- RGPUT copies its next source element, the tile's first, and shrinks its window (R286, R337); poison there is
followed to its targets, any other fault there is WHY 4, and a sweep that starts under it is WHY 2 (R338, R352). Marked
DEDUCED, log 33. -/
def State.rgputRead (s : State) (c : Nat) (cmd : Cmd) : State :=
  match s.segmentOf c with
  | none => s.ringFault c cmd 1
  | some j =>
    let r := s.ringAt c
    let need := if cmdMod cmd.cmd 1 then 16384 else 16384 + 512
    if (s.ctrlAt j).running then s.ringFault c cmd 2
    else if !s.windowsOk j then s.ringFault c cmd 3
    else if need ≤ r.buf.length then s.rgputFill c cmd (s.ctrlAt j)
    else
      let w := if r.buf.length < 16384 then cmdSrcw cmd.cmd else cmdDstw cmd.cmd
      let k := s.coreAt c
      match k.engRead w 0 none with
      | .wait => s.ringWait c w 0 cmd (.rgput c)
      | .fault cls d => if cls = 5 then s.ringFail c cmd 5 d else s.ringFault c cmd 4
      | .ready base =>
        let bs := tgets 0 k.wstore base (k.winAt w).esize
        let go := (s.dropEdges (.cmd cmd.site)).useRows c base bs.length
        go.cmdShrink c w 1 cmd.site (.rgput c) (fun _ => s.ringFault c cmd 4) fun s =>
          (s.setRing c { r with buf := r.buf ++ bs }).post (.rgput c)

/-- RGPUT (R337, R338). -/
def execRgput (c : Nat) (s : State) : Res :=
  .next <|
    match (s.ringAt c).run with
    | some cmd => if cmdOp cmd.cmd = 0x63 then s.rgputRead c cmd else s
    | none =>
      match s.ringHead c 0x63 with
      | none => s
      | some cmd =>
        let s := s.takeHead c .ring
        match s.segmentOf c with
        | none => s.ringFault c cmd 1
        | some j =>
          let x := s.ctrlAt j
          let f := x.family (cmdMod cmd.cmd 0)
          if x.running then s.ringFault c cmd 2
          else if !s.windowsOk j then s.ringFault c cmd 3
          else if (s.winAt c f.1).ext ≠ 0 ∨ (s.winAt c f.2).ext ≠ 0 then s.ringFault c cmd 4
          else (s.setRing c { s.ringAt c with run := some cmd, buf := [] }).post (.rgput c)

/-! ## Sweeps -/

/-- The position of the core of a segment that holds a tile of a family, if some core does (R337). -/
def State.tilePos (s : State) (k : Nat) (west : Bool) (id : BitVec 8) : Option Nat :=
  let ids := (s.segCores k).map fun c => if west then (s.ringAt c).west else (s.ringAt c).east
  let i := ids.findIdx (· == some id)
  if i < ids.length then some i else none

/-- Whether no two tiles of a family share an id (R337). -/
def State.idsDistinct (s : State) (k : Nat) (west : Bool) : Bool :=
  ((s.segCores k).filterMap fun c => if west then (s.ringAt c).west else (s.ringAt c).east).Nodup

/-- Whether an entry's owner is one of the two cores at which its pair meets (R321, R337). -/
def ownerOk (len a b own : Nat) : Bool :=
  let d := (b + len - a) % len
  let m := (a + (d + 1) / 2) % len
  decide (own = m ∨ own = (m + len / 2) % len)

/-- The checks of an RGGO (R337). Marked DEDUCED, log 33. -/
def State.sweepOk (s : State) (k : Nat) : Bool :=
  let x := s.ctrlAt k
  let es := x.entries
  s.idsDistinct k false && s.idsDistinct k true
    && (es.all fun e =>
      match s.tilePos k false (entEid e.2), s.tilePos k true (entWid e.2) with
      | some a, some b => ownerOk x.length a b (entOwn e.2)
      | _, _ => false)
    && es.all fun e => es.all fun f =>
      decide (e.1 = f.1)
        || (!(entEid e.2 == entEid f.2 && entWid e.2 == entWid f.2)
          && (decide (entTgt e.2 ≠ entTgt f.2) || (decide (entOwn e.2 = entOwn f.2) && entSlot e.2 == entSlot f.2)))

/-- The targets an RGGO sets up: one count for each that an entry names (R325). -/
def sweepTargets (es : List (Nat × BitVec 32)) : Table Target :=
  es.foldl (init := []) fun t e =>
    let i := entTgt e.2
    let x := tget Target.init t i
    tput Target.init t i {
      count := x.count + 1, live := true, fault := false, defs := 0, own := entOwn e.2, slot := entSlot e.2,
      posted := false }

/-- Starting a sweep whose checks passed (R325, R337, R340). -/
def State.startSweep (s : State) (c : Nat) (cmd : Cmd) : State :=
  let k := ctrlHere c
  let x := s.ctrlAt k
  let cores := s.segCores k
  let s := s.setCtrl k { x with
    targets := sweepTargets x.entries
    deferral := []
    beat := 0
    rev := 0
    recov := false
    swp := x.swp + 1
    run := .sweep cmd
    moving := false
    boundary := false
    meet := cores
    site := cmd.site
    goSite := cmd.site }
  cores.foldl (init := s) fun s j =>
    (s.setRing j { s.ringAt j with enc := 0, defs := 0, uns := 0 }).post (.meeting j)

/-- Whether a core of a segment has a slot that a target holds (R337). -/
def State.slotsHeld (s : State) (k : Nat) : Bool := (s.segCores k).any fun c => (s.ringAt c).holders.toList.any Option.isSome

/-- A wait edge of a ring hold at a core: on which core, and why (R334). -/
def ringEdge (at_ core why : Nat) (arg : Nat) (site : BitVec 46) : Edge where
  party := .cmd site
  at_ := at_
  kind := .ring
  core := core
  win := why
  level := 0
  arg := BitVec.ofNat 32 arg
  site := site
  retry := none
  reported := false

/-- RGGO's wait for slots, then its checks (R337). -/
def State.rggoTry (s : State) (c : Nat) (cmd : Cmd) : State :=
  let k := ctrlHere c
  if s.slotsHeld k then s.addEdge (ringEdge c c 3 0 cmd.site)
  else
    let s := s.dropEdges (.cmd cmd.site)
    if !s.windowsOk k then s.ringFault c cmd 3
    else if !s.sweepOk k then s.ringFault c cmd 5
    else s.startSweep c cmd

/-- RGGO (R337). -/
def execRggo (c : Nat) (s : State) : Res :=
  .next <|
    match (s.ringAt c).run with
    | some cmd =>
      if cmdOp cmd.cmd = 0x64 ∧ !(s.ctrlAt (ctrlHere c)).running ∧ (s.coreAt c).portsRun then s.rggoTry c cmd else s
    | none => s.firstCommand c 0x64 fun s cmd => s.rggoTry c cmd

/-- RGROT: beats with no meetings (R337). -/
def execRgrot (c : Nat) (s : State) : Res :=
  .next <| s.firstCommand c 0x65 fun s cmd =>
    let k := ctrlHere c
    let x := s.ctrlAt k
    if !s.windowsOk k then s.ringFault c cmd 3
    else
      (s.setCtrl k { x with
        beat := 0, rev := 0, recov := false, run := .rotate cmd (cf cmd.cmd 32 16), moving := false,
        boundary := false, meet := [], site := cmd.site }).post (.beatStart k)

/-- Emptying the ring windows of a core (R337). -/
def State.drainRingWindows (s : State) (c : Nat) (x : Ctrl) (cmd : Cmd) : State :=
  [x.ewin, x.wwin, x.eswin, x.wswin].foldl (init := s) fun s w =>
    if (s.winAt c w).v then s.shrinkWin c w (s.winAt c w).ext cmd.site none else s

/-- The first held ring window of a segment, with its core (R363). -/
def State.heldRing (s : State) (k : Nat) : Option (Nat × Nat) :=
  let x := s.ctrlAt k
  ((s.segCores k).flatMap fun c => [x.ewin, x.wwin, x.eswin, x.wswin].map fun w => (c, w)).find? fun e =>
    (s.winAt e.1 e.2).held

/-- RGDRN that has started: it waits while one of the windows it shrinks is held (R27, R337, R338, R363). -/
def State.drainSegment (s : State) (c : Nat) (cmd : Cmd) : State :=
  let k := ctrlHere c
  let x := s.ctrlAt k
  match s.heldRing k with
  | some e => s.addEdge { cmdShrinkEdge e.1 e.2 0 cmd.site (.rgdrn c) with at_ := c }
  | none =>
    let s := s.dropEdges (.cmd cmd.site)
    if !s.windowsOk k then s.ringFault c cmd 3
    else
      let s := (s.segCores k).foldl (init := s) fun s j =>
        let s := s.drainRingWindows j x cmd
        s.setRing j { s.ringAt j with east := none, west := none }
      (s.setCtrl k { s.ctrlAt k with targets := [], deferral := [] }).ringEnd c cmd

/-- RGDRN (R337). -/
def execRgdrn (c : Nat) (s : State) : Res :=
  .next <|
    match (s.ringAt c).run with
    | some cmd => if cmdOp cmd.cmd = 0x66 then s.drainSegment c cmd else s
    | none => s.firstCommand c 0x66 fun s cmd => s.drainSegment c cmd

/-! ## Beats (R320, R322, R328) -/

/-- Whether a tile at a core is pinned (R328). -/
def RingCore.pinned (r : RingCore) : Bool := r.queue.any fun q => !q.unpinned

/-- The party a hold waits on, as the edge's reason and argument: 0 a pinned tile and the slot of its encounter, 32
where none has it yet (R334). -/
def RingCore.pinArg (r : RingCore) : Nat :=
  match r.queue.find? fun q => !q.unpinned with
  | some q => q.slot.getD 32
  | none => 32

/-- The entry a meeting finds: its index and the entry (R326). -/
def State.meets (s : State) (k c : Nat) : Option (Nat × BitVec 32) :=
  let x := s.ctrlAt k
  let r := s.ringAt c
  match r.east, r.west with
  | some e, some w =>
    x.entries.find? fun n =>
      entEid n.2 == e && entWid n.2 == w && decide (entOwn n.2 = c - ctrlFirst k)
        && (!x.recov || x.deferral.contains n.1)
  | _, _ => none

/-- Whether another target than an entry's holds its slot (R325). -/
def RingCore.blocks (r : RingCore) (e : BitVec 32) : Bool :=
  let holder := r.holders[(entSlot e).toNat]'(Bool.toNat_lt _)
  holder.isSome && holder != some (entTgt e)

/-- Whether a core's meeting is due, and its target blocked. -/
def State.blockedMeeting (s : State) (k c : Nat) : Bool :=
  (s.ctrlAt k).meet.contains c && (s.meets k c).any fun e => (s.ringAt c).blocks e.2

/-- Whether a core's meeting is due, with an entry, and its queue is full. -/
def State.fullMeeting (s : State) (k c : Nat) : Bool :=
  (s.ctrlAt k).meet.contains c && (s.meets k c).isSome && decide (4 ≤ (s.ringAt c).queue.length)

/-- The holds of a core of a segment, as edges (R334): a pinned tile 0, a strict-mode block 1, a full queue 2. -/
def State.holdEdges (s : State) (k c : Nat) : List Edge :=
  let x := s.ctrlAt k
  let r := s.ringAt c
  (if r.pinned then [ringEdge c c 0 r.pinArg x.site] else [])
    ++ (if s.blockedMeeting k c then [ringEdge c c 1 0 x.site] else [])
    ++ (if s.fullMeeting k c then [ringEdge c c 2 0 x.site] else [])

/-- The edges of a beat that waits: each core's holds, and every other core's wait on a core that holds (R334). -/
def State.beatEdges (s : State) (k : Nat) : List Edge :=
  let x := s.ctrlAt k
  let cores := s.segCores k
  let held := cores.filter fun c => !(s.holdEdges k c).isEmpty
  (held.flatMap fun c => s.holdEdges k c)
    ++ held.flatMap fun h => (cores.filter (· != h)).map fun c => ringEdge c h 15 0 x.site

/-- A tile of the moving family on its way: where it lands, its id, its bytes and its scale's. -/
structure Moving where
  src : Nat
  dst : Nat
  id : BitVec 8
  tile : List Byte
  scale : List Byte

/-- The tiles a beat sends (R319, R320). -/
def State.movingTiles (s : State) (k : Nat) : List Moving :=
  let x := s.ctrlAt k
  let west := decide (x.beat % 2 = 1)
  let f := x.family west
  let len := x.length
  (List.range len).filterMap fun p =>
    let c := ctrlFirst k + p
    let core := s.coreAt c
    match (if west then core.ring.west else core.ring.east) with
    | none => none
    | some id =>
      some {
        src := c
        dst := ctrlFirst k + (if west then p + len - 1 else p + 1) % len
        id := id
        tile := core.readElem (core.winAt f.1) 0
        scale := core.readElem (core.winAt f.2) 0 }

/-- One tile lands and is shrunk at its sender (R322). -/
def State.landTile (s : State) (f : Nat × Nat) (site : BitVec 46) (m : Moving) : State :=
  ((s.fillWin m.dst f.1 m.tile site none).fillWin m.dst f.2 m.scale site none)

/-- What a landing waits for: windows held at its sender or without their element there, windows held or without room
where it lands (R23, R27, R363). -/
def State.landingEdges (s : State) (k : Nat) (f : Nat × Nat) (site : BitVec 46) (m : Moving) : List Edge :=
  [f.1, f.2].flatMap fun w =>
    (if (s.winAt m.src w).held then [cmdShrinkEdge m.src w 1 site (.tileLanding k)]
      else if (s.winAt m.src w).ext = 0 then [cmdReadEdge m.src w 0 site (.tileLanding k)] else [])
      ++ (if (s.winAt m.dst w).held || !(s.coreAt m.dst).fillRoom w then [cmdFillEdge m.dst w site (.tileLanding k)] else [])

/-- A beat that reads a poisoned tile ends its sweep or rotation, and the windows the tile was to land in are poisoned
(R352). Marked DEDUCED, log 33. -/
def State.sweepPoison (s : State) (k : Nat) (f : Nat × Nat) (cmd : Cmd) (m : Moving) (x : Win) : State :=
  let s := s.setCtrl k { s.ctrlAt k with run := .idle, moving := false, boundary := false, recov := false, meet := [] }
  (s.poisonAll m.dst [f.1, f.2] 5 cmd.site (poisonDetail x)).ringFail (ctrlFirst k) cmd 5 (poisonDetail x)

/-- The first poisoned window that a beat reads, with its tile (R29, R352). -/
def State.poisonedMove (s : State) (f : Nat × Nat) (ms : List Moving) : Option (Moving × Win) :=
  (ms.flatMap fun m => [f.1, f.2].map fun w => (m, s.winAt m.src w)).find? fun e => !e.2.held && e.2.poisonedAt 0

/-- The tiles of a beat land (R322): the beat is counted, a progress event at every core, and meetings follow, or the
end of a revolution (R331). -/
def execTileLanding (k : Nat) (s : State) : Res :=
  .next <|
    let x := s.ctrlAt k
    let west := decide (x.beat % 2 = 1)
    let f := x.family west
    let ms := s.movingTiles k
    let cores := s.segCores k
    let waits := ms.flatMap fun m => s.landingEdges k f x.site m
    if !x.moving then s
    else match s.poisonedMove f ms, x.command with
    | some e, some cmd => s.sweepPoison k f cmd e.1 e.2
    | _, _ =>
      if !waits.isEmpty then waits.foldl (init := s) fun s e => s.addEdge e
      else
        let s := s.dropRetry (.cmd x.site) (.tileLanding k)
        let s := ms.foldl (init := s) fun s m => s.landTile f x.site m
        let s := ms.foldl (init := s) fun s m =>
          (s.shrinkWin m.src f.1 1 x.site none).shrinkWin m.src f.2 1 x.site none
        let s := cores.foldl (init := s) fun s c =>
          let id := (ms.find? fun m => m.dst == c).map Moving.id
          let r := s.ringAt c
          (s.setRing c (if west then { r with west := id } else { r with east := id })).progress c
        let beat := x.beat + 1
        match x.run with
        | .idle => s.setCtrl k { s.ctrlAt k with moving := false }
        | .rotate cmd n =>
          let s := s.setCtrl k { s.ctrlAt k with moving := false, beat := beat, run := .rotate cmd (n - 1) }
          if n ≤ 1 then
            (s.setCtrl k { s.ctrlAt k with run := .idle }).ringEnd (ctrlFirst k) cmd
          else s.post (.beatStart k)
        | .sweep _ =>
          if beat % (2 * x.length) = 0 then
            (s.setCtrl k { s.ctrlAt k with moving := false, beat := beat, boundary := true }).post (.sweepEnd k)
          else
            cores.foldl (init := s.setCtrl k { s.ctrlAt k with moving := false, beat := beat, meet := cores })
              fun s c => s.post (.meeting c)

/-! ## Meetings (R326) -/

/-- A count that stops at its top. -/
def bump16 (v : BitVec 16) : BitVec 16 := if v = 0xFFFF#16 then v else v + 1

/-- A meeting becomes an encounter (R326, R327). -/
def State.encounter (s : State) (k c i : Nat) (e : BitVec 32) : State :=
  let x := s.ctrlAt k
  let r := s.ringAt c
  let q : Encounter := {
    entry := i, eid := entEid e, wid := entWid e, recov := x.recov, rev := x.rev, slot := none, retired := false,
    served := false, mxDone := false, faulted := false, unpinned := false }
  let s := s.setRing c { r with
    queue := r.queue ++ [q]
    enc := bump16 r.enc
    holders := r.holders.set (entSlot e).toNat (some (entTgt e)) (Bool.toNat_lt _) }
  (s.setCtrl k { x with deferral := x.deferral.filter (· != i), meet := x.meet.filter (· != c) }).post
    (.encounterDelivery c)

/-- A meeting is deferred in flow mode (R326). -/
def State.defer (s : State) (k c i : Nat) (e : BitVec 32) : State :=
  let x := s.ctrlAt k
  let r := s.ringAt c
  let t := tget Target.init x.targets (entTgt e)
  let s := s.setRing c { r with defs := bump16 r.defs }
  s.setCtrl k { x with
    deferral := if x.deferral.contains i then x.deferral else x.deferral ++ [i]
    targets := tput Target.init x.targets (entTgt e) { t with defs := if t.defs = 255#8 then t.defs else t.defs + 1 }
    meet := x.meet.filter (· != c) }

/-- A core evaluates its meeting (R326). -/
def execMeeting (c : Nat) (s : State) : Res :=
  .next <|
    match s.segmentOf c with
    | none => s
    | some k =>
      let x := s.ctrlAt k
      if !x.meet.contains c then s
      else
        match s.meets k c with
        | none => s.setCtrl k { x with meet := x.meet.filter (· != c) }
        | some (i, e) =>
          let r := s.ringAt c
          if !r.blocks e && decide (r.queue.length < 4) then s.encounter k c i e
          else if x.flow then s.defer k c i e
          else s

/-- The DATA field of an encounter's event word (R327). -/
def encounterData (q : Encounter) (e : BitVec 32) : BitVec 32 :=
  BitVec.ofNat 32 (q.rev % 256 * 2 ^ 24 + q.wid.toNat * 2 ^ 16 + q.eid.toNat * 2 ^ 8 + (if q.recov then 128 else 0)
    + (if entSlot e then 64 else 0) + entTgt e)

/-- The oldest undelivered encounter of a core is delivered to its lowest bound slot of kind ring (R327). -/
def execEncounterDelivery (c : Nat) (s : State) : Res :=
  .next <|
    let r := s.ringAt c
    let i := r.queue.findIdx fun q => q.slot.isNone
    match r.queue[i]?, (s.coreAt c).boundTo (sourceKey 3 0) with
    | some q, some t =>
      if (s.coreAt c).stop != .none then s
      else
        let word := eventWord (encounterData q (s.matchEntry c q.entry)) 1 3 q.entry
        (s.setRing c { r with queue := r.queue.set i { q with slot := some t } }).activate c t word
    | _, _ => s

/-- Tiles are unpinned once the MXTM that serves their encounter has made its last read, or their task retires with it
unserved (R328). -/
def execTileUnpin (c : Nat) (s : State) : Res :=
  .next <|
    let r := s.ringAt c
    let past (q : Encounter) : Bool := match (s.mxAt c).run with
      | some m => m.entry == some q.entry && decide (147 ≤ m.step)
      | none => false
    s.setRing c { r with queue := r.queue.map fun q =>
      if (q.served && !q.mxDone && past q) || (q.retired && !q.served) then { q with unpinned := true } else q }

/-- Whether an encounter has finished (R329). -/
def Encounter.finished (q : Encounter) : Bool := q.retired && (!q.served || q.mxDone)

/-- A completion token's word (R330). -/
def Ctrl.tokenWord (x : Ctrl) (i : Nat) (t : Target) : Word :=
  BitVec.ofNat 64 (x.swp.toNat * 2 ^ 48 + t.defs.toNat * 2 ^ 40 + (if t.fault then 128 else 0)
    + (if t.slot then 64 else 0) + i)

/-- One encounter leaves the queue: its target's count falls, and at zero its token is due (R329, R330). -/
def State.finishOne (s : State) (c : Nat) (q : Encounter) : State :=
  let r := s.ringAt c
  let s := s.setRing c { r with uns := if q.served then r.uns else bump16 r.uns }
  match s.segmentOf c with
  | none => s
  | some k =>
    let x := s.ctrlAt k
    let i := entTgt (tget offEntry x.table q.entry)
    let t := tget Target.init x.targets i
    if !t.live then s
    else
      let t : Target := { t with count := t.count - 1, fault := t.fault || q.faulted }
      let due := decide (t.count = 0) && !t.posted
      let t : Target := { t with posted := t.posted || due }
      let x := { x with targets := tput Target.init x.targets i t }
      let x := if due then { x with tokens := x.tokens ++ [(ctrlFirst k + t.own, x.tokenWord i t, x.goSite)] } else x
      let s := s.setCtrl k x
      if due then (s.post (.completionTokenFill k)).post (.sweepEnd k) else s

/-- Encounters whose task has retired and whose MXTM has completed finish (R329). -/
def execEncounterFinish (c : Nat) (s : State) : Res :=
  .next <|
    let r := s.ringAt c
    let done := r.queue.filter Encounter.finished
    done.foldl (init := s.setRing c { r with queue := r.queue.filter fun q => !q.finished }) fun s q => s.finishOne c q

/-- Completion tokens are filled, each waiting for room in its owner's window; one whose window is no longer fit is
lost, and ends a sweep (R329, R338). Marked DEDUCED, log 33. -/
def execCompletionTokenFill (k : Nat) (s : State) : Res :=
  .next <|
    let x := s.ctrlAt k
    x.tokens.foldl (init := s) fun s t =>
      let y := s.ctrlAt k
      let w := (s.coreAt t.1).winAt y.cwin
      if !w.held && !w.doneOk then
        let s := s.setCtrl k { y with tokens := y.tokens.erase t }
        match y.command with
        | some cmd => s.sweepFault k cmd 3
        | none => s
      else if w.held || !(s.coreAt t.1).fillRoom y.cwin then
        s.addEdge (cmdFillEdge t.1 y.cwin t.2.2 (.completionTokenFill k))
      else
        ((s.setCtrl k { y with tokens := y.tokens.erase t }).dropEdge
          (cmdFillEdge t.1 y.cwin t.2.2 (.completionTokenFill k))).fillWin t.1 y.cwin (bytesOf 8 t.2.1.toNat) t.2.2 none

/-- The end of a revolution: the sweep ends, faults on RLIM, or goes on with a recovery revolution (R331, R338). -/
def execSweepEnd (k : Nat) (s : State) : Res :=
  .next <|
    let x := s.ctrlAt k
    match x.run with
    | .sweep cmd =>
      if !x.boundary then s
      else if x.deferral.isEmpty then
        if x.targets.all fun t => decide (t.2.count = 0) then
          (s.setCtrl k { x with run := .idle, boundary := false, recov := false }).ringEnd (ctrlFirst k) cmd
        else s
      else if x.rlim.toNat ≤ x.rev then s.sweepFault k cmd 6
      else
        let cores := s.segCores k
        cores.foldl (init := s.setCtrl k { x with boundary := false, rev := x.rev + 1, recov := true, meet := cores })
          fun s c => s.post (.meeting c)
    | .idle | .rotate _ _ => s

/-- A segment is unconfigured: its sweep or rotation ends without a report, its encounters, pins and tokens go (R341).
-/
def State.unconfigure (s : State) (k : Nat) : State :=
  let x := s.ctrlAt k
  if x.seg then
    let s := x.tokens.foldl (init := s.dropEdges (.cmd x.site)) fun s t => s.dropEdges (.cmd t.2.2)
    let s := (s.segCores k).foldl (init := s) fun s c =>
      (s.clearRingCore c).setRing c { (s.clearRingCore c).ringAt c with
        run := match (s.ringAt c).run with
          | some r => if cmdOp r.cmd = 0x64 ∨ cmdOp r.cmd = 0x65 then none else some r
          | none => none }
    s.setCtrl k { Ctrl.init with table := x.table }
  else s

/-- The segments that contain a core of a list. -/
def State.segmentsOf (s : State) (cores : List Nat) : List Nat := (cores.filterMap fun c => s.segmentOf c).eraseDups

end Sys2Proof.Machine
end

