-- ==== Sys2Proof/Machine/Windows.lean ====
section
/-! DEFINITION. The window instructions, their remote forms, and the retries of waiting operations (R20 to R29, R115 to
R122, R233, R433). -/

namespace Sys2Proof.Machine

open Sys2Proof

/-- The kind of an operation. -/
def WinOp.kind : WinOp → OpKind
  | .fill _ => .fill | .read _ => .read | .update _ _ => .update | .shrink _ => .shrink | .query _ => .query

/-- The offset or count of an operation; a fill and a query have none (R28). -/
def WinOp.arg : WinOp → BitVec 32
  | .fill _ | .query _ => 0
  | .read o => o
  | .update o _ => o
  | .shrink n => n

/-- Whether an operation is a fill. -/
def WinOp.isFill : WinOp → Bool
  | .fill _ => true
  | .read _ | .update _ _ | .shrink _ | .query _ => false

/-- Whether an operation is a release when a task performs it (R262). -/
def WinOp.releases : WinOp → Bool
  | .fill _ | .update _ _ | .shrink _ => true
  | .read _ | .query _ => false

/-- MODE of a descriptor (R20). -/
def WinMode.code : WinMode → Nat
  | .plain => 0 | .ringEast => 1 | .ringWest => 2 | .backed => 3 | .ingress => 4 | .egress => 5

/-- The mode of a code; 6 and 7 are reserved (R20). -/
def modeOf (n : Nat) : Option WinMode :=
  match n with
  | 0 => some .plain | 1 => some .ringEast | 2 => some .ringWest | 3 => some .backed | 4 => some .ingress
  | 5 => some .egress | _ => none

/-- The 64-bit thirds of a descriptor (R20, R119). -/
def Win.word (x : Win) (q : Nat) : Word :=
  match q with
  | 0 => BitVec.ofNat 64 ((if x.v then 2 ^ 63 else 0) + x.ccnt.toNat * 2 ^ 48 + x.pcnt.toNat * 2 ^ 42
      + x.mode.code * 2 ^ 39 + x.esz.toNat * 2 ^ 35 + x.cap.toNat * 2 ^ 19 + x.base.toNat * 2 ^ 7)
  | 1 => BitVec.ofNat 64 (x.fill.toNat * 2 ^ 32 + x.head.toNat)
  | _ => BitVec.ofNat 64 (x.hslot.toNat * 2 ^ 33 + (if x.pv then 2 ^ 32 else 0) + x.pois.toNat)

/-- What trying a window operation comes to. -/
inductive Tried
  | wait
  | trap (t : Trap)
  | done (s : State) (v : Option Word)

/-- Trying an operation of slot t of core c, which issued at a site, on a window of a core (R23, R257, R433). -/
def State.tryCore (s : State) (rm : Bool) (core win : Nat) (op : WinOp) (site : BitVec 46) (c t : Nat) : Tried :=
  let x := s.winAt core win
  let k := s.coreAt core
  match op with
  | .query q => .done s (some (x.word q.toNat))
  | .fill v =>
    match x.judge .fill 0 with
    | .fault why => .trap (winTrap x win .fill rm 0 why)
    | .wait | .poison => .wait
    | .proceed =>
      if k.fillRoom win then .done (s.fillWin core win (scalarBytes x v) site (some (c, t))) none else .wait
  | .read o =>
    match x.judge .read o.toNat with
    | .fault why => .trap (winTrap x win .read rm o why)
    | .poison => .trap (poisonTrap x win rm)
    | .wait => .wait
    | .proceed => .done s (some (k.readScalar x o.toNat))
  | .update o v =>
    match x.judge .update o.toNat with
    | .fault why => .trap (winTrap x win .update rm o why)
    | .wait | .poison => .wait
    | .proceed => .done (s.setCore core (k.updateScalar x o.toNat v)) none
  | .shrink n =>
    match x.judge .shrink n.toNat with
    | .fault why => .trap (winTrap x win .shrink rm n why)
    | .wait | .poison => .wait
    | .proceed => .done (s.shrinkWin core win n.toNat site (some (c, t))) none

/-- The operand fault of a service window: EXT is its extent (R28). -/
def serviceTrap (x : Service) (win : Nat) (op : WinOp) (why : Nat) : Trap :=
  trapOf 6 (BitVec.ofNat 64 (x.ext % 65536 * 2 ^ 48 + op.arg.toNat * 2 ^ 16 + why * 2 ^ 8 + 128
    + op.kind.code * 16 + win))

/-- Trying an operation on a service window (R158, R245, R345). -/
def State.tryService (s : State) (key win : Nat) (op : WinOp) : Tried :=
  let num := key % 8192
  let cl := key / 8192
  let x := s.service cl num win
  match serviceCap num win with
  | none => .trap (winTrap Win.init win op.kind true op.arg 1)
  | some cap =>
    if !serviceAllows num win op.kind then .trap (serviceTrap x win op 5)
    else
      match op with
      | .query q => .done { s with free := s.free + 1 } (some (serviceWord x cap q (Config.freeWord s.free)))
      | .fill v => if x.ext < cap then .done (s.serviceFill cl num win v) none else .wait
      | .read o =>
        if cap ≤ o.toNat then .trap (serviceTrap x win op 4)
        else
          match x.elems[o.toNat]? with
          | some v => .done s (some v)
          | none => .wait
      | .shrink n =>
        if x.ext < n.toNat then .trap (serviceTrap x win op 3) else .done (s.serviceShrink cl num win n.toNat) none
      | .update _ _ => .trap (serviceTrap x win op 5)

/-- Trying an operation of a slot where it is performed: at a core, or at a special core number. -/
def State.tryOp (s : State) (rm : Bool) (core win : Nat) (op : WinOp) (site : BitVec 46) (c t : Nat) : Tried :=
  if core < Config.cores then s.tryCore rm core win op site c t else s.tryService core win op

/-- The wait edge of a slot's window operation (R27). -/
def winEdge (core win : Nat) (op : WinOp) (site : BitVec 46) (c t : Nat) : Edge where
  party := .task c t
  at_ := c
  kind := match op with
    | .fill _ => .fill
    | .read _ => .read
    | .update _ _ | .shrink _ | .query _ => .other
  core := core
  win := win
  level := 0
  arg := op.arg
  site := site
  retry := some (if op.isFill then .waitingFillProceeds c t else .waitingReadProceeds c t)
  reported := false

/-- Writing a result register, if the operation has a result. -/
def State.writeBack (s : State) (c t : Nat) (d : BitVec 5) (v : Option Word) : State :=
  match v with
  | some x => s.setSlot c t ((s.slotAt c t).writeG d x)
  | none => s

/-- A window instruction on a window of the issuing core (R117). -/
def localOp (w : BitVec 4) (op : WinOp) (d : BitVec 5) (s : State) : Out :=
  let go (s : State) : Out :=
    let site := s.siteOf s.cur s.slot
    match s.tryCore false s.cur w.toNat op site s.cur s.slot with
    | .wait => .hold (s.waitMe (.window false s.cur w.toNat op d site) (winEdge s.cur w.toNat op site s.cur s.slot))
    | .trap t => .trap t
    | .done s' v => .done (s'.writeBack s.cur s.slot d v)
  if op.releases then released s go else go s

/-- WFILL (R117). -/
def execWfill (w : BitVec 4) (z : BitVec 5) (s : State) : Res := finish s (localOp w (.fill (s.me.readG z)) 0 s)
/-- WRD (R117). -/
def execWrd (d : BitVec 5) (w : BitVec 4) (o : BitVec 14) (s : State) : Res :=
  finish s (localOp w (.read (o.setWidth 32)) d s)
/-- WWR (R117). -/
def execWwr (w : BitVec 4) (o : BitVec 14) (z : BitVec 5) (s : State) : Res :=
  finish s (localOp w (.update (o.setWidth 32) (s.me.readG z)) 0 s)
/-- WSHR (R117). -/
def execWshr (w : BitVec 4) (n : BitVec 14) (s : State) : Res := finish s (localOp w (.shrink (n.setWidth 32)) 0 s)
/-- WQRY (R119). -/
def execWqry (d : BitVec 5) (w : BitVec 4) (q : BitVec 2) (s : State) : Res := finish s (localOp w (.query q) d s)

/-- The probe WRDN (R118). -/
def wrdnOut (d : BitVec 5) (p : BitVec 3) (w : BitVec 4) (o : BitVec 11) (s : State) : Out :=
  let x := s.winAt s.cur w.toNat
  match ({ x with held := false } : Win).judge .read o.toNat with
  | .fault why => .trap (winTrap x w.toNat .read false (o.setWidth 32) why)
  | .poison => .trap (poisonTrap x w.toNat false)
  | .wait => .done (s.setP p false)
  | .proceed =>
    if x.held then .done (s.setP p false)
    else .done ((s.setG d ((s.coreAt s.cur).readScalar x o.toNat)).setP p true)

/-- WRDN (R118). -/
def execWrdn (d : BitVec 5) (p : BitVec 3) (w : BitVec 4) (o : BitVec 11) (s : State) : Res :=
  finish s (wrdnOut d p w o s)

/-- The probe WFILLN (R118): a window whose E is CAP takes nothing, a backed one too. Where E is below CAP and the fill
cannot go at once, since a source's count or the backing ring is full, the model drops it with p_S := 0 (DESIGN CHOICE,
log 77). -/
def wfillnOut (w : BitVec 4) (z : BitVec 5) (p : BitVec 3) (s : State) : Out :=
  let x := s.winAt s.cur w.toNat
  match ({ x with held := false } : Win).judge .fill 0 with
  | .fault why => .trap (winTrap x w.toNat .fill false 0 why)
  | .wait | .poison => .done (s.setP p false)
  | .proceed =>
    if !x.held && decide (x.ext < x.cap.toNat) && (s.coreAt s.cur).fillRoom w.toNat then
      let s' := s.fillWin s.cur w.toNat (scalarBytes x (s.me.readG z)) (s.siteOf s.cur s.slot) (some (s.cur, s.slot))
      .done (s'.setSlot s.cur s.slot ((s'.slotAt s.cur s.slot).writeP p true))
    else .done (s.setP p false)

/-- WFILLN (R118, R262). -/
def execWfilln (w : BitVec 4) (z : BitVec 5) (p : BitVec 3) (s : State) : Res :=
  finish s (released s fun s => wfillnOut w z p s)

/-- Whether WDEF accepts descriptor bits [62:0] (R120). -/
def wdefOk (v : Word) : Bool :=
  let n := v.toNat
  let esz := n / 2 ^ 35 % 16
  let cap := n / 2 ^ 19 % 65536
  (modeOf (n / 2 ^ 39 % 8)).isSome && decide (esz ≤ 12) && decide (cap ≠ 0)
    && decide (n / 2 ^ 7 % 4096 * 32 + cap * 2 ^ (esz + 2) ≤ 0x20000)
    && decide (n / 2 ^ 42 % 64 ≤ 32) && decide (n / 2 ^ 48 % 64 ≤ 32)
    && decide (n / 2 ^ 54 % 512 = 0) && decide (n % 128 = 0)

/-- The window WDEF leaves (R120, R254, R355): mirror writes still owed for its fills are dropped with them. Marked
DESIGN CHOICE, log 86. -/
def Win.define (x : Win) (v : Word) : Win :=
  let n := v.toNat
  let mode := (modeOf (n / 2 ^ 39 % 8)).getD .plain
  { x with
    v := true
    ccnt := bits n 48 6
    pcnt := bits n 42 6
    mode := mode
    esz := bits n 35 4
    cap := bits n 19 16
    base := bits n 7 12
    head := 0
    fill := 0
    pois := 0
    pv := false
    hslot := 0
    rhead := if mode = .backed then 0 else x.rhead
    rfill := if mode = .backed then 0 else x.rfill
    refills := []
    refillStop := .go
    causes := []
    mirrors := []
    prod := []
    cons := []
    prodOver := false
    consOver := false }

/-- The destination an access in flight keeps when its window is defined anew: refills never land, and spills are
never read back (R254). Marked DEDUCED, log 16. -/
def Dest.redefined (d : Dest) (w : Nat) : Dest :=
  match d with
  | .refill v _ => if v = w then .none else d
  | .spill v _ _ => if v = w then .none else d
  | .none | .reg _ _ _ | .engine _ _ | .generator _ _ | .egress _ _ | .merged => d

/-- Cutting the backing accesses in flight off a window (R254). Marked DEDUCED, log 16. -/
def State.cutBacking (s : State) (c w : Nat) : State :=
  { s with accs := s.accs.map fun a => if a.core = c then { a with dest := a.dest.redefined w } else a }

/-- Defining a window: the descriptor is written and what waits on it retried; a held window retries nothing
(R120, R363). -/
def State.defineWin (s : State) (c w : Nat) (v : Word) : State :=
  let x := s.winAt c w
  let s := (s.cutBacking c w).setWin c w (x.define v)
  if x.held then s else s.retryWin c w

/-- WDEF after its release (R120). -/
def wdefOut (w : BitVec 4) (v : Word) (s : State) : Out :=
  if wdefOk v then .done (s.defineWin s.cur w.toNat v)
  else .trap (winTrap (s.winAt s.cur w.toNat) w.toNat .define false 0 6)

/-- WDEF (R120, R262). -/
def execWdef (w : BitVec 4) (z : BitVec 5) (s : State) : Res :=
  finish s (released s fun s => wdefOut w (s.me.readG z) s)

/-- WFILL, guarded (R117). -/
def execWfillReg (w : BitVec 4) (z : BitVec 5) (g : Guard) (s : State) : Res :=
  guarded g s fun s => localOp w (.fill (s.me.readG z)) 0 s
/-- WRD, register offset (R117). -/
def execWrdReg (d : BitVec 5) (w : BitVec 4) (a : BitVec 5) (g : Guard) (s : State) : Res :=
  guarded g s fun s => localOp w (.read ((s.me.readG a).setWidth 32)) d s
/-- WWR, register offset (R117). -/
def execWwrReg (w : BitVec 4) (a z : BitVec 5) (g : Guard) (s : State) : Res :=
  guarded g s fun s => localOp w (.update ((s.me.readG a).setWidth 32) (s.me.readG z)) 0 s
/-- WSHR, register count (R117). -/
def execWshrReg (w : BitVec 4) (a : BitVec 5) (g : Guard) (s : State) : Res :=
  guarded g s fun s => localOp w (.shrink ((s.me.readG a).setWidth 32)) 0 s

/-! ## Remote forms (R122) -/

/-- The core or special core number a remote form reaches; none outside the issuing cluster (R122, R158). -/
def remoteTarget (c : Nat) (v : Word) : Option Nat :=
  let n := v.toNat % 8192
  if 0x1FFD ≤ n then some (serviceKey (clusterOf c) n)
  else if n < Config.cores ∧ clusterOf n = clusterOf c then some n
  else none

/-- Sending a remote operation: the task holds until the target has performed it and answered (R122). -/
def remoteOp (w : BitVec 4) (core : Word) (op : WinOp) (d : BitVec 5) (s : State) : Out :=
  match remoteTarget s.cur core with
  | none => .trap (winTrap Win.init w.toNat op.kind true op.arg 1)
  | some target =>
    if Config.cores ≤ target ∧ !s.me.sup then
      .trap (trapOf 3 (((s.coreAt s.cur).fetch s.me).setWidth 64))
    else
      let go (s : State) : Out :=
        .hold ((s.setMe { s.me with
          hold := .remote
          remote := some ⟨target, w.toNat, op, d, s.siteOf s.cur s.slot, false⟩ }).post (.remoteWindowOperation s.cur (.slot s.slot)))
      if op.releases then released s go else go s

/-- WFILL.rm (R116, R122). -/
def execWfillRm (w : BitVec 4) (c z : BitVec 5) (g : Guard) (s : State) : Res :=
  guarded g s fun s => remoteOp w (s.me.readG c) (.fill (s.me.readG z)) 0 s
/-- WRD.rm (R116, R122). -/
def execWrdRm (d : BitVec 5) (w : BitVec 4) (c a : BitVec 5) (g : Guard) (s : State) : Res :=
  guarded g s fun s => remoteOp w (s.me.readG c) (.read ((s.me.readG a).setWidth 32)) d s
/-- WWR.rm (R116, R122). -/
def execWwrRm (w : BitVec 4) (c a z : BitVec 5) (g : Guard) (s : State) : Res :=
  guarded g s fun s => remoteOp w (s.me.readG c) (.update ((s.me.readG a).setWidth 32) (s.me.readG z)) 0 s
/-- WSHR.rm (R116, R122). -/
def execWshrRm (w : BitVec 4) (c a : BitVec 5) (g : Guard) (s : State) : Res :=
  guarded g s fun s => remoteOp w (s.me.readG c) (.shrink ((s.me.readG a).setWidth 32)) 0 s
/-- WQRY.rm (R116, R122). -/
def execWqryRm (d : BitVec 5) (w : BitVec 4) (c : BitVec 5) (q : BitVec 2) (g : Guard) (s : State) : Res :=
  guarded g s fun s => remoteOp w (s.me.readG c) (.query q) d s

/-- A trap after a wait or a flight: the slot's edge goes, and the trap is taken at its own instruction (R28, R233). -/
def State.trapAfterWait (s : State) (c t : Nat) (tr : Trap) : State :=
  let s := s.wake c t
  s.takeTrap c t tr (s.slotAt c t).pc

/-- A remote operation that was performed at its target: its answer is on its way (R122). -/
def State.remotePerformed (s : State) (c t : Nat) (v : Option Word) : State :=
  (s.setSlot c t { s.slotAt c t with hold := .remoteDone v }).post (.remoteAnswer c (.slot t))

/-- The row a remote operation uses as it is performed: a fill uses its own where it lands (R124). -/
def State.remoteRows (s : State) (r : Remote) : State :=
  let x := s.winAt r.core r.win
  match r.op with
  | .read o | .update o _ =>
    if r.core < Config.cores ∧ x.v ∧ o.toNat < x.ext then
      s.setCore r.core ((s.coreAt r.core).useRows (r.op.kind == .update) (x.addr o.toNat) (min 8 x.esize))
    else s
  | .fill _ | .shrink _ | .query _ => s

/-- A slot's remote operation reaches its target: it is performed, or waits there with the slot's edge (R122). -/
def State.remoteArrive (s : State) (c t : Nat) : State :=
  let sl := s.slotAt c t
  match sl.remote with
  | none => s
  | some r =>
    if r.arrived then s
    else
      let s := s.setSlot c t { sl with remote := some { r with arrived := true } }
      let s := s.remoteRows r
      match s.tryOp true r.core r.win r.op r.site c t with
      | .trap tr => s.trapAfterWait c t tr
      | .done s' v => s'.remotePerformed c t v
      | .wait =>
        (s.setSlot c t { s.slotAt c t with
          status := .waiting, hold := .none, wait := some (.window true r.core r.win r.op r.d r.site) }).addEdge
          (winEdge r.core r.win r.op r.site c t)

/-- The answer of a slot's remote operation: the result is written and the task goes on (R122). -/
def State.remoteAnswered (s : State) (c t : Nat) : State :=
  let sl := s.slotAt c t
  match sl.hold, sl.remote with
  | .remoteDone v, some r =>
    ((s.setSlot c t { sl with hold := .none, remote := none }).writeBack c t r.d v).advance c t
  | _, _ => s

/-- Retrying a slot's waiting operation, if it is a fill or is not, as asked (R24, R26, R120, R233). -/
def State.retryOp (s : State) (c t : Nat) (fill : Bool) : State :=
  match (s.slotAt c t).wait with
  | some (.window rm core win op d site) =>
    if op.isFill != fill then s
    else
      match s.tryOp rm core win op site c t with
      | .wait => s
      | .trap tr => s.trapAfterWait c t tr
      | .done _ _ =>
        let s := s.wake c t
        match s.tryOp rm core win op site c t with
        | .done s' v => if rm then s'.remotePerformed c t v else (s'.writeBack c t d v).advance c t
        | .wait | .trap _ => s
  | some (.barw _ _ _) | some (.tkn _ _ _) | some .again | none => s

/-- A waiting read, update or shrink proceeds, or takes the fault it meets (R24, R26). -/
def execWaitingReadProceeds (c t : Nat) (s : State) : Res := .next (s.retryOp c t false)
/-- A waiting fill proceeds (R26). -/
def execWaitingFillProceeds (c t : Nat) (s : State) : Res := .next (s.retryOp c t true)

end Sys2Proof.Machine
end

