-- ==== Sys2Proof/Machine/WindowImage.lean ====
section
/-! DEFINITION. Saving, restoring and poisoning a window: its image (R365), WSAVE, WREST and WPOIS (R353, R363 to R366). -/

namespace Sys2Proof.Machine

open Sys2Proof

/-! ## The image (R365) -/

/-- Q of a window image: where the elements begin (R365). -/
def imageQ (np nc : Nat) : Nat := 64 + 64 * ((4 * (np + nc) + 63) / 64)

/-- The operations that wait on a window (R365). -/
def State.waitingOn (s : State) (c w : Nat) : Nat :=
  min 65535 (s.edges.filter fun e =>
    e.core == c && e.win == w && (e.kind == .read || e.kind == .fill || e.kind == .other)).length

/-- A role entry (R365). -/
def roleEntry (x : Nat × Nat) : List Byte := bytesOf 4 (x.1 + x.2 * 2 ^ 13)

/-- WPS of a window (R350). -/
def Win.wps (w : Win) : Word := BitVec.ofNat 64 (w.wpsClass.toNat * 2 ^ 46 + w.wpsSite.toNat)

/-- The image of a window of a core (R365). -/
def State.windowImage (s : State) (c w : Nat) : List Byte :=
  let k := s.coreAt c
  let x := k.winAt w
  let backed := x.mode == .backed
  let roles := (x.prod ++ x.cons).flatMap roleEntry
  let head := bytesOf 8 (x.word 0).toNat ++ bytesOf 8 (x.word 1).toNat ++ bytesOf 8 (x.word 2).toNat
    ++ bytesOf 8 (if backed then x.wbkb.toNat else 0) ++ bytesOf 8 (if backed then x.wbks.toNat else 0)
    ++ bytesOf 8 x.wps.toNat ++ bytesOf 8 x.wpd.toNat
    ++ [BitVec.ofNat 8 x.prod.length, BitVec.ofNat 8 x.cons.length,
      BitVec.ofNat 8 ((if x.prodOver then 1 else 0) + (if x.consOver then 2 else 0)), 0]
    ++ bytesOf 2 (s.waitingOn c w) ++ bytesOf 2 0
  head ++ roles ++ List.replicate (imageQ x.prod.length x.cons.length - 64 - roles.length) 0
    ++ (List.range x.ext).flatMap fun o => k.readElem x o

/-- The extent an image records (R366). -/
def imageExt (bs : List Byte) : Nat := (BitVec.ofNat 32 (numAt bs 12 4) - BitVec.ofNat 32 (numAt bs 8 4)).toNat

/-- ESZ an image records (R20, R365). -/
def imageEsz (bs : List Byte) : Nat := numAt bs 0 8 / 2 ^ 35 % 16

/-- The size an image's own header gives (R365). -/
def imageBytes (bs : List Byte) : Nat :=
  imageQ (numAt bs 56 1) (numAt bs 57 1) + imageExt bs * 2 ^ (imageEsz bs + 2)

/-- The checks of R366 that need no more than an image: its zero fields, V, its role counts. -/
def imageOk (bs : List Byte) : Bool :=
  decide (numAt bs 58 1 < 4 ∧ numAt bs 59 1 = 0 ∧ numAt bs 62 2 = 0)
    && decide (numAt bs 56 1 ≤ 32 ∧ numAt bs 57 1 ≤ 32) && decide (numAt bs 0 8 / 2 ^ 63 = 1)
    && (List.range (numAt bs 56 1 + numAt bs 57 1)).all fun i => decide (numAt bs (64 + 4 * i) 4 < 2 ^ 18)

/-- The role entries of an image, n from the first given. -/
def imageRole (bs : List Byte) (first n : Nat) : List (Nat × Nat) :=
  (List.range n).map fun i =>
    let v := numAt bs (64 + 4 * (first + i)) 4
    (v % 8192, v / 8192 % 32)

/-- The window an image leaves, its elements from a slot on: all that R366 takes from it. -/
def Win.restore (x : Win) (hslot : BitVec 16) (bs : List Byte) : Win :=
  let np := numAt bs 56 1
  let wbks := numAt bs 32 8
  let x := { x with
    head := BitVec.ofNat 32 (numAt bs 8 4)
    fill := BitVec.ofNat 32 (numAt bs 12 4)
    hslot := hslot
    pois := BitVec.ofNat 32 (numAt bs 16 4)
    pv := decide (numAt bs 20 1 % 2 = 1)
    wpsSite := BitVec.ofNat 46 (numAt bs 40 8)
    wpsClass := bits (numAt bs 40 8) 46 8
    wpd := BitVec.ofNat 64 (numAt bs 48 8)
    prod := imageRole bs 0 np
    cons := imageRole bs np (numAt bs 57 1)
    prodOver := decide (numAt bs 58 1 % 2 = 1)
    consOver := decide (numAt bs 58 1 / 2 % 2 = 1)
    refills := []
    refillStop := .go
    causes := []
    held := false }
  if x.mode == .backed then
    { x with
      wbkb := BitVec.ofNat 64 (numAt bs 24 8)
      rlog := bits wbks 59 5
      rhead := bits wbks 28 28
      rfill := bits wbks 0 28 }
  else x

/-- Writing the elements of an image from offset 0 on. -/
def Core.putElems (k : Core) (x : Win) (bs : List Byte) (o n : Nat) : Core :=
  match n with
  | 0 => k
  | n + 1 => (k.writeElem x o (bs.take x.esize)).putElems x (bs.drop x.esize) (o + 1) n

/-- Reading an image into a window of a core, its elements from a slot on (R366). Refills in flight are cut off; what
waits is retried, and a backed window's refills start. -/
def State.restoreWindow (s : State) (c w : Nat) (x : Win) (hslot : BitVec 16) (bs : List Byte) : State :=
  let accs := s.accs.map fun a =>
    match a.dest with
    | .refill v _ => if a.core = c ∧ v = w then { a with dest := .none } else a
    | .none | .reg _ _ _ | .engine _ _ | .generator _ _ | .spill _ _ _ | .egress _ _ | .merged => a
  let s := { s with accs := accs }
  let x := x.restore hslot bs
  let k := ((s.coreAt c).setWin w x).putElems x (bs.drop (imageQ (numAt bs 56 1) (numAt bs 57 1))) 0 (imageExt bs)
  ((s.setCore c k).retryWin c w).post (.refillReadStart c w)

/-! ## WSAVE and WREST (R364, R366) -/

/-- The checks that WSAVE and WREST share: V, the mode, the alignment (R364, R366). -/
def imageChecks (w : Nat) (op : OpKind) (code : BitVec 3) (va : Addr) (s : State) (k : Win → Out) : Out :=
  let x := s.winAt s.cur w
  if !x.v then .trap (winTrap x w op false 0 1)
  else if x.mode != .plain && x.mode != .backed && op == .query then .trap (winTrap x w op false 0 5)
  else if !aligned va.toNat 64 then .trap (memTrap 7 7 code va)
  else k x

/-- WSAVE (R363, R364): refills in flight land first, with the window held. Marked DEDUCED, log 26. -/
def execWsave (w : BitVec 4) (a : BitVec 4) (s : State) : Res :=
  finish s (privileged (.wsave w a) s fun s =>
    let va := s.me.readA a
    imageChecks w.toNat .query 1 va s fun x => settled s fun s =>
      let bs := s.windowImage s.cur w.toNat
      match s.bulkFault s.cur (.store []) va (chunks bs.length) (lastChunk bs.length) with
      | some f => .trap (f.trap 1)
      | none => metered (.store []) va (bs.length + x.refills.length * x.esize) 64 s fun s =>
        let s := s.setWin s.cur w.toNat { x with held := true }
        if !x.refills.isEmpty then .hold (s.holdMe (.refills w.toNat x.held va))
        else
          match s.bulkWrite s.cur va bs with
          | .ok s => .done s
          | .error f => .trap (f.trap 1))

/-- A WSAVE whose refills have landed writes its image; a fault leaves WHOLD as it was, and what the hold has kept back
goes on (R364). -/
def State.wsaveGoes (s : State) (c t w : Nat) (held : Bool) (va : Addr) : State :=
  let sl := s.slotAt c t
  let s := s.setSlot c t { sl with hold := .none }
  match s.bulkWrite c va (s.windowImage c w) with
  | .ok s => s.advance c t
  | .error f =>
    let s := s.setWin c w { s.winAt c w with held := held }
    let s := if held then s else (s.retryWin c w).post (.refillReadStart c w)
    s.takeTrap c t (f.trap 1) sl.pc

/-- WREST reads an image into its window (R366). -/
def wrestOut (w : Nat) (va : Addr) (x : Win) (s : State) : Out :=
  let bad : Out := .trap (winTrap x w .define false 0 6)
  match s.bulkRead s.cur va 64 with
  | .error f => .trap (f.trap 0)
  | .ok head =>
    if numAt head 56 1 ≤ 32 ∧ numAt head 57 1 ≤ 32 ∧ imageExt head ≤ x.cap.toNat ∧ imageEsz head = x.esz.toNat then
      match s.bulkRead s.cur va (imageBytes head) with
      | .error f => .trap (f.trap 0)
      | .ok bs =>
        if imageOk bs ∧ numAt bs 0 8 / 2 ^ 39 % 8 = x.mode.code then
          metered .load va (imageBytes head) 16 s fun s => .done (s.restoreWindow s.cur w (s.winAt s.cur w) 0 bs)
        else bad
    else bad

/-- WREST (R366). -/
def execWrest (w : BitVec 4) (a : BitVec 4) (s : State) : Res :=
  finish s (privileged (.wrest w a) s fun s =>
    let va := s.me.readA a
    imageChecks w.toNat .define 0 va s fun x => settled s fun s => wrestOut w.toNat va x s)

/-! ## WPOIS (R353, R257) -/

/-- Clearing poison, after which a refill that failed starts again (R257, R353). -/
def State.clearPoison (s : State) (c w : Nat) : State :=
  let x := s.winAt c w
  let stop := if x.refillStop = .readFailed then RefillStop.go else x.refillStop
  (s.setWin c w { x with pv := false, refillStop := stop }).post (.refillReadStart c w)

/-- WPOIS (R353). -/
def execWpois (w : BitVec 4) (g : BitVec 5) (s : State) : Res :=
  finish s (privileged (.wpois w g) s fun s =>
    let x := s.winAt s.cur w.toNat
    let v := s.me.readG g
    if !x.v then .trap (winTrap x w.toNat .define false 0 1)
    else if v.getLsbD 63 then .done (s.clearPoison s.cur w.toNat)
    else .done (s.setPoison s.cur w.toNat (v.setWidth 32) 8 (s.siteOf s.cur s.slot)
      (BitVec.ofNat 64 (v.toNat / 2 ^ 32 % 2 ^ 31))))

end Sys2Proof.Machine
end

