-- ==== Sys2Proof/Machine/Save.lean ====
section
/-! DEFINITION. Stopping a core at a precise point (R343, R368), and the context image (R375 to R380). -/

namespace Sys2Proof.Machine

open Sys2Proof

/-! ## Stopping (R343, R368) -/

/-- Those fab commands that have started and pass a test go back to the head of their port: they begin again. -/
def State.unrunFab (s : State) (c : Nat) (p : Cmd → Bool) : State :=
  let k := s.coreAt c
  let back := k.fabRun.filter p
  let s := s.setCore c { k with
    fabRun := k.fabRun.filter fun x => !p x
    fabq := back.map (fun x => { x with doneb := 0 }) ++ k.fabq
    fabLast := if back.isEmpty then k.fabLast else none }
  { s with accs := s.accs.filter fun (a : Acc) => !(back.any fun x => a.holder == Holder.cmd x.site) }

/-- Whether a fab command reads an image from global memory (R213). -/
def readsImage (x : Cmd) : Bool := decide (cmdOp x.cmd = 0x01)

/-- A round in progress begins to drain for a save (R368, step 3). -/
def State.drainForSave (s : State) (c : Nat) : State :=
  match (s.coreAt c).round with
  | none => s
  | some r =>
    if r.suspended = .no ∧ (r.drain.all fun d => !d.save) then s.startDrain c ⟨0, [], [], true⟩ else s

/-- Whether the block-transfer commands of a core stand at their stop points: every write in flight is performed, one
held at a recoverable fault too (R292, R343). -/
def State.bteStopped (s : State) (c : Nat) : Bool :=
  ((s.coreAt c).bte.toList.all fun r => r.all fun r =>
    decide (r.flight = 0) && decide (ackedEnd r.acked r.cmd.doneb.toNat = r.cmd.doneb.toNat) && r.failing.isNone)
    && !(s.accs.any fun a => a.core == c && opWrites a.op && (match a.holder with
      | .cmd _ => true
      | .task _ _ _ | .agent _ => false))

/-- Whether the matrix commands of a core stand at their stop points (R312, R343). -/
def Mx.stoppedHere (m : Mx) : Bool :=
  (m.run.all fun r => r.ended || decide (cmdOp r.cmd.cmd = 0x24 ∧ r.row = 0 ∧ r.step < 148))
    && (m.load.all MxRun.ended) && m.out.all MxRun.ended

/-- Whether the running commands of a core stand at their stop points (R343, R368, step 2). -/
def State.portsStopped (s : State) (c : Nat) : Bool :=
  let k := s.coreAt c
  k.fabRun.isEmpty && k.pktRuns.isEmpty && s.bteStopped c && k.mx.stoppedHere

/-- The commands of a core have stopped: their claims end, and the reads in flight of block transfers are discarded
(R292, R368). -/
def State.releaseCmds (s : State) (c : Nat) : State :=
  (s.discardReads c).filterClaims fun x =>
    match x.holder with
    | .cmd site => decide (siteCore site ≠ c)
    | .task _ _ _ | .agent _ => true

/-- Going on with the stop of a core: its slots, then its ports and its round (R368, steps 1 to 3); at a halt no
part waits for another (R404, R412). Marked DEDUCED, log 28. -/
def State.stopStep (s : State) (c : Nat) : State :=
  match (s.coreAt c).stop with
  | .saved excl =>
    let s := s.stopSlots c excl
    if (s.coreAt c).slotsStopped excl then
      let s := s.unrunFab c fun _ => true
      let k := s.coreAt c
      let run := k.mx.run.map fun r => if cmdOp r.cmd.cmd = 0x24 then { r with stopped := true } else r
      let s := s.setCore c { k with mx := { k.mx with run := run } }
      if s.portsStopped c then (s.releaseCmds c).drainForSave c else s
    else s
  | .halted =>
    let s := ((s.stopSlots c none).unrunFab c readsImage).drainForSave c
    if s.bteStopped c then s.releaseCmds c else s
  | .none => s

/-- Whether a core that is stopped lets no further beat start: a halted one at once, a saved one once its slots, its
ports and its round have stopped (R368, step 4; R412). -/
def State.beatsStopped (s : State) (c : Nat) : Bool :=
  let k := s.coreAt c
  match k.stop with
  | .none => false
  | .halted => true
  | .saved e => k.slotsStopped e && s.portsStopped c && k.round.all fun r => r.suspended != .no

/-- A beat starts when every core of the segment is ready (R320, R322), if its windows are still fit (R338); while a
core of it is halted, or is being stopped and has come to the fourth step, none starts (R368, R412). -/
def execBeatStart (k : Nat) (s : State) : Res :=
  .next <|
    let x := s.ctrlAt k
    let more := match x.run with
      | .idle => false
      | .sweep _ => !x.boundary
      | .rotate _ n => decide (0 < n)
    if !x.seg || !more || x.moving then s
    else if (s.segCores k).any fun c => s.beatsStopped c then s
    else
      let s := s.edgesOf (.cmd x.site) .ring (s.beatEdges k)
      if !x.meet.isEmpty || (s.segCores k).any fun c => (s.ringAt c).pinned then s
      else
        match x.command with
        | some cmd =>
          if s.windowsOk k then (s.setCtrl k { x with moving := true }).post (.tileLanding k) else s.sweepFault k cmd 3
        | none => s

/-- Whether a core's meeting has been evaluated: it is not due, or it is held (R320, R326). -/
def State.meetingHeld (s : State) (k c : Nat) : Bool :=
  let x := s.ctrlAt k
  !x.meet.contains c || (match s.meets k c with
    | none => false
    | some (_, e) =>
      let r := s.ringAt c
      let holder := r.holders[(entSlot e).toNat]'(Bool.toNat_lt _)
      !x.flow && !((holder.isNone || holder == some (entTgt e)) && decide (r.queue.length < 4)))

/-- Whether the ring parts of a core stand at a beat boundary, its RGPUT not in the middle of its copy (R322, R343). -/
def State.ringStopped (s : State) (c : Nat) : Bool :=
  (s.ringAt c).buf.isEmpty && (match s.segmentOf c with
    | none => true
    | some k => !(s.ctrlAt k).moving && (s.segCores k).all (s.meetingHeld k))

/-- Whether the accesses of a core's windows have landed: refills and egress mirror writes (R368, step 5). -/
def State.windowsSettled (s : State) (c : Nat) : Bool :=
  (s.coreAt c).wins.all (fun e => e.2.refills.isEmpty && e.2.mirrors.isEmpty)
    && !(s.accs.any fun a => a.core == c && (match a.dest with
      | .egress _ _ => true
      | .none | .reg _ _ _ | .engine _ _ | .generator _ _ | .spill _ _ _ | .refill _ _ | .merged => false))

/-- Whether every part of a core that is being saved has stopped (R368). Marked DEDUCED, log 28. -/
def State.stopDone (s : State) (c : Nat) (excl : Option Nat) : Bool :=
  let k := s.coreAt c
  k.slotsStopped excl && (k.slots.all fun e => s.quiet c e.1) && s.portsStopped c && (k.round.all fun r => r.suspended != .no) && s.ringStopped c
    && s.windowsSettled c

/-- Holding every defined window of a core (R363, R368, step 5). -/
def State.holdWindows (s : State) (c : Nat) : State :=
  let k := s.coreAt c
  s.setCore c { k with wins := k.wins.map fun e => (e.1, { e.2 with held := e.2.held || e.2.v }) }

/-- The claims that end with the stop of a core: its slots' but an excluded one's, and its commands' (R262, R368). -/
def State.releaseCore (s : State) (c : Nat) (excl : Option Nat) : State :=
  s.filterClaims fun x =>
    match x.holder with
    | .task d t _ => decide (d ≠ c) || excl == some t
    | .cmd site => decide (siteCore site ≠ c)
    | .agent _ => true

/-- The last step of a stop: windows held, edges of commands gone, claims released. -/
def State.finishStop (s : State) (c : Nat) (excl : Option Nat) : State :=
  ((s.holdWindows c).dropCmdEdges c).releaseCore c excl

/-- How a core stands once its save is over: halted where Brodfort has halted it (R375, R410). -/
def Core.idleStop (k : Core) : CoreStop := if k.dbgctl.getLsbD 1 then .halted else .none

/-- A slot of a core that goes on: a stop between repeats has ended its REP, which issues again (R113, R114). -/
def Slot.resumed (sl : Slot) : Slot := if sl.hold = .none then { sl with inRep := false } else sl

/-- Whether a step of an MXTM falls among the compute steps of a block, which is loaded again at a resume (R312). -/
def reloads (step : Nat) : Bool := decide (step % 37 ≠ 36 ∧ step % 37 % 9 ≠ 0)

/-- A core that was stopped goes on as it stands: its MXTM loads its block again, its round resumes, at once or when its
drain is complete (R373, R412). -/
def State.restart (s : State) (c : Nat) : State :=
  let s := (s.coreAt c).slots.foldl (init := s) fun s e => s.setSlot c e.1 (s.slotAt c e.1).resumed
  let k := s.coreAt c
  let run := k.mx.run.map fun r => { r with
    stopped := false, peerWait := false, reload := r.reload || (r.stopped && reloads r.step && decide (r.row = 0)) }
  let s := s.setCore c { k with stop := k.idleStop, mx := { k.mx with run := run } }
  match k.round with
  | none => s
  | some r =>
    if k.idleStop ≠ .none then s
    else if r.suspended ≠ .no then s.resumeRound c
    else s.setRound c { r with drain := r.drain.map fun d => { d with save := false } }

/-! ## Writing the image (R375 to R380) -/

/-- Whether a system register is core-scope and stands in the image (R13, R375). -/
def imageReg (n : Nat) : Bool :=
  (sysAccess n).isSome && decide (n ≠ 0 ∧ n ≠ 1 ∧ n ≠ 3 ∧ n ≠ 0x60)
    && !(decide (0x010 ≤ n ∧ n ≤ 0x012) || decide (0x018 ≤ n ∧ n ≤ 0x01B) || decide (0x041 ≤ n ∧ n ≤ 0x047))

/-- The register block (R375). -/
def State.registerBlock (s : State) (c : Nat) : List Byte :=
  (List.range 512).flatMap fun n =>
    bytesOf 8 (if imageReg n then ((s.sysRead c 0 n s.tick true).getD 0).toNat else 0)

/-- The state code of a slot in its record (R377). -/
def SlotStatus.code : SlotStatus → Nat
  | .free => 0
  | .bound => 1
  | .runnable | .waiting => 2
  | .trapped => 4

/-- A slot record (R377). -/
def Slot.record (sl : Slot) (tick : BitVec 64) : List Byte :=
  let g := (List.range 32).flatMap fun i => bytesOf 8 (if i = 0 then 0 else (sl.g.toList.getD i 0).toNat)
  let a := sl.a.toList.flatMap fun v => bytesOf 16 v.toNat
  let k := sl.k.toList.flatMap fun v => bytesOf 16 v.toNat
  let p := bytesOf 8 (((List.range 8).map fun i => if sl.readP (BitVec.ofNat 3 i) then 2 ^ i else 0).sum)
  let age := min (2 ^ 32 - 1) (tick - sl.ready).toNat
  let regs : List Nat := [sl.tstat.toNat, sl.fpstat.toNat, sl.repc.toNat, sl.trapcause.toNat, sl.trappc.toNat,
    sl.trapsite.toNat, sl.traparg.toNat, sl.trapva.toNat, sl.trapvah.toNat,
    (if sl.tv then 2 else 0) + (if sl.psup then 1 else 0)] ++ sl.tscr.toList.map BitVec.toNat
  g ++ a ++ k ++ p ++ bytesOf 8 (sl.pc.toNat + sl.status.code * 2 ^ 12) ++ bytesOf 8 sl.bind.toNat ++ bytesOf 8 age
    ++ regs.flatMap (bytesOf 8) ++ List.replicate 240 0

/-- A bit of a byte or word. -/
def bitIf (b : Bool) (i : Nat) : Nat := if b then 2 ^ i else 0

/-- A port entry (R378). -/
def portEntry (x : Cmd) (progress : Nat) : List Byte :=
  bytesOf 16 x.cmd.toNat ++ bytesOf 8 x.site.toNat ++ bytesOf 8 progress
    ++ bytesOf 4 x.nan ++ bytesOf 4 x.inf ++ bytesOf 4 x.sat ++ bytesOf 4 x.unf ++ bytesOf 16 0

/-- The mark of a command that runs no more, whose census entry or done element is still owed, with its rank among those
that ended before it; a command that has not ended has an even mark: twice the source elements it is still to shrink. -/
def Ended.mark (e : Ended) (rank : Nat) : Nat :=
  let b (v : Bool) (i : Nat) : Nat := if v then 2 ^ i else 0
  1 + b e.fault 1 + b e.stop 2 + b e.census 3 + b e.compared 4 + b e.mis 5 + b e.slotSide 6 + b e.dw.isSome 7
    + e.replayWin.toNat * 2 ^ 8 + b e.cens.isSome 12 + (e.cens.getD 0).toNat * 2 ^ 13 + b e.replay 17 + b e.cseq 18
    + b e.ccore 19 + b e.shrinks 20 + min rank 7 * 2 ^ 21

/-- A command of a port with its progress and its mark. -/
abbrev PortItem := Cmd × Nat × Nat

/-- Inserting a command by its age, the oldest first. -/
def Core.insertCmd (k : Core) (x : PortItem) (l : List PortItem) : List PortItem :=
  match l with
  | [] => [x]
  | y :: r => if k.cmdAge x.1 ≤ k.cmdAge y.1 then x :: y :: r else y :: k.insertCmd x r

/-- The source elements a block transfer has delivered and not shrunk (R286). -/
def Core.owedBy (k : Core) (r : BteRun) : Nat :=
  if readsSource r.cmd.cmd && !bteKeep r.cmd.cmd then r.cmd.doneb.toNat / (k.winAt (cmdSrcw r.cmd.cmd)).esize - r.shrunk
  else 0

/-- The commands that run at a port, with their progress (R378). -/
def Core.runningAt (k : Core) (p : Port) : List PortItem :=
  match p with
  | .fab =>
    match k.round with
    | some r => (r.cmd, 0, 0) :: (match r.drain with
      | some d => d.fmark.map fun x => (x, 0, 0)
      | none => [])
    | none => []
  | .mx =>
    match k.mx.run with
    | some r => if r.ended then [] else [(r.cmd, k.mx.progress.toNat, 0)]
    | none => []
  | .bte => k.bte.toList.filterMap fun r => r.map fun r => (r.cmd, r.cmd.doneb.toNat, 2 * k.owedBy r)
  | .ring =>
    match k.ring.run with
    | some x => [({ x with doneb := 0 }, 0, 0)]
    | none => []
  | .pkt => []

/-- The entries of a port (R378): commands that have started, in start order, one that still owes an element among them,
then queued ones. Marked DESIGN CHOICE, log 27. -/
def Core.portItems (k : Core) (p : Port) : List PortItem :=
  let rank (e : Ended) : Nat := (k.ended.filter fun x => x.order < e.order).length
  let ended := (k.ended.filter fun e => e.port == p).map fun e => (e.cmd, 0, e.mark (rank e))
  let started := (ended ++ k.runningAt p).foldr (init := []) fun x l => k.insertCmd x l
  (started ++ (k.queue p).map fun x => (x, x.doneb.toNat, 2 * x.owed)).take 16

/-- The section of a port (R378). -/
def Core.portSection (k : Core) (p : Port) : List Byte :=
  (((k.portItems p).flatMap fun (x : PortItem) => portEntry x.1 x.2.1) ++ List.replicate 1024 0).take 1024

/-- The ports in order (R375). -/
def portOrder : List Port := [.fab, .mx, .bte, .ring, .pkt]

/-- What the port sections have no place for: the shape parameters of block transfers, the marks of ended commands; it
stands in the bytes of the ring section that R379 does not list. Marked DESIGN CHOICE, log 27. -/
def Core.portExtra (k : Core) : List Byte :=
  let shape (x : PortItem) : List Byte := (List.range 4).flatMap fun q => bytesOf 8 (x.1.shape.getD q 0).toNat
  let marks (p : Port) : List Byte := (((k.portItems p).flatMap fun (x : PortItem) => bytesOf 3 x.2.2) ++ List.replicate 48 0).take 48
  (((k.portItems .bte).flatMap shape) ++ List.replicate 512 0).take 512 ++ portOrder.flatMap marks

/-- The marks of the sums of the block buffer, in the bytes of the first bank that R375 does not list (R301).
Marked DESIGN CHOICE, log 27. -/
def Mx.marksPart (m : Mx) : List Byte :=
  bytesOf 512 ((List.range 4096).map fun i => bitIf (tget false m.marks i) i).sum ++ List.replicate 1528 0

/-- The scale elements that a running MXTM has read and the bank it captured, in the bytes of the second bank that R375
does not list (R297). Marked DESIGN CHOICE, log 27. -/
def Mx.scalesPart (m : Mx) : List Byte :=
  let scale := m.run.bind MxRun.scale
  let scales := ((m.run.map MxRun.scales).getD []).take 128
  bytesOf 4 (scale.getD 0).toNat ++ bytesOf 4 (bitIf scale.isSome 0 + bitIf (!scales.isEmpty) 1
      + bitIf (m.run.any MxRun.bank) 2)
    ++ (scales.flatMap (fun (v : BitVec 32) => bytesOf 4 v.toNat) ++ List.replicate 512 0).take 512 ++ List.replicate 1520 0

/-- The matrix sections: block buffer, banks, accumulator slots (R375). -/
def Mx.sections (m : Mx) : List Byte :=
  let bank (b : Bank) : List Byte :=
    (tgets 0 b.w 0 1024).flatMap (fun v => bytesOf 2 v.toNat) ++ bytesOf 4 b.ws.toNat
      ++ bytesOf 4 (if b.wf then 1 else 0)
  (tgets 0 m.buf 0 4096).flatMap (fun v => bytesOf 4 v.toNat)
    ++ bank m.banks[0] ++ m.marksPart ++ bank m.banks[1] ++ m.scalesPart
    ++ m.slots.toList.flatMap fun t => (tgets 0 t 0 16384).flatMap fun v => bytesOf 4 v.toNat

/-- The controller part of a ring section (R379). -/
def Ctrl.imagePart (x : Ctrl) (first : Nat) : List Byte :=
  let kind := match x.run with
    | .idle => 0
    | .sweep _ => 1
    | .rotate _ n => 2 + n * 256
  let head := bytesOf 4 (x.len.toNat + bitIf x.flow 2 + bitIf x.recov 3 + bitIf x.boundary 4 + x.rlim.toNat * 256)
    ++ bytesOf 4 (x.ewin + x.wwin * 16 + x.eswin * 256 + x.wswin * 2 ^ 12 + x.cwin * 2 ^ 16)
    ++ bytesOf 4 x.beat ++ bytesOf 4 x.rev ++ bytesOf 4 x.swp.toNat ++ bytesOf 4 x.deferral.length
    ++ bytesOf 4 kind ++ bytesOf 4 (x.meet.map fun c => 2 ^ (c - first)).sum ++ bytesOf 8 x.site.toNat
    ++ bytesOf 8 x.tokens.length ++ bytesOf 8 x.goSite.toNat ++ bytesOf 8 0
  let target (i : Nat) : List Byte :=
    let t := tget Target.init x.targets i
    bytesOf 8 (t.count.toNat + bitIf t.live 16 + bitIf t.fault 17 + t.defs.toNat * 2 ^ 18 + t.own * 2 ^ 26
      + bitIf t.slot 30 + bitIf t.posted 31)
  let defer := (x.deferral.flatMap fun i => bytesOf 2 i) ++ List.replicate (2 * (1024 - x.deferral.length)) 0
  let tokens := (x.tokens.flatMap fun t => bytesOf 1 (t.2.1.toNat % 64)) ++ List.replicate 448 0
  head ++ (tgets offEntry x.table 0 1024).flatMap (fun v => bytesOf 4 v.toNat) ++ (List.range 64).flatMap target
    ++ defer.take 2048 ++ tokens.take 448

/-- The part of a ring section that every member has (R379). -/
def RingCore.imagePart (r : RingCore) (pos : Nat) : List Byte :=
  let holder (h : Option Nat) : Nat := h.getD 255
  let enc (q : Encounter) : List Byte :=
    bytesOf 2 q.entry ++ bytesOf 1 (q.slot.getD 255)
      ++ bytesOf 1 (bitIf q.served 0 + bitIf q.retired 1 + bitIf q.mxDone 2 + bitIf q.faulted 3 + bitIf q.unpinned 4
        + bitIf q.recov 5)
      ++ bytesOf 1 q.eid.toNat ++ bytesOf 1 q.wid.toNat ++ bytesOf 2 q.rev
  let bs := bytesOf 1 pos ++ bytesOf 1 (r.east.getD 0).toNat ++ bytesOf 1 (r.west.getD 0).toNat
    ++ bytesOf 1 (bitIf r.east.isSome 0 + bitIf r.west.isSome 1 + bitIf r.pinned 2)
    ++ r.holders.toList.flatMap (fun h => bytesOf 2 (holder h))
    ++ bytesOf 2 r.enc.toNat ++ bytesOf 2 r.defs.toNat ++ bytesOf 2 r.uns.toNat ++ bytesOf 2 r.queue.length
    ++ r.queue.flatMap enc
  (bs ++ List.replicate 256 0).take 256

/-- The ring section of a core (R379). Marked DESIGN CHOICE, log 27. -/
def State.ringSection (s : State) (c : Nat) : List Byte :=
  match s.segmentOf c with
  | none => List.replicate 7168 0 ++ (s.ringAt c).imagePart 0
  | some k =>
    (if ctrlFirst k = c then (s.ctrlAt k).imagePart c else List.replicate 7168 0)
      ++ (s.ringAt c).imagePart (c - ctrlFirst k)

/-- The pending-count entries of a core (R150, R375). -/
def Core.pendEntries (k : Core) : List Byte :=
  let es := (k.pend.filterMap fun e => e.2.map fun p => bytesOf 8 (p.count + e.1 / 128 * 2 ^ 16 + e.1 % 128 * 2 ^ 20)).take 32
  es.flatten ++ List.replicate (256 - 8 * es.length) 0

/-- The windows of a core that are defined, in order. -/
def Core.definedWins (k : Core) : List Nat := (List.range 16).filter fun w => (k.winAt w).v

/-- A window's image padded to a multiple of 64 bytes (R375). -/
def State.paddedWindow (s : State) (c w : Nat) : List Byte :=
  let bs := s.windowImage c w
  bs ++ List.replicate ((64 - bs.length % 64) % 64) 0

/-- Header word 0 (R376). -/
def State.imageWord0 (s : State) (c : Nat) (excl : Option Nat) : Nat :=
  let k := s.coreAt c
  let fst := match k.round with
    | some r => (match r.suspended with
      | .no => 0
      | .drained => 1
      | .scanned => 2)
    | none => 0
  let seg := s.segmentOf c
  (k.definedWins.map fun w => 2 ^ (48 + w)).sum + fst * 2 ^ 46 + bitIf seg.isSome 45
    + bitIf (seg.any fun q => decide (ctrlFirst q = c)) 44 + excl.getD 32 * 2 ^ 38 + c * 2 ^ 16 + 0x01C8

/-- The context image of a stopped core (R375). Marked DESIGN CHOICE, log 27. -/
def State.contextImage (s : State) (c : Nat) (excl : Option Nat) : List Byte :=
  let k := s.coreAt c
  let wins := k.definedWins.flatMap (s.paddedWindow c)
  let rdy := ((List.range 4).map fun n => bitIf (k.isReady n) n).sum
  let nev := min 32 (k.pend.filter fun e => e.2.isSome).length
  let head := bytesOf 8 (s.imageWord0 c excl) ++ bytesOf 8 (nev * 2 ^ 36 + rdy * 2 ^ 32 + 0x3C600 + wins.length)
    ++ bytesOf 48 0 ++ k.pendEntries ++ List.replicate 192 0
  let slots := (List.range 32).flatMap fun t => (if excl = some t then Slot.init else k.slotAt t).record s.tick
  head ++ s.registerBlock c ++ slots ++ (tgets 0 k.istore 0 4096).flatMap (fun v => bytesOf 4 v.toNat)
    ++ tgets 0 k.cstore 0 8192 ++ k.mx.sections
    ++ portOrder.flatMap k.portSection ++ s.ringSection c ++ k.portExtra ++ List.replicate 16 0 ++ k.fabricSection ++ wins

/-! ## Reading the image -/

/-- Part of an image. -/
def slice (bs : List Byte) (at_ n : Nat) : List Byte := (bs.drop at_).take n

/-- The offset of the first item of a list that fails its check. -/
def firstBad (l : List (Bool × Nat)) : Option Nat := (l.find? fun e => !e.1).map Prod.snd

/-- The first field of a window's image that fails R366, by its offset. -/
def imageFault (bs : List Byte) : Option Nat :=
  let entries := (List.range (numAt bs 56 1 + numAt bs 57 1)).map fun i =>
    (decide (numAt bs (64 + 4 * i) 4 < 2 ^ 18), 66 + 4 * i)
  firstBad ([(decide (numAt bs 0 8 / 2 ^ 63 = 1), 7),
    (decide (imageExt bs ≤ numAt bs 0 8 / 2 ^ 19 % 65536), 12),
    (decide (numAt bs 56 1 ≤ 32), 56), (decide (numAt bs 57 1 ≤ 32), 57), (decide (numAt bs 58 1 < 4), 58),
    (decide (numAt bs 59 1 = 0), 59), (decide (numAt bs 62 2 = 0), 62)] ++ entries)

/-- The images of the windows that WMASK names, from the place where they begin, with the bytes they take; or the place
of the first field that fails (R375, R381). -/
def windowImages (ws : List Nat) (at_ : Nat) (bs : List Byte) : Except Nat (List (Nat × List Byte) × Nat) :=
  match ws with
  | [] => .ok ([], at_)
  | w :: r =>
    match imageFault bs with
    | some o => .error (at_ + o)
    | none =>
      let n := imageBytes bs
      let padded := (n + 63) / 64 * 64
      match windowImages r (at_ + padded) (bs.drop padded) with
      | .error o => .error o
      | .ok x => .ok ((w, bs.take n) :: x.1, x.2)

/-- WMASK as a list. -/
def imageWins (bs : List Byte) : List Nat := (List.range 16).filter fun w => decide (numAt bs 6 2 / 2 ^ w % 2 = 1)

/-- The checks of word 0 of a header, with their places (R376, R381). -/
def headerChecks (c : Nat) (bs : List Byte) : List (Bool × Nat) :=
  let w0 := numAt bs 0 8
  [(decide (w0 % 256 = 0xC8), 0), (decide (w0 / 256 % 256 = 1), 1), (decide (w0 / 2 ^ 16 % 2 ^ 13 = c), 2),
    (decide (w0 / 2 ^ 29 % 512 = 0), 3), (decide (w0 / 2 ^ 38 % 64 ≤ 32), 4), (decide (w0 / 2 ^ 46 % 4 ≠ 3), 5)]

/-- The place of the first field of word 0 that CTXRST rejects at a core, if one does (R152, R376, R381). -/
def headerFault (c : Nat) (bs : List Byte) : Option Nat := firstBad (headerChecks c bs)

/-- The place of the first field of an image that CTXRST rejects at a core, if one does (R152, R376, R381). -/
def contextFault (c : Nat) (bs : List Byte) : Option Nat :=
  let w1 := numAt bs 8 8
  let wins := windowImages (imageWins bs) 0x3C600 (bs.drop 0x3C600)
  let sizeOk := match wins with
    | .ok x => decide (w1 % 2 ^ 32 = x.2)
    | .error _ => true
  firstBad (headerChecks c bs ++ [
      (sizeOk, 8), (decide (w1 / 2 ^ 36 % 64 ≤ 32), 12), (decide (w1 / 2 ^ 42 = 0), 13)])
    <|> match wins with
      | .ok _ => none
      | .error o => some o

/-- The state code of a slot in an image (R377). -/
def imageSlotState (bs : List Byte) (t : Nat) : Nat := numAt bs (0x1200 + 1024 * t + 648) 8 / 2 ^ 12 % 8

/-- A slot as its record says (R377); the count of issues since its stamp, for which the record has no place, starts
again at 0. Marked DESIGN CHOICE, log 91. -/
def Slot.ofRecord (old : Slot) (r : List Byte) (tick : BitVec 64) : Slot :=
  let q (at_ : Nat) : Word := BitVec.ofNat 64 (numAt r at_ 8)
  let state := numAt r 648 8 / 2 ^ 12 % 8
  { Slot.init with
    status := if state = 1 then .bound else if state = 2 then .runnable else if state = 4 then .trapped else .free
    pc := BitVec.ofNat 12 (numAt r 648 8)
    g := Vector.ofFn fun i => q (8 * i.val)
    a := Vector.ofFn fun i => BitVec.ofNat 80 (numAt r (256 + 16 * i.val) 16)
    k := Vector.ofFn fun i => BitVec.ofNat 128 (numAt r (512 + 16 * i.val) 16)
    p := Vector.ofFn fun i => decide (i.val ≠ 0 ∧ numAt r 640 1 / 2 ^ i.val % 2 = 1)
    bind := BitVec.ofNat 26 (numAt r 656 8)
    lsup := old.lsup
    ready := tick - q 664
    sup := (q 672).getLsbD 0
    prio := bits (q 672).toNat 1 2
    fpstat := (q 680).setWidth 6
    repc := (q 688).setWidth 7
    trapcause := q 696
    trappc := (q 704).setWidth 12
    trapsite := (q 712).setWidth 46
    traparg := q 720
    trapva := q 728
    trapvah := (q 736).setWidth 16
    tv := (q 744).getLsbD 1
    psup := (q 744).getLsbD 0
    tscr := Vector.ofFn fun i => q (752 + 8 * i.val)
    act := old.act + 1 }

/-- CENSST from its register (R400). -/
def Cens.ofWord (v : Nat) : Cens where
  cdrop := BitVec.ofNat 32 (v / 2 ^ 32)
  ccore := decide (v / 2 ^ 24 % 2 = 1)
  cseq := decide (v / 2 ^ 23 % 2 = 1)
  rpm := decide (v / 2 ^ 22 % 2 = 1)
  rpv := decide (v / 2 ^ 21 % 2 = 1)
  rwin := bits v 16 4
  v := decide (v / 16 % 2 = 1)
  cwin := bits v 0 4

/-- Writing back one register of the block (R375): what Brodfort writes, and what is rebuilt, stays as it is; OBSST says
which units the core lends (R400, R415). -/
def Core.putReg (k : Core) (n v : Nat) (tick : Word) : Core :=
  let w := BitVec.ofNat 64 v
  if n = 0x002 then { k with seq := BitVec.ofNat 16 v }
  else if n = 0x020 then { k with mx := { k.mx with cur := decide (v / 2 ^ 54 % 2 = 1) } }
  else if 0x080 ≤ n ∧ n ≤ 0x09F then
    let j := (n - 0x080) / 2
    let x := k.winAt j
    k.setWin j (if n % 2 = 0 then { x with wbkb := w }
      else { x with rlog := bits v 59 5, rhead := bits v 28 28, rfill := bits v 0 28 })
  else if n = 0x0B1 then { k with wdcnt := w }
  else if n = 0x130 then { k with cens := Cens.ofWord v }
  else if n = 0x131 then
    let k := k.sysStore n w tick true
    if k.trcLent then { k with trcShadow := { k.trcShadow with drop := BitVec.ofNat 16 (v / 2 ^ 48) } }
    else { k with trc := { k.trc with drop := BitVec.ofNat 16 (v / 2 ^ 48) } }
  else if n = 0x13F then
    let k := if decide (v % 2 = 1) then k.lendStall tick else k.takeStall tick
    if decide (v / 2 % 2 = 1) then k.lendTrace else k.takeTrace
  else if 0x138 ≤ n ∧ n ≤ 0x13D then k
  else if imageReg n then k.sysStore n w tick true
  else k

/-- A port entry read back (R378), with its shape parameters and its mark; none where OP is 0. -/
def entryCmd (r : List Byte) (shape : List Word) (mark : Nat) : Option PortItem :=
  let x := BitVec.ofNat 128 (numAt r 0 16)
  if cmdOp x = 0 then none
  else
    some ({
      cmd := x
      site := BitVec.ofNat 46 (numAt r 16 8)
      shape := if cmdOp x / 32 = 2 ∧ cmdOp x ≠ 0x43 then shape else []
      doneb := if cmdOp x / 32 = 2 then BitVec.ofNat 32 (numAt r 24 8) else 0
      owed := if cmdOp x / 32 = 2 ∧ mark % 2 = 0 then mark / 2 else 0
      nan := numAt r 32 4
      inf := numAt r 36 4
      sat := numAt r 40 4
      unf := numAt r 44 4 }, numAt r 24 8, mark)

/-- The entries of a port's section, up to the first with OP 0, with their shapes and marks. -/
def portEntries (bs shapes marks : List Byte) (n : Nat) : List PortItem :=
  match n with
  | 0 => []
  | n + 1 =>
    match entryCmd bs ((List.range 4).map fun q => BitVec.ofNat 64 (numAt shapes (8 * q) 8)) (numAt marks 0 3) with
    | none => []
    | some e => e :: portEntries (bs.drop 64) (shapes.drop 32) (marks.drop 3) n

/-- An ended command read back. -/
def endedOf (p : Port) (e : PortItem) : Ended :=
  let b (i : Nat) : Bool := decide (e.2.2 / 2 ^ i % 2 = 1)
  { cmd := e.1, port := p, census := b 3, cens := if b 12 then some (bits e.2.2 13 4) else none,
    replay := b 17, cseq := b 18, ccore := b 19,
    formed := BitVec.ofNat 64 (e.2.2 / 2 ^ 21), shrinks := b 20, fresh := false, compared := b 4, replayWin := bits e.2.2 8 4, mis := b 5, fault := b 1, stop := b 2,
    dw := if b 7 then doneWin e.1.cmd else none, slotSide := b 6 }

/-- The encounter an MXTM with RING serves (R310). -/
def RingCore.servedBy (r : RingCore) (x : Wide) : Option Nat :=
  if mxRing x then (r.queue.find? fun q => q.served && !q.mxDone && decide (q.entry % 256 = cf x 24 8)).map Encounter.entry
  else none

/-- A matrix run as it stood, with the bank it captured: an MXTM at a step boundary, whose block is loaded again where
its step needs it (R309, R312). -/
def Core.mxRunOf (k : Core) (x : Cmd) (bank : Bool) (step : Nat) (slot ended fault : Bool) : MxRun :=
  { MxRun.start x bank slot (k.ring.servedBy x.cmd) with
    step := step, reload := reloads step, ended := ended, fault := fault }

/-- Putting an ended matrix command where it waits for its census entry. -/
def Core.putEndedMx (k : Core) (e : Ended) : Core :=
  if !e.census || e.port != .mx then k
  else
    let r := k.mxRunOf e.cmd k.mx.cur 148 (mxSlot e.cmd.cmd) true e.fault
    let m := k.mx
    { k with mx :=
        if e.slotSide then { m with out := some r }
        else if cmdOp e.cmd.cmd = 0x21 then { m with load := m.load ++ [r] }
        else { m with run := some r } }

/-- Loading a port's section: ended commands, running ones, queued ones. -/
def Core.loadPort (k : Core) (p : Port) (slotOf : Wide → Bool) (es : List PortItem) : Core :=
  let ended := (es.filter fun e => decide (e.2.2 % 2 = 1)).map (endedOf p)
  let live := es.filter fun e => decide (e.2.2 % 2 = 0)
  let running (e : PortItem) : Bool := p == .mx && decide (cmdOp e.1.cmd = 0x24) && decide (e.2.1 / 2 ^ 63 = 1)
  let k := { k with ended := k.ended ++ ended }
  let k := ended.foldl (init := k) fun k e => k.putEndedMx e
  let k := match live.find? running with
    | some e =>
      { k with mx := { k.mx with run := some (k.mxRunOf e.1 k.mx.cur (e.2.1 / 2 ^ 46 % 256) (slotOf e.1.cmd) false false) } }
    | none => k
  k.setQueue p ((live.filter fun e => !running e).map Prod.fst)

/-- Loading the matrix sections (R375). -/
def Mx.load_ (m : Mx) (bs : List Byte) : Mx :=
  let words (t : Table (BitVec 32)) (at_ n : Nat) : Table (BitVec 32) :=
    (List.range n).foldl (init := t) fun t i => tput 0 t i (BitVec.ofNat 32 (numAt bs (at_ + 4 * i) 4))
  let bank (b : Nat) : Bank :=
    let at_ := 0x4000 + 4096 * b
    { w := (List.range 1024).foldl (init := []) fun t i => tput 0 t i (BitVec.ofNat 16 (numAt bs (at_ + 2 * i) 2))
      wf := decide (numAt bs (at_ + 2052) 1 % 2 = 1)
      ws := BitVec.ofNat 32 (numAt bs (at_ + 2048) 4) }
  { Mx.init with
    cur := m.cur
    peer := m.peer
    buf := words [] 0 4096
    marks := (List.range 4096).foldl (init := []) fun t i => tput false t i (decide (numAt bs (0x4808 + i / 8) 1 / 2 ^ (i % 8) % 2 = 1))
    banks := Vector.ofFn fun b => bank b.val
    slots := Vector.ofFn fun z => words [] (0x6000 + 65536 * z.val) 16384 }

/-- The scale elements that a running MXTM had read, and its bank (R297, R309). -/
def Mx.loadScales (m : Mx) (bs : List Byte) : Mx :=
  let at_ := 0x5808
  let flags := numAt bs (at_ + 4) 1
  { m with run := m.run.map fun r => { r with
      bank := decide (flags / 4 % 2 = 1)
      scale := if flags % 2 = 1 then some (BitVec.ofNat 32 (numAt bs at_ 4)) else none
      scales := if flags / 2 % 2 = 1 then (List.range 128).map fun i => BitVec.ofNat 32 (numAt bs (at_ + 8 + 4 * i) 4)
        else [] } }

/-- The part of a ring section that every member has, read back (R379). -/
def RingCore.ofImage (bs : List Byte) : RingCore :=
  let f := numAt bs 3 1
  let id (on : Bool) (at_ : Nat) : Option (BitVec 8) := if on then some (BitVec.ofNat 8 (numAt bs at_ 1)) else none
  let small (v : Nat) : Option Nat := if v = 255 then none else some v
  let enc (i : Nat) : Encounter :=
    let at_ := 16 + 8 * i
    let b (j : Nat) : Bool := decide (numAt bs (at_ + 3) 1 / 2 ^ j % 2 = 1)
    { entry := numAt bs at_ 2, eid := BitVec.ofNat 8 (numAt bs (at_ + 4) 1), wid := BitVec.ofNat 8 (numAt bs (at_ + 5) 1),
      recov := b 5, rev := numAt bs (at_ + 6) 2, slot := small (numAt bs (at_ + 2) 1), retired := b 1, served := b 0,
      mxDone := b 2, faulted := b 3, unpinned := b 4 }
  { east := id (decide (f % 2 = 1)) 1
    west := id (decide (f / 2 % 2 = 1)) 2
    queue := (List.range (min 4 (numAt bs 14 2))).map enc
    holders := Vector.ofFn fun z => small (numAt bs (4 + 2 * z.val) 2)
    enc := BitVec.ofNat 16 (numAt bs 8 2)
    defs := BitVec.ofNat 16 (numAt bs 10 2)
    uns := BitVec.ofNat 16 (numAt bs 12 2)
    run := none
    buf := [] }

/-- A controller read back from its part (R379); `cmd` is the command its segment ran. -/
def Ctrl.ofImage (bs : List Byte) (first : Nat) (group : Option Nat) (cmd : Option Cmd) : Ctrl :=
  let w0 := numAt bs 0 4
  let w1 := numAt bs 4 4
  let kind := numAt bs 24 4
  let target (i : Nat) : Target :=
    let v := numAt bs (4160 + 8 * i) 8
    { count := BitVec.ofNat 16 v, live := decide (v / 2 ^ 16 % 2 = 1), fault := decide (v / 2 ^ 17 % 2 = 1),
      defs := bits v 18 8, own := v / 2 ^ 26 % 16, slot := decide (v / 2 ^ 30 % 2 = 1), posted := decide (v / 2 ^ 31 % 2 = 1) }
  let x : Ctrl := {
    seg := true
    len := BitVec.ofNat 2 w0
    flow := decide (w0 / 4 % 2 = 1)
    ewin := w1 % 16
    wwin := w1 / 16 % 16
    eswin := w1 / 2 ^ 8 % 16
    wswin := w1 / 2 ^ 12 % 16
    cwin := w1 / 2 ^ 16 % 16
    rlim := bits w0 8 8
    group := group
    table := (List.range 1024).foldl (init := []) fun t i => tput offEntry t i (BitVec.ofNat 32 (numAt bs (64 + 4 * i) 4))
    targets := (List.range 64).foldl (init := []) fun t i => tput Target.init t i (target i)
    deferral := (List.range (min 1024 (numAt bs 20 4))).map fun i => numAt bs (4672 + 2 * i) 2
    beat := numAt bs 8 4
    rev := numAt bs 12 4
    recov := decide (w0 / 8 % 2 = 1)
    swp := BitVec.ofNat 16 (numAt bs 16 4)
    run := match cmd with
      | none => .idle
      | some x => if kind % 256 = 1 then .sweep x else if kind % 256 = 2 then .rotate x (kind / 256) else .idle
    moving := false
    boundary := decide (w0 / 16 % 2 = 1)
    meet := (List.range 16).filterMap fun i => if numAt bs 28 4 / 2 ^ i % 2 = 1 then some (first + i) else none
    tokens := []
    site := BitVec.ofNat 46 (numAt bs 32 8)
    goSite := BitVec.ofNat 46 (numAt bs 48 8) }
  let toks := (List.range (min 448 (numAt bs 40 8))).map fun i =>
    let j := numAt bs (6720 + i) 1
    (first + (target j).own, x.tokenWord j (target j), x.goSite)
  { x with tokens := toks }

/-- The commands of a core that stop for good: their accesses are abandoned, and their edges go. -/
def State.dropCommands (s : State) (c : Nat) : State :=
  let mine (a : Acc) : Bool := match a.holder with
    | .cmd site => decide (siteCore site = c)
    | .task _ _ _ | .agent _ => false
  let accs := (s.accs.filter fun a => !(mine a && (!opWrites a.op || a.stage == .faulted))).map fun a =>
    if mine a then { a with dest := .none } else a
  { s with accs := accs }.dropCmdEdges c

/-- Loading the slots of an image; a slot the image records as free is freed where the core was stopped. -/
def State.loadSlots (s : State) (c : Nat) (excl : Option Nat) (bs : List Byte) : State :=
  let k := s.coreAt c
  let stopped := k.stop != .none
  (List.range 32).foldl (init := s) fun s t =>
    if excl = some t then s
    else if imageSlotState bs t = 0 then
      if stopped then s.setSlot c t { Slot.init with act := (s.slotAt c t).act + 1 } else s
    else s.setSlot c t (Slot.ofRecord (s.slotAt c t) (slice bs (0x1200 + 1024 * t) 1024) s.tick)

/-- The pending counts of an image, their data as their sources stand (R149, R150, R375). -/
def State.loadPending (s : State) (c : Nat) (bs : List Byte) : State :=
  let k := s.coreAt c
  let one (t : Table (Option PendCount)) (i : Nat) : Table (Option PendCount) :=
    let v := numAt bs (64 + 8 * i) 8
    let kind := v / 2 ^ 16 % 16
    let arg := v / 2 ^ 20 % 128
    let data : BitVec 32 := if kind = 5 then (tget 0 k.gens arg).setWidth 32 else (k.winAt arg).fill
    tput none t (sourceKey kind arg) (some ⟨v % 65536, data⟩)
  s.setCore c { k with pend := (List.range (numAt bs 8 8 / 2 ^ 36 % 64)).foldl one [] }

/-- Loading the ring section of an image (R379). -/
def State.loadRing (s : State) (c : Nat) (bs : List Byte) : State :=
  let w0 := numAt bs 0 8
  let sec := slice bs 0x36600 8192
  let s := s.setRing c (RingCore.ofImage (slice sec 7168 256))
  if w0 / 2 ^ 44 % 2 = 1 then
    let k := s.coreAt c
    let running := decide (numAt sec 24 4 % 256 ≠ 0)
    let cmd := if running then k.ringq.head? else none
    let s := s.setCtrl (ctrlHere c) (Ctrl.ofImage sec c k.group cmd)
    match cmd with
    | some x =>
      let k := s.coreAt c
      s.setCore c { k with ringq := k.ringq.tail, ring := { k.ring with run := some x } }
    | none => s
  else s

/-- Loading the fabric section: the round that stood suspended, with its FRUN, the first of the port (R373, R380). -/
def State.loadRound (s : State) (c : Nat) (bs : List Byte) : State :=
  let k := s.coreAt c
  let sec := slice bs 0x38600 16384
  if numAt bs 0 8 / 2 ^ 46 % 4 = 0 then s.setCore c { k with round := none }
  else
    match k.fabq.find? fun x => decide (cmdOp x.cmd = 0x02) with
    | none => s.setCore c { k with round := none }
    | some x =>
      let n := numAt sec 0 1 / 4 % 4
      s.setCore c { k with fabq := k.fabq.erase x, round := some (roundOf (k.image n) n x sec) }

/-- Loading the windows of an image whole: CAP, BASE and HSLOT included (R375, R381). -/
def State.loadWindows (s : State) (c : Nat) (bs : List Byte) : State :=
  let s := (List.range 16).foldl (init := s) fun s w =>
    s.setWin c w { s.winAt c w with v := false, held := false, refills := [], refillStop := .go, causes := [] }
  match windowImages (imageWins bs) 0x3C600 (bs.drop 0x3C600) with
  | .error _ => s
  | .ok x => x.1.foldl (init := s) fun s e =>
    s.restoreWindow c e.1 ((s.winAt c e.1).define (BitVec.ofNat 64 (numAt e.2 0 8))) (bits (numAt e.2 16 8) 33 16) e.2

/-- Loading a context image that passed its checks (R375 to R381): everything a stop left is discarded, every section is
loaded, and then the core goes on. -/
def State.loadContext (s : State) (c : Nat) (excl : Option Nat) (bs : List Byte) : State :=
  let mats := slice bs 0xF200 (0x35200 - 0xF200)
  let ring := slice bs 0x36600 8192
  let s := (s.dropCommands c).loadSlots c excl bs
  let k := s.coreAt c
  let k := { k with
    fabq := [], mxq := [], bteq := [], ringq := [], pktq := [], fabRun := [], fabLast := none, round := none
    bte := Vector.replicate 4 none, ended := []
    istore := (List.range 4096).foldl (init := []) fun t i => tput 0 t i (BitVec.ofNat 32 (numAt bs (0x9200 + 4 * i) 4))
    cstore := tputs 0 [] 0 (slice bs 0xD200 8192)
    mx := k.mx.load_ mats
    cready := Vector.ofFn fun n => decide (numAt bs 12 1 / 2 ^ n.val % 2 = 1) }
  let k := (0x13F :: List.range 512).foldl (init := k) fun k n => k.putReg n (numAt bs (0x200 + 8 * n) 8) s.tick
  let s := s.setCore c k
  let s := s.setRing c (RingCore.ofImage (slice ring 7168 256))
  let entryAt (e : Nat) : BitVec 32 :=
    if numAt bs 5 1 / 2 ^ 4 % 2 = 1 then BitVec.ofNat 32 (numAt ring (64 + 4 * e) 4)
    else match s.segmentOf c with
      | some q => tget offEntry (s.ctrlAt q).table e
      | none => offEntry
  let slotOf (x : Wide) : Bool :=
    match (s.coreAt c).ring.servedBy x with
    | some e => entSlot (entryAt e)
    | none => mxSlot x
  let k := s.coreAt c
  let k := (portOrder.zip (List.range 5)).foldl (init := k) fun k p =>
    k.loadPort p.1 slotOf (portEntries (slice bs (0x35200 + 1024 * p.2) 1024)
      (if p.1 = .bte then ring.drop 7424 else []) (slice ring (7936 + 48 * p.2) 48) 16)
  let k := { k with mx := k.mx.loadScales mats }
  let s := (((s.setCore c k).loadRing c bs).loadRound c bs).loadWindows c bs
  let s := s.loadPending c bs
  s.setCore c { s.coreAt c with stop := (s.coreAt c).idleStop }

end Sys2Proof.Machine
end

