-- ==== Sys2Proof/Machine/Context.lean ====
section
/-! DEFINITION. CTXSAV and CTXRST (R368, R381), and the end of a hold that a task waits out (R246, R252, R253, R262,
R364). -/

namespace Sys2Proof.Machine

open Sys2Proof

/-- CTXSAV goes on: once every part has stopped it writes the image; an access that faults leaves the core as it was
(R368, R381). -/
def ctxsavOut (va : Addr) (s : State) : Out :=
  let c := s.cur
  let t := s.slot
  match (s.coreAt c).stop with
  | .none =>
    let n := (s.contextImage c (some t)).length
    match s.bulkFault c (.store []) va (chunks n) (lastChunk n) with
    | some f => .trap (f.trap 1)
    | none =>
      let s := (s.setCore c { s.coreAt c with stop := .saved (some t) }).stopStep c
      .moved (s.holdAgain .stopping)
  | .saved _ | .halted =>
    if !s.stopDone c (some t) then .moved (s.holdAgain .stopping)
    else
      let n := ((s.finishStop c (some t)).contextImage c (some t)).length
      metered (.store []) va n 64 s fun s =>
        let held := s.finishStop c (some t)
        match held.bulkWrite c va (held.contextImage c (some t)) with
        | .ok s => .done s
        | .error f => .moved ((s.restart c).takeTrap c t (f.trap 1) s.me.pc)

/-- CTXSAV (R368, R381). -/
def execCtxsav (a : BitVec 4) (s : State) : Res :=
  finish s (privileged (.ctxsav a) s fun s =>
    let va := s.me.readA a
    if !aligned va.toNat 64 then .trap (memTrap 7 7 1 va) else settled s fun s => ctxsavOut va s)

/-- The lowest slot of an image that is not free there, and is neither free at the core nor stopped by a CTXSAV
(R152, R381). -/
def Core.busySlot (k : Core) (own : Nat) (bs : List Byte) : Option Nat :=
  let saved := match k.stop with
    | .saved (some _) => true
    | .saved none | .none | .halted => false
  leastBelow (fun t =>
    decide (imageSlotState bs t ≠ 0) && (k.slotAt t).status != .free && !(saved && decide (t ≠ own))) Config.slots

/-- CTXRST reads, checks and loads an image (R381). -/
def ctxrstOut (va : Addr) (s : State) : Out :=
  let c := s.cur
  match s.bulkRead c va 64 with
  | .error f => .trap (f.trap 0)
  | .ok head =>
    let n := numAt head 8 4
    if n < 0x3C600 ∨ 0x240000 < n then .trap (taskTrap ((headerFault c head).getD 8) 5 0x1C)
    else
      match s.bulkRead c va n with
      | .error f => .trap (f.trap 0)
      | .ok bs =>
        match contextFault c bs, (s.coreAt c).busySlot s.slot bs with
        | some o, _ => .trap (taskTrap o 5 0x1C)
        | none, some t => .trap (taskTrap t 6 0x1C)
        | none, none => metered .load va n 16 s fun s => .done (s.loadContext c (some s.slot) bs)

/-- CTXRST (R381). -/
def execCtxrst (a : BitVec 4) (s : State) : Res :=
  finish s (privileged (.ctxrst a) s fun s =>
    let va := s.me.readA a
    if !aligned va.toNat 64 then .trap (memTrap 7 7 0 va) else settled s fun s => ctxrstOut va s)

/-- Ending the hold of a slot, whose instruction issues again. -/
def State.unhold (s : State) (c t : Nat) : State := s.setSlot c t { s.slotAt c t with hold := .none }

/-- RELEASE_PERFORMED: what a slot's hold waits for has come: its accesses are performed and acknowledged, a place is
free under the limits, a window's refills have landed, the translations that TLBINV waits out are gone, the parts that
CTXSAV stops have stopped. A FENCE.rel that no access follows ends the task's claims then (R246, R252, R253, R262, R364,
R368). Marked DEDUCED, log 19. -/
def execReleasePerformed (c t : Nat) (s : State) : Res :=
  .next <|
    let sl := s.slotAt c t
    match sl.hold with
    | .release => if s.quiet c t then s.unhold c t else s
    | .rel => if s.fencePassed c t then s.unhold c t else s
    | .acquire => if sl.loads.isEmpty then s.unhold c t else s
    | .limit => if s.belowLimit c t then s.unhold c t else s
    | .meter => s.unhold c t
    | .kill v => if (s.slotAt c v).killing then s else (s.unhold c t).advance c t
    | .refills w held va => if (s.winAt c w).refills.isEmpty then s.wsaveGoes c t w held va else s
    | .stopping => if s.stopDone c (some t) then s.unhold c t else s
    | .asid asid ids =>
      if (s.inFlight asid).any ids.contains then s
      else (s.unhold c t).advance c t
    | .none =>
      if sl.killing && s.quiet c t then s.freeSlot c t
      else if sl.fenceRel.isSome && s.fencePassed c t then
        (s.setSlot c t { sl with fenceRel := none }).releaseClaims (s.holderOf c t)
      else s
    | .drain _ | .scan | .access _ | .remote | .remoteDone _ | .bara _ | .bank | .trapping _ => s

end Sys2Proof.Machine
end

