-- ==== Sys2Proof/Machine/Observe.lean ====
section
/-! DEFINITION. Census, replay and CENS (R400 to R406), TRCM (R409), Brodfort's halts, accesses and dumps (R410 to R412),
snapshots of the link counters (R416 to R418). -/

namespace Sys2Proof.Machine

open Sys2Proof

/-! ## CENS and TRCM -/

/-- The census state CENS leaves; none for an operand it rejects (R406). -/
def Cens.apply (x : Cens) (n : BitVec 4) (v : Word) : Option Cens :=
  let op := v.toNat % 8
  if 32 ≤ v.toNat ∨ (v.toNat / 8 ≠ 0 ∧ op ≠ 2) then none
  else
    match op with
    | 0 => some { x with cwin := n, v := true }
    | 1 => some { x with v := false }
    | 2 => some { x with rwin := n, rpv := true, rpm := false, cseq := v.getLsbD 3, ccore := v.getLsbD 4 }
    | 3 => some { x with rpv := false }
    | 4 => some { x with cdrop := 0 }
    | _ => none

/-- CENS takes effect after its tick (R406). -/
def execCens (w : BitVec 4) (z : BitVec 5) (s : State) : Res :=
  finish s (
    let v := s.me.readG z
    let k := s.coreAt s.cur
    match k.cens.apply w v with
    | some _ => .done (s.setCore s.cur { k with censOp := some (w, v) })
    | none => .trap (taskTrap (v.toNat % 2 ^ 32) 7 0x1E))

/-- TRCM (R409). -/
def execTrcm (n : BitVec 10) (z : BitVec 5) (s : State) : Res :=
  finish s (.done (s.trace s.cur ⟨6, s.siteOf s.cur s.slot, s.me.readG z, 0, n.toNat, s.slot⟩))

/-! ## The census (R401 to R403) -/

/-- The 32 bytes of a census entry (R401). -/
def Ended.entry (e : Ended) : List Byte :=
  bytesOf 8 e.cmd.site.toNat ++ bytesOf 4 e.cmd.nan ++ bytesOf 4 e.cmd.inf ++ bytesOf 4 e.cmd.sat ++ bytesOf 4 e.cmd.unf
    ++ bytesOf 1 (cmdOp e.cmd.cmd)
    ++ bytesOf 1 ((if e.fault then 1 else 0) + (if e.stop then 2 else 0) + (if e.mis then 4 else 0)) ++ bytesOf 6 0

/-- Whether a window takes census entries, records a replay reads, or trace records (R402, R404, R408). -/
def Win.takesEntries (x : Win) : Bool := x.v && (x.mode == .plain || x.mode == .backed) && x.esz == 3#4

/-- The FSTOPs of a core that have ended a round complete, once its FRUN has (R215). -/
def State.endStops (s : State) (c : Nat) : State :=
  let k := s.coreAt c
  let stop (x : Cmd) : Bool := decide (cmdOp x.cmd = 0x03)
  (k.fabRun.filter stop).foldl (init := s.setCore c { k with fabRun := k.fabRun.filter fun x => !stop x }) fun s x =>
    s.endCommand c x .fab false false false

/-- The command of a census entry completes: the completion is traced, the done element and the commands that waited for
the completion are due, an FSTOP that has ended its round completes behind it (R215, R402, R404, R408). -/
def State.completes (s : State) (c : Nat) (e : Ended) : State :=
  let s := s.setCore c ((s.coreAt c).putEnded { e with census := false, shrinks := false })
  let s := if e.port == .mx then s.mxRelease c e.cmd.site else s
  let s := (s.trace c
    ⟨4, e.cmd.site, BitVec.ofNat 64 ((if e.fault then 1 else 0) + (if e.stop then 2 else 0)), 0, 0, e.port.code⟩).post
    (.doneElementFill c)
  if e.port == .fab then s.endStops c else s

/-- The shrink of a recorded entry that was equal: on a held window it waits, with an edge (R363, R404). -/
def State.replayShrink (s : State) (c : Nat) (e : Ended) : State :=
  let w := e.replayWin.toNat
  match (s.winAt c w).judge .shrink 1 with
  | .proceed => ((s.dropRetry (.cmd e.cmd.site) (.replayCompare c)).shrinkWin c w 1 e.cmd.site
      (issuerOf e.cmd.site)).completes c e
  | .wait =>
    (s.setCore c ((s.coreAt c).putEnded { e with compared := false, shrinks := true })).addEdge
      { cmdReadEdge c w 1 e.cmd.site (.replayCompare c) with kind := .other }
  | .fault _ | .poison => (s.dropRetry (.cmd e.cmd.site) (.replayCompare c)).completes c e

/-- What follows a census entry: the comparison's window is shrunk by 1 where the entry was equal, and the command
completes (R402, R404). -/
def State.censusDone (s : State) (c : Nat) (e : Ended) : State :=
  let s := s.dropRetry (.cmd e.cmd.site) (.censusEntryFill c)
  if e.replay && !e.mis then s.replayShrink c e else s.completes c e

/-- A census entry is filled, waits for room, or is dropped and counted (R402). -/
def State.fillCensus (s : State) (c : Nat) (e : Ended) : State :=
  let k := s.coreAt c
  let drop : State :=
    let n := k.cens.cdrop
    (s.setCore c { k with cens := { k.cens with cdrop := if n = 0xFFFFFFFF#32 then n else n + 1 } }).censusDone c e
  match e.cens with
  | none => drop
  | some w =>
    let w := w.toNat
    let x := k.winAt w
    if !x.takesEntries then drop
    else if x.held || !k.fillRoom w then s.addEdge (cmdFillEdge c w e.cmd.site (.censusEntryFill c))
    else (s.fillWin c w e.entry e.cmd.site (issuerOf e.cmd.site)).censusDone c e

/-- Inserting an ended command in the order of the census entries. -/
def Ended.insert (e : Ended) (l : List Ended) : List Ended :=
  match l with
  | [] => [e]
  | x :: r => if e.order < x.order then e :: x :: r else x :: e.insert r

/-- The ended commands of a core that owe a census entry, in the order of their fills (R26, R402). -/
def Core.owed (k : Core) (compared : Bool) : List Ended :=
  (k.ended.filter fun e => e.census && e.compared == compared).foldl (init := []) fun l e => e.insert l

/-- What an entry that is judged for the first time leads to: its site breakpoints (R411). -/
def State.judged (s : State) (c : Nat) (e : Ended) : State :=
  if e.fresh then
    let s := if e.cmd.nan + e.cmd.inf + e.cmd.sat + e.cmd.unf ≠ 0 then s.breakpoint c 3 e.cmd.site else s
    s.breakpoint c 1 e.cmd.site
  else s

/-- Filling the census entries of given commands of a core that is not stopped (R402, R411). -/
def State.censusFills (s : State) (c : Nat) (l : List Ended) : State :=
  l.foldl (init := s) fun s e =>
    if (s.coreAt c).stop ≠ .none then s
    else
      let k := s.coreAt c
      let old := { e with fresh := false }
      ((s.setCore c (k.putEnded old)).fillCensus c old).judged c e

/-- CENSUS_ENTRY_FILL (R402, R411). -/
def execCensusEntryFill (c : Nat) (s : State) : Res :=
  .next (s.censusFills c (s.turns ((s.coreAt c).owed true) (.censusEntryFill c)))

/-! ## Replay (R404, R405) -/

/-- The INFO bits of the fields in which a live entry and a recorded one differ (R404, R405). -/
def entryDiff (x : Ended) (live rec_ : List Byte) : Nat :=
  let site (bs : List Byte) : Nat := numAt bs 0 8
  let b (on : Bool) (i : Nat) : Nat := if on then 2 ^ i else 0
  let differs (at_ n : Nat) : Bool := decide (numAt live at_ n ≠ numAt rec_ at_ n)
  b (decide (site live / 2 ^ 16 % 2 ^ 17 ≠ site rec_ / 2 ^ 16 % 2 ^ 17)) 0 + b (differs 24 1) 1
    + b (x.cseq && decide (site live % 65536 ≠ site rec_ % 65536)) 2
    + b (x.ccore && decide (site live / 2 ^ 33 % 8192 ≠ site rec_ / 2 ^ 33 % 8192)) 3
    + b (differs 8 4) 4 + b (differs 12 4) 5 + b (differs 16 4) 6 + b (differs 20 4) 7
    + b (decide (numAt live 25 1 % 4 ≠ numAt rec_ 25 1 % 4)) 8

/-- A replay mismatch (R404, R405): the entry is filled, the core halts with every other member of its group, and the
record is posted. -/
def State.mismatch (s : State) (c : Nat) (e : Ended) (info : Nat) (rec_ : List Byte) : State :=
  let fresh := e.fresh
  let e := { e with compared := true, mis := true, fresh := false }
  let s := s.dropRetry (.cmd e.cmd.site) (.replayCompare c)
  let s := ((s.setCore c ((s.coreAt c).putEnded e)).fillCensus c e).judged c { e with fresh := fresh }
  let k := s.coreAt c
  let s := s.setCore c { k with cens := { k.cens with rpm := true, rpv := false } }
  let s := (s.halt c 4).debugEvent c 3 e.cmd.site
  let words (bs : List Byte) : List Word := (List.range 4).map fun i => BitVec.ofNat 64 (numAt bs (8 * i) 8)
  let s := s.report (clusterOf c) ⟨6, BitVec.ofNat 32 info, words e.entry ++ words rec_, c, none⟩
  let others := match k.group with
    | some g => (s.groupAt g).members.filter (· != c)
    | none => []
  others.foldl (init := s) fun s m => s.post (.memberHalt m e.cmd.site)

/-- One comparison (R404). -/
def State.compareEntry (s : State) (c : Nat) (e : Ended) : State :=
  let k := s.coreAt c
  let w := e.replayWin.toNat
  let x := k.winAt w
  let old := { e with fresh := false }
  let wait := ((s.setCore c (k.putEnded old)).addEdge (cmdReadEdge c w 0 e.cmd.site (.replayCompare c))).judged c e
  if x.held then wait
  else if !x.takesEntries then s.mismatch c e 512 []
  else
    match x.judge .read 0 with
    | .wait => wait
    | .fault _ | .poison => s.mismatch c e 512 []
    | .proceed =>
      let rec_ := k.readElem x 0
      let diff := entryDiff e e.entry rec_
      if diff = 0 then
        let equal := { old with compared := true }
        (((s.dropRetry (.cmd e.cmd.site) (.replayCompare c)).setCore c (k.putEnded equal)).fillCensus c equal).judged c e
      else s.mismatch c e diff rec_

/-- Comparing the entries of given commands of a core that is not stopped (R404). -/
def State.compares (s : State) (c : Nat) (l : List Ended) : State :=
  l.foldl (init := s) fun s e =>
    if (s.coreAt c).stop ≠ .none then s else if e.shrinks then s.replayShrink c e else s.compareEntry c e

/-- REPLAY_COMPARE (R404). -/
def execReplayCompare (c : Nat) (s : State) : Res :=
  .next (s.compares c (s.turns ((s.coreAt c).owed false) (.replayCompare c)))

/-- MEMBER_HALT: a mismatch at another member of the group halts this core (R404). -/
def execMemberHalt (c : Nat) (site : BitVec 46) (s : State) : Res := .next ((s.halt c 4).debugEvent c 3 site)

/-! ## Brodfort (R410 to R412) -/

/-- CORE_HALT: HALT written as 1 (R410, R412). Marked DESIGN CHOICE, log 30. -/
def State.coreHalt (s : State) (c : Nat) : State := (s.halt c 0).debugEvent c 4 (mkSite c 0 0 (s.coreAt c).seq)

/-- CORE_RESUME: HALT written as 0 (R412). -/
def State.coreResume (s : State) (c : Nat) : State :=
  let k := s.coreAt c
  let s := s.setCore c { k with dbgctl := k.dbgctl &&& 1 }
  if k.stop = .halted then s.restart c else s

/-- CORE_HALT (R412). Marked DESIGN CHOICE, log 30. -/
def execCoreHalt (c : Nat) (s : State) : Res := .next (if s.device.dev = .running then s.coreHalt c else s)
/-- CORE_RESUME (R412). -/
def execCoreResume (c : Nat) (s : State) : Res := .next (if s.device.dev = .running then s.coreResume c else s)

/-- Brodfort writes DBGCTL: DBG as given; a HALT that changes halts or resumes the core (R410). -/
def State.writeDbgctl (s : State) (c : Nat) (v : Word) : State :=
  let k := s.coreAt c
  let s := s.setCore c { k with dbgctl := (k.dbgctl &&& 14) ||| (v.setWidth 4 &&& 1) }
  if v.getLsbD 1 then (if k.dbgctl.getLsbD 1 then s else s.coreHalt c) else s.coreResume c

/-- The slot registers Brodfort writes: a write of REPC between repeats makes the REP issue again, as a task's own does;
PRIO of TSTAT is written too (R113, R138, R410). -/
def Slot.brodStore (sl : Slot) (n : Nat) (v : Word) : Slot :=
  let sl := sl.sysStore n v
  if n = 0x010 then { sl with prio := bits v.toNat 1 2 }
  else if n = 0x012 then { sl with inRep := false }
  else sl

/-- Brodfort writes one of the three words of a window's descriptor, as it stands (R20, R410). -/
def Win.brodStore (x : Win) (q : Fin 3) (v : Word) : Win :=
  let n := v.toNat
  match q with
  | 0 =>
    { x with
      v := v.getLsbD 63, ccnt := bits n 48 6, pcnt := bits n 42 6, mode := (modeOf (n / 2 ^ 39 % 8)).getD x.mode
      esz := bits n 35 4, cap := bits n 19 16, base := bits n 7 12 }
  | 1 => { x with fill := bits n 32 32, head := bits n 0 32 }
  | 2 => { x with hslot := bits n 33 16, pv := v.getLsbD 32, pois := bits n 0 32 }

/-- The bits of DBGEV that are not given as zero (R410). -/
def dbgevMask : Word := 0x80FF3FFFFFFFFFFF#64
/-- The bits of a site breakpoint that are not given as zero (R411). -/
def bksMask : Word := 0xF0003FFFFFFFFFFF#64

/-- Brodfort writes a system register, whatever its access: what the register stores takes the value; one that only
shows other state, as COREID or RGSTAT, has nothing to take it (R410). Marked DESIGN CHOICE, log 100. -/
def State.brodWrite (s : State) (c t n : Nat) (v : Word) : State :=
  let k := s.coreAt c
  if n = 0x138 then s.writeDbgctl c v
  else if n = 0x139 then s.setCore c { k with dbgev := v &&& dbgevMask }
  else if 0x13A ≤ n ∧ n ≤ 0x13D then s.setCore c { k with bks := k.bks.setIfInBounds (n - 0x13A) (v &&& bksMask) }
  else if n = 0x060 then
    let cl := s.clusterAt (clusterOf c)
    s.setCluster (clusterOf c) { cl with ptroot := contextOf v cl.owner }
  else if n = 0x0A1 then
    let x := v.toNat
    s.setCore c { k with ring := { k.ring with enc := bits x 48 16, defs := bits x 32 16, uns := bits x 16 16 } }
  else if n = 0x0B2 then
    let wins := (List.range 16).foldl (init := k.wins) fun ws w =>
      tput Win.init ws w { k.winAt w with held := v.getLsbD w }
    s.setCore c { k with wins := wins }
  else if n = 0x0B4 then s.slotctl c v
  else if n = 0x131 ∨ 0x140 ≤ n then s.sysWrite c t n v s.tick false
  else
    let k := k.putReg n v.toNat s.tick
    s.setCore c (k.setSlot t ((k.slotAt t).brodStore n v))

/-- BRODFORT_ACCESS (R410): a read leaves its value in the reply register of the physical function; while only the
mailbox is up it reads all ones (R420). Marked DESIGN CHOICE, log 14. -/
def execBrodfortAccess (c : Nat) (r : BrodReg) (write : Option Word) (s : State) : Res :=
  .next <|
    if s.device.dev ≠ .running then
      match write with
      | none => { s with hostReply := 0xFFFFFFFFFFFFFFFF#64 }
      | some _ => s
    else match r, write with
    | .sys t n, none => { s with hostReply := (s.sysRead c t n.toNat s.tick false).getD 0 }
    | .sys t n, some v => if (sysAccess n.toNat).isSome then s.brodWrite c t n.toNat v else s
    | .desc w q, none => { s with hostReply := (s.winAt c w).word q.val }
    | .desc w q, some v => (s.setWin c w ((s.winAt c w).brodStore q v)).retryWin c w
    | .window w byte, none =>
      let at_ := (s.winAt c w).base.toNat * 32 + byte
      { s with hostReply := BitVec.ofNat 64 (ofBytes (tgets 0 (s.coreAt c).wstore at_ 8)) }
    | .window w byte, some v =>
      let at_ := (s.winAt c w).base.toNat * 32 + byte
      if at_ + 8 ≤ Config.wstoreBytes then
        s.setCore c { s.coreAt c with wstore := tputs 0 (s.coreAt c).wstore at_ (bytesOf 8 v.toNat) }
      else s

/-- BRODFORT_DUMP: the image of a halted core whose parts have stopped, and 64 bytes more, at a key of memory (R412). -/
def execBrodfortDump (c : Nat) (addr : Nat) (s : State) : Res :=
  .next <|
    let k := s.coreAt c
    if s.device.dev ≠ .running ∨ k.stop ≠ .halted ∨ !s.stopDone c none then s
    else
      s.writeServed addr (s.contextImage c none ++ bytesOf 8 k.dbgev.toNat ++ bytesOf 8 k.haltTick.toNat
        ++ bytesOf 8 k.cens.word.toNat ++ bytesOf 40 0)

/-! ## Link counters (R416 to R418) -/

/-- Whether a router's link leads to another router of its die's mesh: d is 0 to 3 for N, E, S, W (R417, R431). -/
def linkLeads (q row col d : Nat) : Bool :=
  let r := q % 6 / 3 * 16 + row
  let c := q % 3 * 16 + col
  match d with
  | 0 => decide (r ≠ 0)
  | 1 => decide (c ≠ 47)
  | 2 => decide (r ≠ 31)
  | _ => decide (c ≠ 0)

/-- The counts of a link for one class, as they stand: STALL in the upper half, FLITS in the lower. What a link counts
is a free value; it stands where nothing moved, and is zero where nothing moved since it was cleared (R416). Marked
DESIGN CHOICE, log 13. -/
def State.linkCount (s : State) (i : Nat) : Word :=
  if s.links.moved = s.links.cleared then 0 else Config.linkCount s.links.cleared s.links.moved i

/-- A snapshot (R417); `ten` is the tenant that takes it, and sees only its own clusters (R418). -/
def State.snapshot (s : State) (periodic : Bool) (ten : Nat) (k : Nat) : List Byte :=
  let free (i : Nat) : List Byte := bytesOf 8 (s.linkCount i).toNat
  let header := bytesOf 8 ((if periodic then 2 ^ 40 else 0) + ten * 2 ^ 32 + s.links.interval.toNat * 2 ^ 24
      + s.pkg.toNat * 2 ^ 16 + 0x014C)
    ++ bytesOf 8 s.tick.toNat ++ bytesOf 8 k ++ bytesOf 8 s.links.began.toNat ++ bytesOf 32 0
  let cluster (q : Nat) : List Byte :=
    if ten ≠ 0 ∧ (s.clusterAt q).owner.map BitVec.toNat ≠ some ten then List.replicate 0xA000 0
    else
      (List.range 256).flatMap fun i => (List.range 4).flatMap fun d =>
        if linkLeads q (i / 16) (i % 16) d then (List.range 5).flatMap fun v => free (((q * 256 + i) * 4 + d) * 5 + v)
        else List.replicate 40 0
  let links := if ten ≠ 0 then List.replicate 1152 0
    else ((List.range 60).flatMap fun i => free (122880 + i)) ++ List.replicate 32 0
      ++ (List.range 80).flatMap fun i => free (122940 + i)
  let slices := if ten ≠ 0 then List.replicate 4096 0
    else (List.range 256).flatMap fun i =>
      let z := s.sliceAt (i / 64, i % 64)
      bytesOf 4 z.evictions.toNat ++ bytesOf 4 z.merges.toNat ++ bytesOf 4 z.exceptions.toNat ++ bytesOf 4 0
  header ++ (List.range 24).flatMap cluster ++ links ++ slices

/-- The bytes of a snapshot (R417). -/
def snapshotBytes : Nat := 64 + 24 * 0xA000 + 1152 + 4096

/-- LSNAP (R418): once its stores may go (R398), it stores the counts as they stand. -/
def execLsnap (a : BitVec 4) (s : State) : Res :=
  finish s (privileged (.lsnap a) s fun s =>
    let va := s.me.readA a
    if !aligned va.toNat 64 then .trap (memTrap 7 7 1 va)
    else settled s fun s =>
      match s.bulkFault s.cur (.store []) va (chunks snapshotBytes) 16 with
      | some f => .trap (f.trap 1)
      | none => metered (.store []) va snapshotBytes 64 s fun s =>
        .done (State.bulkPut (chunks snapshotBytes) s s.cur va (s.snapshot false (s.meterTenant s.cur) 0)))

/-- Clearing the counts of this package's home slices (R416). -/
def State.clearSlices (s : State) : State :=
  [0, 1, 2, 3].foldl (init := s) fun s d =>
    let x := s.dieAt d
    let slices := x.slices.foldl (init := x.slices) fun t e =>
      if e.1 < 64 then tput Slice.init t e.1 { e.2 with evictions := 0, merges := 0, exceptions := 0 } else t
    s.setDie d { x with slices := slices }

/-- LINK_SNAPSHOT (R416): at the ticks its interval names, the counts are copied into the next buffer and cleared.
Marked PRESUMED, log 29. -/
def execLinkSnapshot (s : State) : Res :=
  .next <|
    let l := s.links
    let i := l.interval.toNat
    if i < 14 ∨ 26 < i ∨ l.buffers = 0 ∨ s.tick.toNat % 2 ^ i ≠ 0 ∨ l.began = s.tick then s
    else
      let bs := s.snapshot true 0 l.snapshot
      let s := s.writeServed (l.base.toNat + l.snapshot % l.buffers * bs.length) bs
      { s.clearSlices with
        links := { l with snapshot := l.snapshot + 1, began := s.tick, cleared := l.moved } }

/-! ## Trace records (R408, R415) -/

/-- The place of a record among those of its tick: completions, task events, command issues (R408). -/
def TraceRec.place (r : TraceRec) : Nat := (if r.kind = 4 then 0 else if r.kind = 3 then 2 else 1) * 64 + r.key

/-- Inserting a record at its place. -/
def insertTrace (x : BitVec 64 × Bool × TraceRec) (l : List (BitVec 64 × Bool × TraceRec)) :
    List (BitVec 64 × Bool × TraceRec) :=
  match l with
  | [] => [x]
  | y :: r => if x.2.2.place < y.2.2.place then x :: y :: r else y :: insertTrace x r

/-- A dropped record (R408). -/
def Core.dropTrace (k : Core) : Core :=
  { k with trc := { k.trc with drop := if k.trc.drop = 0xFFFF#16 then 0xFFFF#16 else k.trc.drop + 1 } }

/-- A record goes to the trace ring that the physical function names, or is dropped (R415). Marked DESIGN CHOICE, log
13. -/
def State.ringRecord (s : State) (c : Nat) (bs : List Byte) : State :=
  match (s.clusterAt (clusterOf c)).traceLoan with
  | none => s
  | some r =>
    let x := s.traceRingAt r
    if x.size = 0 then s.setCore c (s.coreAt c).dropTrace
    else (s.writeServed (x.base.toNat + x.next % x.size * 32) bs).setTraceRing r { x with next := x.next + 1 }

/-- A record is filled into its window, or dropped and counted (R408). -/
def State.fillTrace (s : State) (c : Nat) (bs : List Byte) (site : BitVec 46) : State :=
  let k := s.coreAt c
  let w := k.trc.win.toNat
  let x := k.winAt w
  if x.takesEntries && !x.held && k.fillRoom w then s.fillNow c w bs site none else s.setCore c k.dropTrace

/-- The records of the ticks before are filled (R26, R408). -/
def State.flushTrace (s : State) (c : Nat) : State :=
  let k := s.coreAt c
  let es := (k.traced.filter fun x => x.1 != s.tick).foldl (init := []) fun l x => insertTrace x l
  es.foldl (init := s.setCore c { k with traced := k.traced.filter fun x => x.1 == s.tick }) fun s x =>
    if x.2.1 then s.ringRecord c (x.2.2.bytes x.1) else s.fillTrace c (x.2.2.bytes x.1) x.2.2.site

/-- The records of every core. -/
def State.flushTraces (s : State) : State :=
  (s.cores.filter fun e => !e.2.traced.isEmpty).foldl (init := s) fun s e => s.flushTrace e.1

end Sys2Proof.Machine
end

