-- ==== Sys2Proof/Machine/Detector.lean ====
section
/-! DEFINITION. The report window (R345, R346), the Stoat detector (R354 to R359, R434) and the watchdog (R360 to R362). -/

namespace Sys2Proof.Machine

open Sys2Proof

/-! ## The report window (R345, R346) -/

/-- The header of a record (R346). -/
def Report.header (r : Report) (rseq : BitVec 16) : Word :=
  BitVec.ofNat 64 (rseq.toNat * 2 ^ 48 + r.kind.toNat * 2 ^ 40 + (r.body.length + 1) * 2 ^ 32 + r.info.toNat)

/-- The wait edge of a notice without room (R27, R346). Marked DEDUCED, log 39. -/
def noticeEdge (c w : Nat) : Edge where
  party := .unit c
  at_ := c
  kind := .fill
  core := c
  win := w
  level := 0
  arg := 0
  site := mkSite c 0 0 0
  retry := some (.reportRecordPost (clusterOf c))
  reported := false

/-- The oldest header owed to a core's notice window is copied there, or waits for room with an edge (R27, R346).
Marked DEDUCED, log 39. -/
def State.notice (s : State) (c : Nat) : State :=
  let k := s.coreAt c
  match k.notices with
  | [] => s
  | v :: r =>
    let w := k.rpnot.toNat % 16
    let x := k.winAt w
    let done := { s.setCore c { k with notices := r } with
      edges := s.edges.filter fun e => e.party != .unit c || e.kind != .fill }
    if !k.rpnot.getLsbD 4 || !x.v || x.mode != .plain || x.esz != 1#4 then done
    else if x.held || !k.fillRoom w then s.addEdge (noticeEdge c w)
    else done.fillWin c w (bytesOf 8 v.toNat) (mkSite c 0 0 k.seq) none

/-- Copying the headers owed to the notice windows of a cluster's cores. -/
def State.noticesOf (s : State) (cl : Nat) : State :=
  (s.cores.filter fun e => clusterOf e.1 == cl && !e.2.notices.isEmpty).foldl (init := s) fun s e => s.notice e.1

/-- Posting the oldest record that waits, all of it in one step, if the window has room for it (R345); the posting of an
engine fault may meet a site breakpoint (R411).
Marked DEDUCED, log 41. -/
def State.postRecord (s : State) (cl : Nat) : State :=
  let k := s.clusterAt cl
  match k.held with
  | [] => s
  | r :: rest =>
    if 1024 < k.reports.ext + r.body.length + 1 then s
    else
      let h := r.header k.rseq
      let reports := (h :: r.body).foldl (init := k.reports) Service.push
      let s := s.setCluster cl { k with held := rest, reports := reports, rseq := k.rseq + 1 }
      let s := (s.retryWin (serviceKey cl 0x1FFD) 0).notifyOwner cl 0
      let core := s.coreAt r.core
      let stuck := match r.port with
        | some p => core.stuck.erase p
        | none => core.stuck
      let notices := if core.rpnot.getLsbD 4 then core.notices ++ [h] else core.notices
      let s := s.setCore r.core { core with stuck := stuck, notices := notices }
      if r.kind = 2#8 then s.breakpoint r.core 2 ((r.body.headD 0).setWidth 46) else s

/-- REPORT_RECORD_POST (R345, R346). -/
def execReportRecordPost (cl : Nat) (s : State) : Res :=
  .next (((s.clusterAt cl).held.foldl (init := s) fun s _ => s.postRecord cl).noticesOf cl)

/-! ## What commands fill and shrink (R434) -/

/-- The commands queued or running at a core's ports; one that has ended runs until its census entry is filled, and has
completed then, whether or not it still owes its done element (R212, R356, R402, R434). -/
def Core.commands (k : Core) : List (Port × Cmd) :=
  let at_ (p : Port) (xs : List Cmd) : List (Port × Cmd) := xs.map fun x => (p, x)
  let round := match k.round with
    | some r => r.cmd :: (match r.drain with
      | some d => d.fmark
      | none => [])
    | none => []
  let runs (xs : List MxRun) : List Cmd := xs.map MxRun.cmd
  at_ .fab (k.fabq ++ k.fabRun ++ round) ++ at_ .bte (k.bteq ++ k.bte.toList.filterMap fun r => r.map BteRun.cmd)
    ++ at_ .mx (k.mxq ++ runs (k.mx.run.toList ++ k.mx.load ++ k.mx.out.toList))
    ++ at_ .ring (k.ringq ++ k.ring.run.toList) ++ at_ .pkt (k.pktq ++ k.pktRuns.map PktRun.cmd)
    ++ (k.ended.filter Ended.census).map fun e => (e.port, e.cmd)

/-- Whether a command forms a census entry at its end (R401). -/
def hasCensus (p : Port) (x : Wide) : Bool := p == .mx || decide (cmdOp x = 0x02)

/-- The ring windows of every core of a core's segment (R434). -/
def State.segmentWins (s : State) (c : Nat) (ws : Ctrl → List Nat) : List (Nat × Nat) :=
  match s.segmentOf c with
  | some q => (s.segCores q).flatMap fun j => (ws (s.ctrlAt q)).map fun w => (j, w)
  | none => []

/-- The tile and scale windows of a controller. -/
def Ctrl.ringWins (x : Ctrl) : List Nat := [x.ewin, x.wwin, x.eswin, x.wswin]

/-- The windows a command may fill (R434). -/
def State.cmdFills (s : State) (c : Nat) (p : Port) (x : Wide) : List (Nat × Nat) :=
  let k := s.coreAt c
  let here (ws : List Nat) : List (Nat × Nat) := ws.map fun w => (c, w)
  here (doneWin x).toList ++ here (if hasCensus p x && k.cens.v then [k.cens.cwin.toNat] else [])
    ++ match cmdOp x with
      | 0x02 => here (Image.sinkWins (k.image (cf x 24 2)))
      | 0x26 | 0x41 | 0x44 => here [cmdDstw x]
      | 0x43 => [(cf x 32 13, cmdDstw x)]
      | 0x63 =>
        match s.segmentOf c with
        | some q => let f := (s.ctrlAt q).family (cmdMod x 0); here [f.1, f.2]
        | none => []
      | 0x64 => s.segmentWins c fun q => q.cwin :: q.ringWins
      | 0x65 => s.segmentWins c Ctrl.ringWins
      | _ => []

/-- The windows the generators of an image shrink (R434). -/
def Image.shrinks (m : Image) : List Nat :=
  (List.range 8).filterMap fun g =>
    let x := Image.shape m g
    if Image.hasGen m g && decide (gKind x = 0 ∧ gShn x ≠ 0) then some (gWin x) else none

/-- The windows a command may shrink (R434). -/
def State.cmdShrinks (s : State) (c : Nat) (p : Port) (x : Wide) : List (Nat × Nat) :=
  let k := s.coreAt c
  let here (ws : List Nat) : List (Nat × Nat) := ws.map fun w => (c, w)
  here (if hasCensus p x && k.cens.rpv then [k.cens.rwin.toNat] else [])
    ++ match cmdOp x with
      | 0x02 => here (Image.shrinks (k.image (cf x 24 2)))
      | 0x04 | 0x62 => here [cmdSrcw x]
      | 0x42 | 0x43 | 0x44 | 0x45 | 0x46 => here (shrinkTargets x)
      | 0x63 => here (cmdSrcw x :: (if cmdMod x 1 then [] else [cmdDstw x]))
      | 0x64 | 0x65 | 0x66 => s.segmentWins c Ctrl.ringWins
      | _ => []

/-- The commands of the package that fill, or shrink, a window of a core (R434). -/
def State.touching (s : State) (fill : Bool) (core win : Nat) : List Party :=
  s.cores.flatMap fun e => e.2.commands.filterMap fun x =>
    let ws := if fill then s.cmdFills e.1 x.1 x.2.cmd else s.cmdShrinks e.1 x.1 x.2.cmd
    if ws.contains (core, win) then some (.cmd x.2.site) else none

/-! ## Successor sets (R354, R355) -/

/-- Whether the producer role of a window is complete (R355). -/
def Win.prodDone (x : Win) : Bool := decide (x.prod.length = x.pcnt.toNat) && !x.prodOver
/-- Whether the consumer role of a window is complete (R355). -/
def Win.consDone (x : Win) : Bool := decide (x.cons.length = x.ccnt.toNat) && !x.consOver

/-- Slots as parties. -/
def slotParties (l : List (Nat × Nat)) : List Party := l.map fun e => .task e.1 e.2

/-- The slots of a core that wait in a binding, or run from one, of a kind that passes a test. -/
def Core.slotsBound (k : Core) (p : BitVec 26 → Bool) : List Nat :=
  (List.range Config.slots).filter fun t => (k.slotAt t).status != .free && p (k.slotAt t).bind

/-- The slots an encounter waits on: the one it was delivered to, else those of kind ring (R334). -/
def State.encounterSlots (s : State) (c : Nat) (slot : Option Nat) : Option (List Party) :=
  match slot with
  | some t => some [.task c t]
  | none =>
    some (((s.coreAt c).slotsBound fun b => bindKind b == 3).map (.task c ·))

/-- The successors of a ring hold (R334). Marked DEDUCED, log 40. -/
def State.ringSigma (s : State) (e : Edge) : Option (List Party) :=
  let c := e.core
  match e.win with
  | 0 => s.encounterSlots c (if e.arg.toNat < 32 then some e.arg.toNat else none)
  | 1 =>
    match s.segmentOf c with
    | none => none
    | some k =>
      let x := s.ctrlAt k
      match s.meets k c with
      | none => none
      | some (_, en) =>
        match (s.ringAt c).holders[(entSlot en).toNat]'(Bool.toNat_lt _) with
        | none => none
        | some j =>
          let owner := ctrlFirst k + (tget Target.init x.targets j).own
          some (((s.coreAt owner).slotsBound fun b =>
              (bindKind b == 1 || bindKind b == 4 || bindKind b == 6) && bindArg b == x.cwin).map (.task owner ·))
  | 2 =>
    match (s.ringAt c).queue with
    | q :: _ => s.encounterSlots c q.slot
    | [] => none
  | 15 => some [e.party]
  | _ => none

/-- The successor set of an edge; none where it is open (R354). Marked DEDUCED, log 40. -/
def State.sigma (s : State) (e : Edge) : Option (List Party) :=
  let x := s.winAt e.core e.win
  match e.kind with
  | .read =>
    if Config.cores ≤ e.core || x.held || x.mode == .ringEast || x.mode == .ringWest || x.mode == .ingress
        || (x.mode == .backed && (decide (x.rc ≠ 0) || !x.refills.isEmpty)) || !x.prodDone
        || (s.ctrls.any fun k => decide (k.2.cwin = e.win) && k.2.tokens.any fun t => t.1 == e.core) then none
    else some (slotParties x.prod ++ s.touching true e.core e.win)
  | .fill =>
    if Config.cores ≤ e.core || x.held || x.mode == .egress || !x.consDone then none
    else some (slotParties x.cons ++ s.touching false e.core e.win)
  | .barrier =>
    match levelOf e.level with
    | none => none
    | some l =>
      let g := s.groupAt ((s.coreAt e.core).group.getD s.nextGroup)
      let b := g.barrierAt l e.core (BitVec.ofNat 4 e.win)
      if (l = .pod ∧ s.podShared e.core g) ∨ 64 < b.arcs.toNat ∨ b.arrived.length < b.arcs.toNat then none
      else some b.arrived
  | .tkn =>
    let n := s.netAt e.win
    match n.state, n.closer with
    | .closed, some t => if n.exh || n.byReset then none else some (slotParties [t])
    | _, _ => none
  | .spawn =>
    some ((List.range Config.slots).filterMap fun t =>
      if e.party = .task e.at_ t then none else some (.task e.at_ t))
  | .port =>
    some ((s.coreAt e.at_).commands.filterMap fun x => if x.1.code = e.win then some (.cmd x.2.site) else none)
  | .ring => s.ringSigma e
  | .peer =>
    let k := s.coreAt e.core
    match k.commands.filter fun x => x.1 == .mx with
    | [] => some ((k.slotsBound fun _ => true).map (.task e.core ·))
    | xs => some (xs.map fun x => .cmd x.2.site)
  | .other => none

/-- The successors of a party with all its edges: open where one of them is open, or where a command of it is held at a
fault that can be answered (R293, R354). Marked DEDUCED, log 40. -/
def State.sigmaOf (s : State) (p : Party) : Option (List Party) :=
  let held := match p with
    | .cmd site => s.accs.any fun (a : Acc) => a.holder == Holder.cmd site && a.stage == AccStage.faulted
    | .task _ _ | .unit _ => false
  if held then none
  else (s.edges.filter fun (e : Edge) => e.party == p).foldl (init := some []) fun acc e =>
    match acc, s.sigma e with
    | some l, some m => some (l ++ m)
    | _, _ => none

/-! ## Standoffs (R356, R358) -/

/-- Whether a party is a slot or a command (R354). -/
def Party.counts : Party → Bool
  | .task _ _ | .cmd _ => true
  | .unit _ => false

/-- The slots and commands that hold a wait edge, each once (R354). -/
def State.blocked (s : State) : List Party := ((s.edges.map Edge.party).filter Party.counts).eraseDups

/-- Whether a party is gone (R356). -/
def State.gone (s : State) (blocked : List Party) (p : Party) : Bool :=
  match p with
  | .cmd _ | .unit _ => false
  | .task c t =>
    let k := s.coreAt c
    (k.slotAt t).status == .free && k.slots.all fun e => e.2.status == .free || blocked.contains (.task c e.1)

/-- A party with its successors that are not gone. -/
abbrev Waits := List (Party × List Party)

/-- The parties with closed successor sets, each with the successors that are not gone. -/
def State.closedWaits (s : State) : Waits :=
  let blocked := s.blocked
  blocked.filterMap fun p => (s.sigmaOf p).map fun l => (p, l.filter fun q => !s.gone blocked q)

/-- Removing the parties that wait on one outside, until none does: what is left is the union of all standoffs (R356).
-/
def largest (fuel : Nat) (l : Waits) : Waits :=
  match fuel with
  | 0 => l
  | fuel + 1 => largest fuel (l.filter fun x => x.2.all fun q => l.any fun y => y.1 == q)

/-- What a party reaches. -/
def reaches (fuel : Nat) (l : Waits) (seen : List Party) : List Party :=
  match fuel with
  | 0 => seen
  | fuel + 1 =>
    let more := (seen.flatMap fun p => ((l.find? fun x => x.1 == p).map Prod.snd).getD []).eraseDups
    reaches fuel l (seen ++ more.filter fun q => !seen.contains q)

/-- The minimal standoffs: the sets that each of their members reaches (R358). -/
def minimal (l : Waits) : List (List Party) :=
  let n := l.length
  (l.map fun x => (x.1, reaches n l [x.1])).foldl (init := []) fun found x =>
    let closed := x.2.all fun q => (reaches n l [q]).contains x.1
    if closed && !(found.any fun f => f.contains x.1) then found ++ [x.2] else found

/-- The blocked parties whose successors lie within a set and those already added; one that waits on gone slots alone is
a standoff of its own (R358). -/
def dependents (fuel : Nat) (all : Waits) (set : List Party) : List Party :=
  match fuel with
  | 0 => []
  | fuel + 1 =>
    let more := (all.filter fun x => !set.contains x.1 && !x.2.isEmpty && x.2.all set.contains).map Prod.fst
    more ++ dependents fuel all (set ++ more)

/-- The core of a party, its slot, and its site: the order of members (R359). -/
def State.partyKey (s : State) (p : Party) : Nat × Nat × Nat :=
  match p with
  | .task c t => (c, t, (s.siteOf c t).toNat)
  | .cmd site => (siteCore site, siteSlot site, site.toNat)
  | .unit c => (c, 0, 0)

/-- Whether a party comes before another (R359). -/
def State.partyBefore (s : State) (p q : Party) : Bool :=
  let x := s.partyKey p
  let y := s.partyKey q
  decide (x.1 < y.1) || (x.1 == y.1 && (decide (x.2.1 < y.2.1) || (x.2.1 == y.2.1 && decide (x.2.2 ≤ y.2.2))))

/-- Inserting a party in order. -/
def State.insertParty (s : State) (p : Party) (l : List Party) : List Party :=
  match l with
  | [] => [p]
  | q :: r => if s.partyBefore p q then p :: q :: r else q :: s.insertParty p r

/-- Parties in order. -/
def State.inOrder (s : State) (l : List Party) : List Party := l.foldl (init := []) fun l p => s.insertParty p l

/-- WKIND (R359). Marked DEDUCED, log 42. -/
def WaitKind.code : WaitKind → Nat
  | .read => 1 | .fill => 2 | .barrier => 3 | .tkn => 4 | .spawn => 5 | .port => 6 | .ring => 7 | .peer => 8 | .other => 9

/-- The three elements of a member of a record: one waiting operation (R359). Marked DEDUCED, log 42. -/
def State.member (s : State) (e : Edge) (dep : Bool) : List Word :=
  let isWin := e.kind == .read || e.kind == .fill || e.kind == .other
  let obj := if e.kind == .tkn then 0 else e.win
  let arg := match e.kind with
    | .read => e.arg.toNat
    | .barrier => e.arg.toNat
    | .tkn => e.win
    | .fill | .spawn | .port | .ring | .peer | .other => 0
  let core := if e.kind == .tkn then 0 else e.core
  let last :=
    if isWin then
      if Config.cores ≤ e.core then
        let x := s.service (e.core / 8192) (e.core % 8192) e.win
        x.fill.toNat * 2 ^ 32 + x.ext
      else (s.winAt e.core e.win).fill.toNat * 2 ^ 32 + (s.winAt e.core e.win).ext
    else if e.kind == .barrier then
      match levelOf e.level with
      | some l => ((s.groupAt ((s.coreAt e.core).group.getD s.nextGroup)).barrierAt l e.core
          (BitVec.ofNat 4 e.win)).gen.toNat
      | none => 0
    else 0
  [e.site.setWidth 64,
    BitVec.ofNat 64 (e.kind.code * 2 ^ 60 + obj % 16 * 2 ^ 56 + e.level % 8 * 2 ^ 53 + core % 8192 * 2 ^ 40
      + (if dep then 2 ^ 39 else 0) + arg),
    BitVec.ofNat 64 last]

/-- The waits of parties that no report has listed yet, in the order of members (R358, R359). Marked DEDUCED, log 43. -/
def State.unreported (s : State) (ps : List Party) : List Edge :=
  (s.inOrder ps).flatMap fun p => s.edges.filter fun e => e.party == p && !e.reported

/-- Marking waits as reported (R358). -/
def State.markReported (s : State) (es : List Edge) : State :=
  { s with edges := s.edges.map fun e => if es.contains e then { e with reported := true } else e }

/-- Reporting a minimal standoff with its dependents, if this cluster is the lowest of its members' and an edge of it is
still to be reported (R358, R359). Marked DEDUCED, log 43. -/
def State.reportStandoff (s : State) (cl : Nat) (all : Waits) (set : List Party) : State :=
  let deps := dependents all.length all set
  let lowest := ((set ++ deps).map fun p => clusterOf p.core).min?
  match s.unreported set with
  | [] => s
  | e :: r =>
    if lowest = some cl then
      let ms := (e :: r).map (·, false) ++ (s.unreported deps).map (·, true)
      let body := (ms.take 84).flatMap fun m => s.member m.1 m.2
      let info := min ms.length 84 + (if 84 < ms.length then 65536 else 0)
      (s.markReported (ms.map Prod.fst)).report cl ⟨3, BitVec.ofNat 32 info, body, e.party.core, none⟩
    else s

/-- STANDOFF_REPORT (R356, R358, R359). -/
def execStandoffReport (cl : Nat) (s : State) : Res :=
  .next <|
    let all := s.closedWaits
    (minimal (largest all.length all)).foldl (init := s) fun s set => s.reportStandoff cl all set

/-! ## Orphan waits (R357) -/

/-- Whether an edge is an orphan wait (R357). -/
def State.orphan (s : State) (e : Edge) : Bool :=
  let x := s.winAt e.core e.win
  if Config.cores ≤ e.core || x.held || !x.v then false
  else match e.kind with
    | .read =>
      decide (x.pcnt = 0) && (x.mode == .plain || (x.mode == .backed && decide (x.rc = 0) && x.refills.isEmpty))
        && (s.touching true e.core e.win).isEmpty
    | .fill =>
      decide (x.ccnt = 0) && (x.mode == .plain || x.mode == .backed) && (s.touching false e.core e.win).isEmpty
    | .barrier | .tkn | .spawn | .port | .ring | .peer | .other => false

/-- ORPHAN_WAIT_REPORT: the orphan waits of a cluster's cores that are still to be reported (R357, R359). -/
def execOrphanWaitReport (cl : Nat) (s : State) : Res :=
  .next <|
    (s.edges.filter fun e => clusterOf e.party.core == cl && !e.reported && s.orphan e).foldl (init := s) fun s e =>
      (s.markReported [e]).report cl ⟨4, 1, s.member e false, e.party.core, none⟩

/-! ## The watchdog (R360 to R362) -/

/-- EN of WDCTL. -/
def Core.wdOn (k : Core) : Bool := k.wdctl.getLsbD 39
/-- HB of WDCTL. -/
def Core.wdHeart (k : Core) : Bool := k.wdctl.getLsbD 36
/-- POL of WDCTL; 3 acts as 0. -/
def Core.wdPolicy (k : Core) : Nat := let p := k.wdctl.toNat / 2 ^ 37 % 4; if p = 3 then 0 else p
/-- The limit in ticks. -/
def Core.wdLimit (k : Core) : Nat := 2 ^ min 40 (max 16 (k.wdctl.toNat % 64))

/-- Whether a tick counts toward a core's limit (R361). Marked DEDUCED, log 45. -/
def State.wdCounts (s : State) (c : Nat) (k : Core) : Bool :=
  let saved := match k.stop with
    | .saved _ => true
    | .none | .halted => false
  k.wdOn && !saved && (if k.wdHeart then k.slots.any fun e => e.2.status != .free
    else s.edges.any fun e => e.at_ == c && !(e.kind == .read && decide (e.core < Config.cores)
      && ((s.winAt e.core e.win).mode == .ingress || (s.winAt e.core e.win).held)))

/-- The masks of slots waiting and runnable (R362). -/
def Core.slotMasks (k : Core) : Nat :=
  k.slots.foldl (init := 0) fun n e =>
    if e.2.status = .waiting then n + 2 ^ e.1 else if e.2.status = .runnable then n + 2 ^ (32 + e.1) else n

/-- The windows a command of a core poisons when it is ended by force (R351). -/
def State.killTargets (s : State) (c : Nat) (p : Port) (x : Wide) : List (Nat × Nat) :=
  (s.cmdFills c p x).filter fun w => !((doneWin x).toList.map fun d => (c, d)).contains w
    && !(hasCensus p x && (s.coreAt c).cens.v && w == (c, (s.coreAt c).cens.cwin.toNat))

/-- Whether a command is a sweep or a rotation, which end without a report (R341). -/
def isSweep (x : Wide) : Bool := decide (cmdOp x = 0x64 ∨ cmdOp x = 0x65)

/-- A command ends by force: its targets are poisoned with CLASS 0x09, its record is posted, and it ends in a fault,
with the census entry and the done element of one (R212, R348, R351, R362, R399, R401). Marked DEDUCED, log 44. -/
def State.endByForce (s : State) (c : Nat) (detail : Word) (p : Port) (x : Cmd) : State :=
  let ws := s.killTargets c p x.cmd
  let mask := winMask ((s.coreAt c).newlyPoisoned ((ws.filter fun w => w.1 == c).map Prod.snd))
  let s := ws.foldl (init := s) fun s w => s.setPoison w.1 w.2 (s.winAt w.1 w.2).fill 9 x.site detail
  let s := if isSweep x.cmd && (s.coreAt c).ring.run == some x then s else s.engineReport c x.site none 9 mask detail 0
  s.endCommand c x p true false (decide (cmdOp x.cmd = 0x25 ∨ cmdOp x.cmd = 0x26))

/-- The entries and done elements that the ended commands of a core owe, judged once. -/
def State.settleEnded (s : State) (c : Nat) : State :=
  let s := s.compares c ((s.coreAt c).owed false)
  let s := s.censusFills c ((s.coreAt c).owed true)
  s.doneFills c (s.coreAt c).owesDone

/-- Ending every command of a core by force (R362, R399). What the ended commands owe is filled now, or goes with the
core's windows. Marked DEDUCED, log 44. -/
def State.endCommands (s : State) (c : Nat) (detail : Word) : State :=
  let over_ := (s.coreAt c).ended.map fun e => e.cmd.site
  let live := (s.coreAt c).commands.filter fun x => !over_.contains x.2.site
  let s := live.foldl (init := s) fun (s : State) x => s.endByForce c detail x.1 x.2
  let s := s.dropCommands c
  let k := s.coreAt c
  let m := k.mx
  let s := s.setCore c { k with
    fabq := [], mxq := [], bteq := [], ringq := [], pktq := [], pktRuns := [], fabRun := [], fabLast := none, round := none
    bte := Vector.replicate 4 none, mx := { m with run := none, load := [], out := none, peer := [] } }
  let s := (s.settleEnded c).dropCmdEdges c
  let s := s.setCore c { s.coreAt c with ended := [] }
  match s.segmentOf c with
  | some q =>
    let s := s.setRing c { s.ringAt c with run := none, buf := [] }
    if ctrlFirst q = c then
      s.setCtrl q { s.ctrlAt q with run := .idle, moving := false, boundary := false, meet := [], tokens := [] }
    else s
  | none => s.setRing c { s.ringAt c with run := none, buf := [] }

/-- Killing a group: every slot, every command; it then completes, with status 0x88 after a save or restore that failed
(R164, R362). Marked DEDUCED, log 44. -/
def State.killGroup (s : State) (gn : Nat) (detail : Word) (failed : Bool) : State :=
  let g := s.groupAt gn
  let s := g.members.foldl (init := s) fun s c =>
    ((List.range Config.slots).foldl (init := s) fun s t => s.killSlot c t).endCommands c detail
  (s.setGroup gn { s.groupAt gn with saving := false, failed := failed }).post (.coreGroupCompletion gn)

/-- WATCHDOG_FIRE (R362): the record, then the policy. -/
def execWatchdogFire (c : Nat) (s : State) : Res :=
  .next <|
    let k := s.coreAt c
    if !k.wdOn ∨ k.wdcnt.toNat < k.wdLimit then s
    else
      let p := k.wdPolicy
      let s := s.report (clusterOf c)
        ⟨5, BitVec.ofNat 32 (p + (if k.wdHeart then 4 else 0)),
          [BitVec.ofNat 64 c, k.wdcnt, BitVec.ofNat 64 k.slotMasks, s.tick], c, none⟩
      let s := s.setCore c { k with wdcnt := 0 }
      match k.group with
      | none => s
      | some gn => if p = 1 then s.post (.groupPreempt gn) else if p = 2 then s.killGroup gn 2 false else s

end Sys2Proof.Machine
end

