-- ==== Sys2Proof/Machine/Reset.lean ====
section
/-! DEFINITION. Returning a core to its state after reset (R30, R161, R233, R341, R388, R399), and the end of a core group
(R161, R164, R341). -/

namespace Sys2Proof.Machine

open Sys2Proof

/-- Removing events of the schedule that pass a test, whether due or later. -/
def State.dropEvents (s : State) (p : Instr → Bool) : State :=
  { s with
    agenda := s.agenda.filter fun e => !p e
    due := ((s.agenda.take s.due).filter fun e => !p e).length
    late := (((s.agenda.drop s.due).take s.late).filter fun e => !p e).length }

/-- The barrier releases on their way to a core. -/
def isRelease (c : Nat) (e : Instr) : Bool :=
  match e with
  | .barrierReleaseArrival d _ _ _ _ => d == c
  | _ => false

/-- Whether an access is one of a core's backing agent. -/
def Acc.ofAgent (a : Acc) (c : Nat) : Bool := a.holder == Holder.agent c

/-- A core as a reset leaves it: its translations stay, and IDLE starts from zero (R30, R161, R400, R413). Marked
DEDUCED, log 55. -/
def Core.toReset (k : Core) (tick : BitVec 64) : Core :=
  { Core.init with
    slots := k.slots.foldl (init := []) fun t e => tput Slot.init t e.1 { Slot.init with act := e.2.act + 1 }
    stall := Core.init.stall.set 1 (0 - tick)
    utlb := k.utlb }

/-- What waits at a core that has just lost its windows is judged at once: remote operations of tasks and fills of block
transfers meet WHY 1, whatever windows the core is given next (R233, R288). -/
def State.judgeWaiting (s : State) (c : Nat) : State :=
  (s.edges.filter fun e => e.core == c && (e.kind == .read || e.kind == .fill || e.kind == .other)).foldl (init := s)
    fun s e => match e.retry with
      | some (.waitingFillProceeds d t) => s.retryOp d t true
      | some (.waitingReadProceeds d t) => s.retryOp d t false
      | some (.remoteWindowOperation d (.engine n)) => s.wtwArrive d n
      | _ => s

/-- Returning a core to the state of R30 except TICK: its slots are killed, its commands and claims end, packets, counts
and windows go, and what waits at its windows is judged (R161, R233, R388). Marked DEDUCED, log 55. -/
def State.resetCore (s : State) (c : Nat) : State :=
  let s := (List.range Config.slots).foldl (init := s) fun s t => s.killSlot c t
  let s := (s.dropCommands c).releaseCore c none
  let s := s.dropEvents (isRelease c)
  let accs := (s.accs.filter fun a => !(a.ofAgent c && !opWrites a.op)).map fun a =>
    if a.ofAgent c then { a with dest := .none } else a
  let s := { s with accs := accs }
  (s.setCore c ((s.coreAt c).toReset s.tick)).judgeWaiting c

/-- Unconfiguring every segment that holds one of the given cores (R341). -/
def State.unconfigureAll (s : State) (cores : List Nat) : State :=
  (s.segmentsOf cores).foldl (init := s) fun s k => s.unconfigure k

/-- Setting every match entry of the controllers of a row of a cluster to OFF = 1 (R341). -/
def State.clearMatchRow (s : State) (cl row : Nat) : State :=
  [0, 1, 2, 3].foldl (init := s) fun s q =>
    s.setCtrl (cl * 64 + row * 4 + q) { s.ctrlAt (cl * 64 + row * 4 + q) with table := [] }

/-- Returning cores to the state of R30, their segments unconfigured. -/
def State.resetCores (s : State) (cores : List Nat) : State :=
  cores.foldl (init := s.unconfigureAll cores) fun s c => s.resetCore c

/-! ## Launch units -/

/-- The launch unit of a cluster. -/
def State.unitAt (s : State) (cl : Nat) : LaunchUnit := (s.clusterAt cl).unit
/-- Replacing a launch unit. -/
def State.setUnit (s : State) (cl : Nat) (u : LaunchUnit) : State := s.setCluster cl { s.clusterAt cl with unit := u }

/-- A status element that is to be posted (R164). -/
def State.status (s : State) (cl : Nat) (gid rseq : BitVec 16) (code detail : Nat) : State :=
  let u := s.unitAt cl
  let v := BitVec.ofNat 64 (gid.toNat * 2 ^ 48 + rseq.toNat * 2 ^ 32 + detail % 256 * 256 + code)
  (s.setUnit cl { u with posts := u.posts ++ [v] }).post (.launchStatusPost cl)

/-- One status element is filled, if the window has room; it raises vector 1 (R164, R396). -/
def State.postStatus (s : State) (cl : Nat) : State :=
  let u := s.unitAt cl
  match u.posts with
  | [] => s
  | v :: r =>
    if u.status.ext < 64 then
      ((s.setUnit cl { u with posts := r, status := u.status.push v }).retryWin (serviceKey cl 0x1FFF) 1).notifyOwner cl 1
    else s

/-- LAUNCH_STATUS_POST (R164): a full status window holds the unit. -/
def execLaunchStatusPost (cl : Nat) (s : State) : Res :=
  .next (((s.unitAt cl).posts.foldl (init := s) fun s _ => s.postStatus cl).post (.launchRecordRead cl))

/-- A status about every part of a group, each by its own unit (R164). -/
def State.groupStatus (s : State) (gn code : Nat) : State :=
  let g := s.groupAt gn
  g.parts.foldl (init := s) fun s p => s.status p.1 g.gid p.2.2.1 code 0

/-- The parts' completion counters count the end of a group (R161). -/
def State.countDone (s : State) (gn : Nat) : State :=
  (s.groupAt gn).parts.foldl (init := s) fun s p =>
    if p.2.2.2.1 then
      let u := s.unitAt p.1
      let n := p.2.2.2.2.toNat
      s.setUnit p.1 { u with cc := u.cc.setIfInBounds n (u.cc.toList.getD n 0 + 1) }
    else s

/-- Removing a group. -/
def State.dropGroup (s : State) (gn : Nat) : State := { s with groups := tput none s.groups gn none }

/-- Whether a group can complete: it runs, every slot of every member is free, and no command is in flight (R162). -/
def State.groupDone (s : State) (gn : Nat) : Bool :=
  let g := s.groupAt gn
  g.started && !g.saving && g.members.all fun c =>
    let k := s.coreAt c
    k.group == some gn && k.commands.isEmpty && (k.slots.all fun e => e.2.status == .free)
      && !(s.accs.any fun a => match a.holder with
        | .cmd site => siteCore site == c
        | .task _ _ _ | .agent _ => false)

/-- The end of a group: its members return to the state of R30, its units count and post it (R161, R162, R341). -/
def State.endGroup (s : State) (gn code : Nat) : State :=
  let members := (s.groupAt gn).members
  (((s.resetCores members).countDone gn).groupStatus gn code).dropGroup gn

/-- CORE_GROUP_COMPLETION (R162, R164). -/
def execCoreGroupCompletion (k : Nat) (s : State) : Res :=
  .next <| if s.groupDone k then s.endGroup k (if (s.groupAt k).failed then 0x88 else 0x02) else s

end Sys2Proof.Machine
end

