-- ==== Sys2Proof/Machine/Launch.lean ====
section
/-! DEFINITION. Launch (R57 to R59, R158 to R164, R324, R341, R393, R432): records, the checks of a record and its image,
loading a part, starting a group. -/

namespace Sys2Proof.Machine

open Sys2Proof

/-! ## Records (R159) -/

/-- A 64-bit word of a launch record, as a number. -/
def recWord (r : List Word) (i : Nat) : Nat := (r.getD i 0).toNat
/-- A field of n bits from bit lo of word i of a launch record. -/
def recFld (r : List Word) (i lo n : Nat) : Nat := recWord r i / 2 ^ lo % 2 ^ n
/-- GID. -/
def recGid (r : List Word) : Nat := recFld r 3 0 16
/-- NPART. -/
def recNpart (r : List Word) : Nat := recFld r 3 24 8
/-- IMAGE with IMAGEH. -/
def recImage (r : List Word) : Addr := BitVec.ofNat 80 (recFld r 1 0 16 * 2 ^ 64 + recWord r 0)
/-- LPRI. -/
def recLpri (r : List Word) : BitVec 2 := bits (recWord r 1) 16 2
/-- SUP. -/
def recSup (r : List Word) : Bool := decide (recFld r 1 18 1 = 1)
/-- The load base B. -/
def recBase (r : List Word) : Nat := 4 * recFld r 2 22 10
/-- NROW as a count of rows. -/
def recRows (r : List Word) : Nat := recFld r 2 8 4 + 1
/-- NCOL as a count of columns. -/
def recCols (r : List Word) : Nat := recFld r 2 12 4 + 1

/-- The members of a part, row by row (R159). -/
def partMembers (cl : Nat) (r : List Word) : List Nat :=
  (List.range (recRows r)).flatMap fun i => (List.range (recCols r)).map fun j =>
    cl * 256 + (recFld r 2 0 4 + i) * 16 + recFld r 2 4 4 + j

/-- Whether the fields of a record that R159 shows as zero are zero, and SBL, NPART and GID are as R159 allows. -/
def recOk (r : List Word) : Bool :=
  decide (recFld r 1 53 11 = 0 ∧ recFld r 1 26 6 = 0 ∧ recFld r 1 19 3 ≠ 7 ∧ recFld r 2 37 27 = 0 ∧ recFld r 2 16 6 = 0
    ∧ recFld r 3 16 8 = 0 ∧ recFld r 3 32 32 = 0) && ((r.drop 20).all fun w => w == 0)
    && decide (1 ≤ recNpart r ∧ recNpart r ≤ 24) && (decide (recGid r ≠ 0) || decide (recNpart r = 1))

/-- The first member of a part outside its mesh, as R159 counts them within the part. -/
def recOutside (r : List Word) : Option Nat :=
  (List.range (recRows r * recCols r)).find? fun m =>
    decide (15 < recFld r 2 0 4 + m / recCols r ∨ 15 < recFld r 2 4 4 + m % recCols r)

/-- Whether the records of two parts agree (R432). Marked DEDUCED, log 52. -/
def recAgree (a b : List Word) : Bool :=
  recWord a 0 == recWord b 0 && recFld a 1 0 26 == recFld b 1 0 26 && recGid a == recGid b && recNpart a == recNpart b

/-! ## The image (R160) -/

/-- n bytes at a virtual address, read one by one through a cluster's page table; or the fault met (R161). -/
def State.imageBytes (s : State) (c : Nat) (va : Addr) (n : Nat) : Except (Nat × Nat) (List Byte) :=
  match n with
  | 0 => .ok []
  | n + 1 =>
    match s.translate c .load va.toNat 1 with
    | .error f => .error (0x84, f.1)
    | .ok k =>
      match s.imageBytes c (va + 1) n with
      | .ok r => .ok (s.readMem k 1 ++ r)
      | .error e => .error e

/-- An image as its header gives it: its address, the header, the core whose cluster translates. -/
structure KImage where
  at_ : Addr
  head : List Byte
  core : Nat

/-- NWORDS. -/
def KImage.nwords (m : KImage) : Nat := numAt m.head 2 2
/-- The offset of a section: 0 words, 1 configuration images, 2 match table, 3 layout, 4 data, 5 bindings, 6 records. -/
def KImage.off (m : KImage) (i : Nat) : Nat := numAt m.head (8 + 4 * i) 4
/-- The windows that have a layout entry. -/
def KImage.wins (m : KImage) : List Nat := (List.range 16).filter fun w => decide (numAt m.head 6 2 / 2 ^ w % 2 = 1)
/-- The configuration images present. Marked DEDUCED, log 53. -/
def KImage.cfgs (m : KImage) : List Nat := (List.range 8).filter fun n => decide (numAt m.head 4 1 / 2 ^ n % 2 = 1)
/-- Whether a match table is present. -/
def KImage.hasMatch (m : KImage) : Bool := decide (numAt m.head 5 1 % 2 = 1)

/-- The header's checks (R432). -/
def KImage.ok (m : KImage) : Bool :=
  decide (numAt m.head 0 1 = 0x4B ∧ numAt m.head 1 1 = 1 ∧ 1 ≤ m.nwords ∧ m.nwords ≤ 4096 ∧ numAt m.head 5 1 < 2
    ∧ 1 ≤ numAt m.head 36 2 ∧ numAt m.head 36 2 ≤ 32 ∧ numAt m.head 38 26 = 0)

/-- n bytes of an image from an offset. -/
def State.part (s : State) (m : KImage) (o n : Nat) : Except (Nat × Nat) (List Byte) :=
  s.imageBytes m.core (m.at_ + BitVec.ofNat 80 o) n

/-- Numbers of n bytes each, one behind another. -/
def nums (n : Nat) (bs : List Byte) : List Nat := (List.range (bs.length / n)).map fun i => numAt bs (n * i) n

/-- A match table: row and column of its segment, and its entries (R324). -/
structure MatchTable where
  row : Nat
  col : Nat
  entries : List Nat

/-- The match table, if the image has one (R324). Marked DEDUCED, log 51. -/
def State.readMatch (s : State) (m : KImage) (r : List Word) : Except (Nat × Nat) (Option MatchTable) :=
  if !m.hasMatch then .ok none
  else do
    let h := ofBytes (← s.part m (m.off 2) 8)
    let n := h / 2 ^ 8 % 2048
    let col := recFld r 2 4 4 + h / 16 % 16
    if 2 ^ 19 ≤ h ∨ 1024 < n ∨ recRows r ≤ h % 16 ∨ 15 < col ∨ col % 4 ≠ 0 then .error (0x82, 3)
    else
      let bs ← s.part m (m.off 2 + 8) (4 * n)
      .ok (some ⟨h % 16, h / 16 % 16, nums 4 bs⟩)

/-- The window layout, each entry as WDEF accepts it (R120, R160). -/
def State.readLayout (s : State) (m : KImage) : Except (Nat × Nat) (List (Nat × Word)) := do
  let ds := nums 8 (← s.part m (m.off 3) (8 * m.wins.length))
  let es := (m.wins.zip ds).map fun e => (e.1, BitVec.ofNat 64 (e.2 % 2 ^ 63))
  if es.all fun e => wdefOk e.2 then .ok es else .error (0x82, 4)

/-- CAP of a descriptor. -/
def descCap (v : Word) : Nat := v.toNat / 2 ^ 19 % 65536
/-- The element size of a descriptor. -/
def descSize (v : Word) : Nat := 2 ^ (v.toNat / 2 ^ 35 % 16 + 2)

/-- The data section: the elements of each window that has a layout entry (R57, R160). -/
def State.readData (s : State) (m : KImage) (o : Nat) (l : List (Nat × Word)) :
    Except (Nat × Nat) (List (Nat × List (List Byte))) :=
  match l with
  | [] => .ok []
  | (w, v) :: r => do
    let n := ofBytes (← s.part m o 4)
    if descCap v < n then .error (0x82, 5)
    else
      let bs ← s.part m (o + 4) (n * descSize v)
      let es := (List.range n).map fun i => (bs.drop (i * descSize v)).take (descSize v)
      let rest ← s.readData m (o + 4 + n * descSize v) r
      .ok ((w, es) :: rest)

/-- The bindings as the image holds them. -/
def State.readBinds (s : State) (m : KImage) : Except (Nat × Nat) (List Nat) := do
  .ok (nums 8 (← s.part m (m.off 5) (8 * numAt m.head 36 2)))

/-- Slots a binding entry binds (R148). -/
def bindSlots (n : Nat) : Nat := n / 2 ^ 26 % 32 + 1

/-- Whether a binding entry of the image is allowed (R148, R432); a barrier of level 7, which no barrier has, is not.
Marked DESIGN CHOICE, log 78. -/
def bindEntryOk (nwords n : Nat) : Bool := decide (n < 2 ^ 31) && bindingOk (n % 2 ^ 26) && decide (n % 4096 < nwords)

/-! ## Launch-time records (R58, R59) -/

/-- The value a launch-time record gives its field, which held `cur`; none where its kind or member is not one (R59).
Marked DESIGN CHOICE, log 50. -/
def recordValue (n cur : Nat) (r : List Word) (members : List Nat) : Option Nat :=
  let arg := recWord r (4 + n % 16)
  match n / 2 ^ 60 with
  | 1 => some (cur + recBase r)
  | 2 => some arg
  | 3 => some (((arg : Int) + (BitVec.ofNat 24 (n / 2 ^ 8)).toInt) % 2 ^ 80).toNat
  | 4 => members[n % 2 ^ 13]?
  | _ => none

/-- Applying a launch-time record to the instruction words; none where it does not fit (R59).
Marked DESIGN CHOICE, log 50. -/
def applyRecord (words : List Nat) (n : Nat) (r : List Word) (members : List Nat) : Option (List Nat) :=
  let i := n / 2 ^ 48 % 4096
  let pos := n / 2 ^ 41 % 128
  let wid := n / 2 ^ 34 % 128
  let cc := decide (n / 2 ^ 32 % 2 = 1)
  let span := if cc then 4 else 1
  if wid = 0 ∨ 80 < wid ∨ 32 * span < pos + wid ∨ words.length < i + span ∨ (cc ∧ i % 4 ≠ 0) then none
  else
    let v := ((List.range span).map fun j => words.getD (i + j) 0 * 2 ^ (32 * j)).sum
    let cur := v / 2 ^ pos % 2 ^ wid
    match recordValue n cur r members with
    | none => none
    | some x =>
      if 2 ^ wid ≤ x then none
      else
        let v := v + x * 2 ^ pos - cur * 2 ^ pos
        some ((List.range span).foldl (init := words) fun ws j => ws.set (i + j) (v / 2 ^ (32 * j) % 2 ^ 32))

/-- Applying the list of launch-time records, the i-th next, up to one of KIND 0 among the first 4096 (R432).
Marked DESIGN CHOICE, log 50. -/
def State.applyRecords (fuel : Nat) (s : State) (m : KImage) (i : Nat) (words : List Nat) (r : List Word)
    (members : List Nat) : Except (Nat × Nat) (List Nat) :=
  match fuel with
  | 0 => .error (0x81, 0xFF)
  | fuel + 1 => do
    let n := ofBytes (← s.part m (m.off 6 + 8 * i) 8)
    if n / 2 ^ 60 = 0 then .ok words
    else
      match applyRecord words n r members with
      | none => .error (0x81, i % 256)
      | some words => State.applyRecords fuel s m (i + 1) words r members

/-! ## The checks (R432) -/

/-- What a part's image comes to: the words as loaded, its configuration images, match table, windows, data, bindings.
-/
structure Loaded where
  words : List Nat
  cfgs : List (Nat × List Byte)
  table : Option MatchTable
  wins : List (Nat × Word)
  data : List (Nat × List (List Byte))
  binds : List Nat

/-- The configuration images (R84, R160); the store has room for four. Marked DEDUCED, log 53. -/
def State.readCfgs (s : State) (m : KImage) (o : Nat) (l : List Nat) : Except (Nat × Nat) (List (Nat × List Byte)) :=
  match l with
  | [] => .ok []
  | n :: r => do
    let bs ← s.part m o 2048
    let rest ← s.readCfgs m (o + 2048) r
    .ok (if n < 4 then (n, bs) :: rest else rest)

/-- The checks of a part, in the order of R432; `parts` are the records of all the parts, by cluster, `bad` says that
the image read meets data that cannot be corrected (R161, R243). A member above 255 is named modulo 256 (DESIGN CHOICE,
log 79), and a fault of a read comes where its section is first looked at (DESIGN CHOICE, log 87). Marked DEDUCED, log
49. Marked DEDUCED, log 52. -/
def State.checkPart (s : State) (cl : Nat) (r : List Word) (parts : List (Nat × List Word)) (bad : Bool) :
    Except (Nat × Nat) Loaded := do
  let before := ((parts.filter fun p => decide (p.1 < cl)).map fun p => recRows p.2 * recCols p.2).sum
  if !recOk r then throw (0x83, 0xFF)
  if let some m := recOutside r then throw (0x83, (before + m) % 256)
  let c := cl * 256
  let header ← s.imageBytes c (recImage r) 64
  if bad then throw (0x84, 9)
  let m : KImage := ⟨recImage r, header, c⟩
  if !m.ok then throw (0x82, 0)
  let binds ← s.readBinds m
  if 4096 < recBase r + m.nwords ∨ 32 < (binds.map bindSlots).sum then throw (0x85, 0)
  if !(parts.all fun p => recAgree r p.2) then throw (0x86, 0)
  let table ← s.readMatch m r
  let wins ← s.readLayout m
  let data ← s.readData m (m.off 4) wins
  if !(binds.all (bindEntryOk m.nwords)) then throw (0x82, 6)
  let words := nums 4 (← s.part m (m.off 0) (4 * m.nwords))
  let words ← s.applyRecords 4096 m 0 words r (parts.flatMap fun p => partMembers p.1 p.2)
  let cfgs ← s.readCfgs m (m.off 1) m.cfgs
  return ⟨words, cfgs, table, wins, data, binds⟩

/-! ## Loading (R161) -/

/-- Loading one member core (R161). -/
def State.loadCore (s : State) (gn c : Nat) (r : List Word) (ld : Loaded) : State :=
  let s := s.resetCore c
  let k := s.coreAt c
  let k := ld.binds.foldl (init := k) fun k b => k.nameSource (bindSource (BitVec.ofNat 26 b))
  let k := { k with
    group := some gn
    istore := tputs 0 [] (recBase r) (ld.words.map fun w => BitVec.ofNat 32 w)
    cstore := ld.cfgs.foldl (init := []) fun t e => tputs 0 t (e.1 * 2048) e.2
    wdctl := (s.clusterAt (clusterOf c)).wdDefault }
  let s := s.setCore c k
  let s := ld.wins.foldl (init := s) fun s e => s.defineWin c e.1 e.2
  ld.data.foldl (init := s) fun s e =>
    e.2.foldl (init := s) fun s bs => (s.landRaw c e.1 bs).afterFill c e.1

/-- Loading the match table of a part, its controllers' entries OFF before (R324, R341). Marked DEDUCED, log 51. -/
def State.loadMatch (s : State) (cl : Nat) (r : List Word) (t : Option MatchTable) : State :=
  let row := recFld r 2 0 4
  let s := (List.range (recRows r)).foldl (init := s) fun s i => s.clearMatchRow cl (row + i)
  match t with
  | none => s
  | some t =>
    let k := cl * 64 + (row + t.row) * 4 + (recFld r 2 4 4 + t.col) / 4
    let entries := tputs offEntry [] 0 (t.entries.map fun v => BitVec.ofNat 32 v &&& 0x0FFFFFFF#32)
    s.setCtrl k { s.ctrlAt k with table := entries }

/-- The bindings of a part, one for each slot, relocated, with ONCE for those to the start barrier (R161). -/
def partBinds (r : List Word) (binds : List Nat) : List (BitVec 26) :=
  let start := sourceKey 5 (recFld r 1 19 3 * 16 + recFld r 1 22 4)
  binds.flatMap fun n =>
    let b := n % 2 ^ 26
    let b := b / 4096 * 4096 + (b % 4096 + recBase r) % 4096
    let once := if bindSource (BitVec.ofNat 26 b) = start ∧ b / 2 ^ 25 = 0 then 2 ^ 25 else 0
    List.replicate (bindSlots n) (BitVec.ofNat 26 (b + once))

/-- The group of a launch before it is loaded; its pod barriers have the arcs of its pod entry (R159, R161, R393). -/
def State.newGroup (s : State) (r : List Word) (parts : List (Nat × List Word)) : Group :=
  let g : Group := {
    gid := BitVec.ofNat 16 (recGid r)
    sup := recSup r
    lpri := recLpri r
    members := parts.flatMap fun p => partMembers p.1 p.2
    parts := parts.map fun p =>
      (p.1, partMembers p.1 p.2, (s.unitAt p.1).rseq, decide (recFld p.2 2 36 1 = 1), bits (recWord p.2 2) 32 4)
    barriers := []
    started := false
    saving := false
    failed := false }
  match s.podFor ((parts.map Prod.fst).headD 0) (recGid r), g.members with
  | some e, c :: _ =>
    (List.range 16).foldl (init := g) fun g b =>
      let b := BitVec.ofNat 4 b
      g.setBarrier .pod c b { g.barrierAt .pod c b with arcs := e.count }
  | _, _ => g

/-- The group that a loaded part of a launch already has. -/
def State.groupOfParts (s : State) (parts : List (Nat × List Word)) : Option Nat :=
  parts.findSome? fun p => match (s.unitAt p.1).stage with
    | .loaded g => some g
    | .idle | .read => none

/-- Loading a part whose members are free (R161). -/
def State.loadPart (s : State) (cl : Nat) (r : List Word) (parts : List (Nat × List Word)) (ld : Loaded) : State :=
  let gn := (s.groupOfParts parts).getD s.nextGroup
  let s := if (s.groupOfParts parts).isSome then s
    else { s.setGroup gn (s.newGroup r parts) with nextGroup := gn + 1 }
  let mine := partMembers cl r
  let s := mine.foldl (init := s.unconfigureAll mine) fun s c => s.loadCore gn c r ld
  let s := s.loadMatch cl r ld.table
  let u := s.unitAt cl
  (s.setUnit cl { u with stage := .loaded gn, binds := partBinds r ld.binds }).post (.startBarrierFire gn)

/-! ## The units (R161 to R164) -/

/-- Whether a unit works on a record. -/
def LaunchUnit.busy (u : LaunchUnit) : Bool := u.stage != .idle

/-- The groups that a unit keeps whose cores are all free, as slot and entry; the highest LPRI first, the lowest slot of
equals (R163). -/
def State.restorable (s : State) (cl : Nat) : Option (Nat × Kept) :=
  let all := (List.range 4).filterMap fun j => ((s.unitAt cl).kept.getD j none).map fun x => (j, x)
  let ready := all.filter fun x => (s.groupAt x.2.group).members.all fun c =>
    (s.coreAt c).group.isNone && !s.device.sparing.contains c
  ready.foldl (init := none) fun best x =>
    match best with
    | none => some x
    | some b => if (s.groupAt b.2.group).lpri.toNat < (s.groupAt x.2.group).lpri.toNat then some x else some b

/-- Whether a cluster is fenced: the device does not run, no function owns the cluster, or its function is being reset;
no record is taken then (R397, R399, R420). -/
def State.fenced (s : State) (cl : Nat) : Bool :=
  s.device.dev != .running || match (s.clusterAt cl).owner with
  | none => true
  | some f => s.resets.contains f

/-- LAUNCH_RECORD_READ (R158, R161, R163): a kept group that can be restored comes first. -/
def execLaunchRecordRead (cl : Nat) (s : State) : Res :=
  .next <|
    let u := s.unitAt cl
    if u.busy || !u.posts.isEmpty || s.fenced cl then s
    else if (s.restorable cl).isSome then s.post (.groupRestore cl)
    else if u.records.ext < 24 then s
    else
      let r := u.records.elems.take 24
      let s := s.setUnit cl { u with
        stage := .read, record := r, records := u.records.drop 24, rseq := u.readCount, readCount := u.readCount + 1,
        posted05 := false, binds := [], paid := 0 }
      let s := (s.retryWin (serviceKey cl 0x1FFF) 0).post (.launchPartLoad ⟨cl, false⟩)
      if recGid r = 0 then s
      else (List.range Config.clusters).foldl (init := s) fun s q =>
        if q = cl then s else s.post (.launchPartMessage q cl)

/-- The records of the parts of a unit's launch, in increasing cluster number, once the units of every part have read
theirs and it has heard of them (R162). Every unit that holds a record of the GID is one, however many NPART says.
Marked DESIGN CHOICE, log 89. -/
def State.partsOf (s : State) (cl : Nat) : Option (List (Nat × List Word)) :=
  let u := s.unitAt cl
  let gid := recGid u.record
  let n := recNpart u.record
  let heard (q : Nat) : Bool := q == cl
    || (u.heard.contains q && (s.unitAt q).busy && recGid (s.unitAt q).record == gid && gid != 0)
  let ps := ((List.range Config.clusters).filter heard).map fun q => (q, (s.unitAt q).record)
  if gid ≠ 0 ∧ n ≤ 24 ∧ ps.length < n then none else some ps

/-- Noting that a part of a multi-part launch has failed, for its other parts (R162): `left` counts those still to fail.
-/
def State.noteFail (s : State) (gid : BitVec 16) (detail npart : Nat) : State :=
  match s.gidFails.find? fun e => e.1 == gid with
  | some e =>
    let rest := s.gidFails.filter fun e => e.1 != gid
    { s with gidFails := if e.2.2 ≤ 1 then rest else (gid, e.2.1, e.2.2 - 1) :: rest }
  | none => if npart ≤ 1 then s else { s with gidFails := (gid, detail, npart - 1) :: s.gidFails }

/-- A part fails: its status is posted, what it loaded is undone, and the units of the other parts are told (R161,
R162, R164). Marked DEDUCED, log 49. -/
def State.failPart (s : State) (cl code detail : Nat) : State :=
  let u := s.unitAt cl
  let gid := BitVec.ofNat 16 (recGid u.record)
  let s := match u.stage with
    | .loaded gn => (s.resetCores (partMembers cl u.record)).dropGroup gn
    | .idle | .read => s
  let s := s.setUnit cl { s.unitAt cl with stage := .idle, record := [], binds := [], posted05 := false, paid := 0 }
  let s := (s.status cl gid u.rseq code detail).post (.launchRecordRead cl)
  if gid = 0#16 then s
  else
    let s := s.noteFail gid cl (min 24 (recNpart u.record))
    (List.range Config.clusters).foldl (init := s) fun s q =>
      if q ≠ cl ∧ (s.unitAt q).busy ∧ recGid (s.unitAt q).record = gid.toNat then s.post (.launchPartMessage q cl) else s

/-- The failure that a unit's launch has met in another part, if one has: what its status names (R162).
Marked DEDUCED, log 52. -/
def State.failedElsewhere (s : State) (cl : Nat) : Option Nat :=
  let gid := recGid (s.unitAt cl).record
  if gid = 0 then none else (s.gidFails.find? fun e => e.1.toNat == gid).map fun e => e.2.1

/-- The groups being saved that have a part in a cluster: each will take a save slot there. -/
def State.savingAt (s : State) (cl : Nat) : Nat :=
  (s.groups.filter fun e => e.2.any fun g => g.saving && g.parts.any fun p => p.1 == cl).length

/-- Whether a group can be saved: every unit of its parts has a free save slot that no group being saved will take
(R164). Marked DEDUCED, log 54. -/
def State.hasSaveSlot (s : State) (gn : Nat) : Bool :=
  (s.groupAt gn).parts.all fun p => decide (s.savingAt p.1 < ((s.unitAt p.1).kept.filter Option.isNone).length)

/-- A part that passed its checks: it waits for its members, pre-empts the groups that hold them, or is loaded
(R161, R164). A group that has not started yet is not pre-empted. Marked DEDUCED, log 54. A save slot that becomes free
after 0x05 lets the pre-emption go on. Marked DESIGN CHOICE, log 90. -/
def State.takeMembers (s : State) (cl : Nat) (r : List Word) (parts : List (Nat × List Word)) (ld : Loaded) : State :=
  let holders := ((partMembers cl r).filterMap fun c => (s.coreAt c).group).eraseDups
  if (partMembers cl r).any s.device.sparing.contains then s
  else if holders.isEmpty then s.loadPart cl r parts ld
  else if holders.any fun g => decide ((recLpri r).toNat ≤ (s.groupAt g).lpri.toNat) || !(s.groupAt g).started then s
  else if holders.any fun g => !(s.groupAt g).saving && !s.hasSaveSlot g then
    let u := s.unitAt cl
    if u.posted05 then s
    else (s.setUnit cl { u with posted05 := true }).status cl (BitVec.ofNat 16 (recGid r)) u.rseq 0x05 0
  else holders.foldl (init := s) fun s g => if (s.groupAt g).saving then s else s.post (.groupPreempt g)

/-! ## Metering the transfers of units (R398) -/

/-- Letting the requests of transfers go, one transfer behind another, of whose requests `gone` have gone; how many have
gone then. -/
def State.payList (s : State) (op : AccOp) (size gone : Nat) (l : List (Nat × Addr × Nat)) : State × Nat :=
  match l with
  | [] => (s, 0)
  | (c, va, bytes) :: r =>
    let n := requests bytes
    if n ≤ gone then
      let x := s.payList op size (gone - n) r
      (x.1, n + x.2)
    else
      let x := s.payMore c op va bytes size gone
      if x.2 = n then
        let y := x.1.payList op size 0 r
        (y.1, n + y.2)
      else x

/-- The requests of transfers. -/
def requestsOf (l : List (Nat × Addr × Nat)) : Nat := (l.map fun x => requests x.2.2).sum

/-- A unit's transfers go on: their requests go as the buckets let them, and whether all have gone (R398). -/
def State.payUnit (s : State) (cl : Nat) (op : AccOp) (size : Nat) (l : List (Nat × Addr × Nat)) : State × Bool :=
  if requestsOf l ≤ (s.unitAt cl).paid then (s, true)
  else
    let x := s.payList op size (s.unitAt cl).paid l
    (x.1.setUnit cl { x.1.unitAt cl with paid := x.2 }, decide (x.2 = requestsOf l))

/-- How many launch-time records an image's list has, one of KIND 0 among them. -/
def State.recordCount (fuel : Nat) (s : State) (m : KImage) (i : Nat) : Nat :=
  match fuel with
  | 0 => 0
  | fuel + 1 =>
    match s.part m (m.off 6 + 8 * i) 8 with
    | .error _ => 0
    | .ok bs => if ofBytes bs / 2 ^ 60 = 0 then 1 else 1 + State.recordCount fuel s m (i + 1)

/-- What a part's image is read for: its sections in the order of the checks, each with its place and length (R160,
R432). Marked DESIGN CHOICE, log 11. -/
def State.imageReads (s : State) (cl : Nat) (r : List Word) : List (Nat × Addr × Nat) :=
  let c := cl * 256
  match s.imageBytes c (recImage r) 64 with
  | .error _ => []
  | .ok header =>
    let m : KImage := ⟨recImage r, header, c⟩
    let at_ (i n : Nat) : Nat × Addr × Nat := (c, m.at_ + BitVec.ofNat 80 (m.off i), n)
    let table := match s.readMatch m r with
      | .ok (some t) => [at_ 2 (8 + 4 * t.entries.length)]
      | .ok none | .error _ => []
    let data := match s.readLayout m with
      | .ok l => (match s.readData m (m.off 4) l with
        | .ok d => [at_ 4 ((d.map fun e => 4 + (e.2.map List.length).sum).sum)]
        | .error _ => [])
      | .error _ => []
    if !m.ok then [(c, m.at_, 64)]
    else
      [(c, m.at_, 64), at_ 5 (8 * numAt m.head 36 2)] ++ table ++ [at_ 3 (8 * m.wins.length)] ++ data
        ++ [at_ 0 (4 * m.nwords), at_ 6 (8 * s.recordCount 4096 m 0), at_ 1 (2048 * m.cfgs.length)]

/-- LAUNCH_PART_LOAD (R161, R162, R432): the waits, the reads as the buckets let them go (R398), the checks, the load.
Marked DEDUCED, log 49. -/
def execLaunchPartLoad (p : PartRead) (s : State) : Res :=
  .next <|
    let cl := p.cluster
    let u := s.unitAt cl
    let r := u.record
    if u.stage ≠ .read ∨ !u.posts.isEmpty ∨ s.fenced cl then s
    else
      match s.failedElsewhere cl with
      | some d => s.failPart cl 0x87 d
      | none =>
        let cc := (u.cc.toList.getD (recFld r 1 48 4) 0).toNat
        if recFld r 1 52 1 = 1 ∧ 2 ^ 15 ≤ (cc + 65536 - recFld r 1 32 16) % 65536 then s
        else
          match s.partsOf cl with
          | none => s
          | some parts =>
            let x := s.payUnit cl .load 16 (s.imageReads cl r)
            if !x.2 then x.1
            else
              match x.1.checkPart cl r parts p.bad with
              | .error e => x.1.failPart cl e.1 e.2
              | .ok ld => x.1.takeMembers cl r parts ld

/-- LAUNCH_PART_MESSAGE: a unit learns of another part's record or failure (R162). -/
def execLaunchPartMessage (cl other : Nat) (s : State) : Res :=
  .next <|
    let u := s.unitAt cl
    let o := s.unitAt other
    let s := if o.busy && decide (recGid o.record ≠ 0) && !u.heard.contains other then
      s.setUnit cl { u with heard := other :: u.heard } else s
    if u.busy then
      match s.failedElsewhere cl with
      | some d => s.failPart cl 0x87 d
      | none => s.post (.launchPartLoad ⟨cl, false⟩)
    else s

/-- Binding the slots of a member: in binding order, the lowest free slot first (R161). -/
def State.bindMember (s : State) (c : Nat) (sup : Bool) (binds : List (BitVec 26)) : State :=
  binds.foldl (init := s) fun s b =>
    let k := (s.coreAt c).nameSource (bindSource b)
    match leastBelow (fun t => (k.slotAt t).status == .free) Config.slots with
    | none => s
    | some t =>
      (s.setCore c (k.setSlot t { (k.slotAt t).taken b with lsup := sup })).deliverSource c (bindSource b)

/-- START_BARRIER_FIRE: when every part is loaded the slots are bound and the start barrier fires once, in every
instance (R161, R162). -/
def execStartBarrierFire (k : Nat) (s : State) : Res :=
  .next <|
    let g := s.groupAt k
    if g.started || g.parts.isEmpty || !(g.parts.all fun p => (s.unitAt p.1).stage == .loaded k) then s
    else
      let r := match g.parts with
        | p :: _ => (s.unitAt p.1).record
        | [] => []
      let l := (levelOf (recFld r 1 19 3)).getD .lane
      let b := bits (recWord r 1) 22 4
      let s := g.parts.foldl (init := s) fun s p =>
        p.2.1.foldl (init := s) fun s c => s.bindMember c g.sup (s.unitAt p.1).binds
      let s := s.setGroup k { g with started := true }
      let firsts := g.members.filter fun c => (g.inInstance l c).head? == some c
      let s := firsts.foldl (init := s) fun s c => s.fireBarrier k l c b false
      let s := s.groupStatus k 0x01
      g.parts.foldl (init := s) fun s p =>
        (s.setUnit p.1
          { s.unitAt p.1 with stage := .idle, record := [], binds := [], posted05 := false, paid := 0 }).post
          (.launchRecordRead p.1)

/-! ## Pre-emption (R163, R164, R368) -/

/-- Where a member of a group kept in a save slot is saved (R164). -/
def saveAddr (base : Addr) (j c : Nat) : Addr := base + BitVec.ofNat 80 ((256 * j + c % 256) * 0x240000)

/-- The lowest free save slot of a unit. -/
def LaunchUnit.freeSlot (u : LaunchUnit) : Nat := (leastBelow (fun j => (u.kept.getD j none).isNone) 4).getD 4

/-- What an image transfer of a unit meets: nothing, a fault that can be answered, or one that ends the group (R164). -/
inductive Xfer | fine | held (cl : Nat) (f : BulkFault) | fatal
  deriving DecidableEq, Repr

/-- Judging a fault of an image transfer (R244). Marked DEDUCED, log 24. -/
def xferFault (cl : Nat) (f : BulkFault) : Xfer := if recoverable f.why then .held cl f else .fatal

/-- The first of a list of transfers that does not go through. -/
def firstXfer (l : List Xfer) : Xfer := (l.find? fun x => x != .fine).getD .fine

/-- What writing the images of a group comes to: each member's image at its place in the save area (R164). -/
def State.saveXfer (s : State) (gn : Nat) : Xfer :=
  firstXfer ((s.groupAt gn).parts.flatMap fun p =>
    match (s.clusterAt p.1).saveArea with
    | none => [.fatal]
    | some base =>
      if (s.unitAt p.1).aborted then [.fatal]
      else p.2.1.map fun c =>
        let n := (s.contextImage c none).length
        match s.bulkFault c (.store []) (saveAddr base (s.unitAt p.1).freeSlot c) (chunks n) (lastChunk n) with
        | none => .fine
        | some f => xferFault p.1 f)

/-- A transfer of a unit is held at a fault: it is reported once, under a site the spec does not give (DESIGN CHOICE,
log 2). -/
def State.holdXfer (s : State) (cl : Nat) (f : BulkFault) (code : BitVec 3) : State :=
  let u := s.unitAt cl
  if u.faultSite.isSome then s
  else
    let site := (Config.freeWord s.free).setWidth 46
    let s := { s.setUnit cl { u with faultSite := some site } with free := s.free + 1 }
    s.faultRecord cl site f.why code f.va f.level

/-- Ending the transfers of a group's units. -/
def State.endXfer (s : State) (gn : Nat) : State :=
  (s.groupAt gn).parts.foldl (init := s) fun s p =>
    s.setUnit p.1 { s.unitAt p.1 with faultSite := none, aborted := false, paid := 0 }

/-- The transfers of a group's units go on: whether the requests of all have gone (R398). -/
def State.payParts (s : State) (op : AccOp) (size : Nat) (l : List (Nat × List (Nat × Addr × Nat))) : State × Bool :=
  l.foldl (init := (s, true)) fun x p =>
    let y := x.1.payUnit p.1 op size p.2
    (y.1, x.2 && y.2)

/-- The barrier releases that are still to arrive at a core. -/
def State.releasesTo (s : State) (c : Nat) : List (Level × BitVec 4 × BitVec 16 × Bool) :=
  s.agenda.filterMap fun e => match e with
    | .barrierReleaseArrival d l b gen lost => if d = c then some (l, b, gen, lost) else none
    | _ => none

/-- What a unit keeps of a member beside its image. -/
def State.keptCore (s : State) (c : Nat) : KeptCore :=
  let k := s.coreAt c
  ⟨c, (k.slots.filter fun e => e.2.lsup).map Prod.fst, k.gens, k.mx.peer, s.releasesTo c⟩

/-- Writing the images of a part into its unit's save slot, which is then taken (R164). -/
def State.savePart (s : State) (gn : Nat) (cl : Nat) (members : List Nat) : State :=
  let u := s.unitAt cl
  let j := u.freeSlot
  let base := (s.clusterAt cl).saveArea.getD 0
  let kept : Kept := ⟨gn, members.map s.keptCore⟩
  let s := members.foldl (init := s) fun s c =>
    let bs := s.contextImage c none
    (State.bulkPut (chunks bs.length) s c (saveAddr base j c) bs).dropEvents (isRelease c)
  s.setUnit cl { s.unitAt cl with kept := u.kept.set j (some kept) }

/-- The images of a group's members as they go to the save area, by unit (R164). -/
def State.saveList (s : State) (gn : Nat) : List (Nat × List (Nat × Addr × Nat)) :=
  (s.groupAt gn).parts.map fun p =>
    let base := (s.clusterAt p.1).saveArea.getD 0
    (p.1, p.2.1.map fun c => (c, saveAddr base (s.unitAt p.1).freeSlot c, (s.contextImage c none).length))

/-- A group whose members have all stopped is saved once the buckets have let its images go (R398): windows are held,
images written, segments unconfigured, and its cores are free (R163, R341, R368). -/
def State.saveGroup (s : State) (gn : Nat) : State :=
  let g := s.groupAt gn
  let held := g.members.foldl (init := s) fun s c => s.finishStop c none
  match held.saveXfer gn with
  | .held cl f => s.holdXfer cl f 5
  | .fatal => (s.endXfer gn).killGroup gn 2 true
  | .fine =>
    let x := held.payParts (.store []) 64 (held.saveList gn)
    if !x.2 then x.1
    else
      let s := g.parts.foldl (init := x.1.endXfer gn) fun s p => s.savePart gn p.1 p.2.1
      let s := s.unconfigureAll g.members
      let s := g.members.foldl (init := s) fun s c => s.setCore c { s.coreAt c with group := none }
      ((s.setGroup gn { s.groupAt gn with saving := false }).groupStatus gn 0x03)

/-- Whether a release of a barrier is on its way to a core that can take it. -/
def State.releaseComing (s : State) (c : Nat) : Bool :=
  s.agenda.any fun e => match e with
    | .barrierReleaseArrival d l b _ _ => d == c && !(s.coreAt c).countFull (sourceKey 5 (barrierOperand l b))
    | _ => false

/-- GROUP_PREEMPT (R163, R368): the members stop, and once all have stopped the group is saved.
Marked DEDUCED, log 54. -/
def execGroupPreempt (k : Nat) (s : State) : Res :=
  .next <|
    let g := s.groupAt k
    if !g.started || !(g.members.all fun c => (s.coreAt c).group == some k) || (!g.saving && !s.hasSaveSlot k) then s
    else
      let s := if g.saving then s
        else
          let s := s.setGroup k { g with saving := true }
          g.members.foldl (init := s) fun s c => s.setCore c { s.coreAt c with stop := .saved none }
      let s := g.members.foldl (init := s) fun s c => s.stopStep c
      if g.members.all fun c => s.stopDone c none && !s.releaseComing c then s.saveGroup k else s

/-- What reading the images of a kept group comes to, and the images read. -/
def State.restoreXfer (s : State) (gn : Nat) : Xfer × List (Nat × List Byte) :=
  let all := (s.groupAt gn).parts.flatMap fun p =>
    let u := s.unitAt p.1
    let j := (leastBelow (fun j => (u.kept.getD j none).any fun x => x.group == gn) 4).getD 0
    let base := (s.clusterAt p.1).saveArea.getD 0
    p.2.1.map fun c =>
      let va := saveAddr base j c
      match s.bulkRead c va 64 with
      | .error f => (xferFault p.1 f, c, [])
      | .ok head =>
        match s.bulkRead c va (min 0x240000 (numAt head 8 4)) with
        | .error f => (xferFault p.1 f, c, [])
        | .ok bs => if u.aborted || (contextFault c bs).isSome then (.fatal, c, []) else (.fine, c, bs)
  (firstXfer (all.map Prod.fst), all.map Prod.snd)

/-- A kept group leaves its save slots (R164). -/
def State.unkeep (s : State) (gn : Nat) : State :=
  (s.groupAt gn).parts.foldl (init := s) fun s p =>
    let u := s.unitAt p.1
    let kept := u.kept.map fun x => if x.any fun y => y.group == gn then none else x
    s.setUnit p.1 { u with kept := kept }

/-- Loading one member of a kept group: its image, and what its unit kept beside it (R163, R368, R375). -/
def State.restoreMember (s : State) (gn c : Nat) (bs : List Byte) (kept : KeptCore) : State :=
  let s := s.setCore c { s.coreAt c with gens := kept.gens, group := some gn }
  let s := s.loadContext c none bs
  let k := s.coreAt c
  let s := s.setCore c { k with mx := { k.mx with peer := kept.blocks } }
  let s := kept.lsup.foldl (init := s) fun s t => s.setSlot c t { s.slotAt c t with lsup := true }
  kept.releases.foldl (init := s) fun s x => s.post (.barrierReleaseArrival c x.1 x.2.1 x.2.2.1 x.2.2.2)

/-- The images of a kept group's members as they are read, by unit (R164). -/
def State.restoreList (s : State) (gn : Nat) (images : List (Nat × List Byte)) : List (Nat × List (Nat × Addr × Nat)) :=
  (s.groupAt gn).parts.map fun p =>
    let j := (leastBelow (fun j => ((s.unitAt p.1).kept.getD j none).any fun x => x.group == gn) 4).getD 0
    let base := (s.clusterAt p.1).saveArea.getD 0
    (p.1, (images.filter fun e => p.2.1.contains e.1).map fun e => (e.1, saveAddr base j e.1, e.2.length))

/-- The entry of a member in the save slots of its unit. -/
def State.keptOf (s : State) (gn c : Nat) : KeptCore :=
  ((s.unitAt (clusterOf c)).kept.findSome? fun x => x.bind fun y =>
    if y.group = gn then y.cores.find? fun e => e.core == c else none).getD ⟨c, [], [], [], []⟩

/-- GROUP_RESTORE (R163, R164): the kept group of the highest LPRI whose cores are all free is loaded. -/
def execGroupRestore (cl : Nat) (s : State) : Res :=
  .next <|
    let u := s.unitAt cl
    if u.busy || !u.posts.isEmpty || s.fenced cl then s
    else
      match s.restorable cl with
      | none => s
      | some (_, x) =>
        match s.restoreXfer x.group with
        | (.held q f, _) => s.holdXfer q f 4
        | (.fatal, _) =>
          ((((s.endXfer x.group).unkeep x.group).countDone x.group).groupStatus x.group 0x88).dropGroup x.group
        | (.fine, images) =>
          let y := s.payParts .load 16 (s.restoreList x.group images)
          if !y.2 then y.1
          else
            let s := images.foldl (init := y.1.endXfer x.group) fun s e =>
              s.restoreMember x.group e.1 e.2 (s.keptOf x.group e.1)
            (s.unkeep x.group).groupStatus x.group 0x04

/-- GID_CANCEL: each part of a waiting launch that has read its record fails, and the others will (R162). -/
def execGidCancel (gid : BitVec 16) (s : State) : Res :=
  .next <|
    let units := (List.range Config.clusters).filter fun q =>
      (s.unitAt q).busy && decide (recGid (s.unitAt q).record = gid.toNat)
    match units with
    | [] => s
    | q :: _ =>
      if gid = 0#16 ∨ s.device.dev ≠ .running ∨ (s.gidFails.any fun e => e.1 == gid) then s
      else
        let s := { s with gidFails := (gid, 0xFF, min 24 (recNpart (s.unitAt q).record)) :: s.gidFails }
        units.foldl (init := s) fun s q => s.post (.launchPartMessage q q)

/-- KEPT_GROUP_DISCARD: the function discards a kept group (R164). -/
def execKeptGroupDiscard (cl j : Nat) (s : State) : Res :=
  .next <|
    match (s.unitAt cl).kept.getD j none with
    | none => s
    | some x =>
      if s.device.dev = .running then ((s.unkeep x.group).groupStatus x.group 0x02).dropGroup x.group else s

end Sys2Proof.Machine
end

