-- ==== Sys2Proof/Machine/Networks.lean ====
section
/-! DEFINITION. Counting networks (R220 to R231). -/

namespace Sys2Proof.Machine

open Sys2Proof

/-- What a layer joins a wire with (R220). -/
def layerMask (layer : Nat) : Nat := ([1, 3, 1, 7, 2, 1, 15, 4, 2, 1] : List Nat).getD layer 1

/-- The lower wire of the balancer a wire meets in a layer (R220). -/
def lowerWire (layer wire : Nat) : Nat := min wire (wire ^^^ layerMask layer)

/-- The number of the balancer a wire meets in a layer (R220). -/
def balancerOf (layer wire : Nat) : Nat :=
  8 * layer + ((List.range (lowerWire layer wire)).filter fun i => decide (i < i ^^^ layerMask layer)).length

/-- A token passes a balancer in a tick: it leaves by the toggle, which inverts (R221). -/
def Net.passToken (n : Net) (t : NetToken) (tick : BitVec 64) : Net :=
  let b := balancerOf t.layer t.wire
  let low := lowerWire t.layer t.wire
  let wire := if n.toggles.getLsbD b then low ^^^ layerMask t.layer else low
  { n with
    toggles := n.toggles ^^^ (1#80 <<< b)
    passed := n.passed ++ [b]
    tokens := n.tokens.map fun x =>
      if x.id = t.id then { x with wire := wire, layer := t.layer + 1, since := tick } else x }

/-- Whether a token reached its place before another that stands before the same balancer or exit (R221). -/
def NetToken.before (x t : NetToken) : Bool :=
  decide (x.since.toNat < t.since.toNat)
    || (x.since == t.since && (decide (x.wire < t.wire) || (x.wire == t.wire && decide (x.id < t.id))))

/-- Whether a token may move in this tick: it got here in an earlier one, its core is not halted or is still to be given
its value (R230, R412), the balancer has passed no token in this tick, and no other token that moves came before it
(R221). Marked DEDUCED, log 28. -/
def State.tokenMoves (s : State) (n : Net) (t : NetToken) : Bool :=
  let live (x : NetToken) : Bool := decide (x.since.toNat < s.tick.toNat) && ((s.coreAt x.core).stop != .halted
    || (s.slotAt x.core x.slot).tkns.any fun y => y.1 == x.id)
  let meets (x : NetToken) : Bool := x.layer == t.layer &&
    (if t.layer < 10 then balancerOf x.layer x.wire == balancerOf t.layer t.wire else x.wire == t.wire)
  live t && !(decide (t.layer < 10) && n.passed.contains (balancerOf t.layer t.wire))
    && !(n.tokens.any fun x => live x && meets x && x.before t)

/-- A token passes the balancer before it (R221). -/
def execBalancerPass (net id : Nat) (s : State) : Res :=
  .next <|
    let n := s.netAt net
    match n.tokens.find? (·.id == id) with
    | some t => if t.layer < 10 ∧ s.tokenMoves n t then s.setNet net (n.passToken t s.tick) else s
    | none => s

/-- The edge of a TKN that waits at an entry that is not open (R229). -/
def tknEdge (s : State) (net : Nat) : Edge where
  party := .task s.cur s.slot
  at_ := s.cur
  kind := .tkn
  core := s.cur
  win := net
  level := 0
  arg := 0
  site := s.siteOf s.cur s.slot
  retry := none
  reported := false

/-- The tick in which a token enters a wire: each takes one in a tick, and a token that has come to the wire before goes
first (R221). Marked DESIGN CHOICE, log 95. -/
def Net.entryTick (n : Net) (wire : Nat) (tick : BitVec 64) : BitVec 64 :=
  n.tokens.foldl (init := tick) fun m x =>
    if x.layer = 0 ∧ x.wire = wire ∧ m.toNat ≤ x.since.toNat then x.since + 1 else m

/-- A token enters a network on the wire of its core; its slot is owed the value (R222, R229). A token that waits for
its wire behind another counts as inside. Marked DESIGN CHOICE, log 94. -/
def State.enterToken (s : State) (net c t : Nat) (d : BitVec 5) : State :=
  let n := s.netAt net
  let id := s.nextToken
  let s := { s with nextToken := id + 1 }
  let tok : NetToken := ⟨id, c % 16, 0, n.entryTick (c % 16) s.tick, c, t⟩
  let sl := s.slotAt c t
  (s.setNet net { n with tokens := n.tokens ++ [tok] }).setSlot c t { sl with tkns := sl.tkns ++ [(id, d)] }

/-- A network fault (R228). -/
def netTrap (h : BitVec 3) (why fn : Nat) : Trap :=
  trapOf 11 (BitVec.ofNat 64 (h.toNat * 2 ^ 16 + why * 2 ^ 8 + fn))

/-- The network a handle names, checked (R225, R228): V, then the owner. Marked DEDUCED, log 18. -/
def withHandle (h : BitVec 3) (fn : Nat) (s : State) (k : Nat → Net → Out) : Out :=
  let w := (s.coreAt s.cur).bnh[h.toNat]'h.isLt
  let net := w.toNat % 32
  let n := s.netAt net
  if !w.getLsbD 8 then .trap (netTrap h 1 fn)
  else if n.owner.isNone || n.owner != s.tenantOf s.cur then .trap (netTrap h 3 fn)
  else k net n

/-- TKN (R222, R229). -/
def execTkn (d : BitVec 5) (h : BitVec 3) (s : State) : Res :=
  finish s (withHandle h 0x11 s fun net n =>
    if n.exh then .trap (netTrap h 2 0x11)
    else
      match n.state with
      | .opened => .done (s.enterToken net s.cur s.slot d)
      | .draining | .closed => .hold (s.waitMe (.tkn net h d) (tknEdge s net)))

/-- The slots that wait at a network's entry, in the order in which they began (R229). -/
def State.tknWaiters (s : State) (net : Nat) : List (Nat × Nat × BitVec 3 × BitVec 5) :=
  s.edges.filterMap fun e =>
    match e.party with
    | .task c t =>
      match (s.slotAt c t).wait with
      | some (.tkn m h d) => if m = net then some (c, t, h, d) else none
      | _ => none
    | .cmd _ | .unit _ => none

/-- A network opens: waiting TKNs enter in order, and their tasks go on (R226, R229). -/
def State.openNet (s : State) (net : Nat) : State :=
  let s' := s.setNet net { s.netAt net with state := .opened, closer := none, byReset := false }
  (s.tknWaiters net).foldl (init := s') fun s x =>
    ((s.wake x.1 x.2.1).enterToken net x.1 x.2.1 x.2.2.2).advance x.1 x.2.1

/-- A task held by BNDRN goes on when its network has closed (R229). -/
def State.endDrain (s : State) (net : Nat) : State :=
  s.cores.foldl (init := s) fun s e =>
    e.2.slots.foldl (init := s) fun s x =>
      if (s.slotAt e.1 x.1).hold = .drain net then
        (s.setSlot e.1 x.1 { s.slotAt e.1 x.1 with hold := .none }).advance e.1 x.1
      else s

/-- A draining network with no token inside becomes closed (R226). -/
def State.settleNet (s : State) (net : Nat) : State :=
  let n := s.netAt net
  if n.state = .draining ∧ n.tokens = [] then (s.setNet net { n with state := .closed }).endDrain net else s

/-- EXH becomes 1: waiting TKNs raise the fault with WHY 2 at once (R229). -/
def State.exhaust (s : State) (net : Nat) : State :=
  let s' := s.setNet net { s.netAt net with exh := true, state := .draining, closer := none }
  (s.tknWaiters net).foldl (init := s') fun s x =>
    let s := s.wake x.1 x.2.1
    s.takeTrap x.1 x.2.1 (netTrap x.2.2.1 2 0x11) (s.slotAt x.1 x.2.1).pc

/-- A value reaches the register of the slot that is owed it; it is discarded and LOST counts it where the slot has been
freed or reset meanwhile (R222, R229, R231); a trap of the slot that waited for the value is taken (R230). -/
def State.tokenValue (s : State) (net : Nat) (t : NetToken) (v : Nat) : State :=
  let sl := s.slotAt t.core t.slot
  match sl.tkns.find? fun x => x.1 == t.id with
  | some (_, d) =>
    (s.setSlot t.core t.slot
      ({ sl with tkns := sl.tkns.filter fun x => x.1 != t.id }.writeG d (BitVec.ofNat 64 v))).takeHeldTraps t.core t.slot
  | none =>
    let n := s.netAt net
    s.setNet net { n with lost := if n.lost = 0xFFFF#16 then 0xFFFF#16 else n.lost + 1 }

/-- A token leaves an exit wire: it takes its value, and the wire's counter advances (R222); EXH is set at 2^47 from
draining too (R226). Marked DESIGN CHOICE, log 96. -/
def execTknTokenExit (net id : Nat) (s : State) : Res :=
  .next <|
    let n := s.netAt net
    match n.tokens.find? (·.id == id) with
    | none => s
    | some t =>
      if t.layer < 10 ∨ !s.tokenMoves n t then s
      else
        let w := t.wire % 16
        let c := n.exits.toList.getD w 0
        let n' := { n with
          exits := n.exits.setIfInBounds w (c + 1)
          tokens := n.tokens.filter (·.id != id) }
        let s := (s.setNet net n').tokenValue net t (16 * c.toNat + w)
        let s := if (c + 1).toNat = 2 ^ 47 ∧ !n.exh then s.exhaust net else s
        s.settleNet net

/-- BNDRN: it closes the entry and holds the task until the network is closed (R229). Marked DEDUCED, log 18. -/
def bndrnOut (net : Nat) (n : Net) (s : State) : Out :=
  let s := match n.state with
    | .opened => s.setNet net { n with state := .draining, closer := some (s.cur, s.slot), byReset := false }
    | .draining | .closed => s
  let s := s.settleNet net
  match (s.netAt net).state with
  | .closed => .done s
  | .opened | .draining => .hold (s.setMe { s.me with hold := .drain net })

/-- BNDRN (R229). -/
def execBndrn (h : BitVec 3) (s : State) : Res :=
  finish s (privileged (.bndrn h) s fun s => withHandle h 0x12 s fun net n => bndrnOut net n s)

/-- The image of a closed network (R227). -/
def Net.image (n : Net) : List Byte :=
  (n.exits.toList.flatMap fun c => bytesOf 6 c.toNat) ++ bytesOf 10 n.toggles.toNat ++ bytesOf 2 n.lost.toNat
    ++ [if n.exh then 1 else 0, 0, 0, 0]

/-- An operation on a closed network (R228). Marked DEDUCED, log 18. -/
def onClosed (h : BitVec 3) (fn : Nat) (s : State) (k : Nat → Net → Out) : Out :=
  withHandle h fn s fun net n =>
    match n.state with
    | .closed => k net n
    | .opened | .draining => .trap (netTrap h 4 fn)

/-- BNSAV (R229). -/
def execBnsav (h : BitVec 3) (a : BitVec 4) (s : State) : Res :=
  finish s (privileged (.bnsav h a) s fun s => onClosed h 0x13 s fun _ n =>
    let va := s.me.readA a
    if va.toNat % 16 ≠ 0 then .trap (netTrap h 6 0x13)
    else settled s fun s =>
      match s.bulkFault s.cur (.store []) va 7 16 with
      | some f => .trap (f.trap 1)
      | none => metered (.store []) va 112 64 s fun s => .done (State.bulkPut 7 s s.cur va n.image))

/-- The network an image loads; none where a byte or bit required to be zero is not (R227, R229). -/
def Net.load (n : Net) (bs : List Byte) : Option Net :=
  let v := ofBytes bs
  if v / 2 ^ 865 ≠ 0 then none
  else
    some { n with
      exits := Vector.ofFn fun i : Fin 16 => BitVec.ofNat 48 (v / 2 ^ (48 * i.val))
      toggles := BitVec.ofNat 80 (v / 2 ^ 768)
      lost := BitVec.ofNat 16 (v / 2 ^ 848)
      exh := decide (v / 2 ^ 864 % 2 = 1) }

/-- BNLOAD (R229): it opens the network unless EXH = 1. -/
def execBnload (h : BitVec 3) (a : BitVec 4) (s : State) : Res :=
  finish s (privileged (.bnload h a) s fun s => onClosed h 0x14 s fun net n =>
    let va := s.me.readA a
    if va.toNat % 16 ≠ 0 then .trap (netTrap h 6 0x14)
    else settled s fun s =>
      match s.bulkRead s.cur va 112 with
      | .error f => .trap (f.trap 0)
      | .ok bs =>
        match n.load bs with
        | none => .trap (netTrap h 5 0x14)
        | some n' => metered .load va 112 16 s fun s =>
          let s := s.setNet net n'
          .done (if n'.exh then s.exhaust net |>.settleNet net else s.openNet net))

/-- BNCLR (R229). -/
def execBnclr (h : BitVec 3) (s : State) : Res :=
  finish s (privileged (.bnclr h) s fun s => onClosed h 0x15 s fun net n =>
    .done ((s.setNet net { n with
      toggles := 0
      exits := Vector.replicate 16 0
      lost := 0
      exh := false }).openNet net))

end Sys2Proof.Machine
end

