-- ==== Sys2Proof/Machine/Tenants.lean ====
section
/-! DEFINITION. Functions and tenants (R239, R393 to R399, R415, R416), the buckets (R398), and the host's accesses (R394,
R395). -/

namespace Sys2Proof.Machine

open Sys2Proof

/-! ## Owners and configuration space (R397) -/

/-- The cores of a cluster that the state lists. -/
def State.coresOf (s : State) (cl : Nat) : List Nat := (s.cores.filter fun e => clusterOf e.1 == cl).map Prod.fst

/-- Whether a cluster runs no core group, and its unit has none in its hand (R397). -/
def State.clusterIdle (s : State) (cl : Nat) : Bool :=
  !(s.unitAt cl).busy && (s.coresOf cl).all fun c => (s.coreAt c).group.isNone

/-- CLUSTER_OWNER_SET (R397): only while the cluster runs no core group; the clusters of a fenced die have left service
and get no owner (R429). Marked DEDUCED, log 46. -/
def execClusterOwnerSet (cl : Nat) (ten : Option (BitVec 5)) (s : State) : Res :=
  .next <|
    if s.clusterIdle cl ∧ !(s.dieAt (cl / Config.clustersPerDie)).fenced then
      let k := s.clusterAt cl
      s.setCluster cl { k with owner := ten, ptroot := contextOf k.ptroot ten }
    else s

/-- NETWORK_OWNER_SET (R225, R397); the networks of a fenced die have left service (R429). Marked DEDUCED, log 46. -/
def execNetworkOwnerSet (net : Nat) (ten : Option (BitVec 5)) (s : State) : Res :=
  .next (if (s.dieAt (net / 8)).fenced then s else s.setNet net { s.netAt net with owner := ten })

/-- An entry of the pod group table (R393). Marked DEDUCED, log 56. -/
def State.podAt (s : State) (e : Nat) : PodEntry := tget ⟨0, 0, 0, 0⟩ s.pods e
/-- Replacing an entry of the pod group table. -/
def State.setPod (s : State) (e : Nat) (x : PodEntry) : State := { s with pods := tput ⟨0, 0, 0, 0⟩ s.pods e x }

/-- Setting a share (R398): one above 256, or that takes the port's sum above 256, is not taken; the bucket keeps what
it holds, up to its new top. Marked DEDUCED, log 47. -/
def State.setShare (s : State) (port ten n : Nat) : State :=
  let others := ((List.range 24).filter (· ≠ ten)).map (s.share port)
  if 256 < n + others.sum then s
  else
    let key := port * 32 + ten
    let level := s.bucket port ten
    { s with
      shares := tput (if ten = 0 then 256 else 0) s.shares key n
      buckets := tput 0 s.buckets key (512 * n - min level (512 * n)) }

/-- Writing a register of configuration space (R164, R239, R360, R393, R394, R398, R416). Marked DEDUCED, log 46. -/
def State.writeCfg (s : State) (r : CfgReg) (v : Word) : State :=
  match r with
  | .ptroot cl =>
    let k := s.clusterAt cl
    s.setCluster cl { k with ptroot := contextOf v k.owner }
  | .wdDefault cl => s.setCluster cl { s.clusterAt cl with wdDefault := v.setWidth 40 &&& 0xFF0000003F#40 }
  | .saveArea cl => s.setCluster cl { s.clusterAt cl with saveArea := some (BitVec.ofNat 80 (v.toNat * 2 ^ 16)) }
  | .ptag fn => { s with ptags := tput 0 s.ptags fn (v.setWidth 16) }
  | .podGid e => s.setPod e { s.podAt e with gid := v.setWidth 16 }
  | .podTag e => s.setPod e { s.podAt e with tag := v.setWidth 16 }
  | .podMask e => s.setPod e { s.podAt e with mask := v }
  | .podCount e => s.setPod e { s.podAt e with count := v.setWidth 16 }
  | .share port ten => s.setShare port ten v.toNat
  | .linkInterval => { s with links := { s.links with interval := v.setWidth 5, began := s.tick } }
  | .linkBase => { s with links := { s.links with base := v.setWidth 80 } }
  | .linkBuffers => { s with links := { s.links with buffers := v.toNat } }
  | .traceBase r => s.setTraceRing r { s.traceRingAt r with base := v.setWidth 80, next := 0 }
  | .traceSize r => s.setTraceRing r { s.traceRingAt r with size := v.toNat, next := 0 }

/-- The function whose configuration space holds a register (R164, R239, R360, R394): 0 is the physical function. -/
def State.cfgFunction (s : State) (r : CfgReg) : Nat :=
  match r with
  | .ptroot cl | .wdDefault cl | .saveArea cl => ((s.clusterAt cl).owner.getD 0).toNat
  | .ptag fn => fn
  | .podGid _ | .podTag _ | .podMask _ | .podCount _ | .share _ _ | .linkInterval | .linkBase | .linkBuffers
  | .traceBase _ | .traceSize _ => 0

/-- Whether a function's configuration space is up: every function's while the device runs, only function 0's in the
safe state (R419, R420). -/
def State.functionUp (s : State) (fn : Nat) : Bool :=
  match s.device.dev with
  | .running => true
  | .safe => decide (fn = 0)
  | .booting | .off => false

/-- CONFIG_SPACE_WRITE (R394, R420). -/
def execConfigSpaceWrite (r : CfgReg) (v : Word) (s : State) : Res :=
  .next (if s.functionUp (s.cfgFunction r) then s.writeCfg r v else s)

/-! ## Buckets (R398) -/

/-- The ports and tenants that have a request pending. -/
def State.pendingPorts (s : State) : List (Nat × Nat) :=
  let accs := (s.accs.filter fun a => a.stage == .translated).flatMap fun a =>
    (Acc.ports s.pkg a).map fun p => (p, s.meterTenant a.core)
  let walks := s.dies.flatMap fun e => e.2.walks.flatMap fun w =>
    let n := s.firstNode e.1 w
    (linkPorts s.pkg e.1 0 n.1 n.2).map fun p => (p, (s.clusterAt w.cluster).tenant)
  (accs ++ walks).eraseDups

/-- The bytes a tenant with requests pending gains at a port: its share, and its part of what the idle tenants and the
unassigned share leave. -/
def State.refillGain (s : State) (pending : List (Nat × Nat)) (port ten : Nat) : Nat :=
  let share := s.share port ten
  let active := (((pending.filter fun x => x.1 == port).map Prod.snd).map (s.share port)).sum
  let pool := 256 * (256 - active)
  256 * share + (if active = 0 then 0 else pool * share / active)

/-- BUCKET_REFILL (R398): every 1024 ticks. -/
def execBucketRefill (s : State) : Res :=
  .next <|
    if s.tick.toNat % 1024 ≠ 0 then s
    else
      let pending := s.pendingPorts
      pending.foldl (init := s) fun s x =>
        let key := x.1 * 32 + x.2
        { s with buckets := tput 0 s.buckets key (tget 0 s.buckets key - s.refillGain pending x.1 x.2) }

/-! ## Loans (R415) -/

/-- Whether a virtual function owns a cluster. -/
def State.ofVirtual (s : State) (cl : Nat) : Bool := (s.clusterAt cl).owner.any fun f => f != 0#5

/-- Changing every core of a cluster. -/
def State.eachCore (s : State) (cl : Nat) (f : Core → Core) : State :=
  let own := (List.range 256).map fun i => (cl * 256 + i, f (s.coreAt (cl * 256 + i)))
  { s with cores := (s.cores.filter fun e => decide (e.1 < cl * 256)) ++ (own.filter fun e => decide (e.2 ≠ Core.init))
      ++ s.cores.filter fun e => decide (cl * 256 + 256 ≤ e.1) }

/-- STALL_COUNTER_LOAN (R415). -/
def execStallCounterLoan (cl : Nat) (s : State) : Res :=
  .next <|
    if s.ofVirtual cl then
      (s.eachCore cl fun k => k.lendStall s.tick).setCluster cl { s.clusterAt cl with stallLoan := true }
    else s

/-- TRACE_LOAN (R415): the records of the cluster's cores go to the trace ring that the physical function names. -/
def execTraceLoan (cl : Nat) (ring : Nat) (s : State) : Res :=
  .next <|
    if s.ofVirtual cl then
      (s.eachCore cl Core.lendTrace).setCluster cl { s.clusterAt cl with traceLoan := some ring }
    else s

/-- LOAN_RETURN (R415). -/
def execLoanReturn (cl : Nat) (traceUnit : Bool) (s : State) : Res :=
  .next <|
    if traceUnit then (s.eachCore cl Core.takeTrace).setCluster cl { s.clusterAt cl with traceLoan := none }
    else (s.eachCore cl fun k => k.takeStall s.tick).setCluster cl { s.clusterAt cl with stallLoan := false }

/-! ## The reset of a virtual function (R399) -/

/-- The clusters a function owns. -/
def State.clustersOf (s : State) (ten : BitVec 5) : List Nat :=
  (List.range Config.clusters).filter fun cl => (s.clusterAt cl).owner == some ten
/-- The networks a function owns. -/
def State.netsOf (s : State) (ten : BitVec 5) : List Nat :=
  (List.range Config.networks).filter fun n => (s.netAt n).owner == some ten

/-- Closing a network for a reset (R226, R399, step 2). -/
def State.closeNet (s : State) (net : Nat) : State :=
  let n := s.netAt net
  let state := match n.state with
    | .opened => NetState.draining
    | .draining => .draining
    | .closed => .closed
  (s.setNet net { n with state := state, closer := none, byReset := true }).settleNet net

/-- Poisoning the backed windows of a core (R351, R399, step 4). No work failed there: the site of the record is the
core's, with slot 0, PC 0 and SEQ as it stands. Marked DESIGN CHOICE, log 74. -/
def State.poisonBacked (s : State) (c : Nat) : State :=
  (List.range Config.windows).foldl (init := s) fun s w =>
    let x := s.winAt c w
    if x.v && x.mode == .backed then s.setPoison c w x.fill 9 (mkSite c 0 0 (s.coreAt c).seq) 1 else s

/-- The pod barriers of a group fire with LOST, and have no members any more (R399, step 5). -/
def State.losePods (s : State) (gn : Nat) : State :=
  match (s.groupAt gn).members with
  | [] => s
  | c :: _ =>
    (List.range 16).foldl (init := s) fun s n =>
      let b := BitVec.ofNat 4 n
      if ((s.groupAt gn).barrierAt .pod c b).arcs = 0 then s
      else
        let s := s.fireBarrier gn .pod c b true
        s.setGroup gn ((s.groupAt gn).setBarrier .pod c b { (s.groupAt gn).barrierAt .pod c b with arcs := 0 })

/-- The groups with a member among the given clusters. -/
def State.groupsIn (s : State) (cls : List Nat) : List Nat :=
  (s.groups.filter fun e => e.2.any fun g => g.members.any fun c => cls.contains (clusterOf c)).map Prod.fst

/-- A launch unit whose function is reset: it keeps its counters and its windows, the record window empty.
Marked DEDUCED, log 55. -/
def LaunchUnit.cleared (u : LaunchUnit) : LaunchUnit :=
  { u with
    records := u.records.drop u.records.elems.length
    record := [], paid := 0, stage := .idle, binds := [], posted05 := false, posts := [], heard := []
    kept := LaunchUnit.init.kept
    faultSite := none
    aborted := false }

/-- Killing the slots of a core and ending its commands as faults of CLASS 0x09 with DETAIL 1 (R399, step 3). -/
def State.endWork (s : State) (c : Nat) : State :=
  ((List.range Config.slots).foldl (init := s) fun s t => s.killSlot c t).endCommands c 1

/-- Whether the work of a core has ended: every slot is free, a killed one once its accesses are performed, and no
access of its commands is in flight, whose claims they hold (R262, R268, R399). -/
def State.workEnded (s : State) (c : Nat) : Bool :=
  ((List.range Config.slots).all fun t => (s.slotAt c t).status == .free)
    && !(s.accs.any fun a => match a.holder with
      | .cmd site => siteCore site == c
      | .task _ _ _ | .agent _ => false)

/-- Steps 3 to 6 of the reset of a virtual function, once its slots and commands have ended (R399). -/
def State.finishVfReset (s : State) (ten : BitVec 5) : State :=
  let cls := s.clustersOf ten
  let cores := cls.flatMap s.coresOf
  let groups := s.groupsIn cls
  let s := cores.foldl (init := s) fun s c => s.releaseCore c none
  let s := cores.foldl (init := s) fun s c => s.poisonBacked c
  let s := groups.foldl (init := s) fun s gn => s.losePods gn
  let s := s.resetCores (cls.flatMap s.coresOf)
  let s := cls.foldl (init := s) fun s cl =>
    let s := (List.range 16).foldl (init := s) fun s row => s.clearMatchRow cl row
    s.setUnit cl (s.unitAt cl).cleared
  let s := groups.foldl (init := s) fun s gn => s.dropGroup gn
  { s with resets := s.resets.erase ten }

/-- Going on with the reset of a virtual function: the drains of step 2 and the kills of step 3 may take time, and the
reset goes on when they are done (R399). -/
def State.vfResetStep (s : State) (ten : BitVec 5) : State :=
  let s := (s.netsOf ten).foldl (init := s) fun s n => s.closeNet n
  if (s.netsOf ten).all fun n => (s.netAt n).state == .closed then
    let cores := (s.clustersOf ten).flatMap s.coresOf
    let s := cores.foldl (init := s) fun s c => s.endWork c
    if cores.all s.workEnded then s.finishVfReset ten else s
  else s

/-- VF_RESET (R399), of a device in service (R420). -/
def execVfReset (ten : BitVec 5) (s : State) : Res :=
  .next <|
    if s.device.dev ≠ .running ∨ ten = 0#5 ∨ 23 < ten.toNat ∨ s.resets.contains ten then s
    else { s with resets := ten :: s.resets }.vfResetStep ten

/-! ## The host (R394, R395) -/

/-- The cluster of a window slot of a service region. -/
def hostCluster : HostWin → Nat
  | .core c _ => clusterOf c
  | .records cl | .status cl | .faults cl | .answers cl | .reports cl | .reserved cl => cl
  | .bar _ _ _ => Config.clusters

/-- The special core number and window that a service window slot names; none for a core's window. -/
def hostService : HostWin → Option (Nat × Nat)
  | .core _ _ | .reserved _ | .bar _ _ _ => none
  | .records _ => some (0x1FFF, 0)
  | .status _ => some (0x1FFF, 1)
  | .faults _ => some (0x1FFE, 0)
  | .answers _ => some (0x1FFE, 1)
  | .reports _ => some (0x1FFD, 0)

/-- What an offset in a cluster's service region names: 16 bytes for each window slot of its cores, then those of its
service windows; the rest is reserved (R394). -/
def regionWin (cl off : Nat) : HostWin :=
  if off < 0x10000 then .core (cl * 256 + off / 256) (off / 16 % 16)
  else match off / 16 * 16 with
    | 0x10000 => .records cl
    | 0x10010 => .status cl
    | 0x10100 => .faults cl
    | 0x10110 => .answers cl
    | 0x10200 => .reports cl
    | _ => .reserved cl

/-- The window slot an access reaches, `half` being the offset in it that the access has its effect at. An access to BAR
2 of a function falls into the region of one of its clusters, in increasing order; one of another size or offset is
treated as one to reserved bytes (R394). None where no region is mapped. -/
def State.hostTarget (s : State) (w : HostWin) (half : Nat) : Option HostWin :=
  match w with
  | .bar fn addr size =>
    ((s.clustersOf (BitVec.ofNat 5 fn))[addr / 0x20000]?).map fun cl =>
      if size = 8 ∧ addr % 16 = half then regionWin cl (addr % 0x20000) else .reserved cl
  | w => some w

/-- A host access that is discarded, or returns all ones, is counted by the function (R394). Marked DEDUCED, log 48. -/
def State.hostError (s : State) (w : HostWin) : State :=
  match (s.clusterAt (hostCluster w)).owner with
  | some f => { s with hostErrors := tput 0 s.hostErrors f.toNat (tget 0 s.hostErrors f.toNat + 1) }
  | none => s

/-- The site of a host fill or shrink: the core number that R394 gives it, and zero in the other fields, which the spec
does not give. Marked DESIGN CHOICE, log 73. -/
def hostSite : BitVec 46 := mkSite 0x1FFC 0 0 0

/-- HOST_FILL (R394): a window that is not ingress, is held, or has no room takes nothing. -/
def execHostFill (w : HostWin) (v : Word) (s : State) : Res :=
  .next <|
    match s.hostTarget w 0 with
    | none => s
    | some w =>
    if s.fenced (hostCluster w) then s
    else
      match w, hostService w with
      | .core c n, _ =>
        let x := s.winAt c n
        if x.v && x.mode == .ingress && !x.held && (s.coreAt c).fillRoom n then
          s.fillWin c n (bytesOf 8 v.toNat) hostSite none
        else s.hostError w
      | _, some (num, n) =>
        if serviceFilled num n && (serviceCap num n).any fun cap => decide ((s.service (hostCluster w) num n).ext < cap) then
          s.serviceFill (hostCluster w) num n v
        else s.hostError w
      | _, none => s.hostError w

/-- The pointer word of an egress window's mirror is written anew, behind the mirror writes in flight (R396). -/
def State.repoint (s : State) (c w : Nat) : State :=
  match (s.coreAt c).mirrorOf w with
  | none => s
  | some m =>
    let x := s.winAt c w
    let fill := x.fill - BitVec.ofNat 32 x.mirrors.length
    let after := (s.accs.filter fun a => a.core == c && (match a.dest with
      | .egress v _ => v == w
      | .none | .reg _ _ _ | .engine _ _ | .generator _ _ | .spill _ _ _ | .refill _ _ | .merged => false)).map Acc.id
    s.pointerWrite c w m hostSite fill fill after

/-- HOST_SHRINK (R394, R396). Marked DEDUCED, log 48. -/
def execHostShrink (w : HostWin) (v : Word) (s : State) : Res :=
  .next <|
    match s.hostTarget w 8 with
    | none => s
    | some w =>
    if s.fenced (hostCluster w) then s
    else
      let n := v.toNat % 2 ^ 32
      match w, hostService w with
      | .core c i, _ =>
        let x := s.winAt c i
        if x.v && x.mode == .egress && !x.held && decide (n ≤ x.ext) then
          (s.shrinkWin c i n hostSite none).repoint c i
        else s.hostError w
      | _, some (num, i) =>
        if !serviceFilled num i && decide (n ≤ (s.service (hostCluster w) num i).ext) then
          s.serviceShrink (hostCluster w) num i n
        else s.hostError w
      | _, none => s.hostError w

/-- The all-ones answer of a read that is not permitted (R394). -/
def State.hostAllOnes (s : State) (w : HostWin) : State :=
  { s.hostError w with hostReply := 0xFFFFFFFFFFFFFFFF#64 }

/-- HOST_READ_ELEMENT (R394): 0 where there is no element, the window is undefined or held.
Marked DESIGN CHOICE, log 14. -/
def execHostReadElement (w : HostWin) (s : State) : Res :=
  .next <|
    match s.hostTarget w 0 with
    | none => { s with hostReply := 0xFFFFFFFFFFFFFFFF#64 }
    | some w =>
    if s.device.dev ≠ .running then s.hostAllOnes w
    else match w, hostService w with
    | .core c i, _ =>
      let x := s.winAt c i
      { s with hostReply := if !x.v || x.held || decide (x.ext = 0) then 0 else (s.coreAt c).readScalar x 0 }
    | _, some (num, i) =>
      if serviceFilled num i then s.hostAllOnes w
      else { s with hostReply := (s.service (hostCluster w) num i).elems.headD 0 }
    | _, none => s.hostAllOnes w

/-- HOST_READ_POINTERS (R394). Marked DESIGN CHOICE, log 14. -/
def execHostReadPointers (w : HostWin) (s : State) : Res :=
  .next <|
    match s.hostTarget w 8 with
    | none => { s with hostReply := 0xFFFFFFFFFFFFFFFF#64 }
    | some w =>
    if s.device.dev ≠ .running then s.hostAllOnes w
    else match w, hostService w with
    | .core c i, _ =>
      let x := s.winAt c i
      { s with hostReply := BitVec.ofNat 64 (x.fill.toNat * 2 ^ 32 + x.head.toNat) }
    | _, some (num, i) =>
      let x := s.service (hostCluster w) num i
      { s with hostReply := BitVec.ofNat 64 (x.fill.toNat * 2 ^ 32 + x.head.toNat) }
    | _, none => s.hostAllOnes w

/-- HOST_MEMORY_WRITE: the host's earlier writes reach device memory before a later doorbell (R395); CXL.mem is down
while the device does not run (R419, R420), and a fenced die's memory has left service (R429). -/
def execHostMemoryWrite (addr : Nat) (bytes : List Byte) (s : State) : Res :=
  .next (if addr / 2 ^ 58 = 2 ∨ s.device.dev = .running then s.writeServed addr bytes else s)

end Sys2Proof.Machine
end

