-- ==== Sys2Proof/Machine/Device.lean ====
section
/-! DEFINITION. Bring-up, the mailbox, firmware and attestation, the alarm, and repairs (R419 to R430). -/

namespace Sys2Proof.Machine

open Sys2Proof

/-! ## From power to service (R419, R420) -/

/-- Whether a byte of memory outlives the power of this package: the host's, or a peer package's. -/
def State.outside (s : State) (x : Host.Cell) : Bool :=
  decide (x.1 / 2 ^ 58 = 2 ∨ x.1 % 2 ^ 58 / 2 ^ 52 ≠ s.pkg.toNat)

/-- The package as it stands before its boot ROM runs: everything at its reset value but what lies outside the package,
its number, what the device keeps, and the model's own counters. Marked DEDUCED, log 57. -/
def State.bare (s : State) (dev : Device) : State :=
  { State.reset with
    pkg := s.pkg
    domain := 1#64 <<< s.pkg.toNat
    mem := s.mem.filter s.outside
    spoiled := s.spoiled.filter fun a => s.outside (a, 0)
    nextAcc := s.nextAcc
    nextToken := s.nextToken
    nextGroup := s.nextGroup
    hostReply := s.hostReply
    msix := s.msix
    free := s.free
    device := dev }

/-- The device with nothing booted: the fuses, the key store, the alarm latch and the last reply are kept (R422). -/
def Device.unbooted (d : Device) (dev : DevState) : Device :=
  { State.reset.device with
    dev := dev, keyHash := d.keyHash, keyStore := d.keyStore, fusePolicy := d.fusePolicy, alarmLatch := d.alarmLatch
    reply := d.reply }

/-- The digest of a firmware image (R423). -/
def firmwareDigest (fw : Firmware) : BitVec 512 := Config.sha512 fw.image

/-- Whether a firmware image is verified: the hash of its key is the fused one, and its signature is one of its digest
(R423). -/
def firmwareVerified (fw : Firmware) (keyHash : BitVec 512) : Bool :=
  let n := fw.proof.key.toNat
  decide (Config.sha512 (bytesOf 512 n) = keyHash)
    && decide (fw.proof.signature.toNat ^ Config.rsaExponent % n = Config.rsaEncoded (firmwareDigest fw) % n)

/-- The first stage of bring-up that fails (R419). -/
def bootFailure (r : BootResults) (keyHash : BitVec 512) : Option (BitVec 4) :=
  if !r.keyStoreOk then some 1
  else if !firmwareVerified r.firmware keyHash then some 2
  else if r.sparesNeeded.any fun n => decide (8 < n) then some 3
  else if !r.memoryOk then some 4
  else if !r.linksOk then some 5
  else none

/-- A core as a halt leaves it, with all its slots stopped (R412). -/
def Core.alarmed (k : Core) (tick : BitVec 64) : Core :=
  let mx := { k.mx with run := k.mx.run.map fun r => if cmdOp r.cmd.cmd = 0x24 then { r with stopped := true } else r }
  { k with slots := k.slots.foldl (init := k.slots) fun t e => tput Slot.init t e.1 (e.2.halted tick)
           stop := .halted, mx := mx, haltTick := tick }

/-- The alarm (R426, R427): every core stops, nothing is saved, what is in flight is lost, and only the mailbox is left,
which still answers the command it has accepted (R421).
Marked DEDUCED, log 59. -/
def State.alarm (s : State) (src : AlarmSource) : State :=
  let cores := (List.range Config.cores).map fun c => (c, (s.coreAt c).alarmed s.tick)
  let d := s.device
  let latch := d.alarmLatch || (!d.fusePolicy && src != .temperature)
  let dev := { d with dev := .safe, cause := 6, keyStore := d.keyStore && !d.fusePolicy, alarmLatch := latch }
  { s with cores := cores, accs := [], edges := [], agenda := [], due := 0, late := 0, issuers := [], device := dev }

/-- The number of spares each cluster uses. -/
def sparesOf (ns : List Nat) : Table Nat := tputs 0 [] 0 (ns.take Config.clusters)

/-- The boot ROM runs the stages of R419 on a package that is bare; measurement 0 is recorded before it is verified
(R423). -/
def State.boot (s : State) (r : BootResults) : State :=
  let s := s.bare (s.device.unbooted .booting)
  let d := s.device
  let failed := bootFailure r d.keyHash
  let measured := failed != some 1
  let ok2 := measured && failed != some 2
  let ok3 := ok2 && failed != some 3
  let d := { d with
    measurements := if measured then [firmwareDigest r.firmware] else []
    fwver := if ok2 then r.firmware.version else 0
    clusterSpares := if ok3 then sparesOf r.sparesNeeded else []
    spares := if ok3 then BitVec.ofNat 8 (r.sparesNeeded.take Config.clusters).sum else 0 }
  match failed with
  | some n => { s with device := { d with dev := .safe, cause := n } }
  | none =>
    let s := { s with device := { d with dev := .running, up := true } }
    match r.tripStands with
    | some src => s.alarm src
    | none => s

/-- POWER_APPLIED (R419): the boot ROM runs on a package that has no power yet or stands in reset. Marked DEDUCED, log
70. -/
def execPowerApplied (r : BootResults) (s : State) : Res :=
  .next (if s.device.dev = .off ∨ s.device.dev = .booting then s.boot r else s)

/-- POWER_REMOVED (R420, R427): the alarm latch goes with the power; the fuses and the key store stay.
Marked DEDUCED, log 70. -/
def execPowerRemoved (s : State) : Res :=
  .next (s.bare { s.device.unbooted .off with alarmLatch := false, reply := [] })

/-! ## The mailbox (R421, R422, R425) -/

/-- The code of the device's state in the mailbox status word. -/
def DevState.code : DevState → Nat
  | .booting | .off => 0
  | .running => 1
  | .safe => 2

/-- Bit d: die d is fenced (R421, R429). Marked DEDUCED, log 57. -/
def State.fencedDies (s : State) : Nat := ((List.range Config.dies).map fun d => if (s.dieAt d).fenced then 2 ^ d else 0).sum

/-- The mailbox status word (R421). -/
def State.mailboxWord (s : State) : Word :=
  let d := s.device
  BitVec.ofNat 64 (d.fwver.toNat * 2 ^ 32 + d.spares.toNat * 2 ^ 24 + s.fencedDies * 2 ^ 16 + d.busy.toNat * 2 ^ 12
    + d.cause.toNat * 2 ^ 8 + d.dev.code)

/-- Whether the mailbox takes a command: in both states, and not while it answers another (R421). -/
def State.mailboxTakes (s : State) : Bool := (s.device.dev == .running || s.device.dev == .safe) && !s.device.busy

/-- The reply buffer takes an answer, at most its 2 KiB. -/
def State.mailboxReply (s : State) (ws : List Word) : State := { s with device := { s.device with reply := ws.take 256 } }

/-- A word that the spec leaves open, drawn from the free values (DESIGN CHOICE, log 2). -/
def State.freeWordReply (s : State) : Word := Config.freeWord s.free

/-- The answer to a command that is refused: the format of the error is open. -/
def State.mailboxError (s : State) : State := { s.mailboxReply [s.freeWordReply] with free := s.free + 1 }

/-- The words of a wide value, the low one first. -/
def wordsOf (n v : Nat) : List Word := (List.range n).map fun i => BitVec.ofNat 64 (v / 2 ^ (64 * i))

/-- A mailbox command is accepted, or discarded while another is answered (R421). -/
def State.mailboxAccept (s : State) (m : MailCmd) : State :=
  if s.mailboxTakes then { s with device := { s.device with busy := true, pending := some m } } else s

/-- MAILBOX_STATUS (R421). -/
def execMailboxStatus (s : State) : Res := .next (s.mailboxAccept .status)

/-- MAILBOX_DIAG (R421). -/
def execMailboxDiag (s : State) : Res := .next (s.mailboxAccept .diag)

/-- MAILBOX_RESTART (R422): answered with STATE 0, then as the removal and reapplication of power.
Marked DEDUCED, log 70. -/
def execMailboxRestart (r : BootResults) (s : State) : Res :=
  .next <|
    if s.mailboxTakes then
      (s.mailboxReply [{ s with device := { s.device with dev := .booting } }.mailboxWord]).boot r
    else s

/-- The part number E4-6144A as a word of ASCII characters, the first in the lowest byte (R425). -/
def partNumber : Word := 0x41343431362D3445#64

/-- The attestation report: part number, fuse policy, measurements, nonce, signature; the signature is a free value
(R425, DESIGN CHOICE, log 6). -/
def State.attestation (s : State) (nonce : BitVec 256) : List Word :=
  [partNumber, if s.device.fusePolicy then 1 else 0] ++ (s.device.measurements.flatMap fun m => wordsOf 8 m.toNat)
    ++ wordsOf 4 nonce.toNat ++ (List.range 8).map fun i => Config.freeWord (s.free + i)

/-- MAILBOX_ATTEST (R421, R425). -/
def execMailboxAttest (nonce : BitVec 256) (s : State) : Res := .next (s.mailboxAccept (.attest nonce))

/-- MAILBOX_OTHER (R421). -/
def execMailboxOther (_cmd : Word) (s : State) : Res := .next (s.mailboxAccept .other)

/-- The answer to a mailbox command (R421, R423, R425, R427): the status word; the failure record, whose format is open,
and the measurements; an attestation; an error for any other command, and for one that is refused. -/
def State.mailboxAnswer (s : State) (m : MailCmd) : State :=
  match m with
  | .status => s.mailboxReply [s.mailboxWord]
  | .diag =>
    { s.mailboxReply (s.freeWordReply :: s.device.measurements.flatMap fun m => wordsOf 8 m.toNat) with free := s.free + 1 }
  | .attest nonce =>
    if s.device.dev ≠ .running ∨ s.device.alarmLatch ∨ !s.device.keyStore then s.mailboxError
    else { s.mailboxReply (s.attestation nonce) with free := s.free + 8 }
  | .other => s.mailboxError

/-- The command that the mailbox has accepted is answered (R421). -/
def State.mailboxTick (s : State) : State :=
  match s.device.pending with
  | none => s
  | some m => { s with device := { s.device with busy := false, pending := none } }.mailboxAnswer m

/-! ## Firmware (R424) -/

/-- Whether no group runs or stands saved and every network is closed (R424). -/
def State.quiescent (s : State) : Bool :=
  (s.groups.all fun e => e.2.isNone) && (List.range Config.networks).all fun n => (s.netAt n).state == .closed

/-- FIRMWARE_SWITCHOVER (R424): a failed verification leaves the old firmware and reports an error to the request. -/
def execFirmwareSwitchover (image : List Byte) (version : BitVec 32) (proof : Seal) (s : State) : Res :=
  .next <|
    let fw : Firmware := ⟨image, version, proof⟩
    if s.device.dev ≠ .running ∨ !s.quiescent then s
    else if firmwareVerified fw s.device.keyHash then
      { s with device := { s.device with measurements := s.device.measurements ++ [firmwareDigest fw], fwver := fw.version } }
    else { s with hostReply := s.freeWordReply, free := s.free + 1 }

/-! ## The alarm and integrity (R426 to R428) -/

/-- ALARM_TRIP (R426). Marked DEDUCED, log 59. -/
def execAlarmTrip (src : AlarmSource) (s : State) : Res :=
  .next (if s.device.dev = .running ∨ s.device.dev = .safe then s.alarm src else s)

/-- A running command of a core, a PKT in flight or an access of the backing agent that a site names ends in an
unrecoverable fault of its engine. -/
def State.failSite (s : State) (c : Nat) (site : BitVec 46) (cls : Nat) (detail : Word) : State :=
  let k := s.coreAt c
  let mine (x : Cmd) : Bool := x.site == site
  let bte := (List.range 4).findSome? fun e => (k.bteAt e).bind fun r => if mine r.cmd then some (e, r) else none
  let mx := (k.mx.run.toList ++ k.mx.load ++ k.mx.out.toList).find? fun r => mine r.cmd && !r.ended
  let agent := s.accs.find? fun (a : Acc) => a.holder == .agent c && a.site == site
  if k.fabRun.any mine then s.fcfgFail c site cls detail 0
  else match k.round.filter fun r => mine r.cmd with
    | some r => s.roundFault c r cls detail 0
    | none => match bte with
      | some (e, r) => s.bteFail c e r cls detail 0
      | none => match mx with
        | some r => s.mxFail c r cls detail
        | none => match k.ring.run.filter mine with
          | some x => s.ringFail c x cls detail
          | none => match k.pktRuns.find? fun r => mine r.cmd with
            | some r =>
              (s.setCore c { k with pktRuns := k.pktRuns.filter fun x => !mine x.cmd }).failCommand c r.cmd .pkt [] cls
                detail 0 false
            | none => match agent with
              | some a => s.engineFault a cls detail
              | none => s

/-- SOFT_ERROR_CORRECTED (R428): an error that a check corrects is counted, and invisible to programs. -/
def execSoftErrorCorrected (s : State) : Res :=
  .next { s with device := { s.device with softErrors := s.device.softErrors + 1 } }

/-! ## Repairs (R429) -/

/-- A spare takes the number of a failed core that no group holds; a cluster has eight (R419, R429).
Marked DEDUCED, log 58. -/
def State.spareCore (s : State) (c : Nat) : State :=
  let s := { s with device := { s.device with sparing := s.device.sparing.erase c } }
  let used := tget 0 s.device.clusterSpares (clusterOf c)
  if 8 ≤ used then s
  else
    let classq := (s.coreAt c).classq
    let s := s.resetCore c
    let s := s.setCore c { s.coreAt c with classq := classq }
    let d := s.device
    { s with device := { d with
      spares := d.spares + 1, clusterSpares := tput 0 d.clusterSpares (clusterOf c) (used + 1) } }

/-- Going on with the sparing of a core (R429): its group is pre-empted where its priority admits that, and the spare
comes in once the core is free. Marked DEDUCED, log 58. -/
def State.goOnSparing (s : State) (c : Nat) : State :=
  match (s.coreAt c).group with
  | none => s.spareCore c
  | some g => if (s.groupAt g).lpri = 3 ∨ (s.groupAt g).saving then s else s.post (.groupPreempt g)

/-- CORE_SPARING (R429). Marked DEDUCED, log 58. -/
def execCoreSparing (c : Nat) (s : State) : Res :=
  .next <|
    if s.device.dev ≠ .running ∨ s.device.sparing.contains c then s
    else { s with device := { s.device with sparing := c :: s.device.sparing } }.goOnSparing c

/-- HBM_SPARING (R429): only latency changes, which the model leaves out. -/
def execHbmSparing (_die _channel : Nat) (s : State) : Res := .next s
/-- LANE_SPARING (R429): nothing beyond link counts. -/
def execLaneSparing (_link _lane : Nat) (s : State) : Res := .next s

/-- DIE_FENCING (R397, R429). -/
def execDieFencing (die : Nat) (s : State) : Res :=
  .next <|
    let s := s.setDie die { s.dieAt die with fenced := true }
    let s := (List.range Config.clustersPerDie).foldl (init := s) fun s i =>
      let k := s.clusterAt (die * Config.clustersPerDie + i)
      s.setCluster (die * Config.clustersPerDie + i) { k with owner := none, ptroot := contextOf k.ptroot none }
    (List.range 8).foldl (init := s) fun s i =>
      s.setNet (die * 8 + i) { s.netAt (die * 8 + i) with owner := none }

/-- A set of packages with one put in the place of another. -/
def replaceBit (m : BitVec 64) (old new : Nat) : BitVec 64 :=
  if m.getLsbD old then (m &&& ~~~(1#64 <<< old)) ||| (1#64 <<< new) else m

/-- The groups whose pod barriers have members in a package (R393). -/
def State.groupsWith (s : State) (p : Nat) : List Nat :=
  (s.groups.filter fun e => e.2.any fun g =>
    (s.podFor (clusterOf (g.members.headD 0)) g.gid.toNat).any fun x => x.mask.getLsbD p).map Prod.fst

/-- PACKAGE_REPLACEMENT of a peer (R393, R399, R429). -/
def execPackageReplacement (old new : Nat) (s : State) : Res :=
  .next <|
    let s := (s.groupsWith old).foldl (init := s) fun s gn => s.losePods gn
    let s := (List.range 16).foldl (init := s) fun s e =>
      s.setPod e { s.podAt e with mask := replaceBit (s.podAt e).mask old new }
    { s with domain := replaceBit s.domain old new }

/-- POWER_THROTTLE (R430): idle ticks between matrix steps; no result changes. -/
def execPowerThrottle (_c : Nat) (s : State) : Res := .next s

/-- LINK_RETRY (R428): data that no check corrects. A link repeats the flit by itself; at a home slice the next read of
the bytes finds it, until they are written; anywhere else it is an unrecoverable fault of the party whose data it was.
Marked PRESUMED, log 85. -/
def execLinkRetry (lost : LostData) (s : State) : Res :=
  .next <|
    match lost with
    | .link _ => s
    | .memory key n => { s with spoiled := ((List.range n).map (key + ·)).filter (!s.spoiled.contains ·) ++ s.spoiled }
    | .party c site => s.failSite c site 3 (memFaultArg 9 7 0)

end Sys2Proof.Machine
end

