-- ==== Sys2Proof/Machine/Integer.lean ====
section
/-! DEFINITION. Integer, logic, shift and count instructions (R91, R93 to R100), as values of their operands and as
meanings. -/

namespace Sys2Proof.Machine

open Sys2Proof

/-- An F3 integer instruction of two operands: an N-bit result from the N-bit operands, extended (R91). -/
def intOp (e : Ext) (z : Size) (d a b : BitVec 5) (g : Guard) (f : Nat → Nat → Nat → Nat) (s : State) : Res :=
  guarded g s fun s =>
    let n := sizeBits z
    .done (s.setG d (extend e n (f n (lowBits n (s.me.readG a)) (lowBits n (s.me.readG b)))))

/-- An FI instruction on all 64 bits of one register (R92). -/
def immOp (d a : BitVec 5) (f : Word → Word) (s : State) : Res := finish s (.done (s.setG d (f (s.me.readG a))))

/-- MULH: the upper half of the exact product, as an N-bit pattern (R93). -/
def mulhVal (e : Ext) (n a b : Nat) : Nat :=
  ((valueOf e n a * valueOf e n b) / ((2 ^ n : Nat) : Int) % ((2 ^ n : Nat) : Int)).toNat

/-- DIV (R94): truncated toward zero; all ones for a zero divisor; signed overflow gives the dividend. -/
def divVal (e : Ext) (n a b : Nat) : Nat :=
  if b = 0 then 2 ^ n - 1
  else (Int.tdiv (valueOf e n a) (valueOf e n b) % ((2 ^ n : Nat) : Int)).toNat

/-- REM (R94): the sign of the dividend; the dividend for a zero divisor. -/
def remVal (e : Ext) (n a b : Nat) : Nat :=
  if b = 0 then a
  else (Int.tmod (valueOf e n a) (valueOf e n b) % ((2 ^ n : Nat) : Int)).toNat

/-- SHL by a register count (R97). -/
def shlVal (n a : Nat) (c : Nat) : Nat := if c < n then a * 2 ^ c % 2 ^ n else 0

/-- SHR by a register count, filled as the major says (R97). -/
def shrVal (e : Ext) (n a : Nat) (c : Nat) : Nat :=
  (valueOf e n a / ((2 ^ min c n : Nat) : Int) % ((2 ^ n : Nat) : Int)).toNat

/-- ROT by a register count (R97). -/
def rotVal (n a : Nat) (c : Nat) : Nat := a * 2 ^ (c % n) % 2 ^ n + a / 2 ^ (n - c % n)

/-- Leading zeros of an n-bit value (R98). -/
def clzVal (n a : Nat) : Nat := if a = 0 then n else n - 1 - Nat.log2 a

/-- Trailing zeros of an n-bit value (R98). -/
def ctzVal (n a : Nat) : Nat := (leastBelow (fun i => a.testBit i) n).getD n

/-- Ones of an n-bit value (R98). -/
def popcVal (n a : Nat) : Nat := ((List.range n).filter fun i => a.testBit i).length

/-- The bits of an n-bit value in reverse order (R99). -/
def brevVal (n a : Nat) : Nat :=
  match n with
  | 0 => 0
  | n + 1 => a % 2 * 2 ^ n + brevVal n (a / 2)

/-- The bytes of a k-byte value in reverse order (R99). -/
def bswpVal (k a : Nat) : Nat := ofBytes (bytesOf k a).reverse

/-- ADD (R93). -/
def execAdd (e : Ext) (z : Size) (d a b : BitVec 5) (g : Guard) (s : State) : Res :=
  intOp e z d a b g (fun n x y => (x + y) % 2 ^ n) s
/-- SUB (R93). -/
def execSub (e : Ext) (z : Size) (d a b : BitVec 5) (g : Guard) (s : State) : Res :=
  intOp e z d a b g (fun n x y => (x + 2 ^ n - y) % 2 ^ n) s
/-- MUL (R93). -/
def execMul (e : Ext) (z : Size) (d a b : BitVec 5) (g : Guard) (s : State) : Res :=
  intOp e z d a b g (fun n x y => x * y % 2 ^ n) s
/-- MULH (R93). -/
def execMulh (e : Ext) (z : Size) (d a b : BitVec 5) (g : Guard) (s : State) : Res :=
  intOp e z d a b g (fun n x y => mulhVal e n x y) s
/-- DIV (R94). -/
def execDiv (e : Ext) (z : Size) (d a b : BitVec 5) (g : Guard) (s : State) : Res :=
  intOp e z d a b g (fun n x y => divVal e n x y) s
/-- REM (R94). -/
def execRem (e : Ext) (z : Size) (d a b : BitVec 5) (g : Guard) (s : State) : Res :=
  intOp e z d a b g (fun n x y => remVal e n x y) s
/-- AND (R96). -/
def execAnd (e : Ext) (z : Size) (d a b : BitVec 5) (g : Guard) (s : State) : Res :=
  intOp e z d a b g (fun _ x y => x &&& y) s
/-- OR (R96). -/
def execOr (e : Ext) (z : Size) (d a b : BitVec 5) (g : Guard) (s : State) : Res :=
  intOp e z d a b g (fun _ x y => x ||| y) s
/-- XOR (R96). -/
def execXor (e : Ext) (z : Size) (d a b : BitVec 5) (g : Guard) (s : State) : Res :=
  intOp e z d a b g (fun _ x y => x ^^^ y) s
/-- NOT (R96). -/
def execNot (e : Ext) (z : Size) (d a : BitVec 5) (g : Guard) (s : State) : Res :=
  intOp e z d a 0 g (fun n x _ => 2 ^ n - 1 - x) s

/-- A shift by a register: the count is all 64 bits of g_b (R97). -/
def shiftOp (e : Ext) (z : Size) (d a b : BitVec 5) (g : Guard) (f : Nat → Nat → Nat → Nat) (s : State) : Res :=
  guarded g s fun s =>
    let n := sizeBits z
    .done (s.setG d (extend e n (f n (lowBits n (s.me.readG a)) (s.me.readG b).toNat)))

/-- SHL (R97). -/
def execShl (e : Ext) (z : Size) (d a b : BitVec 5) (g : Guard) (s : State) : Res :=
  shiftOp e z d a b g (fun n x c => shlVal n x c) s
/-- SHR (R97). -/
def execShr (e : Ext) (z : Size) (d a b : BitVec 5) (g : Guard) (s : State) : Res :=
  shiftOp e z d a b g (fun n x c => shrVal e n x c) s
/-- ROT (R97). -/
def execRot (e : Ext) (z : Size) (d a b : BitVec 5) (g : Guard) (s : State) : Res :=
  shiftOp e z d a b g (fun n x c => rotVal n x c) s

/-- A count of one operand, written zero-extended under both majors (R98). -/
def countOp (z : Size) (d a : BitVec 5) (g : Guard) (f : Nat → Nat → Nat) (s : State) : Res :=
  guarded g s fun s =>
    let n := sizeBits z
    .done (s.setG d (BitVec.ofNat 64 (f n (lowBits n (s.me.readG a)))))

/-- CLZ (R98). -/
def execClz (_e : Ext) (z : Size) (d a : BitVec 5) (g : Guard) (s : State) : Res := countOp z d a g clzVal s
/-- CTZ (R98). -/
def execCtz (_e : Ext) (z : Size) (d a : BitVec 5) (g : Guard) (s : State) : Res := countOp z d a g ctzVal s
/-- POPC (R98). -/
def execPopc (_e : Ext) (z : Size) (d a : BitVec 5) (g : Guard) (s : State) : Res := countOp z d a g popcVal s
/-- MIN (R95). -/
def execMin (e : Ext) (z : Size) (d a b : BitVec 5) (g : Guard) (s : State) : Res :=
  intOp e z d a b g (fun n x y => if valueOf e n y < valueOf e n x then y else x) s
/-- MAX (R95). -/
def execMax (e : Ext) (z : Size) (d a b : BitVec 5) (g : Guard) (s : State) : Res :=
  intOp e z d a b g (fun n x y => if valueOf e n x < valueOf e n y then y else x) s
/-- BREV (R99). -/
def execBrev (e : Ext) (z : Size) (d a : BitVec 5) (g : Guard) (s : State) : Res :=
  intOp e z d a 0 g (fun n x _ => brevVal n x) s
/-- BSWP (R99). -/
def execBswp (e : Ext) (z : Size) (d a : BitVec 5) (g : Guard) (s : State) : Res :=
  intOp e z d a 0 g (fun n x _ => bswpVal (n / 8) x) s
/-- MOV (R96). -/
def execMov (e : Ext) (z : Size) (d a : BitVec 5) (g : Guard) (s : State) : Res :=
  intOp e z d a 0 g (fun _ x _ => x) s
/-- NOP changes nothing but the PC (R53). -/
def execNop (s : State) : Res := finish s (.done s)

/-- ADD immediate (R92). -/
def execAddImm (d a : BitVec 5) (i : BitVec 16) (s : State) : Res := immOp d a (· + sext16 i) s
/-- AND immediate (R92). -/
def execAndImm (d a : BitVec 5) (i : BitVec 16) (s : State) : Res := immOp d a (· &&& zext16 i) s
/-- OR immediate (R92). -/
def execOrImm (d a : BitVec 5) (i : BitVec 16) (s : State) : Res := immOp d a (· ||| zext16 i) s
/-- XOR immediate (R92). -/
def execXorImm (d a : BitVec 5) (i : BitVec 16) (s : State) : Res := immOp d a (· ^^^ zext16 i) s
/-- SHL immediate (R92). -/
def execShlImm (d a : BitVec 5) (n : BitVec 6) (s : State) : Res := immOp d a (· <<< n.toNat) s
/-- SHR.z immediate (R92). -/
def execShrZImm (d a : BitVec 5) (n : BitVec 6) (s : State) : Res := immOp d a (· >>> n.toNat) s
/-- SHR.s immediate (R92). -/
def execShrSImm (d a : BitVec 5) (n : BitVec 6) (s : State) : Res := immOp d a (·.sshiftRight n.toNat) s
/-- MOV immediate (R92). -/
def execMovImm (d : BitVec 5) (i : BitVec 16) (s : State) : Res := immOp d 0 (fun _ => sext16 i) s

/-- Replacing a quarter of a register (R100). -/
def movhVal (v : Word) (q : BitVec 2) (i : BitVec 16) : Word :=
  (v &&& ~~~(0xFFFF#64 <<< (16 * q.toNat))) ||| (zext16 i <<< (16 * q.toNat))

/-- MOVH (R100). -/
def execMovh (d : BitVec 5) (q : BitVec 2) (i : BitVec 16) (s : State) : Res := immOp d d (movhVal · q i) s

end Sys2Proof.Machine
end

