-- ==== Sys2Proof/Machine/Packets.lean ====
section
/-! DEFINITION. Route-class packets (R385 to R391), and remote window operations at their target (R122, R288). -/

namespace Sys2Proof.Machine

open Sys2Proof

/-! ## Sending (R385 to R388) -/

/-- The class of a PKT (R386). -/
def pktClass (x : Wide) : Nat := cf x 24 4

/-- The cores a route register reaches, clipped at row and column 15 (R385). -/
def routeCores (v : Nat) : List Nat :=
  let row0 := v % 16
  let col0 := v / 16 % 16
  let nrow := v / 2 ^ 8 % 16
  let ncol := v / 2 ^ 12 % 16
  (List.range Config.cores).filter fun c =>
    decide (v / 2 ^ (16 + clusterOf c) % 2 = 1) && decide (row0 ≤ rowOf c ∧ rowOf c ≤ row0 + nrow)
      && decide (col0 ≤ colOf c ∧ colOf c ≤ col0 + ncol)

/-- The destination package of a PKT, where it is not this one (R386). -/
def pktPeer (pkg : BitVec 6) (x : Wide) : Option Nat :=
  if cmdMod x 0 || decide (cf x 51 1 = 1 ∨ cf x 45 6 = pkg.toNat) then none else some (cf x 45 6)

/-- The cores a PKT sends copies to. -/
def Core.pktDests (k : Core) (x : Wide) : List Nat :=
  if cmdMod x 0 then routeCores (k.pkrt.toList.getD (pktClass x) 0).toNat else [cf x 32 13]

/-- A PKT completes when every copy has entered a queue or was discarded (R388, R389). Marked DEDUCED, log 25. -/
def State.pktEnd (s : State) (c : Nat) (r : PktRun) : State :=
  if !r.left.isEmpty then s
  else
    let k := s.coreAt c
    let s := s.setCore c { k with pktRuns := k.pktRuns.filter fun x => x.cmd.site != r.cmd.site }
    match r.bad with
    | some d => s.failCommand c r.cmd .pkt [] 10 d 0 false
    | none => s.endCommand c r.cmd .pkt false false false

/-- PKT starts: its copies go into the network (R388). The release of step 1 was performed at its ISS (R262). -/
def execPkt (c : Nat) (s : State) : Res :=
  .next <|
    match (s.coreAt c).headOf .pkt 0x81 with
    | none => s
    | some x =>
      let r : PktRun := ⟨x, (s.coreAt c).pktDests x.cmd, none⟩
      let s := s.takeHead c .pkt
      let k := s.coreAt c
      let s := s.setCore c { k with pktRuns := k.pktRuns ++ [r] }
      let s := r.left.foldl (init := s) fun s d => s.post (.pktCopyEnqueue c (BitVec.ofNat 16 (siteSeq x.site)) d)
      s.pktEnd c r

/-- A core's queue of a class (R388). -/
def Core.classQueue (k : Core) (cls : Nat) : List Packet := tget [] k.classq cls

/-- Whether an earlier PKT of the core still has a copy on its way to a destination (R383). -/
def Core.pktBehind (k : Core) (r : PktRun) (d : Nat) : Bool :=
  (k.pktRuns.takeWhile fun x => x.cmd.site != r.cmd.site).any fun x => x.left.contains d

/-- What becomes of a copy. -/
inductive Copied | waits | enters | undeliverable (why : Nat)
  deriving DecidableEq, Repr

/-- What becomes of a copy (R388, R389). What a peer package of the domain does with one is not this package's to say:
it is a free value. -/
def State.copyFate (s : State) (c d : Nat) (x : Wide) : Copied × State :=
  match pktPeer s.pkg x with
  | some p =>
    if !s.domain.getLsbD p then (.undeliverable 2, s)
    else
      let r := s.freeBelow 3
      (if r.1 = 0 then .enters else .undeliverable r.1, r.2)
  | none =>
    if s.tenantOf d ≠ s.tenantOf c then (.undeliverable 1, s)
    else if 16 ≤ ((s.coreAt d).classQueue (pktClass x)).length then (.waits, s)
    else (.enters, s)

/-- DETAIL of an undeliverable copy (R348, R389). Marked DEDUCED, log 25. -/
def undeliverable (pkg : BitVec 6) (x : Wide) (d why : Nat) : Word :=
  BitVec.ofNat 64 (why * 2 ^ 19 + (pktPeer pkg x).getD pkg.toNat * 2 ^ 13 + d)

/-- A copy enters the queue of its class at its destination, or is discarded (R388, R389). Marked DEDUCED, log 25. -/
def State.copyArrives (s : State) (c d : Nat) (r : PktRun) : State :=
  let f := s.copyFate c d r.cmd.cmd
  let s := f.2
  let cls := pktClass r.cmd.cmd
  let gone (s : State) (bad : Option Word) : State :=
    let k := s.coreAt c
    let r := { r with left := r.left.erase d, bad := r.bad <|> bad }
    (s.setCore c { k with pktRuns := k.pktRuns.map fun x => if x.cmd.site = r.cmd.site then r else x }).pktEnd c r
  match f.1 with
  | .waits => s
  | .undeliverable why => gone s (some (undeliverable s.pkg r.cmd.cmd d why))
  | .enters =>
    if (pktPeer s.pkg r.cmd.cmd).isSome then gone s none
    else
      let k := s.coreAt d
      let q := k.classQueue cls ++ [⟨BitVec.ofNat 32 (cf r.cmd.cmd 64 32)⟩]
      gone ((s.setCore d { k with classq := tput [] k.classq cls q }).post (.packetDelivery d (BitVec.ofNat 4 cls))) none

/-- PKT_COPY_ENQUEUE (R388): copies of one core to one destination arrive in the order they were sent (R383). -/
def execPktCopyEnqueue (c : Nat) (seq : BitVec 16) (dst : Nat) (s : State) : Res :=
  .next <|
    let k := s.coreAt c
    match k.pktRuns.find? fun r => decide (siteSeq r.cmd.site = seq.toNat) with
    | none => s
    | some r => if r.left.contains dst && !k.pktBehind r dst then s.copyArrives c dst r else s

/-- PACKET_DELIVERY (R388, R168): the oldest packet of a class activates the lowest slot bound to the class. -/
def execPacketDelivery (c : Nat) (cls : BitVec 4) (s : State) : Res :=
  .next <|
    let k := s.coreAt c
    match k.classQueue cls.toNat, k.boundTo (sourceKey 2 cls.toNat) with
    | p :: rest, some t =>
      if k.stop ≠ .none ∨ k.cmask.getLsbD cls.toNat = true then s
      else
        let s := s.setCore c { k with classq := tput [] k.classq cls.toNat rest }
        let s := s.activate c t (eventWord p.pay 1 2 cls.toNat)
        if rest.isEmpty then s else s.post (.packetDelivery c cls)
    | _, _ => s

/-! ## Remote operations (R122, R288) -/

/-- REMOTE_WINDOW_OPERATION: a task's remote operation, or a WTW's fill, reaches its target. -/
def execRemoteWindowOperation (c : Nat) (src : RemSrc) (s : State) : Res :=
  .next <|
    match src with
    | .slot t => s.remoteArrive c t
    | .engine e => s.wtwArrive c e

/-- REMOTE_ANSWER: the answer of a remote operation returns. -/
def execRemoteAnswer (c : Nat) (src : RemSrc) (s : State) : Res :=
  .next <|
    match src with
    | .slot t => s.remoteAnswered c t
    | .engine e => s.wtwAnswer c e

end Sys2Proof.Machine
end

