-- ==== Sys2Proof/Machine/Dispatch.lean ====
section
/-! DEFINITION. One arm per instruction: the meaning it calls. -/

namespace Sys2Proof.Machine

open Sys2Proof

/-- Running one instruction or event in a state. -/
def exec (i : Instr) (s : State) : Host.Outcome State Fault Refusal :=
  match i with
  | .add e z d a b g => Sys2Proof.Machine.execAdd e z d a b g s
  | .sub e z d a b g => Sys2Proof.Machine.execSub e z d a b g s
  | .mul e z d a b g => Sys2Proof.Machine.execMul e z d a b g s
  | .mulh e z d a b g => Sys2Proof.Machine.execMulh e z d a b g s
  | .div e z d a b g => Sys2Proof.Machine.execDiv e z d a b g s
  | .rem e z d a b g => Sys2Proof.Machine.execRem e z d a b g s
  | .and e z d a b g => Sys2Proof.Machine.execAnd e z d a b g s
  | .or e z d a b g => Sys2Proof.Machine.execOr e z d a b g s
  | .xor e z d a b g => Sys2Proof.Machine.execXor e z d a b g s
  | .not e z d a g => Sys2Proof.Machine.execNot e z d a g s
  | .shl e z d a b g => Sys2Proof.Machine.execShl e z d a b g s
  | .shr e z d a b g => Sys2Proof.Machine.execShr e z d a b g s
  | .rot e z d a b g => Sys2Proof.Machine.execRot e z d a b g s
  | .clz e z d a g => Sys2Proof.Machine.execClz e z d a g s
  | .ctz e z d a g => Sys2Proof.Machine.execCtz e z d a g s
  | .popc e z d a g => Sys2Proof.Machine.execPopc e z d a g s
  | .min e z d a b g => Sys2Proof.Machine.execMin e z d a b g s
  | .max e z d a b g => Sys2Proof.Machine.execMax e z d a b g s
  | .brev e z d a g => Sys2Proof.Machine.execBrev e z d a g s
  | .bswp e z d a g => Sys2Proof.Machine.execBswp e z d a g s
  | .mov e z d a g => Sys2Proof.Machine.execMov e z d a g s
  | .nop => Sys2Proof.Machine.execNop s
  | .addImm d a imm => Sys2Proof.Machine.execAddImm d a imm s
  | .andImm d a imm => Sys2Proof.Machine.execAndImm d a imm s
  | .orImm d a imm => Sys2Proof.Machine.execOrImm d a imm s
  | .xorImm d a imm => Sys2Proof.Machine.execXorImm d a imm s
  | .shlImm d a n => Sys2Proof.Machine.execShlImm d a n s
  | .shrZImm d a n => Sys2Proof.Machine.execShrZImm d a n s
  | .shrSImm d a n => Sys2Proof.Machine.execShrSImm d a n s
  | .movImm d imm => Sys2Proof.Machine.execMovImm d imm s
  | .movh d q imm => Sys2Proof.Machine.execMovh d q imm s
  | .cmp c z d a b g => Sys2Proof.Machine.execCmp c z d a b g s
  | .sel d a b p => Sys2Proof.Machine.execSel d a b p s
  | .bfxZImm d a w p => Sys2Proof.Machine.execBfxZImm d a w p s
  | .bfxSImm d a w p => Sys2Proof.Machine.execBfxSImm d a w p s
  | .bfiImm d a w p => Sys2Proof.Machine.execBfiImm d a w p s
  | .bfxZReg d a b g => Sys2Proof.Machine.execBfxZReg d a b g s
  | .bfxSReg d a b g => Sys2Proof.Machine.execBfxSReg d a b g s
  | .bfiReg d a b g => Sys2Proof.Machine.execBfiReg d a b g s
  | .aaddReg d a b g => Sys2Proof.Machine.execAaddReg d a b g s
  | .aset d a b g => Sys2Proof.Machine.execAset d a b g s
  | .aget d a g => Sys2Proof.Machine.execAget d a g s
  | .agetH d a g => Sys2Proof.Machine.execAgetH d a g s
  | .astep d a b g => Sys2Proof.Machine.execAstep d a b g s
  | .aaddImm d a imm => Sys2Proof.Machine.execAaddImm d a imm s
  | .acmp c d a b g => Sys2Proof.Machine.execAcmp c d a b g s
  | .pand d a b g => Sys2Proof.Machine.execPand d a b g s
  | .por d a b g => Sys2Proof.Machine.execPor d a b g s
  | .pxor d a b g => Sys2Proof.Machine.execPxor d a b g s
  | .pnot d a g => Sys2Proof.Machine.execPnot d a g s
  | .pset d v g => Sys2Proof.Machine.execPset d v g s
  | .br g o => Sys2Proof.Machine.execBr g o s
  | .jal d imm => Sys2Proof.Machine.execJal d imm s
  | .jr a g => Sys2Proof.Machine.execJr a g s
  | .loop d imm => Sys2Proof.Machine.execLoop d imm s
  | .rep n sd sa sb => Sys2Proof.Machine.execRep n sd sa sb s
  | .reservedEncoding w => Sys2Proof.Machine.execReservedEncoding w s
  | .wfill w z => Sys2Proof.Machine.execWfill w z s
  | .wrd d w o => Sys2Proof.Machine.execWrd d w o s
  | .wwr w o z => Sys2Proof.Machine.execWwr w o z s
  | .wshr w n => Sys2Proof.Machine.execWshr w n s
  | .wqry d w q => Sys2Proof.Machine.execWqry d w q s
  | .wrdn d p w o => Sys2Proof.Machine.execWrdn d p w o s
  | .wfilln w z p => Sys2Proof.Machine.execWfilln w z p s
  | .wdef w z => Sys2Proof.Machine.execWdef w z s
  | .wfillReg w z g => Sys2Proof.Machine.execWfillReg w z g s
  | .wrdReg d w a g => Sys2Proof.Machine.execWrdReg d w a g s
  | .wwrReg w a z g => Sys2Proof.Machine.execWwrReg w a z g s
  | .wshrReg w a g => Sys2Proof.Machine.execWshrReg w a g s
  | .wfillRm w c z g => Sys2Proof.Machine.execWfillRm w c z g s
  | .wrdRm d w c a g => Sys2Proof.Machine.execWrdRm d w c a g s
  | .wwrRm w c a z g => Sys2Proof.Machine.execWwrRm w c a z g s
  | .wshrRm w c a g => Sys2Proof.Machine.execWshrRm w c a g s
  | .wqryRm d w c q g => Sys2Proof.Machine.execWqryRm d w c q g s
  | .waitingReadProceeds c t => Sys2Proof.Machine.execWaitingReadProceeds c t s
  | .waitingFillProceeds c t => Sys2Proof.Machine.execWaitingFillProceeds c t s
  | .fadd t r d a b g => Sys2Proof.Machine.execFadd t r d a b g s
  | .fsub t r d a b g => Sys2Proof.Machine.execFsub t r d a b g s
  | .fmul t r d a b g => Sys2Proof.Machine.execFmul t r d a b g s
  | .ffma t r d a b g => Sys2Proof.Machine.execFfma t r d a b g s
  | .fmin t d a b g => Sys2Proof.Machine.execFmin t d a b g s
  | .fmax t d a b g => Sys2Proof.Machine.execFmax t d a b g s
  | .fsgn t o d a b g => Sys2Proof.Machine.execFsgn t o d a b g s
  | .fcmp t c d a b g => Sys2Proof.Machine.execFcmp t c d a b g s
  | .frce d a g => Sys2Proof.Machine.execFrce d a g s
  | .frsqe d a g => Sys2Proof.Machine.execFrsqe d a g s
  | .fclass d a g => Sys2Proof.Machine.execFclass d a g s
  | .fcvt y x r d a g => Sys2Proof.Machine.execFcvt y x r d a g s
  | .gldBZ d a o f => Sys2Proof.Machine.execGldBZ d a o f s
  | .gldBS d a o f => Sys2Proof.Machine.execGldBS d a o f s
  | .gldHZ d a o f => Sys2Proof.Machine.execGldHZ d a o f s
  | .gldHS d a o f => Sys2Proof.Machine.execGldHS d a o f s
  | .gldWZ d a o f => Sys2Proof.Machine.execGldWZ d a o f s
  | .gldWS d a o f => Sys2Proof.Machine.execGldWS d a o f s
  | .gldD d a o f => Sys2Proof.Machine.execGldD d a o f s
  | .gstB z a o f => Sys2Proof.Machine.execGstB z a o f s
  | .gstH z a o f => Sys2Proof.Machine.execGstH z a o f s
  | .gstW z a o f => Sys2Proof.Machine.execGstW z a o f s
  | .gstD z a o f => Sys2Proof.Machine.execGstD z a o f s
  | .red op dbl signed fast o d a g => Sys2Proof.Machine.execRed op dbl signed fast o d a g s
  | .amo op dbl o d a g => Sys2Proof.Machine.execAmo op dbl o d a g s
  | .kld k imm => Sys2Proof.Machine.execKld k imm s
  | .iss k p => Sys2Proof.Machine.execIss k p s
  | .kins k p w z => Sys2Proof.Machine.execKins k p w z s
  | .kext d k p w => Sys2Proof.Machine.execKext d k p w s
  | .kmov k m => Sys2Proof.Machine.execKmov k m s
  | .srd d n => Sys2Proof.Machine.execSrd d n s
  | .swr n z => Sys2Proof.Machine.execSwr n z s
  | .fpstatWrite z => Sys2Proof.Machine.execFpstatWrite z s
  | .repcWrite z => Sys2Proof.Machine.execRepcWrite z s
  | .wdctlWrite z => Sys2Proof.Machine.execWdctlWrite z s
  | .wbkbWrite n z => Sys2Proof.Machine.execWbkbWrite n z s
  | .wbksWrite n z => Sys2Proof.Machine.execWbksWrite n z s
  | .trcctlWrite z => Sys2Proof.Machine.execTrcctlWrite z s
  | .slotResume c t => Sys2Proof.Machine.execSlotResume c t s
  | .slotKill c t => Sys2Proof.Machine.execSlotKill c t s
  | .trap n => Sys2Proof.Machine.execTrap n s
  | .brk n => Sys2Proof.Machine.execBrk n s
  | .eret => Sys2Proof.Machine.execEret s
  | .tret => Sys2Proof.Machine.execTret s
  | .yield => Sys2Proof.Machine.execYield s
  | .spawn e a => Sys2Proof.Machine.execSpawn e a s
  | .tbind z e => Sys2Proof.Machine.execTbind z e s
  | .tunb z => Sys2Proof.Machine.execTunb z s
  | .tprio z n => Sys2Proof.Machine.execTprio z n s
  | .bara d l b => Sys2Proof.Machine.execBara d l b s
  | .barw l b g => Sys2Proof.Machine.execBarw l b g s
  | .barc l b c => Sys2Proof.Machine.execBarc l b c s
  | .baraTokenCount c src l b => Sys2Proof.Machine.execBaraTokenCount c src l b s
  | .barcArrival c l b n => Sys2Proof.Machine.execBarcArrival c l b n s
  | .barrierReleaseArrival c l b gen lost => Sys2Proof.Machine.execBarrierReleaseArrival c l b gen lost s
  | .cmsk c => Sys2Proof.Machine.execCmsk c s
  | .cumsk c => Sys2Proof.Machine.execCumsk c s
  | .tkn d h => Sys2Proof.Machine.execTkn d h s
  | .bndrn h => Sys2Proof.Machine.execBndrn h s
  | .bnsav h a => Sys2Proof.Machine.execBnsav h a s
  | .bnload h a => Sys2Proof.Machine.execBnload h a s
  | .bnclr h => Sys2Proof.Machine.execBnclr h s
  | .balancerPass net id => Sys2Proof.Machine.execBalancerPass net id s
  | .tknTokenExit net id => Sys2Proof.Machine.execTknTokenExit net id s
  | .fence o z => Sys2Proof.Machine.execFence o z s
  | .tlbinv a k => Sys2Proof.Machine.execTlbinv a k s
  | .wsave w a => Sys2Proof.Machine.execWsave w a s
  | .wrest w a => Sys2Proof.Machine.execWrest w a s
  | .wpois w p => Sys2Proof.Machine.execWpois w p s
  | .ctxsav a => Sys2Proof.Machine.execCtxsav a s
  | .ctxrst a => Sys2Proof.Machine.execCtxrst a s
  | .fscan a => Sys2Proof.Machine.execFscan a s
  | .cens w z => Sys2Proof.Machine.execCens w z s
  | .trcm n z => Sys2Proof.Machine.execTrcm n z s
  | .lsnap a => Sys2Proof.Machine.execLsnap a s
  | .fcfg c => Sys2Proof.Machine.execFcfg c s
  | .frun c => Sys2Proof.Machine.execFrun c s
  | .fstop c => Sys2Proof.Machine.execFstop c s
  | .agset c => Sys2Proof.Machine.execAgset c s
  | .agprm c => Sys2Proof.Machine.execAgprm c s
  | .fmark c => Sys2Proof.Machine.execFmark c s
  | .generatorPassStart c g => Sys2Proof.Machine.execGeneratorPassStart c g s
  | .generatorRequest c g => Sys2Proof.Machine.execGeneratorRequest c g s
  | .generatorReply c g => Sys2Proof.Machine.execGeneratorReply c g s
  | .elementFire c e => Sys2Proof.Machine.execElementFire c e s
  | .routerOperatorFire c e o => Sys2Proof.Machine.execRouterOperatorFire c e o s
  | .rowWordMove c r => Sys2Proof.Machine.execRowWordMove c r s
  | .reducerFire c r => Sys2Proof.Machine.execReducerFire c r s
  | .reordBlockEmit c g => Sys2Proof.Machine.execReordBlockEmit c g s
  | .unitReply c e => Sys2Proof.Machine.execUnitReply c e s
  | .sinkFill c k => Sys2Proof.Machine.execSinkFill c k s
  | .roundEnd c => Sys2Proof.Machine.execRoundEnd c s
  | .markerAlign c e => Sys2Proof.Machine.execMarkerAlign c e s
  | .drainComplete c => Sys2Proof.Machine.execDrainComplete c s
  | .fabricScanOut c => Sys2Proof.Machine.execFabricScanOut c s
  | .tokenHop c e src => Sys2Proof.Machine.execTokenHop c e src s
  | .gtw c => Sys2Proof.Machine.execGtw c s
  | .wtg c => Sys2Proof.Machine.execWtg c s
  | .wtw c => Sys2Proof.Machine.execWtw c s
  | .gath c => Sys2Proof.Machine.execGath c s
  | .scat c => Sys2Proof.Machine.execScat c s
  | .gredw c => Sys2Proof.Machine.execGredw c s
  | .bteRequestIssue c e => Sys2Proof.Machine.execBteRequestIssue c e s
  | .bteElementFill c e => Sys2Proof.Machine.execBteElementFill c e s
  | .bteCommandComplete c e => Sys2Proof.Machine.execBteCommandComplete c e s
  | .doneElementFill c => Sys2Proof.Machine.execDoneElementFill c s
  | .mxw c => Sys2Proof.Machine.execMxw c s
  | .mxa c => Sys2Proof.Machine.execMxa c s
  | .mxswp c => Sys2Proof.Machine.execMxswp c s
  | .mxtm c => Sys2Proof.Machine.execMxtm c s
  | .mxz c => Sys2Proof.Machine.execMxz c s
  | .mxout c => Sys2Proof.Machine.execMxout c s
  | .mxTileRead c => Sys2Proof.Machine.execMxTileRead c s
  | .mxtmStep c => Sys2Proof.Machine.execMxtmStep c s
  | .splitBlockArrival c => Sys2Proof.Machine.execSplitBlockArrival c s
  | .mxoutElementFill c => Sys2Proof.Machine.execMxoutElementFill c s
  | .mxCommandComplete c slotSide => Sys2Proof.Machine.execMxCommandComplete c slotSide s
  | .rgcfg c => Sys2Proof.Machine.execRgcfg c s
  | .rgmt c => Sys2Proof.Machine.execRgmt c s
  | .rgput c => Sys2Proof.Machine.execRgput c s
  | .rggo c => Sys2Proof.Machine.execRggo c s
  | .rgrot c => Sys2Proof.Machine.execRgrot c s
  | .rgdrn c => Sys2Proof.Machine.execRgdrn c s
  | .beatStart k => Sys2Proof.Machine.execBeatStart k s
  | .tileLanding k => Sys2Proof.Machine.execTileLanding k s
  | .meeting c => Sys2Proof.Machine.execMeeting c s
  | .encounterDelivery c => Sys2Proof.Machine.execEncounterDelivery c s
  | .tileUnpin c => Sys2Proof.Machine.execTileUnpin c s
  | .encounterFinish c => Sys2Proof.Machine.execEncounterFinish c s
  | .completionTokenFill k => Sys2Proof.Machine.execCompletionTokenFill k s
  | .sweepEnd k => Sys2Proof.Machine.execSweepEnd k s
  | .pkt c => Sys2Proof.Machine.execPkt c s
  | .pktCopyEnqueue c seq dst => Sys2Proof.Machine.execPktCopyEnqueue c seq dst s
  | .packetDelivery c cls => Sys2Proof.Machine.execPacketDelivery c cls s
  | .remoteWindowOperation c src => Sys2Proof.Machine.execRemoteWindowOperation c src s
  | .remoteAnswer c src => Sys2Proof.Machine.execRemoteAnswer c src s
  | .clusterTlbLookup id => Sys2Proof.Machine.execClusterTlbLookup id s
  | .pageWalkStart die => Sys2Proof.Machine.execPageWalkStart die s
  | .walkComplete die k => Sys2Proof.Machine.execWalkComplete die k s
  | .faultAnswer cl => Sys2Proof.Machine.execFaultAnswer cl s
  | .homeSliceAccess id uncorrectable => Sys2Proof.Machine.execHomeSliceAccess id uncorrectable s
  | .accessReply id => Sys2Proof.Machine.execAccessReply id s
  | .releasePerformed c t => Sys2Proof.Machine.execReleasePerformed c t s
  | .refillReadStart c w => Sys2Proof.Machine.execRefillReadStart c w s
  | .refillLand c w => Sys2Proof.Machine.execRefillLand c w s
  | .egressMirrorWrite c w => Sys2Proof.Machine.execEgressMirrorWrite c w s
  | .standoffReport cl => Sys2Proof.Machine.execStandoffReport cl s
  | .orphanWaitReport cl => Sys2Proof.Machine.execOrphanWaitReport cl s
  | .watchdogFire c => Sys2Proof.Machine.execWatchdogFire c s
  | .reportRecordPost cl => Sys2Proof.Machine.execReportRecordPost cl s
  | .censusEntryFill c => Sys2Proof.Machine.execCensusEntryFill c s
  | .replayCompare c => Sys2Proof.Machine.execReplayCompare c s
  | .memberHalt c site => Sys2Proof.Machine.execMemberHalt c site s
  | .coreHalt c => Sys2Proof.Machine.execCoreHalt c s
  | .coreResume c => Sys2Proof.Machine.execCoreResume c s
  | .brodfortAccess c r write => Sys2Proof.Machine.execBrodfortAccess c r write s
  | .brodfortDump c addr => Sys2Proof.Machine.execBrodfortDump c addr s
  | .linkSnapshot => Sys2Proof.Machine.execLinkSnapshot s
  | .bucketRefill => Sys2Proof.Machine.execBucketRefill s
  | .launchRecordRead cl => Sys2Proof.Machine.execLaunchRecordRead cl s
  | .launchPartLoad p => Sys2Proof.Machine.execLaunchPartLoad p s
  | .launchPartMessage cl other => Sys2Proof.Machine.execLaunchPartMessage cl other s
  | .startBarrierFire k => Sys2Proof.Machine.execStartBarrierFire k s
  | .launchStatusPost cl => Sys2Proof.Machine.execLaunchStatusPost cl s
  | .coreGroupCompletion k => Sys2Proof.Machine.execCoreGroupCompletion k s
  | .groupPreempt k => Sys2Proof.Machine.execGroupPreempt k s
  | .groupRestore cl => Sys2Proof.Machine.execGroupRestore cl s
  | .gidCancel gid => Sys2Proof.Machine.execGidCancel gid s
  | .keptGroupDiscard cl j => Sys2Proof.Machine.execKeptGroupDiscard cl j s
  | .clusterOwnerSet cl ten => Sys2Proof.Machine.execClusterOwnerSet cl ten s
  | .networkOwnerSet net ten => Sys2Proof.Machine.execNetworkOwnerSet net ten s
  | .configSpaceWrite r v => Sys2Proof.Machine.execConfigSpaceWrite r v s
  | .stallCounterLoan cl => Sys2Proof.Machine.execStallCounterLoan cl s
  | .traceLoan cl ring => Sys2Proof.Machine.execTraceLoan cl ring s
  | .loanReturn cl traceUnit => Sys2Proof.Machine.execLoanReturn cl traceUnit s
  | .vfReset ten => Sys2Proof.Machine.execVfReset ten s
  | .hostFill w v => Sys2Proof.Machine.execHostFill w v s
  | .hostShrink w v => Sys2Proof.Machine.execHostShrink w v s
  | .hostReadElement w => Sys2Proof.Machine.execHostReadElement w s
  | .hostReadPointers w => Sys2Proof.Machine.execHostReadPointers w s
  | .hostMemoryWrite addr bytes => Sys2Proof.Machine.execHostMemoryWrite addr bytes s
  | .powerApplied r => Sys2Proof.Machine.execPowerApplied r s
  | .powerRemoved => Sys2Proof.Machine.execPowerRemoved s
  | .mailboxStatus => Sys2Proof.Machine.execMailboxStatus s
  | .mailboxDiag => Sys2Proof.Machine.execMailboxDiag s
  | .mailboxRestart r => Sys2Proof.Machine.execMailboxRestart r s
  | .mailboxAttest nonce => Sys2Proof.Machine.execMailboxAttest nonce s
  | .mailboxOther cmd => Sys2Proof.Machine.execMailboxOther cmd s
  | .firmwareSwitchover image version proof => Sys2Proof.Machine.execFirmwareSwitchover image version proof s
  | .alarmTrip src => Sys2Proof.Machine.execAlarmTrip src s
  | .softErrorCorrected => Sys2Proof.Machine.execSoftErrorCorrected s
  | .coreSparing c => Sys2Proof.Machine.execCoreSparing c s
  | .hbmSparing die channel => Sys2Proof.Machine.execHbmSparing die channel s
  | .laneSparing link lane => Sys2Proof.Machine.execLaneSparing link lane s
  | .dieFencing die => Sys2Proof.Machine.execDieFencing die s
  | .packageReplacement old new => Sys2Proof.Machine.execPackageReplacement old new s
  | .powerThrottle c => Sys2Proof.Machine.execPowerThrottle c s
  | .linkRetry lost => Sys2Proof.Machine.execLinkRetry lost s

end Sys2Proof.Machine
end

