-- ==== Sys2Proof/Machine/Eligible.lean ====
section
/-! DEFINITION. Which slot a core issues from (R156): what holds a slot's next instruction back (R8, R229, R246, R252,
R262), the banks of the window store (R124, R125), and what a tick is charged to (R413, R414). -/

namespace Sys2Proof.Machine

open Sys2Proof

/-! ## What holds an instruction back -/

/-- The global access a slot's instruction makes: its address, its size, whether it writes (R246). -/
def Slot.accessOf (sl : Slot) (i : Instr) : Option (Addr × Nat × Bool) :=
  match i with
  | .gldBZ _ a _ f | .gldBS _ a _ f => some (accessAddr (sl.readA a) f 1, 1, false)
  | .gldHZ _ a _ f | .gldHS _ a _ f => some (accessAddr (sl.readA a) f 2, 2, false)
  | .gldWZ _ a _ f | .gldWS _ a _ f => some (accessAddr (sl.readA a) f 4, 4, false)
  | .gldD _ a _ f => some (accessAddr (sl.readA a) f 8, 8, false)
  | .gstB _ a _ f => some (accessAddr (sl.readA a) f 1, 1, true)
  | .gstH _ a _ f => some (accessAddr (sl.readA a) f 2, 2, true)
  | .gstW _ a _ f => some (accessAddr (sl.readA a) f 4, 4, true)
  | .gstD _ a _ f => some (accessAddr (sl.readA a) f 8, 8, true)
  | .red _ dbl _ _ _ _ a _ | .amo _ dbl _ _ a _ => some (sl.readA a, if dbl then 8 else 4, true)
  | _ => none

/-- Whether an instruction issues only once the task's earlier accesses are performed: a release (R262), or a transfer
that follows them (R246). -/
def Slot.settles (sl : Slot) (i : Instr) : Bool :=
  match i with
  | .wfill _ _ | .wwr _ _ _ | .wshr _ _ | .wfilln _ _ _ | .wdef _ _ | .wfillReg _ _ _ | .wwrReg _ _ _ _ => true
  | .wshrReg _ _ _ | .wfillRm _ _ _ _ | .wwrRm _ _ _ _ _ | .wshrRm _ _ _ _ => true
  | .iss _ _ | .bara _ _ _ | .tret | .fence .full _ => true
  | .amo _ _ o _ _ _ => (Order.release o).isSome
  | .tlbinv _ _ | .bnsav _ _ | .bnload _ _ | .wsave _ _ | .wrest _ _ | .ctxsav _ | .ctxrst _ | .fscan _ | .lsnap _ => sl.sup
  | _ => false

/-- Whether one of some registers is still to be written. -/
def owes (owed used : List (BitVec 5)) : Bool := owed.any fun d => d != 0#5 && used.contains d

/-- Whether an instruction ends or stops its task whatever its operands, which waits for the values of the task's tokens
(R230, R343). Marked DEDUCED, log 71. -/
def awaitsTokens (i : Instr) : Bool :=
  match i with
  | .tret | .brk _ => true
  | _ => false

/-- The stall counter of what holds a slot's next instruction back, if anything does: a value still on its way to a
register that it names (R8, R229, R246), the limits and the order of R246, a FENCE (R252), a release (R262). -/
def State.blockedBy (s : State) (c t : Nat) : Option (Fin 16) :=
  let sl := s.slotAt c t
  let i := instrOf ((s.coreAt c).fetch sl)
  let uses := usesOf i
  if !uses.1.all sl.guard then none
  else if owes (sl.tkns.map Prod.snd) uses.2 || (awaitsTokens i && !sl.tkns.isEmpty) then some 9
  else if owes (sl.loads.map Load.d) uses.2 then some 10
  else
    match sl.accessOf i with
    | some (va, n, writes) =>
      if aligned va.toNat n
          && (sl.loads.any (·.acq) || (writes && !s.fencePassed c t) || (sl.settles i && !s.quiet c t)
            || !s.belowLimit c t) then some 10
      else none
    | none =>
      if sl.settles i && !s.quiet c t then some 10
      else match i with
        | .fence .acq _ => if sl.loads.isEmpty then none else some 10
        | _ => none

/-- The slot a core issues from in this tick (R156). -/
def State.choose (s : State) (c : Nat) : Option Nat :=
  let k := s.coreAt c
  k.chooseAmong fun t sl => k.issuesFrom t && sl.eligible && !sl.again && (s.blockedBy c t).isNone

/-! ## The charge of a tick -/

/-- The counter a charged slot's reason names (R412, R414). -/
def State.reason (s : State) (c t : Nat) : Fin 16 :=
  let sl := s.slotAt c t
  if !(s.coreAt c).issuesFrom t ∨ sl.stopped then 13
  else match sl.status with
  | .trapped => 12
  | .waiting =>
    match s.edges.find? (·.party == .task c t) with
    | some e =>
      match e.kind with
      | .read => 5
      | .fill => 6
      | .port => 7
      | .barrier => 8
      | .tkn => 9
      | .spawn | .ring | .peer | .other => 13
    | none => 13
  | .free | .bound | .runnable =>
    match sl.hold with
    | .none => if sl.killing then 10 else (s.blockedBy c t).getD 2
    | .bara _ | .bank => 2
    | .release | .limit | .acquire | .rel | .asid _ _ | .access _ => 10
    | .remote | .remoteDone _ => 11
    | .trapping _ => 9
    | .refills _ _ _ | .drain _ | .scan | .stopping | .meter | .kill _ => 13

/-- A tick in which a core issues nothing (R412, R413). -/
def State.chargeStall (s : State) (c : Nat) : State :=
  let k := s.coreAt c
  if k.stop = .halted then s.setCore c (k.charge 13)
  else
    match k.chooseAmong fun _ sl => sl.chargeable with
    | some t => s.setCore c (k.charge (s.reason c t))
    | none => s

/-- A core issues from a slot: the tick is charged to ISSUE and the issue is counted (R155, R413). -/
def State.beginIssue (s : State) (c t : Nat) : State :=
  let k := (s.coreAt c).charge 0
  { s.setCore c (k.setSlot t (((s.coreAt c).slotAt t).countIssue s.tick)) with cur := c, slot := t }

/-- An instruction that has issued runs again: that is no issue and takes no tick of its core (R125, R155, R413). Marked
DEDUCED, log 15. -/
def State.beginAgain (s : State) (c t : Nat) : State :=
  { s.setSlot c t { s.slotAt c t with again := false, banked := 0 } with cur := c, slot := t }

/-! ## Banks (R124, R125) -/

/-- The rows of the window store that a slot's instruction uses, and whether it writes them; none where it performs no
access now. A fill writes its whole element, the other operations its first eight bytes (R115, R124). -/
def Core.bankRows (k : Core) (sl : Slot) (i : Instr) : Bool × List Nat :=
  let at_ (w : BitVec 4) (op : OpKind) (o n : Nat) : Bool × List Nat :=
    let x := k.winAt w.toNat
    let a := x.addr o
    (op != .read, if x.judge op o = .proceed then (List.range ((a + n - 1) / 32 + 1 - a / 32)).map (a / 32 + ·) else [])
  let fill (w : BitVec 4) : Bool × List Nat :=
    let x := k.winAt w.toNat
    if x.fillsStore && !k.fillHeldBack w.toNat then at_ w .fill x.ext x.esize else (true, [])
  match i with
  | .wfill w _ | .wfilln w _ _ => fill w
  | .wfillReg w _ g => if sl.guard g then fill w else (true, [])
  | .wrd _ w o => at_ w .read o.toNat 4
  | .wrdn _ _ w o => at_ w .read o.toNat 4
  | .wwr w o _ => at_ w .update o.toNat 4
  | .wrdReg _ w a g => if sl.guard g then at_ w .read ((sl.readG a).toNat % 2 ^ 32) 4 else (false, [])
  | .wwrReg w a _ g => if sl.guard g then at_ w .update ((sl.readG a).toNat % 2 ^ 32) 4 else (true, [])
  | _ => (false, [])

/-- Whether a slot's window request loses its bank in this tick: the sequencer comes last, but a request that has lost
in the 8 ticks before comes first (R125, R126). Marked DEDUCED, log 72. -/
def State.losesBank (s : State) (c t : Nat) : Bool :=
  let k := s.coreAt c
  let sl := k.slotAt t
  decide (sl.banked < 8)
    && (let r := k.bankRows sl (instrOf (k.fetch sl))
      r.2.any fun row => k.rowTaken r.1 row)

/-- A request that has lost n times before loses its bank: it repeats in the next tick, and the loss counts (R125,
R414). -/
def State.bankLoss (s : State) (c t n : Nat) : State :=
  (s.setSlot c t { s.slotAt c t with hold := .bank, again := true, banked := n + 1 }).stallAdd c 14

/-- The cores that take part in a tick: a halted one is charged though no slot of it runs (R412). -/
def State.activeCores (s : State) : List Nat :=
  (s.cores.filter fun e => e.2.stop == .halted || e.2.slots.any fun x => x.2.chargeable).map Prod.fst

end Sys2Proof.Machine
end

