-- ==== Sys2Proof/Machine/Schedule.lean ====
section
/-! DEFINITION. The model's schedule (DESIGN CHOICE, log 1): within a tick the events that are due happen one by one in
the order of R26, then each core with work issues one instruction (R147, R156), then the address generators have their
turn (R26, item 7), and the tick ends with the events that may now happen put in order. An event whose condition does
not hold when its turn comes changes nothing. -/

namespace Sys2Proof.Machine

open Sys2Proof

/-- Taking the next event off the agenda: one that is due, or one that comes after the tasks. -/
def State.popEvent (s : State) : State :=
  { s with agenda := s.agenda.tail, due := s.due - 1, late := if s.due = 0 then s.late - 1 else s.late }

/-- The next event: one that is due, or after the cores have issued one of those that come last. -/
def State.nextEvent (s : State) : Option Instr :=
  if s.due ≠ 0 ∨ (s.issuers = [] ∧ s.late ≠ 0) then s.agenda.head? else none

/-- Whether an instruction is an event of the schedule that names units the part has: no scalar word is. -/
def isEvent (i : Instr) : Bool := i.wf && (encode i).isNone

/-- Taking the next core off the list of those that still issue in this tick. -/
def State.popIssuer (s : State) : State := { s with issuers := s.issuers.tail }

/-! ## What may happen next -/

/-- The next event of an access in flight (R241, R248, R256). -/
def Acc.event (a : Acc) : Option Instr :=
  match a.stage with
  | .lookup => some (.clusterTlbLookup a.id)
  | .translated => some (.homeSliceAccess a.id false)
  | .performed =>
    match a.dest with
    | .refill w _ => some (.refillLand a.core w)
    | .none | .reg _ _ _ | .engine _ _ | .generator _ _ | .spill _ _ _ | .egress _ _ | .merged => some (.accessReply a.id)
  | .miss | .faulted => none

/-- Whether a slot's hold ends by RELEASE_PERFORMED (R262). -/
def Slot.awaitsRelease (sl : Slot) : Bool :=
  match sl.hold with
  | .release | .limit | .acquire | .rel | .asid _ _ | .refills _ _ _ | .stopping | .meter | .kill _ => true
  | .none => sl.fenceRel.isSome || sl.killing
  | .drain _ | .scan | .access _ | .remote | .remoteDone _ | .bara _ | .bank | .trapping _ => false

/-- The events of a round (R171 to R188, R369 to R372). -/
def roundEvents (c : Nat) (r : Round) : List Instr :=
  let elems := List.range 64
  let eight := List.range 8
  let parts : List (List Instr) :=
    [eight.flatMap fun g => [.generatorPassStart c g, .generatorRequest c g, .generatorReply c g],
      elems.map fun e => .elementFire c e,
      elems.flatMap fun e => [0, 1, 2, 3, 4, 9, 10, 11, 12].map fun src => .tokenHop c e src,
      elems.flatMap fun e => [RouterOp.steer, .merge, .carry].map fun o => .routerOperatorFire c e o,
      (List.range 4).flatMap fun x => [.rowWordMove c x, .reducerFire c x],
      eight.map fun g => .reordBlockEmit c g,
      r.units.map fun u => .unitReply c u.1,
      eight.map fun k => .sinkFill c k,
      [.roundEnd c],
      if r.drain.isSome then elems.map fun e => .markerAlign c e else [],
      if r.drain.isSome then [.drainComplete c, .fabricScanOut c] else []]
  parts.flatten

/-- The events of a core's matrix unit (R306 to R315). -/
def mxEvents (c : Nat) (m : Mx) : List Instr :=
  (if m.run.isSome || !m.load.isEmpty then [.mxTileRead c, .mxtmStep c, .mxCommandComplete c false] else [])
    ++ (if m.run.isSome || !m.peer.isEmpty then [.splitBlockArrival c] else [])
    ++ (if m.out.isSome then [.mxoutElementFill c, .mxCommandComplete c true] else [])

/-- The events of a window (R256). -/
def winEvents (c w : Nat) (x : Win) : List Instr :=
  (if x.refills.isEmpty then [] else [.refillLand c w])
    ++ (if x.v && x.mode == .backed && decide (0 < x.rc) then [.refillReadStart c w] else [])

/-- The events of a core. -/
def Core.events (k : Core) (c : Nat) : List Instr :=
  let parts : List (List Instr) :=
    [(k.slots.filter fun e => e.2.awaitsRelease).map fun e => .releasePerformed c e.1,
      if k.fabRun.any fun x => cmdOp x.cmd = 0x04 then [.agset c] else [],
      [Port.fab, .mx, .bte, .ring, .pkt].filterMap fun p => (k.queue p).head?.bind fun x => startOf c x.cmd,
      k.pktRuns.flatMap fun r => r.left.map fun d => .pktCopyEnqueue c (BitVec.ofNat 16 (siteSeq r.cmd.site)) d,
      (k.classq.filter fun e => !e.2.isEmpty).map fun e => .packetDelivery c (BitVec.ofNat 4 e.1),
      match k.round with
      | some r => roundEvents c r
      | none => [],
      ((List.range 4).filter fun e => (k.bteAt e).isSome).flatMap fun e =>
        [.bteRequestIssue c e, .bteElementFill c e, .bteCommandComplete c e]
          ++ (if (k.bteAt e).any fun r => !r.pending.isEmpty then [.remoteWindowOperation c (.engine e)] else []),
      mxEvents c k.mx,
      if k.ring.run.isSome then [.rgmt c, .rgput c, .rggo c, .rgdrn c] else [],
      if k.ring.queue.isEmpty then [] else [.encounterDelivery c, .tileUnpin c, .encounterFinish c],
      if k.ended.isEmpty then [] else [.replayCompare c, .doneElementFill c, .censusEntryFill c],
      if k.notices.isEmpty then [] else [.reportRecordPost (clusterOf c)],
      k.wins.flatMap fun e => winEvents c e.1 e.2,
      if k.wdOn && decide (k.wdLimit ≤ k.wdcnt.toNat) then [.watchdogFire c] else []]
  parts.flatten

/-- The event of a launch unit, by the stage of the record in its hand (R161 to R164). -/
def State.unitEvents (s : State) (cl : Nat) (u : LaunchUnit) : List Instr :=
  (if u.posts.isEmpty then [] else [.launchStatusPost cl])
    ++ (match u.stage with
      | .idle => if 24 ≤ u.records.ext ∨ (s.restorable cl).isSome then [.launchRecordRead cl] else []
      | .read => [.launchPartLoad ⟨cl, false⟩]
      | .loaded gn => [.startBarrierFire gn])

/-- The events of a cluster (R241, R245, R345). -/
def State.clusterEvents (s : State) (cl : Nat) (k : Cluster) : List Instr :=
  (if k.waitingMiss.isSome then [.pageWalkStart (cl / 6)] else [])
    ++ (if k.answers.elems.isEmpty then [] else [.faultAnswer cl])
    ++ (if k.held.isEmpty then [] else [.reportRecordPost cl])
    ++ s.unitEvents cl k.unit

/-- The events of a ring controller (R320 to R330). -/
def ctrlEvents (k : Nat) (x : Ctrl) : List Instr :=
  if x.seg then
    (if x.run == .idle && !x.moving then [] else [.beatStart k, .tileLanding k]) ++ (x.meet.map fun c => .meeting c)
      ++ (if x.tokens.isEmpty then [] else [.completionTokenFill k]) ++ (if x.boundary then [.sweepEnd k] else [])
  else []

/-- The events of the tokens inside a network (R221, R222). -/
def netEvents (n : Nat) (x : Net) : List Instr :=
  x.tokens.map fun t => if t.layer < 10 then .balancerPass n t.id else .tknTokenExit n t.id

/-- The event of a group (R162, R163). -/
def groupEvents (gn : Nat) (g : Group) : List Instr :=
  if g.saving then [.groupPreempt gn] else if g.started then [.coreGroupCompletion gn] else []

/-- The detectors' events: orphan waits at once, standoffs every 1024 ticks (R357, R358, DESIGN CHOICE, log 7). -/
def State.detectorEvents (s : State) : List Instr :=
  let cls := (s.edges.map fun e => clusterOf e.party.core).eraseDups
  ((cls.filter fun cl => s.edges.any fun e => !e.reported && clusterOf e.party.core == cl
      && (e.kind == .read || e.kind == .fill)).map fun cl => .orphanWaitReport cl)
    ++ (if s.tick.toNat % 1024 = 0 then cls.map fun cl => .standoffReport cl else [])

/-- The events that may happen next. -/
def State.enabled (s : State) : List Instr :=
  let parts : List (List Instr) :=
    [s.accs.filterMap Acc.event,
      s.dies.flatMap fun e => if e.2.walks.isEmpty then [] else [.walkComplete e.1 ⟨0, none⟩],
      s.clusters.flatMap fun e => s.clusterEvents e.1 e.2,
      s.cores.flatMap fun e => e.2.events e.1,
      s.ctrls.flatMap fun e => ctrlEvents e.1 e.2,
      s.nets.flatMap fun e => netEvents e.1 e.2,
      s.groups.flatMap fun e => match e.2 with
        | some g => groupEvents e.1 g
        | none => [],
      s.detectorEvents,
      if s.tick.toNat % 1024 = 0 then [.bucketRefill] else [],
      if s.links.interval = 0 then [] else [.linkSnapshot]]
  parts.flatten

/-! ## The end of a tick -/

/-- What a tick counts at a core: its watchdog, and the drain of its round (R361, R372). -/
def State.countTick (s : State) (c : Nat) : State :=
  let k := s.coreAt c
  let k := if s.wdCounts c k then { k with wdcnt := k.wdcnt + 1 } else k
  let round := k.round.map fun r => { r with drain := r.drain.map fun d => { d with ticks := d.ticks + 1 } }
  s.setCore c { k with round := round }

/-- A core as a tick leaves it: the banks in use and the column units that have accepted a request last one tick, a
request that lost its bank runs again, a CENS takes effect (R124, R125, R184, R406). -/
def Core.clearTick (k : Core) : Core :=
  { k with
    banks := []
    round := k.round.map fun r => { r with served := [] }
    slots := k.slots.map fun e => (e.1, if e.2.hold = .bank then { e.2 with hold := .none } else e.2)
    cens := match k.censOp with
      | some (n, v) => (k.cens.apply n v).getD k.cens
      | none => k.cens
    censOp := none }

/-- What lasts one tick only, at the cores and at the balancers that have passed a token (R221). -/
def State.clearTick (s : State) : State :=
  { s with
    cores := s.cores.foldl (init := s.cores) fun t e => tput Core.init t e.1 e.2.clearTick
    nets := s.nets.foldl (init := s.nets) fun t e => tput Net.init t e.1 { e.2 with passed := [] } }

/-- What goes on over several ticks without an event of its own: stops, resets of functions, sparing (R368, R399,
R429). Marked DEDUCED, log 60. -/
def State.goOn (s : State) : State :=
  let cores := s.cores.map Prod.fst
  let s := cores.foldl (init := s) fun s c => s.countTick c
  let s := (cores.filter fun c => (s.coreAt c).stop != .none).foldl (init := s) fun s c => s.stopStep c
  let s := s.resets.foldl (init := s) fun s ten => s.vfResetStep ten
  s.device.sparing.foldl (init := s) fun s c => s.goOnSparing c

/-- Putting events into the order of their places, those of one place as they stand (R26). -/
def inPlaces (es : List Instr) : List Instr := (List.range 35).flatMap fun r => es.filter fun e => placeOf e == r

/-- Whether the trace records of the ticks before are due: the next event has a later place in the tick, or no event is
left (R26, R408). -/
def State.tracesDue (s : State) : Bool :=
  (match s.nextEvent with
    | some e => decide (23 < placeOf e)
    | none => true)
    && s.cores.any fun e => e.2.traced.any fun x => x.1 != s.tick

/-- The agenda of the next tick: what was posted, the events that may happen, in the order of R26. -/
def State.schedule (s : State) : State :=
  let es := inPlaces (s.agenda ++ s.enabled.filter fun e => !s.agenda.contains e)
  let late := (es.filter fun e => decide (27 ≤ placeOf e)).length
  { s with agenda := es, due := es.length - late, late := late }

/-- The end of a tick (R14): TICK counts from the end of package reset, and the next tick begins with the events that
are due and the cores that issue. In the safe state TICK goes on, where package reset has ended, and nothing else of the
package does; before package reset ends nothing counts (R419, R420). Marked DEDUCED, log 60. -/
def State.endTick (s : State) : State :=
  let s := s.mailboxTick
  match s.device.dev with
  | .running =>
    let s := s.clearTick
    let s := { s with tick := s.tick + 1 }.goOn.schedule
    let links := if s.agenda.isEmpty then s.links else { s.links with moved := s.links.moved + 1 }
    { s with issuers := s.activeCores, links := links }
  | .safe => { s with tick := if s.device.up then s.tick + 1 else s.tick, due := s.agenda.length, late := 0, issuers := [] }
  | .booting | .off => { s with due := s.agenda.length, late := 0, issuers := [] }

end Sys2Proof.Machine
end

