-- ==== Sys2Proof/Machine/Step.lean ====
section
/-! DEFINITION. One step of the package: an event that is due, an instruction a core issues, or the end of a tick
(DESIGN CHOICE, log 1); placing an instruction where the next step issues it. -/

namespace Sys2Proof.Machine

open Sys2Proof

/-- The instruction of a slot runs in a state in which it has begun, unless its window request loses its bank, and then
repeats in the next tick (R125). -/
def State.runAt (s begun : State) (c t : Nat) : Res :=
  if s.losesBank c t then .next (begun.bankLoss c t (s.slotAt c t).banked)
  else exec (instrOf ((s.coreAt c).fetch (s.slotAt c t))) begun

/-- A core issues one instruction, or none, in its turn of the tick (R156). -/
def State.issueAt (s : State) (c : Nat) : Res :=
  match s.choose c with
  | some t => s.runAt (s.beginIssue c t) c t
  | none => .next (s.chargeStall c)

/-- One step (DESIGN CHOICE, log 1): the trace records of the tick before at their place, an event, an instruction that
runs again, an issue, the end of the tick. -/
def step (s : State) : Res :=
  if s.tracesDue then .next s.flushTraces
  else
    match s.nextEvent with
    | some e => if isEvent e then exec e s.popEvent else .fault .noSuchUnit
    | none =>
      match s.issuers with
      | c :: _ =>
        match (s.coreAt c).rerun with
        | some t => s.runAt (s.beginAgain c t) c t
        | none => s.popIssuer.issueAt c
      | [] => .next s.endTick

/-- The state with an instruction word placed at the PC of slot 0 of core 0, which issues next (DESIGN CHOICE, log 10).
-/
def State.withFetchWord (s : State) (nbits w : Nat) : State :=
  let cores := s.cores.foldl (init := s.cores) fun t e => tput Core.init t e.1 { e.2 with traced := [] }
  let s := { s with cores := cores }
  let k := s.coreAt 0
  let sl := k.slotAt 0
  let slots := k.slots.map fun e => (e.1, { e.2 with again := false })
  let code : Code := BitVec.ofNat 32 (w % 2 ^ nbits)
  { s.setCore 0 ({ k with slots := slots, stop := .none, banks := [], istore := tput 0 k.istore sl.pc.toNat code }.setSlot 0
      { sl with
        status := .runnable, hold := .none, inRep := false, loads := [], tkns := [], again := false, banked := 0,
        paid := 0, killing := false, stopped := false, prio := 3, ready := 0 }) with
    due := 0, late := 0, issuers := [0], device := { s.device with dev := .running } }

end Sys2Proof.Machine
end

