-- ==== Sys2Proof/Safety.lean ====
section
/-! DEFINITION. The terms statements use: steps that go on, instructions that end, and what they leave alone. -/

namespace Sys2Proof

open Sys2Proof.Machine

/-- A result that goes on to a next state. -/
def GoesOn (r : Res) : Prop := ∃ t, r = .next t

/-- A state from which the machine takes a next step. -/
def Runs (s : State) : Prop := GoesOn (step s)

/-! ## Ends of an instruction -/

/-- The issuing slot's next instruction has a successor in the store (R17). -/
def HasNext (s : State) : Prop := s.me.fallsOut = false

/-- An instruction under a guard runs to its end: the guard holds and there is a successor (R9, R17). -/
def Clear (g : Guard) (s : State) : Prop := s.me.guard g = true ∧ HasNext s

/-- An instruction ends with the issuing slot changed to `sl` and moved past it, and nothing else changed. -/
def Ends (i : Instr) (s : State) (sl : Slot) : Prop := exec i s = .next (s.setMe sl.advance)

/-- An instruction ends in the state `t` with the issuing slot moved past it. -/
def EndsIn (i : Instr) (s t : State) : Prop := exec i s = .next (t.advance s.cur s.slot)

/-- An instruction takes a precise trap at its own PC. -/
def Traps (i : Instr) (s : State) (tr : Trap) : Prop := exec i s = .next (s.takeTrap s.cur s.slot tr s.me.pc)

/-- An event of the part leaves the state `t`. -/
def Leaves (i : Instr) (s t : State) : Prop := exec i s = .next t

/-! ## Values -/

/-- An N-bit register operand of the issuing slot (R32). -/
def opnd (s : State) (z : Size) (a : BitVec 5) : BitVec (sizeBits z) := (s.me.readG a).setWidth (sizeBits z)

/-- An N-bit result on 64 bits: zeros for major .z, copies of its sign for .s (R32). -/
def widen (e : Ext) {n : Nat} (v : BitVec n) : Word :=
  match e with
  | .z => v.setWidth 64
  | .s => v.signExtend 64

/-- One operation for each major: unsigned under .z, signed under .s (R91). -/
def byExt {α : Type} (e : Ext) (z s : α) : α :=
  match e with
  | .z => z
  | .s => s

/-- The lanes of a scalar type (R33). -/
def lanesOf : FpTy → Nat
  | .f32 => 1
  | .bf16x2 | .f16x2 => 2

/-- A floating-point instruction ends with F j in every lane j of its destination, zeros above the lanes, and FPSTAT
taking the flags of all lanes beside those it had (R33, R47, R127). -/
def FpEnds (i : Instr) (s : State) (t : FpTy) (d : BitVec 5) (F : Nat → Nat × Flags) : Prop :=
  ∃ (v : Word) (fl : Flags), Ends i s { s.me.writeG d v with fpstat := s.me.fpstat ||| fl } ∧
    (∀ j, j < lanesOf t → lane (fpFmt t).width j v = (F j).1) ∧ v.toNat < 2 ^ 32 ∧
    (∀ b, fl.getLsbD b = true ↔ ∃ j, j < lanesOf t ∧ (F j).2.getLsbD b = true)

/-- The value of a magnitude pattern of a format, the exponent taken without bound (R35). -/
def magValue (f : Fmt) (n : Nat) : ℚ :=
  if n / 2 ^ f.frac = 0 then (n : ℚ) * 2 ^ (1 - (f.bias : ℤ) - f.frac)
  else ((2 ^ f.frac + n % 2 ^ f.frac : ℕ) : ℚ) * 2 ^ ((n / 2 ^ f.frac : ℕ) - (f.bias : ℤ) - f.frac)

/-! ## Kinds of instruction -/

/-- The guard of an F3 or FB word that only executes under it (R9, R62). -/
def guardOf : Instr → Option Guard
  | .add _ _ _ _ _ g | .sub _ _ _ _ _ g | .mul _ _ _ _ _ g | .mulh _ _ _ _ _ g | .div _ _ _ _ _ g => some g
  | .rem _ _ _ _ _ g | .and _ _ _ _ _ g | .or _ _ _ _ _ g | .xor _ _ _ _ _ g | .not _ _ _ _ g => some g
  | .shl _ _ _ _ _ g | .shr _ _ _ _ _ g | .rot _ _ _ _ _ g | .clz _ _ _ _ g | .ctz _ _ _ _ g => some g
  | .popc _ _ _ _ g | .min _ _ _ _ _ g | .max _ _ _ _ _ g | .brev _ _ _ _ g | .bswp _ _ _ _ g => some g
  | .mov _ _ _ _ g | .cmp _ _ _ _ _ g | .bfxZReg _ _ _ g | .bfxSReg _ _ _ g | .bfiReg _ _ _ g => some g
  | .aaddReg _ _ _ g | .aset _ _ _ g | .aget _ _ g | .agetH _ _ g | .astep _ _ _ g | .acmp _ _ _ _ g => some g
  | .pand _ _ _ g | .por _ _ _ g | .pxor _ _ _ g | .pnot _ _ g | .pset _ _ g | .br g _ | .jr _ g => some g
  | .wfillReg _ _ g | .wrdReg _ _ _ g | .wwrReg _ _ _ g | .wshrReg _ _ g | .wfillRm _ _ _ g => some g
  | .wrdRm _ _ _ _ g | .wwrRm _ _ _ _ g | .wshrRm _ _ _ g | .wqryRm _ _ _ _ g => some g
  | .fadd _ _ _ _ _ g | .fsub _ _ _ _ _ g | .fmul _ _ _ _ _ g | .ffma _ _ _ _ _ g => some g
  | .fmin _ _ _ _ g | .fmax _ _ _ _ g | .fsgn _ _ _ _ _ g | .fcmp _ _ _ _ _ g => some g
  | .frce _ _ g | .frsqe _ _ g | .fclass _ _ g | .fcvt _ _ _ _ _ g => some g
  | .red _ _ _ _ _ _ _ g | .amo _ _ _ _ _ g => some g
  | _ => none

/-- The words whose row names the privilege SUP (R13, R76, R142, R225). -/
def supervisorOnly : Instr → Bool
  | .eret | .bndrn _ | .bnsav _ _ | .bnload _ _ | .bnclr _ | .tlbinv _ _ | .wsave _ _ | .wrest _ _ => true
  | .wpois _ _ | .ctxsav _ | .ctxrst _ | .fscan _ | .lsnap _ => true
  | _ => false

/-! ## Transfers -/

/-- The buckets let all the requests of a transfer of some bytes by the issuing slot go, which leaves the state s1
(R364, R398). -/
def Paid (s s1 : State) (op : AccOp) (va : Addr) (bytes size : Nat) : Prop :=
  let r := s.payMore s.cur op va bytes size s.me.paid
  r.2 = requests bytes ∧ s1 = r.1.setMe { r.1.me with paid := 0 }

/-! ## System registers -/

/-- The bits a system register has, beside those the statement about SWR names (R13, R139, R225, R243, R282, R346, R350,
R385, R396, R413). -/
def sysBits (n : Nat) : Word :=
  if n = 0x011 then 0x3F
  else if n = 0x012 then 0x7F
  else if n = 0x019 then 0xFFF
  else if n = 0x01A then 0x3FFFFFFFFFFF
  else if n = 0x040 then 0x1FFF
  else if n = 0x041 then 0x3
  else if n = 0x043 then 0xFFFF
  else if 0x050 ≤ n ∧ n ≤ 0x057 then 0x11F
  else if n = 0x0B0 then 0xFF0000003F
  else if n = 0x0B3 then 0x1F
  else if 0x0E0 ≤ n ∧ n ≤ 0x0EF then 0x1FFFFFFFFFF
  else if n = 0x0F1 ∨ n = 0x0F3 then 0xC00000000000000F
  else if 0x100 ≤ n ∧ n ≤ 0x11F ∧ n % 2 = 0 then 0x3FFFFFFFFFFFFF
  else 0xFFFFFFFFFFFFFFFF

/-! ## Frames -/

/-- The register an instruction writes. -/
inductive Dst | none | g (d : BitVec 5) | a (d : BitVec 4) | p (d : BitVec 3) | k (d : BitVec 3)
  deriving DecidableEq, Repr

/-- Two slots agree in every register but one, in FPSTAT unless it may change, and in everything but the PC, the repeat
count and the scheduling stamp. -/
structure SameBut (d : Dst) (fp : Bool) (x y : Slot) : Prop where
  g : ∀ r, d ≠ .g r → y.readG r = x.readG r
  a : ∀ r, d ≠ .a r → y.readA r = x.readA r
  p : ∀ r, d ≠ .p r → y.readP r = x.readP r
  k : ∀ r, d ≠ .k r → y.readK r = x.readK r
  fpstat : fp = false → y.fpstat = x.fpstat
  mode : (y.sup, y.psup, y.tv, y.prio) = (x.sup, x.psup, x.tv, x.prio)
  trap : (y.trapcause, y.trappc, y.trapsite, y.traparg, y.trapva, y.trapvah, y.tscr) =
    (x.trapcause, x.trappc, x.trapsite, x.traparg, x.trapva, x.trapvah, x.tscr)
  life : (y.status, y.bind, y.hold, y.wait, y.fenceRel) = (x.status, x.bind, x.hold, x.wait, x.fenceRel)

/-- The register a register-only instruction writes, and whether it may raise flags of FPSTAT; none for any other
instruction. -/
def destOf : Instr → Option (Dst × Bool)
  | .add _ _ d _ _ _ | .sub _ _ d _ _ _ | .mul _ _ d _ _ _ | .mulh _ _ d _ _ _ => some (.g d, false)
  | .div _ _ d _ _ _ | .rem _ _ d _ _ _ | .and _ _ d _ _ _ | .or _ _ d _ _ _ | .xor _ _ d _ _ _ => some (.g d, false)
  | .not _ _ d _ _ | .shl _ _ d _ _ _ | .shr _ _ d _ _ _ | .rot _ _ d _ _ _ | .clz _ _ d _ _ => some (.g d, false)
  | .ctz _ _ d _ _ | .popc _ _ d _ _ | .min _ _ d _ _ _ | .max _ _ d _ _ _ | .brev _ _ d _ _ => some (.g d, false)
  | .bswp _ _ d _ _ | .mov _ _ d _ _ | .addImm d _ _ | .andImm d _ _ | .orImm d _ _ => some (.g d, false)
  | .xorImm d _ _ | .shlImm d _ _ | .shrZImm d _ _ | .shrSImm d _ _ | .movImm d _ | .movh d _ _ => some (.g d, false)
  | .nop => some (.none, false)
  | .cmp _ _ d _ _ _ | .acmp _ d _ _ _ | .pand d _ _ _ | .por d _ _ _ | .pxor d _ _ _ => some (.p d, false)
  | .pnot d _ _ | .pset d _ _ => some (.p d, false)
  | .sel d _ _ _ | .bfxZImm d _ _ _ | .bfxSImm d _ _ _ | .bfiImm d _ _ _ | .bfxZReg d _ _ _ => some (.g d, false)
  | .bfxSReg d _ _ _ | .bfiReg d _ _ _ | .aget d _ _ | .agetH d _ _ | .kext d _ _ _ => some (.g d, false)
  | .aaddReg d _ _ _ | .aset d _ _ _ | .astep d _ _ _ | .aaddImm d _ _ => some (.a d, false)
  | .kld k _ | .kins k _ _ _ | .kmov k _ => some (.k k, false)
  | .fadd _ _ d _ _ _ | .fsub _ _ d _ _ _ | .fmul _ _ d _ _ _ | .ffma _ _ d _ _ _ => some (.g d, true)
  | .fmin _ d _ _ _ | .fmax _ d _ _ _ | .fsgn _ _ d _ _ _ | .frce d _ _ | .frsqe d _ _ => some (.g d, true)
  | .fclass d _ _ | .fcvt _ _ _ d _ _ => some (.g d, true)
  | .fcmp _ _ d _ _ _ => some (.p d, true)
  | _ => none

/-- Everything outside the issuing slot is as before: memory, every other slot, every window and window byte, every
core register, every other unit. -/
structure OthersSame (s t : State) : Prop where
  mem : ∀ k, tget 0 t.mem k = tget 0 s.mem k
  slots : ∀ c u, ¬(c = s.cur ∧ u = s.slot) → t.slotAt c u = s.slotAt c u
  wins : ∀ c w, t.winAt c w = s.winAt c w
  core : ∀ c, { t.coreAt c with slots := [] } = { s.coreAt c with slots := [] }
  rest : { t with cores := [] } = { s with cores := [] }

/-! ## Windows -/

/-- An operation may run on a window: defined, not held, and of a mode that allows it (R23, R121, R363). -/
def Usable (x : Win) (op : OpKind) : Prop := x.v = true ∧ x.held = false ∧ x.mode.allows op = true

/-- A read at an offset finds an element that is filled and not poisoned (R23, R29). -/
def Readable (x : Win) (o : Nat) : Prop := Usable x .read ∧ o < x.cap.toNat ∧ x.poisonedAt o = false ∧ o < x.ext

/-- No binding names the fills of a window of a core, so that a fill counts no event (R150). -/
def Unwatched (k : Core) (w : Nat) : Prop := ∀ kind, tget none k.pend (sourceKey kind w) = none

/-- The byte address of the element at an offset: CAP slots of 2^(ESZ + 2) bytes from 32 × BASE, HSLOT holding offset 0
(R20, R22). -/
def elemAddr (x : Win) (o : Nat) : Nat :=
  x.base.toNat * 32 + (x.hslot.toNat + o) % x.cap.toNat * 2 ^ (x.esz.toNat + 2)

/-- The commands of a port start: the core runs, no report of a fault of its engine waits, and no census entry formed in
this tick is still to be judged (R209, R345, R404, R412). -/
def PortStarts (k : Core) (p : Port) : Prop := k.stop = .none ∧ k.stuck.contains p = false ∧ ∀ e ∈ k.ended, e.fresh = false

/-- v is what a scalar read of the element at an offset returns: bytes [7:0], zeros beyond a narrower element (R115). -/
def IsElement (k : Core) (x : Win) (o : Nat) (v : Word) : Prop :=
  ∀ j, j < 8 → (v >>> (8 * j)).setWidth 8 =
    if j < 2 ^ (x.esz.toNat + 2) then tget 0 k.wstore (elemAddr x o + j) else 0#8

/-- Window w of core c took one element, v in its bytes [7:0] and zeros above (R23, R25, R115): its tail slot was
written, FILL went up by one, and HEAD, the poison and the layout stand; every other window and window byte, every
slot's registers and every byte of memory are as before. -/
structure Filled (s t : State) (c w : Nat) (v : Word) : Prop where
  fill : (t.winAt c w).fill = (s.winAt c w).fill + 1
  stands : ((t.winAt c w).head, (t.winAt c w).hslot, (t.winAt c w).pv, (t.winAt c w).pois, (t.winAt c w).v,
    (t.winAt c w).mode, (t.winAt c w).esz, (t.winAt c w).cap, (t.winAt c w).base, (t.winAt c w).rc) =
    ((s.winAt c w).head, (s.winAt c w).hslot, (s.winAt c w).pv, (s.winAt c w).pois, (s.winAt c w).v,
    (s.winAt c w).mode, (s.winAt c w).esz, (s.winAt c w).cap, (s.winAt c w).base, (s.winAt c w).rc)
  element : ∀ j, j < 2 ^ ((s.winAt c w).esz.toNat + 2) →
    tget 0 (t.coreAt c).wstore (elemAddr (s.winAt c w) (s.winAt c w).ext + j) =
      if j < 8 then (v >>> (8 * j)).setWidth 8 else 0#8
  bytes : ∀ b, b < elemAddr (s.winAt c w) (s.winAt c w).ext ∨
    elemAddr (s.winAt c w) (s.winAt c w).ext + 2 ^ ((s.winAt c w).esz.toNat + 2) ≤ b →
      tget 0 (t.coreAt c).wstore b = tget 0 (s.coreAt c).wstore b
  wins : ∀ d u, ¬(d = c ∧ u = w) → t.winAt d u = s.winAt d u
  cores : ∀ d, d ≠ c → t.coreAt d = s.coreAt d
  mem : t.mem = s.mem

/-- The issuing slot waits for something at its PC, and its wait edge names it, unless its core is halted (R27, R145,
R412). -/
def WaitsFor (i : Instr) (s : State) (p : Pend) : Prop :=
  ∃ t, exec i s = .next t ∧ t.me.status = .waiting ∧ t.me.wait = some p ∧ t.me.pc = s.me.pc ∧
    ((s.coreAt s.cur).stop ≠ .halted → ∃ e ∈ t.edges, e.party = .task s.cur s.slot) ∧ (∀ d w, t.winAt d w = s.winAt d w) ∧ t.mem = s.mem

end Sys2Proof
end

