-- ==== Sys2Proof/Certificates/Slice0/Obligations.lean ====
section
/-! DEFINITION. The statements for the provers. -/

open Sys2Proof Sys2Proof.Machine

/-! ## Encoding, decoding and the step -/

/-- Decoding the word of a well-formed instruction gives the instruction back, with every operand. -/
def Obligations.DecodeEncode : Prop :=
  ∀ (i : Instr) (w : Code), i.wf = true → encode i = some w → decode w = .ok i

/-- A word that decodes is the word of a well-formed instruction: no bit of it is dropped. -/
def Obligations.EncodeDecode : Prop :=
  ∀ (w : Code) (i : Instr), decode w = .ok i → i.wf = true ∧ encode i = some w

/-- A word of the store that decodes is executed as what it decodes to; any other is a reserved encoding (R64). Around
an instruction a step charges the tick to ISSUE, counts the issue and names the slot (R155, R156, R413); the slot's
registers, its PC, its privilege and every other slot are as before. A window request that loses its bank repeats in the
next tick: the loss counts in BANK and the slot is held until then (R125). An instruction that has issued and was held
runs again beside the issue of the tick, and is not counted or charged again, which is the model's reading (log 15).
Repeat k of a REP executes the target word with each stepped field raised by the repeats done (R113). An event that is
due happens before any core issues, and leaves the agenda (R147); the address generators have their turn once every core
has issued, and trace records are filled at their place among the fills (R26, R408). -/
def Obligations.StepRunsWord : Prop :=
  (∀ (s : State) (c t : Nat) (rest : List Nat), s.tracesDue = false → s.nextEvent = none → s.issuers = c :: rest →
    (s.coreAt c).rerun = none → s.choose c = some t → s.losesBank c t = false → (s.slotAt c t).inRep = false →
    (∀ i, decode (tget 0 (s.coreAt c).istore (s.slotAt c t).pc.toNat) = .ok i →
      step s = exec i (s.popIssuer.beginIssue c t)) ∧
    (∀ e, decode (tget 0 (s.coreAt c).istore (s.slotAt c t).pc.toNat) = .error e →
      step s = exec (.reservedEncoding (tget 0 (s.coreAt c).istore (s.slotAt c t).pc.toNat))
        (s.popIssuer.beginIssue c t))) ∧
  (∀ (s : State) (c t : Nat), let s' := s.popIssuer.beginIssue c t
    s'.cur = c ∧ s'.slot = t ∧
    vget 0 (s'.coreAt c).stall 0 = vget 0 (s.coreAt c).stall 0 + 1 ∧
    SameBut .none false (s.slotAt c t) s'.me ∧ s'.me.pc = (s.slotAt c t).pc ∧ s'.me.repc = (s.slotAt c t).repc ∧
    (∀ d u, ¬(d = c ∧ u = t) → s'.slotAt d u = s.slotAt d u) ∧ s'.mem = s.mem) ∧
  (∀ (s : State) (c t : Nat) (rest : List Nat), s.tracesDue = false → s.nextEvent = none → s.issuers = c :: rest →
    (s.coreAt c).rerun = none → s.choose c = some t → s.losesBank c t = true → ∃ s', step s = .next s' ∧
      vget 0 (s'.coreAt c).stall 14 = vget 0 (s.coreAt c).stall 14 + 1 ∧
      s'.slotAt c t = { (s.slotAt c t).countIssue s.tick with
        hold := .bank, again := true, banked := (s.slotAt c t).banked + 1 } ∧
      (∀ w, s'.winAt c w = s.winAt c w) ∧ s'.mem = s.mem) ∧
  (∀ (s : State) (c t : Nat) (rest : List Nat) (i : Instr), s.tracesDue = false → s.nextEvent = none →
    s.issuers = c :: rest → (s.coreAt c).rerun = some t → s.losesBank c t = false → (s.slotAt c t).inRep = false →
    decode (tget 0 (s.coreAt c).istore (s.slotAt c t).pc.toNat) = .ok i →
    step s = exec i { s.setSlot c t { s.slotAt c t with again := false, banked := 0 } with cur := c, slot := t }) ∧
  (∀ (s : State) (c t : Nat) (rest : List Nat) (n : BitVec 6) (sd sa sb : Bool), s.tracesDue = false →
    s.nextEvent = none → s.issuers = c :: rest → (s.coreAt c).rerun = none → s.choose c = some t →
    s.losesBank c t = false → (s.slotAt c t).inRep = true →
    decode (tget 0 (s.coreAt c).istore (s.slotAt c t).pc.toNat) = .ok (.rep n sd sa sb) →
    ∀ i, decode (stepWord (tget 0 (s.coreAt c).istore ((s.slotAt c t).pc.toNat + 1)) sd sa sb
      (n.toNat + 1 - (s.slotAt c t).repc.toNat)) = .ok i → step s = exec i (s.popIssuer.beginIssue c t)) ∧
  (∀ (s : State), s.tracesDue = true → step s = .next s.flushTraces) ∧
  (∀ (s : State) (e : Instr) (rest : List Instr), s.tracesDue = false → s.agenda = e :: rest → 0 < s.due →
    isEvent e = true →
    step s = exec e { s with agenda := rest, due := s.due - 1 }) ∧
  (∀ (s : State) (e : Instr) (rest : List Instr), s.tracesDue = false → s.agenda = e :: rest → s.due = 0 →
    s.issuers = [] → 0 < s.late → isEvent e = true → step s = exec e { s with agenda := rest, late := s.late - 1 })

/-- No instruction and no event, in any state, ends in a fault or a refusal. -/
def Obligations.EveryInstructionGoesOn : Prop :=
  ∀ (i : Instr) (s : State), GoesOn (exec i s)

/-! ## Reset, traps, privilege, guards -/

/-- What reset leaves (R14, R30, R226, R397): every slot free with zeroed registers, every descriptor zero, the stores
zero, no wait edge, TICK at zero, every network open at zero, the physical function owning every cluster and network.
That memory reads as zero is the model's choice (log 3). -/
def Obligations.ResetState : Prop :=
  (∀ c t, (State.reset.slotAt c t).status = .free ∧ (State.reset.slotAt c t).pc = 0 ∧
    (∀ r, (State.reset.slotAt c t).readG r = 0) ∧ (∀ r, (State.reset.slotAt c t).readA r = 0) ∧
    (∀ r, (State.reset.slotAt c t).readP r = decide (r = 0)) ∧ (∀ r, (State.reset.slotAt c t).readK r = 0) ∧
    (State.reset.slotAt c t).sup = false ∧ (State.reset.slotAt c t).tv = false ∧
    (State.reset.slotAt c t).fpstat = 0) ∧
  (∀ c w, (State.reset.winAt c w).v = false ∧ ∀ q, (State.reset.winAt c w).word q = 0) ∧
  (∀ c n, (State.reset.coreAt c).seq = 0 ∧ tget 0 (State.reset.coreAt c).istore n = 0 ∧
    tget 0 (State.reset.coreAt c).wstore n = 0 ∧ tget 0 (State.reset.coreAt c).cstore n = 0 ∧
    (State.reset.coreAt c).round = none) ∧
  (∀ n, (State.reset.netAt n).state = .opened ∧ (State.reset.netAt n).toggles = 0 ∧
    (State.reset.netAt n).exits = Vector.replicate 16 0 ∧ (State.reset.netAt n).exh = false ∧
    (State.reset.netAt n).owner = some 0) ∧
  (∀ cl, (State.reset.clusterAt cl).owner = some 0) ∧
  State.reset.edges = [] ∧ State.reset.tick = 0 ∧ ∀ k, tget 0 State.reset.mem k = 0

/-- Taking a precise trap with TVEC.EN = 1 outside a handler (R140): the trap registers are written, PSUP and TV saved,
the task goes on at TVEC.ENTRY with SUP. `s1` is the state with the trace record of R408 formed, which is `s` where
tracing is off. A trap with TVEC.EN = 0, and any trap inside a handler, puts the slot into the trapped state with a
report (R140, R141, R347); inside a handler the trap registers keep the first trap's values. A slot that a token in a
network still owes a value stops at the trap once the value has come (R230, R343; that the trap itself waits is the
model's reading, log 21). -/
def Obligations.TrapEntry : Prop :=
  (∀ (s : State) (c u : Nat) (tr : Trap) (ret : BitVec 12), (s.slotAt c u).tkns = [] →
    let own := mkSite c u (s.slotAt c u).pc (s.coreAt c).seq
    let s1 := s.trace c ⟨5, tr.site.getD own, tr.arg, tr.cause.toNat % 256, 0, u⟩
    let x := s1.slotAt c u
    let t := s.takeTrap c u tr ret
    let y := t.slotAt c u
    ((s.coreAt c).trc.v = false → s1 = s) ∧
    (x.tv = false → (s.coreAt c).tvecEn = true →
      y.trappc = ret ∧ y.trapcause = tr.cause ∧ y.traparg = tr.arg ∧ y.trapsite = tr.site.getD own ∧
      (∀ va, tr.va = some va → y.trapva = va.setWidth 64 ∧ y.trapvah = (va >>> 64).setWidth 16) ∧
      (tr.va = none → y.trapva = x.trapva ∧ y.trapvah = x.trapvah) ∧
      y.psup = x.sup ∧ y.tv = true ∧ y.sup = true ∧ y.pc = (s.coreAt c).tvec ∧ y.status = .runnable ∧
      (∀ r, y.readG r = x.readG r) ∧ (∀ r, y.readA r = x.readA r) ∧ (∀ r, y.readP r = x.readP r) ∧
      (∀ r, y.readK r = x.readK r) ∧ y.fpstat = x.fpstat ∧ y.repc = x.repc ∧ y.prio = x.prio ∧ y.bind = x.bind ∧
      y.tscr = x.tscr ∧ (∀ d v, ¬(d = c ∧ v = u) → t.slotAt d v = s1.slotAt d v) ∧
      (∀ d w, t.winAt d w = s1.winAt d w) ∧ t.mem = s1.mem ∧ t.accs = s1.accs)) ∧
  (∀ (s : State) (c u : Nat) (tr : Trap) (ret : BitVec 12), (s.slotAt c u).tkns = [] →
    let own := mkSite c u (s.slotAt c u).pc (s.coreAt c).seq
    let s1 := s.trace c ⟨5, tr.site.getD own, tr.arg, tr.cause.toNat % 256, 0, u⟩
    let x := s1.slotAt c u
    let t := s.takeTrap c u tr ret
    let y := t.slotAt c u
    let code := tr.cause.toNat % 256
    (x.tv = true → y.status = .trapped ∧ y.pc = x.pc ∧ y.sup = x.sup ∧
      (y.trappc, y.trapcause, y.traparg, y.trapsite, y.trapva, y.trapvah) =
        (x.trappc, x.trapcause, x.traparg, x.trapsite, x.trapva, x.trapvah) ∧
      (t.clusterAt (clusterOf c)).held = (s1.clusterAt (clusterOf c)).held ++
        [⟨1, BitVec.ofNat 32 (code + 256), [own.setWidth 64, tr.arg], c, none⟩]) ∧
    (x.tv = false → (s.coreAt c).tvecEn = false → y.status = .trapped ∧ y.pc = x.pc ∧ y.sup = x.sup ∧
      y.tv = false ∧ y.trappc = ret ∧ y.trapcause = tr.cause ∧ y.traparg = tr.arg ∧ y.trapsite = tr.site.getD own ∧
      (t.clusterAt (clusterOf c)).held = (s1.clusterAt (clusterOf c)).held ++
        [⟨1, BitVec.ofNat 32 code, [own.setWidth 64, tr.arg], c, none⟩])) ∧
  (∀ (s : State) (c u : Nat) (tr : Trap) (ret : BitVec 12), (s.slotAt c u).hold = .none → (s.slotAt c u).tkns ≠ [] →
    let t := s.takeTrap c u tr ret
    let y := t.slotAt c u
    SameBut .none false { s.slotAt c u with
      status := .runnable, hold := .trapping [(tr, ret)], wait := none } y ∧ y.pc = (s.slotAt c u).pc ∧
    y.tkns = (s.slotAt c u).tkns ∧ t.clusters = s.clusters ∧ t.mem = s.mem) ∧
  (∀ (s : State) (c u : Nat) (tr : Trap) (ret : BitVec 12), (s.slotAt c u).hold = .trapping [(tr, ret)] →
    (s.slotAt c u).tkns = [] →
    s.takeHeldTraps c u = (s.setSlot c u { s.slotAt c u with hold := .none }).takeTrap c u tr ret)

/-- TRAP, BRK, ERET and a reserved encoding (R64, R142, R143, R144): what each raises and where it returns to; a TRAP
at word 4095 raises the instruction-address trap. A BRK in debug mode (R144, R410): the trapped state, the debug event
with WHY 1 and the BRK's site, vector 4 of the physical function, and no report. -/
def Obligations.ProgramTraps : Prop :=
  (∀ (s : State) (n : BitVec 10) (w : Code),
    (s.me.pc ≠ 4095 → exec (.trap n) s =
      .next (s.takeTrap s.cur s.slot ⟨4, n.setWidth 64, none, none⟩ (s.me.pc + 1))) ∧
    (s.me.pc = 4095 → exec (.trap n) s = .next (s.takeTrap s.cur s.slot ⟨2, 4096, none, none⟩ s.me.pc)) ∧
    ((s.coreAt s.cur).dbgctl.getLsbD 0 = false → Traps (.brk n) s ⟨5, n.setWidth 64, none, none⟩) ∧
    (s.me.sup = true → exec .eret s = .next (s.setMe { s.me with
      pc := s.me.trappc, sup := s.me.psup, tv := false, inRep := false })) ∧
    Traps (.reservedEncoding w) s ⟨1, w.setWidth 64, none, none⟩) ∧
  (∀ (s : State) (n : BitVec 10), (s.coreAt s.cur).dbgctl.getLsbD 0 = true → (s.coreAt s.cur).trc.v = false →
    ∃ t, exec (.brk n) s = .next t ∧ (t.slotAt s.cur s.slot).status = .trapped ∧
      (t.slotAt s.cur s.slot).pc = s.me.pc ∧
      (s.me.tv = false → (t.slotAt s.cur s.slot).trappc = s.me.pc ∧ (t.slotAt s.cur s.slot).trapcause = 5 ∧
        (t.slotAt s.cur s.slot).traparg = n.setWidth 64) ∧
      (s.me.tv = true → (t.slotAt s.cur s.slot).trappc = s.me.trappc ∧
        (t.slotAt s.cur s.slot).trapcause = s.me.trapcause) ∧
      (t.coreAt s.cur).dbgev = BitVec.ofNat 64 (2 ^ 63 + 2 ^ 48 + (s.siteOf s.cur s.slot).toNat) ∧
      t.msix = s.msix ++ [(0, 4)] ∧ t.clusters = s.clusters)

/-- Without TSTAT.SUP a word of privilege SUP has no effect but the privilege trap, with the word in TRAPARG (R13,
R64). -/
def Obligations.PrivilegeTrap : Prop :=
  ∀ (s : State) (i : Instr) (w : Code), supervisorOnly i = true → encode i = some w → s.me.sup = false →
    Traps i s ⟨3, w.setWidth 64, none, none⟩

/-- Under a false guard an instruction only moves the PC (R9). A register-only instruction after which the PC would
pass word 4095 has no effect but the instruction-address trap with TRAPARG 4096 (R17). Moving past an instruction (R8,
R17, R113): outside a repeat the PC goes up by one and nothing else changes; a repeat takes one from REPC, and the last
one leaves REPC at zero and the PC past the target. The instruction has no successor at word 4095, or at the last
repeat of a target there. -/
def Obligations.FalseGuard : Prop :=
  (∀ (s : State) (i : Instr) (g : Guard), guardOf i = some g → s.me.guard g = false → HasNext s → Ends i s s.me) ∧
  (∀ (s : State) (i : Instr) (d : Dst × Bool), destOf i = some d → ¬HasNext s → Traps i s ⟨2, 4096, none, none⟩) ∧
  (∀ (x : Slot),
    (x.inRep = false → x.advance = { x with pc := x.pc + 1 } ∧ (x.fallsOut = true ↔ x.pc = 4095)) ∧
    (x.inRep = true → 1 < x.repc.toNat → x.advance = { x with repc := x.repc - 1 } ∧ x.fallsOut = false) ∧
    (x.inRep = true → x.repc.toNat ≤ 1 → x.advance = { x with repc := 0, inRep := false, pc := x.pc + 2 } ∧
      (x.fallsOut = true ↔ 4094 ≤ x.pc.toNat)))

/-- The frame of a register-only instruction: every register but its destination, every other slot, every window and
every byte of memory is as before (R8, R9). -/
def Obligations.RegisterFrame : Prop :=
  ∀ (s t : State) (i : Instr) (d : Dst) (fp : Bool), destOf i = some (d, fp) → HasNext s → exec i s = .next t →
    SameBut d fp s.me t.me ∧ OthersSame s t

/-! ## Integer, control and command-register instructions -/

/-- ADD, SUB, MUL, MULH, DIV, REM, MIN, MAX (R91, R93, R94, R95): sums, differences and low products wrap at N bits;
MULH is the upper half of the exact product; division truncates, a zero divisor gives all ones and the dividend, the
one signed overflow gives the dividend and 0. -/
def Obligations.IntegerArithmetic : Prop :=
  ∀ (s : State) (e : Ext) (z : Size) (d a b : BitVec 5) (g : Guard), Clear g s →
    let x := opnd s z a
    let y := opnd s z b
    let put (v : BitVec (sizeBits z)) : Slot := s.me.writeG d (widen e v)
    let less (u v : BitVec (sizeBits z)) : Bool := byExt e (u.ult v) (u.slt v)
    Ends (.add e z d a b g) s (put (x + y)) ∧
    Ends (.sub e z d a b g) s (put (x - y)) ∧
    Ends (.mul e z d a b g) s (put (x * y)) ∧
    Ends (.mulh e z d a b g) s (put (byExt e (BitVec.ofNat _ (x.toNat * y.toNat / 2 ^ sizeBits z))
      (BitVec.ofInt _ (x.toInt * y.toInt / 2 ^ sizeBits z)))) ∧
    Ends (.div e z d a b g) s (put (if y = 0 then BitVec.allOnes _ else byExt e (x / y) (x.sdiv y))) ∧
    Ends (.rem e z d a b g) s (put (if y = 0 then x else byExt e (x % y) (x.srem y))) ∧
    Ends (.min e z d a b g) s (put (if less y x then y else x)) ∧
    Ends (.max e z d a b g) s (put (if less x y then y else x))

/-- AND, OR, XOR, NOT, MOV, SHL, SHR, ROT (R96, R97): the count of a shift is all 64 bits of its register; a count of N
or more shifts everything out, to copies of the sign under major .s; ROT takes its count modulo N. CLZ, CTZ, POPC,
BREV, BSWP (R98, R99): counts of the N-bit operand, N for a zero operand, zero-extended under both majors; reversals of
its bits and of its bytes. -/
def Obligations.LogicAndShifts : Prop :=
  (∀ (s : State) (e : Ext) (z : Size) (d a b : BitVec 5) (g : Guard), Clear g s →
    let x := opnd s z a
    let y := opnd s z b
    let n := (s.me.readG b).toNat
    let put (v : BitVec (sizeBits z)) : Slot := s.me.writeG d (widen e v)
    Ends (.and e z d a b g) s (put (x &&& y)) ∧
    Ends (.or e z d a b g) s (put (x ||| y)) ∧
    Ends (.xor e z d a b g) s (put (x ^^^ y)) ∧
    Ends (.not e z d a g) s (put (~~~x)) ∧
    Ends (.mov e z d a g) s (put x) ∧
    Ends (.shl e z d a b g) s (put (x <<< n)) ∧
    Ends (.shr e z d a b g) s (put (byExt e (x >>> n) (x.sshiftRight n))) ∧
    Ends (.rot e z d a b g) s (put (x.rotateLeft n))) ∧
  (∀ (s : State) (e : Ext) (z : Size) (d a : BitVec 5) (g : Guard), Clear g s →
    let n := sizeBits z
    let x := opnd s z a
    (∃ k, k ≤ n ∧ (∀ i, n - k ≤ i → x.getLsbD i = false) ∧ (k < n → x.getLsbD (n - 1 - k) = true) ∧
      Ends (.clz e z d a g) s (s.me.writeG d (BitVec.ofNat 64 k))) ∧
    (∃ k, k ≤ n ∧ (∀ i, i < k → x.getLsbD i = false) ∧ (k < n → x.getLsbD k = true) ∧
      Ends (.ctz e z d a g) s (s.me.writeG d (BitVec.ofNat 64 k))) ∧
    Ends (.popc e z d a g) s (s.me.writeG d (BitVec.ofNat 64 ((List.range n).countP fun i => x.getLsbD i))) ∧
    Ends (.brev e z d a g) s (s.me.writeG d (widen e x.reverse)) ∧
    (∃ v : BitVec n, (∀ i, i < n → v.getLsbD i = x.getLsbD (n - 8 - i / 8 * 8 + i % 8)) ∧
      Ends (.bswp e z d a g) s (s.me.writeG d (widen e v))))

/-- The FI instructions and NOP (R53, R92, R100): all 64 bits, the immediate extended as each says; MOVH replaces
quarter q of its register. -/
def Obligations.Immediates : Prop :=
  ∀ (s : State) (d a : BitVec 5) (i : BitVec 16) (n : BitVec 6) (q : BitVec 2), HasNext s →
    let x := s.me.readG a
    Ends (.addImm d a i) s (s.me.writeG d (x + i.signExtend 64)) ∧
    Ends (.andImm d a i) s (s.me.writeG d (x &&& i.setWidth 64)) ∧
    Ends (.orImm d a i) s (s.me.writeG d (x ||| i.setWidth 64)) ∧
    Ends (.xorImm d a i) s (s.me.writeG d (x ^^^ i.setWidth 64)) ∧
    Ends (.shlImm d a n) s (s.me.writeG d (x <<< n.toNat)) ∧
    Ends (.shrZImm d a n) s (s.me.writeG d (x >>> n.toNat)) ∧
    Ends (.shrSImm d a n) s (s.me.writeG d (x.sshiftRight n.toNat)) ∧
    Ends (.movImm d i) s (s.me.writeG d (i.signExtend 64)) ∧
    (∃ v : Word, (∀ j, j < 64 → v.getLsbD j =
        if j / 16 = q.toNat then i.getLsbD (j % 16) else (s.me.readG d).getLsbD j) ∧
      Ends (.movh d q i) s (s.me.writeG d v)) ∧
    Ends .nop s s.me

/-- CMP, SEL and ACMP (R101, R102, R107): EQ and NE on the operands, LT to GE on their signed values, LO to HS on their
unsigned values; ACMP reads addresses unsigned; SEL executes whatever its guard, which chooses. PAND, POR, PXOR, PNOT,
PSET (R108). -/
def Obligations.CompareAndSelect : Prop :=
  (∀ (s : State) (c : Cond) (z : Size) (d : BitVec 3) (e a b : BitVec 5) (v w : BitVec 4) (g : Guard), HasNext s →
    let x := opnd s z a
    let y := opnd s z b
    (s.me.guard g = true → Ends (.cmp c z d a b g) s (s.me.writeP d
      (match c with
        | .eq => x == y | .ne => x != y
        | .lt => x.slt y | .le => x.sle y | .gt => y.slt x | .ge => y.sle x
        | .lo => x.ult y | .ls => x.ule y | .hi => y.ult x | .hs => y.ule x))) ∧
    (s.me.guard g = true → Ends (.acmp c d v w g) s (s.me.writeP d
      (match c with
        | .eq => s.me.readA v == s.me.readA w | .ne => s.me.readA v != s.me.readA w
        | .lt | .lo => (s.me.readA v).ult (s.me.readA w) | .le | .ls => (s.me.readA v).ule (s.me.readA w)
        | .gt | .hi => (s.me.readA w).ult (s.me.readA v) | .ge | .hs => (s.me.readA w).ule (s.me.readA v)))) ∧
    Ends (.sel e a b g) s (s.me.writeG e (if s.me.guard g then s.me.readG a else s.me.readG b))) ∧
  (∀ (s : State) (d a b : BitVec 3) (v : Bool) (g : Guard), Clear g s →
    let x := s.me.readP a
    let y := s.me.readP b
    Ends (.pand d a b g) s (s.me.writeP d (x && y)) ∧ Ends (.por d a b g) s (s.me.writeP d (x || y)) ∧
    Ends (.pxor d a b g) s (s.me.writeP d (x != y)) ∧ Ends (.pnot d a g) s (s.me.writeP d (!x)) ∧
    Ends (.pset d v g) s (s.me.writeP d v))

/-- BFX and BFI, in both forms (R103): bit i of the extract is bit pos + i of the source, zeros or the field's sign
above the width, zero for width 0; BFI replaces the positions of the field that lie below 64. -/
def Obligations.BitFields : Prop :=
  ∀ (s : State) (d a b : BitVec 5) (w p : BitVec 6) (g : Guard), HasNext s →
    let x := s.me.readG a
    let y := s.me.readG b
    let old := s.me.readG d
    let z (pos wid : Nat) (v : Word) : Prop := ∀ i, i < 64 → v.getLsbD i = (decide (i < wid) && x.getLsbD (pos + i))
    let sg (pos wid : Nat) (v : Word) : Prop := ∀ i, i < 64 → v.getLsbD i =
      (decide (wid ≠ 0) && (if pos + min i (wid - 1) < 64 then x.getLsbD (pos + min i (wid - 1)) else x.getLsbD 63))
    let ins (pos wid : Nat) (v : Word) : Prop := ∀ i, i < 64 → v.getLsbD i =
      if pos ≤ i ∧ i < pos + wid then x.getLsbD (i - pos) else old.getLsbD i
    let pos := (y.setWidth 8).toNat
    let wid := min 64 ((y >>> 8).setWidth 8).toNat
    (∃ v, z p.toNat (w.toNat + 1) v ∧ Ends (.bfxZImm d a w p) s (s.me.writeG d v)) ∧
    (∃ v, sg p.toNat (w.toNat + 1) v ∧ Ends (.bfxSImm d a w p) s (s.me.writeG d v)) ∧
    (∃ v, ins p.toNat (w.toNat + 1) v ∧ Ends (.bfiImm d a w p) s (s.me.writeG d v)) ∧
    (s.me.guard g = true →
      (∃ v, z pos wid v ∧ Ends (.bfxZReg d a b g) s (s.me.writeG d v)) ∧
      (∃ v, sg pos wid v ∧ Ends (.bfxSReg d a b g) s (s.me.writeG d v)) ∧
      (∃ v, ins pos wid v ∧ Ends (.bfiReg d a b g) s (s.me.writeG d v)))

/-- AADD, ASET, AGET, AGET.h, ASTEP (R105, R106): address arithmetic wraps at 80 bits; ASTEP steps by the signed stride
[47:0] within its block of 2^M bytes, M being [63:56] of g_b. -/
def Obligations.Addresses : Prop :=
  ∀ (s : State) (d a : BitVec 4) (r b c : BitVec 5) (i : BitVec 16) (g : Guard), HasNext s →
    let x := s.me.readA a
    let m := ((s.me.readG b) >>> 56).toNat
    let next := x + ((s.me.readG b).setWidth 48).signExtend 80
    Ends (.aaddImm d a i) s (s.me.writeA d (x + i.signExtend 80)) ∧
    (s.me.guard g = true →
      Ends (.aaddReg d a b g) s (s.me.writeA d (x + (s.me.readG b).signExtend 80)) ∧
      Ends (.aset d c b g) s (s.me.writeA d ((s.me.readG b).setWidth 16 ++ s.me.readG c)) ∧
      Ends (.aget r a g) s (s.me.writeG r (x.setWidth 64)) ∧
      Ends (.agetH r a g) s (s.me.writeG r ((x >>> 64).setWidth 64)) ∧
      ∃ v : Addr, (∀ j, j < 80 → v.getLsbD j = if j < m then next.getLsbD j else x.getLsbD j) ∧
        Ends (.astep d a b g) s (s.me.writeA d v))

/-- BR, JAL, JR, LOOP (R109, R110): the target is a word index from the instruction's own, or all 64 bits of a
register; the link is the next index; a target outside the store traps with the index in TRAPARG and writes no link and
no count; LOOP counts down and falls through to zero. REP (R112, R113): a REP of a permitted target, all of whose
stepped registers exist, starts N repeats, or goes on with the count REPC holds; any other target is an illegal
instruction with both words in TRAPARG; one that decodes to nothing is an illegal instruction with its own word. -/
def Obligations.Transfers : Prop :=
  (∀ (s : State) (d a : BitVec 5) (i : BitVec 16) (o : BitVec 22) (g : Guard),
    let pc : Int := s.me.pc.toNat
    let inside (x : Int) : Prop := 0 ≤ x ∧ x < 4096
    let goto (sl : Slot) (x : Int) : Slot := { sl with pc := BitVec.ofInt 12 x }
    let out (x : Int) : Trap := ⟨2, BitVec.ofInt 64 x, none, none⟩
    let x := s.me.readG d
    (s.me.guard g = true →
      (inside (pc + o.toInt) → Leaves (.br g o) s (s.setMe (goto s.me (pc + o.toInt)))) ∧
      (¬inside (pc + o.toInt) → Traps (.br g o) s (out (pc + o.toInt))) ∧
      (inside (s.me.readG a).toNat → Leaves (.jr a g) s (s.setMe (goto s.me (s.me.readG a).toNat))) ∧
      (¬inside (s.me.readG a).toNat → Traps (.jr a g) s (out (s.me.readG a).toNat))) ∧
    (inside (pc + i.toInt) → Leaves (.jal d i) s (s.setMe (goto (s.me.writeG d (BitVec.ofInt 64 (pc + 1))) (pc + i.toInt)))) ∧
    (¬inside (pc + i.toInt) → Traps (.jal d i) s (out (pc + i.toInt))) ∧
    (1 < x.toNat → inside (pc + i.toInt) →
      Leaves (.loop d i) s (s.setMe (goto (s.me.writeG d (x - 1)) (pc + i.toInt)))) ∧
    (1 < x.toNat → ¬inside (pc + i.toInt) → Traps (.loop d i) s (out (pc + i.toInt))) ∧
    (x.toNat ≤ 1 → HasNext s → Ends (.loop d i) s (s.me.writeG d 0))) ∧
  (∀ (s : State) (n : BitVec 6) (sd sa sb : Bool), s.me.pc ≠ 4095 →
    let k := s.coreAt s.cur
    let own := tget 0 k.istore s.me.pc.toNat
    let tw := tget 0 k.istore (s.me.pc.toNat + 1)
    (∀ i, decode tw = .ok i → repTargetOk tw i (n.toNat + 1) sd sa sb = true → s.me.repc.toNat ≤ n.toNat + 1 →
      Leaves (.rep n sd sa sb) s (s.setMe { s.me with
        inRep := true, repc := if s.me.repc = 0 then BitVec.ofNat 7 (n.toNat + 1) else s.me.repc })) ∧
    (∀ i, decode tw = .ok i → repTargetOk tw i (n.toNat + 1) sd sa sb = false ∨ n.toNat + 1 < s.me.repc.toNat →
      Traps (.rep n sd sa sb) s ⟨1, tw ++ own, none, none⟩) ∧
    (∀ e, decode tw = .error e → Traps (.rep n sd sa sb) s ⟨1, tw.setWidth 64, none, none⟩))

/-- KLD, KINS, KEXT, KMOV (R75): four words of the store from word 4i, little-endian; a field of w + 1 bits at p, what
lies beyond bit 127 being dropped, and reading as zero. A register reads back what an instruction wrote to it and no
other register changes (R10); g0 and p0 discard a write and read as zero and true. -/
def Obligations.CommandRegisters : Prop :=
  (∀ (s : State) (k m : BitVec 3) (i : BitVec 10) (p : BitVec 7) (w : BitVec 6) (d z : BitVec 5), HasNext s →
    let word (j : Nat) : Code := tget 0 (s.coreAt s.cur).istore (4 * i.toNat + j)
    Ends (.kld k i) s (s.me.writeK k (word 3 ++ word 2 ++ word 1 ++ word 0)) ∧
    (∃ v : Wide, (∀ j, j < 128 → v.getLsbD j =
        if p.toNat ≤ j ∧ j < p.toNat + w.toNat + 1 then (s.me.readG z).getLsbD (j - p.toNat)
        else (s.me.readK k).getLsbD j) ∧ Ends (.kins k p w z) s (s.me.writeK k v)) ∧
    (∃ v : Word, (∀ j, j < 64 → v.getLsbD j = (decide (j < w.toNat + 1) && (s.me.readK k).getLsbD (p.toNat + j))) ∧
      Ends (.kext d k p w) s (s.me.writeG d v)) ∧
    Ends (.kmov k m) s (s.me.writeK k (s.me.readK m))) ∧
  (∀ (x : Slot) (d e : BitVec 5) (a b : BitVec 4) (p q : BitVec 3) (v : Word) (va : Addr) (t : Bool) (w : Wide),
    (x.writeG d v).readG e = (if e = 0 then 0 else if e = d then v else x.readG e) ∧
    (x.writeA a va).readA b = (if b = a then va else x.readA b) ∧
    (x.writeP p t).readP q = (if q = 0 then true else if q = p then t else x.readP q) ∧
    (x.writeK p w).readK q = (if q = p then w else x.readK q) ∧
    (∀ r, (x.writeG d v).readA r = x.readA r) ∧ (∀ r, (x.writeG d v).readP r = x.readP r) ∧
    (∀ r, (x.writeA a va).readG r = x.readG r) ∧ (∀ r, (x.writeP p t).readG r = x.readG r))

/-! ## Scalar floating point -/

/-- FADD, FSUB, FMUL, FFMA, FMIN, FMAX, FSGN in every lane of their type (R127 to R130). FRCE, FRSQE, FCLASS on an FP32
value, FCVT and FCMP (R131 to R135): FCMP is true when its condition holds in every lane; FCLASS raises no flag. -/
def Obligations.FpArithmetic : Prop :=
  (∀ (s : State) (t : FpTy) (r : Rnd) (o : SgnOp) (d a b : BitVec 5) (g : Guard), Clear g s →
    let f := fpFmt t
    let x (j : Nat) : Nat := lane f.width j (s.me.readG a)
    let y (j : Nat) : Nat := lane f.width j (s.me.readG b)
    let z (j : Nat) : Nat := lane f.width j (s.me.readG d)
    FpEnds (.fadd t r d a b g) s t d (fun j => f.add r (x j) (y j)) ∧
    FpEnds (.fsub t r d a b g) s t d (fun j => f.sub r (x j) (y j)) ∧
    FpEnds (.fmul t r d a b g) s t d (fun j => f.mul r (x j) (y j)) ∧
    FpEnds (.ffma t r d a b g) s t d (fun j => f.fma r (x j) (y j) (z j)) ∧
    FpEnds (.fmin t d a b g) s t d (fun j => f.minMax false (x j) (y j)) ∧
    FpEnds (.fmax t d a b g) s t d (fun j => f.minMax true (x j) (y j)) ∧
    FpEnds (.fsgn t o d a b g) s t d (fun j => f.sgn o (x j) (y j))) ∧
  (∀ (s : State) (t : FpTy) (c : FCond) (y x : CvtTy) (r : Rnd) (d a b : BitVec 5) (p : BitVec 3) (g : Guard), Clear g s →
    let f := fpFmt t
    let u (j : Nat) : Nat := lane f.width j (s.me.readG a)
    let v (j : Nat) : Nat := lane f.width j (s.me.readG b)
    let w := lane 32 0 (s.me.readG a)
    FpEnds (.frce d a g) s .f32 d (fun _ => frceVal w) ∧
    FpEnds (.frsqe d a g) s .f32 d (fun _ => frsqeVal w) ∧
    FpEnds (.fclass d a g) s .f32 d (fun _ => (fclassVal w, 0)) ∧
    Ends (.fcvt y x r d a g) s { s.me.writeG d (cvtVal y x r (s.me.readG a)).1 with
      fpstat := s.me.fpstat ||| (cvtVal y x r (s.me.readG a)).2 } ∧
    ∃ (q : Bool) (fl : Flags), Ends (.fcmp t c p a b g) s { s.me.writeP p q with fpstat := s.me.fpstat ||| fl } ∧
      (q = true ↔ ∀ j, j < lanesOf t → (f.cmp c (u j) (v j)).1 = true) ∧
      (∀ i, fl.getLsbD i = true ↔ ∃ j, j < lanesOf t ∧ (f.cmp c (u j) (v j)).2.getLsbD i = true))

/-- The special operands of the arithmetic (R36, R37, R38, R128): a NaN operand gives the canonical NaN, and NV exactly
for a signalling one; infinities of opposite sign, and zero times infinity, give NaN with NV; an exact zero sum of
opposite signs is +0, but −0 under RD. -/
def Obligations.FpSpecialOperands : Prop :=
  ∀ (f : Fmt) (r : Rnd) (a b : Nat),
    let x := f.decode a
    let y := f.decode b
    (x.isNan = true ∨ y.isNan = true → f.add r a b = (f.nan, if x.isSnan || y.isSnan then fNV else 0) ∧
      f.sub r a b = (f.nan, if x.isSnan || y.isSnan then fNV else 0) ∧
      f.mul r a b = (f.nan, if x.isSnan || y.isSnan then fNV else 0)) ∧
    (∀ q, x = .inf q → y = .inf (!q) → f.add r a b = (f.nan, fNV)) ∧
    (∀ q, x = .inf q → y = .inf q → f.sub r a b = (f.nan, fNV) ∧ f.add r a b = (f.pack q f.infMag, 0)) ∧
    (∀ q, x = .inf q → y.isZero = true → f.mul r a b = (f.nan, fNV) ∧ f.mul r b a = (f.nan, fNV)) ∧
    (∀ q m e, x = .num q m e → y = .num (!q) m e → m ≠ 0 → f.add r a b = (f.pack (r == .rd) 0, 0))

/-- Rounding a nonzero magnitude m × 2^e (R39): toward zero the pattern brackets the value from below, away from zero
from above, and to nearest no neighbour is closer, and a tie goes to the even pattern; it is inexact exactly when the
pattern's value is another. What lies beyond a format's range (R40, R41, R42): an overflow goes to infinity or the
largest finite value by the mode, with OF and NX; E4M3 saturates with SAT and NX; a conversion to an integer clamps
with NV, a NaN giving 0. -/
def Obligations.RoundingBrackets : Prop :=
  (∀ (f : Fmt) (s : Bool) (m : Nat) (e : Int), m ≠ 0 →
    let x : ℚ := m * 2 ^ e
    let v (n : Nat) : ℚ := magValue f n
    let up : Rnd := if s then .rd else .ru
    let down : Rnd := if s then .ru else .rd
    (∀ r, r = .rz ∨ r = down → v (f.roundMag r s m e).1 ≤ x ∧ x < v ((f.roundMag r s m e).1 + 1)) ∧
    (x ≤ v (f.roundMag up s m e).1 ∧ ((f.roundMag up s m e).1 ≠ 0 → v ((f.roundMag up s m e).1 - 1) < x)) ∧
    (∀ n, n = (f.roundMag .rne s m e).1 → 2 * x ≤ v n + v (n + 1) ∧ (n ≠ 0 → v (n - 1) + v n ≤ 2 * x) ∧
      (n % 2 = 1 → 2 * x < v n + v (n + 1) ∧ v (n - 1) + v n < 2 * x)) ∧
    (∀ r, (f.roundMag r s m e).2 = true ↔ v (f.roundMag r s m e).1 ≠ x)) ∧
  (∀ (f : Fmt) (r : Rnd) (s : Bool) (m : Nat) (e lo hi : Int), m ≠ 0 → lo ≤ 0 → 0 ≤ hi →
    (f ≠ .e4m3 → f.infMag ≤ (f.roundMag r s m e).1 →
      f.round r s m e = (f.pack s (if r = .rne ∨ (r = .ru ∧ s = false) ∨ (r = .rd ∧ s = true) then f.infMag
        else f.infMag - 1), fOF ||| fNX)) ∧
    (f = .e4m3 → 0x7E < (f.roundMag r s m e).1 → f.round r s m e = (f.pack s 0x7E, fSAT ||| fNX)) ∧
    (∀ v, lo ≤ (toInteger r lo hi v).1 ∧ (toInteger r lo hi v).1 ≤ hi) ∧
    (s = false → hi < m →
      toInteger r lo hi (.num s m 0) = (hi, fNV)) ∧
    (s = true → -(m : Int) < lo → toInteger r lo hi (.num s m 0) = (lo, fNV)) ∧
    (∀ q, toInteger r lo hi (.nan q) = (0, fNV)) ∧
    (∀ q, toInteger r lo hi (.inf q) = (if q then lo else hi, fNV)))

/-! ## Windows -/

/-- WRD in both forms and WRDN on a filled element, and WQRY (R115, R117, R118, R119): the element's bytes [7:0]; the
probe also sets its predicate. Nothing but the slot's registers changes. -/
def Obligations.WindowReads : Prop :=
  ∀ (s : State) (d a : BitVec 5) (w : BitVec 4) (o : BitVec 14) (n : BitVec 11) (p : BitVec 3) (q : BitVec 2)
    (g : Guard), HasNext s →
    let k := s.coreAt s.cur
    let x := s.winAt s.cur w.toNat
    (Readable x o.toNat → ∃ v, IsElement k x o.toNat v ∧ Ends (.wrd d w o) s (s.me.writeG d v)) ∧
    (s.me.guard g = true → Readable x ((s.me.readG a).setWidth 32).toNat →
      ∃ v, IsElement k x ((s.me.readG a).setWidth 32).toNat v ∧ Ends (.wrdReg d w a g) s (s.me.writeG d v)) ∧
    (Readable x n.toNat → ∃ v, IsElement k x n.toNat v ∧
      Ends (.wrdn d p w n) s ((s.me.writeG d v).writeP p true)) ∧
    (Usable x .read → n.toNat < x.cap.toNat → x.poisonedAt n.toNat = false → x.ext ≤ n.toNat →
      Ends (.wrdn d p w n) s (s.me.writeP p false)) ∧
    Ends (.wqry d w q) s (s.me.writeG d (x.word q.toNat))

/-- WFILL in both forms and WFILLN with room in the window store (R23, R25, R117, R118): the window takes the element,
the slot moves on, the probe's predicate is true. -/
def Obligations.WindowFills : Prop :=
  ∀ (s : State) (w : BitVec 4) (z : BitVec 5) (p : BitVec 3) (g : Guard), HasNext s →
    s.quiet s.cur s.slot = true →
    let x := s.winAt s.cur w.toNat
    Usable x .fill → x.fillsStore = true → Unwatched (s.coreAt s.cur) w.toNat →
    (∃ t, exec (.wfill w z) s = .next t ∧ Filled s t s.cur w.toNat (s.me.readG z) ∧ t.me = s.me.advance) ∧
    (s.me.guard g = true → ∃ t, exec (.wfillReg w z g) s = .next t ∧
      Filled s t s.cur w.toNat (s.me.readG z) ∧ t.me = s.me.advance) ∧
    (∃ t, exec (.wfilln w z p) s = .next t ∧ Filled s t s.cur w.toNat (s.me.readG z) ∧
      t.me = (s.me.writeP p true).advance)

/-- WWR and WSHR in both forms (R23, R117): an update writes bytes [7:0] of a filled element and nothing else; a shrink
moves HEAD and HSLOT by its count, a consumed poison position being cleared (R351), and writes no byte of the store. -/
def Obligations.WindowUpdates : Prop :=
  ∀ (s : State) (w : BitVec 4) (o n : BitVec 14) (a z : BitVec 5) (g : Guard), HasNext s →
    s.quiet s.cur s.slot = true →
    let x := s.winAt s.cur w.toNat
    let b := (s.me.readG a).setWidth 32
    let updated (i : Instr) (o : Nat) : Prop := ∃ t, exec i s = .next t ∧ t.me = s.me.advance ∧
      (∀ j, j < min 8 (2 ^ (x.esz.toNat + 2)) → tget 0 (t.coreAt s.cur).wstore (elemAddr x o + j) =
        ((s.me.readG z) >>> (8 * j)).setWidth 8) ∧
      (∀ e, e < elemAddr x o ∨ elemAddr x o + min 8 (2 ^ (x.esz.toNat + 2)) ≤ e →
        tget 0 (t.coreAt s.cur).wstore e = tget 0 (s.coreAt s.cur).wstore e) ∧
      (∀ d u, t.winAt d u = s.winAt d u) ∧ (∀ d, d ≠ s.cur → t.coreAt d = s.coreAt d) ∧ t.mem = s.mem
    let shrunk (i : Instr) (n : Nat) : Prop := ∃ t, exec i s = .next t ∧ t.me = s.me.advance ∧
      (t.winAt s.cur w.toNat).head = x.head + BitVec.ofNat 32 n ∧ (t.winAt s.cur w.toNat).fill = x.fill ∧
      (0 < n → (t.winAt s.cur w.toNat).hslot = BitVec.ofNat 16 ((x.hslot.toNat + n) % x.cap.toNat) ∧
        ((t.winAt s.cur w.toNat).pv = true ↔ x.pv = true ∧ n ≤ (x.pois - x.head).toNat)) ∧
      (t.coreAt s.cur).wstore = (s.coreAt s.cur).wstore ∧
      (∀ d u, ¬(d = s.cur ∧ u = w.toNat) → t.winAt d u = s.winAt d u) ∧
      (∀ d, d ≠ s.cur → t.coreAt d = s.coreAt d) ∧ t.mem = s.mem
    (Usable x .update → o.toNat < x.ext → updated (.wwr w o z) o.toNat) ∧
    (Usable x .update → b.toNat < x.ext → s.me.guard g = true → updated (.wwrReg w a z g) b.toNat) ∧
    (Usable x .shrink → n.toNat ≤ x.ext → shrunk (.wshr w n) n.toNat) ∧
    (Usable x .shrink → b.toNat ≤ x.ext → s.me.guard g = true → shrunk (.wshrReg w a g) b.toNat)

/-- WDEF (R120): an acceptable descriptor defines the window, empty, with no poison and no party in its roles; the
window store keeps its bytes. Any other descriptor is a window operand fault with WHY 6. -/
def Obligations.WindowDefinition : Prop :=
  ∀ (s : State) (w : BitVec 4) (z : BitVec 5), s.quiet s.cur s.slot = true →
    let v := s.me.readG z
    let y (t : State) : Win := t.winAt s.cur w.toNat
    (wdefOk v = true → HasNext s → ∃ t, exec (.wdef w z) s = .next t ∧ t.me = s.me.advance ∧
      (y t).v = true ∧ ((y t).mode.code : Nat) = (v >>> 39).toNat % 8 ∧ (y t).esz = (v >>> 35).setWidth 4 ∧
      (y t).cap = (v >>> 19).setWidth 16 ∧ (y t).base = (v >>> 7).setWidth 12 ∧
      (y t).ccnt = (v >>> 48).setWidth 6 ∧ (y t).pcnt = (v >>> 42).setWidth 6 ∧
      (y t).head = 0 ∧ (y t).fill = 0 ∧ (y t).hslot = 0 ∧ (y t).pv = false ∧ (y t).pois = 0 ∧ (y t).prod = [] ∧
      (y t).cons = [] ∧ (y t).wbkb = (s.winAt s.cur w.toNat).wbkb ∧
      (t.coreAt s.cur).wstore = (s.coreAt s.cur).wstore ∧
      (∀ d u, ¬(d = s.cur ∧ u = w.toNat) → t.winAt d u = s.winAt d u) ∧ t.mem = s.mem) ∧
    (wdefOk v = false →
      Traps (.wdef w z) s (winTrap (s.winAt s.cur w.toNat) w.toNat .define false 0 6))

/-- The operand faults and the poison trap of a read of the issuing core's windows (R23, R28, R29, R121): checks in
order, and in a trap neither the window nor the destination changes. A held window makes the operation wait (R363). A
read of an element that is not filled yet, and a fill that finds no room, wait with a wait edge (R23, R24, R27). A
waiting read of a window of its core whose element has been filled, a waiting shrink of filled elements, and a waiting
fill that finds room proceed: the task becomes runnable past its instruction, its edge gone (R24, R26, R146). -/
def Obligations.WindowFaults : Prop :=
  (∀ (s : State) (d z : BitVec 5) (w : BitVec 4) (o n : BitVec 14), s.quiet s.cur s.slot = true →
    let x := s.winAt s.cur w.toNat
    let fault (op : OpKind) (arg : BitVec 14) (why : Nat) : Trap := winTrap x w.toNat op false (arg.setWidth 32) why
    let site := s.siteOf s.cur s.slot
    (x.held = true → HasNext s →
      WaitsFor (.wrd d w o) s (.window false s.cur w.toNat (.read (o.setWidth 32)) d site) ∧
      WaitsFor (.wfill w z) s (.window false s.cur w.toNat (.fill (s.me.readG z)) 0 site) ∧
      WaitsFor (.wwr w o z) s (.window false s.cur w.toNat (.update (o.setWidth 32) (s.me.readG z)) 0 site) ∧
      WaitsFor (.wshr w n) s (.window false s.cur w.toNat (.shrink (n.setWidth 32)) 0 site)) ∧
    (x.held = false → x.v = false → Traps (.wrd d w o) s (fault .read o 1) ∧ Traps (.wfill w z) s (fault .fill 0 1) ∧
      Traps (.wwr w o z) s (fault .update o 1) ∧ Traps (.wshr w n) s (fault .shrink n 1)) ∧
    (x.held = false → x.v = true →
      (x.cap.toNat ≤ o.toNat → Traps (.wrd d w o) s (fault .read o 4)) ∧
      (o.toNat < x.cap.toNat → x.poisonedAt o.toNat = true → Traps (.wrd d w o) s (poisonTrap x w.toNat false)) ∧
      (x.mode.allows .fill = false → Traps (.wfill w z) s (fault .fill 0 5)) ∧
      (x.mode.allows .update = false → Traps (.wwr w o z) s (fault .update o 5)) ∧
      (x.mode.allows .update = true → x.ext ≤ o.toNat → Traps (.wwr w o z) s (fault .update o 2)) ∧
      (x.mode.allows .shrink = false → Traps (.wshr w n) s (fault .shrink n 5)) ∧
      (x.mode.allows .shrink = true → x.ext < n.toNat → Traps (.wshr w n) s (fault .shrink n 3)))) ∧
  (∀ (s : State) (d z : BitVec 5) (w : BitVec 4) (o : BitVec 14), HasNext s → s.quiet s.cur s.slot = true →
    let x := s.winAt s.cur w.toNat
    (Usable x .read → o.toNat < x.cap.toNat → x.poisonedAt o.toNat = false → x.ext ≤ o.toNat →
      WaitsFor (.wrd d w o) s (.window false s.cur w.toNat (.read (o.setWidth 32)) d (s.siteOf s.cur s.slot))) ∧
    (Usable x .fill → (s.coreAt s.cur).fillRoom w.toNat = false →
      WaitsFor (.wfill w z) s (.window false s.cur w.toNat (.fill (s.me.readG z)) 0 (s.siteOf s.cur s.slot)))) ∧
  (∀ (s : State) (c t w : Nat) (o : BitVec 32) (v : Word) (d : BitVec 5) (site : BitVec 46), c < Config.cores →
    let sl := s.slotAt c t
    let x := s.winAt c w
    (sl.wait = some (.window false c w (.read o) d site) → Readable x o.toNat → ∃ s' u, IsElement (s.coreAt c) x o.toNat u ∧
      exec (.waitingReadProceeds c t) s = .next s' ∧
      s'.slotAt c t = ({ sl with status := .runnable, wait := none, ready := s.tick, issues := 0 }.writeG d u).advance ∧
      (∀ e ∈ s'.edges, e.party ≠ .task c t) ∧ (∀ e u, s'.winAt e u = s.winAt e u) ∧ s'.mem = s.mem) ∧
    (sl.wait = some (.window false c w (.shrink o) d site) → Usable x .shrink → o.toNat ≤ x.ext → ∃ s',
      exec (.waitingReadProceeds c t) s = .next s' ∧ (s'.winAt c w).head = x.head + o ∧ (s'.winAt c w).fill = x.fill ∧
      s'.slotAt c t = { sl with status := .runnable, wait := none, ready := s.tick, issues := 0 }.advance ∧
      (∀ e ∈ s'.edges, e.party ≠ .task c t) ∧ s'.mem = s.mem) ∧
    (sl.wait = some (.window false c w (.fill v) d site) → Usable x .fill → x.fillsStore = true →
      Unwatched (s.coreAt c) w → ∃ s', exec (.waitingFillProceeds c t) s = .next s' ∧ Filled s s' c w v ∧
      s'.slotAt c t = { sl with status := .runnable, wait := none, ready := s.tick, issues := 0 }.advance))

/-- The remote forms on a core of the issuing cluster (R116, R122): the operation goes out and the task holds at its PC
until the answer. One that names another core is a window operand fault with WHY 1. Performed at its target (R122), a
remote read answers with the element and a query with the third of the descriptor, a fill adds its element, an update
writes it in place, a shrink moves HEAD and HSLOT; the answer writes the result and lets the task go on. -/
def Obligations.RemoteOperations : Prop :=
  (∀ (s : State) (d a c z : BitVec 5) (w : BitVec 4) (q : BitVec 2) (g : Guard), Clear g s →
    s.quiet s.cur s.slot = true →
    let n := (s.me.readG c).toNat % 8192
    let off := (s.me.readG a).setWidth 32
    let sent (i : Instr) (op : WinOp) (d : BitVec 5) : Prop := ∃ t, exec i s = .next t ∧
      t.me = { s.me with hold := .remote, remote := some ⟨n, w.toNat, op, d, s.siteOf s.cur s.slot, false⟩ } ∧
      t.agenda = s.agenda ++ [.remoteWindowOperation s.cur (.slot s.slot)] ∧
      (∀ e u, t.winAt e u = s.winAt e u) ∧ t.mem = s.mem
    n < Config.cores → clusterOf n = clusterOf s.cur →
    sent (.wfillRm w c z g) (.fill (s.me.readG z)) 0 ∧ sent (.wrdRm d w c a g) (.read off) d ∧
    sent (.wwrRm w c a z g) (.update off (s.me.readG z)) 0 ∧ sent (.wshrRm w c a g) (.shrink off) 0 ∧
    sent (.wqryRm d w c q g) (.query q) d) ∧
  (∀ (s : State) (d a c z : BitVec 5) (w : BitVec 4) (q : BitVec 2) (g : Guard), s.me.guard g = true →
    let n := (s.me.readG c).toNat % 8192
    let off := (s.me.readG a).setWidth 32
    let fault (op : OpKind) (arg : BitVec 32) : Trap :=
      ⟨6, BitVec.ofNat 64 (arg.toNat * 2 ^ 16 + 2 ^ 8 + 2 ^ 7 + op.code * 2 ^ 4 + w.toNat), none, none⟩
    n < 0x1FFD → ¬(n < Config.cores ∧ clusterOf n = clusterOf s.cur) →
    Traps (.wfillRm w c z g) s (fault .fill 0) ∧ Traps (.wrdRm d w c a g) s (fault .read off) ∧
    Traps (.wwrRm w c a z g) s (fault .update off) ∧ Traps (.wshrRm w c a g) s (fault .shrink off) ∧
    Traps (.wqryRm d w c q g) s (fault .query 0)) ∧
  (∀ (s : State) (c t n w : Nat) (o : BitVec 32) (v : Word) (d : BitVec 5) (q : BitVec 2) (site : BitVec 46)
    (op : WinOp) (r : Option Word), n < Config.cores →
    let sl := s.slotAt c t
    let x := s.winAt n w
    let going (op : WinOp) : Prop := sl.remote = some ⟨n, w, op, d, site, false⟩
    let performs (r : Option Word) (s' : State) : Prop := exec (.remoteWindowOperation c (.slot t)) s = .next s' ∧
      (s'.slotAt c t).hold = .remoteDone r ∧ .remoteAnswer c (.slot t) ∈ s'.agenda ∧ s'.mem = s.mem
    (going (.read o) → Readable x o.toNat → ∃ s' u, IsElement (s.coreAt n) x o.toNat u ∧ performs (some u) s') ∧
    (going (.query q) → ∃ s', performs (some (x.word q.toNat)) s') ∧
    (going (.fill v) → Usable x .fill → x.fillsStore = true → Unwatched (s.coreAt n) w →
      ∃ s', performs none s' ∧ (s'.winAt n w).fill = x.fill + 1 ∧ (s'.winAt n w).head = x.head ∧
        ∀ j, j < 2 ^ (x.esz.toNat + 2) → tget 0 (s'.coreAt n).wstore (elemAddr x x.ext + j) =
          if j < 8 then (v >>> (8 * j)).setWidth 8 else 0#8) ∧
    (going (.update o v) → Usable x .update → o.toNat < x.ext → ∃ s', performs none s' ∧
      (∀ j, j < min 8 (2 ^ (x.esz.toNat + 2)) → tget 0 (s'.coreAt n).wstore (elemAddr x o.toNat + j) =
        (v >>> (8 * j)).setWidth 8) ∧
      (∀ e, e < elemAddr x o.toNat ∨ elemAddr x o.toNat + min 8 (2 ^ (x.esz.toNat + 2)) ≤ e →
        tget 0 (s'.coreAt n).wstore e = tget 0 (s.coreAt n).wstore e) ∧ (∀ e u, s'.winAt e u = s.winAt e u)) ∧
    (going (.shrink o) → Usable x .shrink → o.toNat ≤ x.ext → ∃ s', performs none s' ∧
      (s'.winAt n w).head = x.head + o ∧ (s'.winAt n w).fill = x.fill ∧
      (0 < o.toNat → (s'.winAt n w).hslot = BitVec.ofNat 16 ((x.hslot.toNat + o.toNat) % x.cap.toNat)) ∧
      (s'.coreAt n).wstore = (s.coreAt n).wstore) ∧
    (sl.hold = .remoteDone r → sl.remote = some ⟨n, w, op, d, site, true⟩ →
      Leaves (.remoteAnswer c (.slot t)) s (s.setSlot c t
        ((match r with
          | some u => { sl with hold := .none, remote := none }.writeG d u
          | none => { sl with hold := .none, remote := none })).advance)))

/-! ## Tasks, barriers, counting networks -/

/-- TBIND (R148, R152): a free slot becomes bound with zeroed registers; in any other state the slot keeps its state and
registers and takes the binding. Here no event of the source is pending. TBIND of a task's own slot (R152): it governs
the next TRET. The checks of the task instructions (R152, R153, R166): a slot operand of 32 or more, a malformed
binding, a SPAWN operand with a bit above 13, a BARC operand above 16 bits are task operand faults with WHY 1, 2, 2 and
4. That a barrier level of 7, and bits of ARG that a KIND has no use for, count as nonzero reserved bits of a binding
(its WHY 2) is the model's choice (log 78): R152 names a reserved KIND, KIND 0 and a nonzero reserved bit. So is that a
TBIND whose slot and binding are both bad reports the slot, WHY 1 (log 88). -/
def Obligations.TaskBinding : Prop :=
  (∀ (s : State) (z e : BitVec 5), HasNext s →
    let u := (s.me.readG z).toNat
    let n := (s.me.readG e).toNat
    let b := BitVec.ofNat 26 n
    let sl := s.slotAt s.cur u
    u < 32 → u ≠ s.slot → bindingOk n = true →
    (∀ p, tget none (s.coreAt s.cur).pend (bindSource b) = some p → p.count = 0) →
    ∃ t, exec (.tbind z e) s = .next t ∧ t.me = s.me.advance ∧ t.mem = s.mem ∧
      t.slotAt s.cur u = (if sl.status = .free then { Slot.init with status := .bound, bind := b, act := sl.act }
        else { sl with bind := b, lsup := false }) ∧
      (∀ d v, ¬(d = s.cur ∧ (v = u ∨ v = s.slot)) → t.slotAt d v = s.slotAt d v)) ∧
  (∀ (s : State) (z e : BitVec 5), HasNext s → s.me.status = .runnable →
    let n := (s.me.readG e).toNat
    let b := BitVec.ofNat 26 n
    (s.me.readG z).toNat = s.slot → s.slot < 32 → bindingOk n = true →
    (∀ p, tget none (s.coreAt s.cur).pend (bindSource b) = some p → p.count = 0) →
    ∃ t, exec (.tbind z e) s = .next t ∧ t.me = { s.me with bind := b, lsup := false }.advance ∧ t.mem = s.mem) ∧
  (∀ (s : State) (z e : BitVec 5) (q : BitVec 2) (l : Level) (b : BitVec 4),
    let x := s.me.readG z
    let fault (v : Word) (why fn : Nat) : Trap := ⟨9, BitVec.ofNat 64 (v.toNat % 2 ^ 32 * 2 ^ 32 + why * 256 + fn), none, none⟩
    (32 ≤ x.toNat → Traps (.tbind z e) s (fault x 1 9) ∧ Traps (.tunb z) s (fault x 1 10) ∧
      Traps (.tprio z q) s (fault x 1 11)) ∧
    (x.toNat < 32 → bindingOk (s.me.readG e).toNat = false → Traps (.tbind z e) s (fault (s.me.readG e) 2 9)) ∧
    (2 ^ 14 ≤ x.toNat → Traps (.spawn z e) s (fault x 2 8)) ∧
    (2 ^ 16 ≤ x.toNat → Traps (.barc l b z) s (fault x 4 14)))

/-- TUNB, TPRIO, YIELD (R152, R155): a bound slot becomes free, another loses its binding; PRIO is set in the slot, or
in the binding of a slot that waits for an event or is free; a yield stamps the task anew. TRET (R154): the slot
becomes free if its binding is ONCE or cleared, and else bound again, keeping its registers; TV is cleared. Here no
event of its source is pending and nothing waits to spawn. -/
def Obligations.SlotControl : Prop :=
  (∀ (s : State) (z : BitVec 5) (q : BitVec 2), HasNext s →
    let u := (s.me.readG z).toNat
    let sl := s.slotAt s.cur u
    Ends .yield s { s.me with ready := s.tick, issues := 0 } ∧
    (u < 32 → u ≠ s.slot → ∃ t, exec (.tprio z q) s = .next t ∧ t.me = s.me.advance ∧ t.mem = s.mem ∧
      (sl.status = .runnable ∨ sl.status = .waiting ∨ sl.status = .trapped →
        t.slotAt s.cur u = { sl with prio := q }) ∧
      (sl.status = .free ∨ sl.status = .bound → ∃ b, t.slotAt s.cur u = { sl with bind := b } ∧ bindPrio b = q ∧
        bindEntry b = bindEntry sl.bind ∧ bindSource b = bindSource sl.bind ∧ bindOnce b = bindOnce sl.bind)) ∧
    (u = s.slot → s.me.status = .runnable → u < 32 → Ends (.tprio z q) s { s.me with prio := q }) ∧
    (u = s.slot → s.me.status = .runnable → u < 32 → (∀ e ∈ s.edges, e.kind ≠ .spawn) →
      Ends (.tunb z) s { s.me with bind := 0 }) ∧
    (u < 32 → u ≠ s.slot → (∀ e ∈ s.edges, e.kind ≠ .spawn) → ∃ t, exec (.tunb z) s = .next t ∧
      t.me = s.me.advance ∧ t.mem = s.mem ∧
      (sl.status = .free → t.slotAt s.cur u = sl) ∧
      (sl.status = .bound → t.slotAt s.cur u = { sl with status := .free, bind := 0 }) ∧
      (sl.status = .runnable ∨ sl.status = .waiting ∨ sl.status = .trapped →
        t.slotAt s.cur u = { sl with bind := 0 }))) ∧
  (∀ (s : State), s.quiet s.cur s.slot = true → (s.coreAt s.cur).trc.v = false → (∀ e ∈ s.edges, e.kind ≠ .spawn) →
    (∀ p, tget none (s.coreAt s.cur).pend (bindSource s.me.bind) = some p → p.count = 0) →
    ∃ t, exec .tret s = .next t ∧ t.me.tv = false ∧ (∀ r, t.me.readG r = s.me.readG r) ∧
      (∀ r, t.me.readA r = s.me.readA r) ∧ t.mem = s.mem ∧
      (bindOnce s.me.bind = true ∨ s.me.bind = 0 → t.me.status = .free ∧ t.me.bind = 0) ∧
      (¬(bindOnce s.me.bind = true ∨ s.me.bind = 0) → t.me.status = .bound ∧ t.me.bind = s.me.bind) ∧
      (∀ d v, ¬(d = s.cur ∧ v = s.slot) → t.slotAt d v = s.slotAt d v))

/-- SPAWN with a slot to take (R151, R153): a bound slot of kind spawn with its ENTRY, else the lowest free slot with
zeroed registers, is activated at its entry with the argument in g1; with none it waits. Where the slot was bound its
own binding's priority holds, which is the model's reading (log 9). The slot a SPAWN takes (R153): the lowest bound
slot of kind spawn with the entry, and where there is none the lowest free one. -/
def Obligations.Spawn : Prop :=
  (∀ (s : State) (e a : BitVec 5), HasNext s → (s.coreAt s.cur).trc.v = false → (s.me.readG e).toNat < 2 ^ 14 →
    let n := s.me.readG e
    (∀ u, (s.coreAt s.cur).spawnSlot (n.setWidth 12) = some u → u ≠ s.slot →
      ∃ t, exec (.spawn e a) s = .next t ∧ t.me = s.me.advance ∧ t.mem = s.mem ∧
        let y := t.slotAt s.cur u
        y.status = .runnable ∧ y.pc = n.setWidth 12 ∧ y.readG 1 = s.me.readG a ∧ y.ready = s.tick ∧ y.tv = false ∧
        ((s.slotAt s.cur u).status = .free → y.prio = (n >>> 12).setWidth 2 ∧ y.sup = false ∧ bindOnce y.bind = true ∧
          bindKind y.bind = 7 ∧ (∀ r, r ≠ 1 → y.readG r = 0) ∧ (∀ r, y.readA r = 0)) ∧
        ((s.slotAt s.cur u).status = .bound → y.prio = bindPrio (s.slotAt s.cur u).bind ∧
          (∀ r, r ≠ 1 → y.readG r = (s.slotAt s.cur u).readG r))) ∧
    ((s.coreAt s.cur).spawnSlot (n.setWidth 12) = none → WaitsFor (.spawn e a) s .again)) ∧
  (∀ (k : Core) (entry : BitVec 12) (u : Nat), k.spawnSlot entry = some u →
    let fits (v : Nat) : Prop := (k.slotAt v).status = .bound ∧ bindKind (k.slotAt v).bind = 7 ∧
      bindEntry (k.slotAt v).bind = entry
    u < 32 ∧ ((fits u ∧ ∀ v, v < u → ¬fits v) ∨
      ((∀ v, v < 32 → ¬fits v) ∧ (k.slotAt u).status = .free ∧ ∀ v, v < u → (k.slotAt v).status ≠ .free)))

/-- Delivery (R149, R150, R151): the pending events of a source activate the lowest slot bound to it, with one event
word in g1 that names the source, their number and the latest data, and the count returns to zero. Class masks and
packet delivery (R168, R388): CMSK masks a class, CUMSK lets it deliver; the oldest packet of a class that is not
masked activates the lowest slot bound to the class. -/
def Obligations.Delivery : Prop :=
  (∀ (s : State) (c key u : Nat) (n : Nat) (data : BitVec 32),
    tget none (s.coreAt c).pend key = some ⟨n, data⟩ → 0 < n → (s.coreAt c).boundTo key = some u →
    let sl := s.slotAt c u
    let t := (s.deliver c key).1
    (s.deliver c key).2 = some u ∧ tget none (t.coreAt c).pend key = some ⟨0, data⟩ ∧
    t.slotAt c u = { sl.writeG 1 (BitVec.ofNat 64 (data.toNat * 2 ^ 32 + n * 2 ^ 16 + key / 128 * 2 ^ 12 + key % 128)) with
      status := .runnable, pc := bindEntry sl.bind, prio := bindPrio sl.bind, sup := sl.lsup, psup := false,
      tv := false, ready := s.tick, issues := 0, hold := .none, wait := none, inRep := false, fenceRel := none,
      again := false, banked := 0, paid := 0, act := sl.act + 1 } ∧
    sl.status = .bound ∧ (∀ v, v < u → ¬((s.slotAt c v).status = .bound ∧ bindSource (s.slotAt c v).bind = key))) ∧
  (∀ (s : State) (c : BitVec 4),
    (HasNext s → ∃ t, exec (.cmsk c) s = .next t ∧ t.me = s.me.advance ∧ t.mem = s.mem ∧
      (t.coreAt s.cur).cmask = (s.coreAt s.cur).cmask ||| (1#16 <<< c.toNat) ∧ t.agenda = s.agenda) ∧
    (HasNext s → ∃ t, exec (.cumsk c) s = .next t ∧ t.me = s.me.advance ∧ t.mem = s.mem ∧
      (t.coreAt s.cur).cmask = (s.coreAt s.cur).cmask &&& ~~~(1#16 <<< c.toNat) ∧
      t.agenda = s.agenda ++ [.packetDelivery s.cur c]) ∧
    (∀ d u p rest, (s.coreAt d).classQueue c.toNat = p :: rest → (s.coreAt d).boundTo (sourceKey 2 c.toNat) = some u →
      (s.coreAt d).stop = .none → (s.coreAt d).cmask.getLsbD c.toNat = false → (s.coreAt d).trc.v = false →
      ∃ t, exec (.packetDelivery d c) s = .next t ∧ (t.coreAt d).classQueue c.toNat = rest ∧
        (t.slotAt d u).status = .runnable ∧ (t.slotAt d u).pc = bindEntry (s.slotAt d u).bind ∧
        (t.slotAt d u).readG 1 = BitVec.ofNat 64 (p.pay.toNat * 2 ^ 32 + 2 ^ 16 + 2 * 2 ^ 12 + c.toNat) ∧
        t.mem = s.mem))

/-- BARA, BARW and BARC at issue (R166): a BARA holds its task while its token travels, and never waits on the barrier;
a BARW proceeds when the generation its core has seen is another, and else waits; a BARC sends the arc count. The join
element (R166): a token of an enabled instance counts and answers the generation it counted in; the token that reaches
the arc count fires the instance: the tokens are cleared and the generation goes up by one. A disabled instance faults
the BARA with WHY 3. A BARC sets the arc count, which may fire. A release at a member (R150, R166): the generation its
core has seen advances, and a task that waits in a BARW for an earlier one goes on past it. -/
def Obligations.Barriers : Prop :=
  (∀ (s : State) (d g : BitVec 5) (l : Level) (b : BitVec 4), HasNext s →
    (s.quiet s.cur s.slot = true → ∃ t, exec (.bara d l b) s = .next t ∧ t.me = { s.me with hold := .bara d } ∧
      t.agenda = s.agenda ++ [.baraTokenCount s.cur (some s.slot) l b] ∧ t.mem = s.mem) ∧
    ((s.coreAt s.cur).genSeen l b ≠ (s.me.readG g).setWidth 16 → Ends (.barw l b g) s s.me) ∧
    ((s.coreAt s.cur).genSeen l b = (s.me.readG g).setWidth 16 →
      WaitsFor (.barw l b g) s (.barw l b ((s.me.readG g).setWidth 16))) ∧
    ((s.me.readG g).toNat < 2 ^ 16 → ∃ t, exec (.barc l b g) s = .next t ∧ t.me = s.me.advance ∧ t.mem = s.mem ∧
      t.agenda = s.agenda ++ [.barcArrival s.cur l b ((s.me.readG g).setWidth 16)])) ∧
  (∀ (s : State) (c t gn : Nat) (l : Level) (b : BitVec 4) (n : BitVec 16) (d : BitVec 5),
    (s.coreAt c).group = some gn →
    let x := (s.groupAt gn).barrierAt l c b
    let after (s' : State) : Barrier := (s'.groupAt gn).barrierAt l c b
    ((s.slotAt c t).hold = .bara d → x.arcs ≠ 0 → ∃ s', exec (.baraTokenCount c (some t) l b) s = .next s' ∧
      s'.slotAt c t = ({ s.slotAt c t with hold := .none }.writeG d (x.gen.setWidth 64)).advance ∧
      (after s').arcs = x.arcs ∧ s'.mem = s.mem ∧
      (x.tokens + 1 < x.arcs.toNat → (after s').tokens = x.tokens + 1 ∧ (after s').gen = x.gen) ∧
      (x.arcs.toNat ≤ x.tokens + 1 → (after s').tokens = 0 ∧ (after s').gen = x.gen + 1)) ∧
    ((s.slotAt c t).hold = .bara d → x.arcs = 0 → Leaves (.baraTokenCount c (some t) l b) s
      ((s.setSlot c t { s.slotAt c t with hold := .none }).takeTrap c t
        ⟨9, BitVec.ofNat 64 ((l.code * 16 + b.toNat) * 2 ^ 32 + 3 * 256 + 12), none, none⟩ (s.slotAt c t).pc)) ∧
    (∃ s', exec (.barcArrival c l b n) s = .next s' ∧ (after s').arcs = n ∧ s'.mem = s.mem ∧
      (n = 0 ∨ x.tokens < n.toNat → (after s').tokens = x.tokens ∧ (after s').gen = x.gen) ∧
      (n ≠ 0 → n.toNat ≤ x.tokens → (after s').tokens = 0 ∧ (after s').gen = x.gen + 1))) ∧
  (∀ (s : State) (c t : Nat) (l : Level) (b : BitVec 4) (gen held : BitVec 16), l ≠ .lane →
    (∀ kind, tget none (s.coreAt c).pend (sourceKey kind (barrierOperand l b)) = none) →
    ∃ s', exec (.barrierReleaseArrival c l b gen false) s = .next s' ∧ (s'.coreAt c).genSeen l b = gen ∧ s'.mem = s.mem ∧
      ((s.slotAt c t).wait = some (.barw l b held) → held ≠ gen →
        s'.slotAt c t = { s.slotAt c t with status := .runnable, wait := none, ready := s.tick, issues := 0 }.advance))

/-- TKN and BNDRN, BNSAV, BNLOAD, BNCLR (R222, R225 to R229): a token enters on the wire of its core's column, its slot
is owed the value in g_d and the task goes on; an entry that is not open makes it wait; draining an empty network closes
it and the task goes on, with tokens inside the task holds; clearing a closed one zeroes and opens it; a save writes the
image, and a load sets the counters. The faults of a network (R225, R228): a handle without V is WHY 1 and a network of
another owner WHY 3; a save, load or clear of one that is not closed is WHY 4, an image address that is not on 16 bytes
WHY 6, and an image with a nonzero reserved bit WHY 5; that the handle is looked at in this order is the model's reading
(log 18). A token in a network (R220, R221, R222): a balancer sends it to the wire its toggle points to and inverts the
toggle; at the exit of wire w its value is 16 times that wire's counter plus w, the counter goes up, and the register
that is owed the value takes it. The last token's exit from a draining network closes it, and a task that a BNDRN holds
goes on (R226, R229). That a token queued behind another at its entry is inside from its issue on is the model's choice
(log 94). -/
def Obligations.Networks : Prop :=
  (∀ (s : State) (d : BitVec 5) (h : BitVec 3) (a : BitVec 4), HasNext s →
    let w := (s.coreAt s.cur).bnh[h.toNat]'h.isLt
    let net := w.toNat % 32
    let n := s.netAt net
    let va := s.me.readA a
    w.getLsbD 8 = true → n.owner.isSome = true → n.owner = s.tenantOf s.cur →
    (n.exh = false → n.state = .opened → ∃ t since, exec (.tkn d h) s = .next t ∧
      t.me = { s.me with tkns := s.me.tkns ++ [(s.nextToken, d)] }.advance ∧ t.mem = s.mem ∧
      (t.netAt net).tokens = n.tokens ++ [⟨s.nextToken, s.cur % 16, 0, since, s.cur, s.slot⟩] ∧
      ((∀ x ∈ n.tokens, ¬(x.layer = 0 ∧ x.wire = s.cur % 16)) → since = s.tick)) ∧
    (n.exh = false → n.state ≠ .opened → WaitsFor (.tkn d h) s (.tkn net h d)) ∧
    (n.exh = true → Traps (.tkn d h) s ⟨11, BitVec.ofNat 64 (h.toNat * 2 ^ 16 + 2 * 256 + 0x11), none, none⟩) ∧
    (s.me.sup = true →
      (n.state = .closed → Ends (.bndrn h) s s.me) ∧
      (n.state = .opened → n.tokens = [] → (∀ c u, (s.slotAt c u).hold ≠ .drain net) →
        EndsIn (.bndrn h) s (s.setNet net { n with state := .closed, closer := some (s.cur, s.slot), byReset := false })) ∧
      (n.state = .opened → n.tokens ≠ [] → ∃ t, exec (.bndrn h) s = .next t ∧ (t.netAt net).state = .draining ∧
        t.me = { s.me with hold := .drain net } ∧ t.mem = s.mem) ∧
      (n.state = .closed → (∀ e ∈ s.edges, ∀ c u, e.party = .task c u →
        ∀ m q r, (s.slotAt c u).wait ≠ some (.tkn m q r)) → ∃ t, exec (.bnclr h) s = .next t ∧
        t.me = s.me.advance ∧ t.mem = s.mem ∧ (t.netAt net).state = .opened ∧ (t.netAt net).toggles = 0 ∧
        (t.netAt net).exits = Vector.replicate 16 0 ∧ (t.netAt net).lost = 0 ∧ (t.netAt net).exh = false) ∧
      (n.state = .closed → va.toNat % 16 = 0 → s.quiet s.cur s.slot = true →
        (s.bulkFault s.cur (.store []) va 7 16 = none → ∀ s1, Paid s s1 (.store []) va 112 64 →
          EndsIn (.bnsav h a) s (State.bulkPut 7 s1 s.cur va n.image)) ∧
        (s.bulkFault s.cur .load va 7 16 = none → ∃ bs, s.bulkRead s.cur va 112 = .ok bs ∧
          ∀ n' s1, n.load bs = some n' → n'.exh = false → Paid s s1 .load va 112 16 →
            EndsIn (.bnload h a) s ((s1.setNet net n').openNet net))))) ∧
  (∀ (s : State) (d : BitVec 5) (h : BitVec 3) (a : BitVec 4),
    let w := (s.coreAt s.cur).bnh[h.toNat]'h.isLt
    let n := s.netAt (w.toNat % 32)
    let va := s.me.readA a
    let fault (why fn : Nat) : Trap := ⟨11, BitVec.ofNat 64 (h.toNat * 2 ^ 16 + why * 256 + fn), none, none⟩
    let all (why : Nat) : Prop := Traps (.tkn d h) s (fault why 0x11) ∧ (s.me.sup = true →
      Traps (.bndrn h) s (fault why 0x12) ∧ Traps (.bnsav h a) s (fault why 0x13) ∧
      Traps (.bnload h a) s (fault why 0x14) ∧ Traps (.bnclr h) s (fault why 0x15))
    (w.getLsbD 8 = false → all 1) ∧
    (w.getLsbD 8 = true → n.owner = none ∨ n.owner ≠ s.tenantOf s.cur → all 3) ∧
    (w.getLsbD 8 = true → n.owner.isSome = true → n.owner = s.tenantOf s.cur → s.me.sup = true →
      (n.state ≠ .closed → Traps (.bnsav h a) s (fault 4 0x13) ∧ Traps (.bnload h a) s (fault 4 0x14) ∧
        Traps (.bnclr h) s (fault 4 0x15)) ∧
      (n.state = .closed → va.toNat % 16 ≠ 0 → Traps (.bnsav h a) s (fault 6 0x13) ∧
        Traps (.bnload h a) s (fault 6 0x14)) ∧
      (n.state = .closed → va.toNat % 16 = 0 → s.quiet s.cur s.slot = true → ∀ bs,
        s.bulkRead s.cur va 112 = .ok bs → n.load bs = none → Traps (.bnload h a) s (fault 5 0x14)))) ∧
  (∀ (s : State) (net id c t wire : Nat) (d : BitVec 5) (layer : Nat) (since : BitVec 64), wire < 16 →
    let n := s.netAt net
    n.tokens = [⟨id, wire, layer, since, c, t⟩] → since.toNat < s.tick.toNat →
    ((s.coreAt c).stop = .halted → ∃ x ∈ (s.slotAt c t).tkns, x.1 = id) → (∀ ts, (s.slotAt c t).hold ≠ .trapping ts) →
    (layer < 10 → n.passed = [] → ∃ s', exec (.balancerPass net id) s = .next s' ∧ s'.mem = s.mem ∧ ∃ out,
      (s'.netAt net).tokens = [⟨id, out, layer + 1, s.tick, c, t⟩] ∧
      (out = wire ∨ out = wire ^^^ layerMask layer) ∧
      (n.toggles.getLsbD (balancerOf layer wire) = false → out = min wire (wire ^^^ layerMask layer)) ∧
      (n.toggles.getLsbD (balancerOf layer wire) = true → out = max wire (wire ^^^ layerMask layer)) ∧
      (∀ i, i < 80 → (s'.netAt net).toggles.getLsbD i =
        (n.toggles.getLsbD i != decide (i = balancerOf layer wire)))) ∧
    (layer = 10 → (s.slotAt c t).tkns.find? (fun x => x.1 == id) = some (id, d) →
      ∀ v, n.exits[wire]? = some v → v.toNat + 1 < 2 ^ 47 →
      (s.slotAt c t).hold ≠ .drain net ∨ n.state = .opened →
      ∃ s', exec (.tknTokenExit net id) s = .next s' ∧ s'.mem = s.mem ∧ (s'.netAt net).tokens = [] ∧
        (s'.netAt net).exits[wire]? = some (v + 1) ∧
        s'.slotAt c t = { s.slotAt c t with tkns := (s.slotAt c t).tkns.filter fun x => x.1 != id }.writeG d
          (BitVec.ofNat 64 (16 * v.toNat + wire)) ∧
        (n.state = .opened → (s'.netAt net).state = .opened) ∧
        (n.state = .draining → (s'.netAt net).state = .closed ∧
          ∀ c' u, ¬(c' = c ∧ u = t) → (s.slotAt c' u).hold = .drain net →
            s'.slotAt c' u = { s.slotAt c' u with hold := .none }.advance)))

/-! ## Global memory -/

/-- A GLD, GST, RED or AMO that is aligned and within its limits starts one access and no more: the address is the base
plus the offset counted in elements, wrapping at 80 bits; memory itself is untouched until the home slice performs it.
Once it is translated a store or reduction leaves its task, and a load or atomic holds only its destination, which its
slot is owed; until then it holds its task, but for a store or reduction whose page permits it (R241, R246): that one
whose page does not permit it holds its task while its translation waits is the model's reading (log 12). An atomic that
releases issues once the earlier accesses of its task are performed (R262). A
misaligned access is a memory fault with WHY 7, level 7 and its access code, before any translation (R243, R246); the
address goes to TRAPVA. At 16 accesses of the task or 64 of the core, and behind an acquiring load that is still to
return, the instruction holds; so it does behind a FENCE.rel whose accesses are not all performed (R252). -/
def Obligations.AccessesStart : Prop :=
  (∀ (s : State) (d z : BitVec 5) (a : BitVec 4) (o : Order) (f : BitVec 11) (op : RedOp) (am : AmoOp)
    (dbl sg fast : Bool) (g : Guard), HasNext s → s.belowLimit s.cur s.slot = true →
    (∀ l ∈ s.me.loads, l.acq = false) → (∀ x ∈ s.accs, x.id ≠ s.nextAcc) →
    let base := s.me.readA a
    let at_ (n : Nat) : Addr := base + BitVec.ofInt 80 (f.toInt * n)
    let w := if dbl then 8 else 4
    let starts (i : Instr) (what : AccOp) (va : Addr) (n : Nat) (code : BitVec 3) (dest : Dest) (going : Slot) : Prop :=
      va.toNat % n = 0 → ∃ t x, exec i s = .next t ∧ t.accs = s.accs ++ [x] ∧ x.id = s.nextAcc ∧ x.core = s.cur ∧
        x.holder = s.holderOf s.cur s.slot ∧ x.site = s.siteOf s.cur s.slot ∧ x.op = what ∧ x.va = va ∧ x.size = n ∧
        x.code = code ∧ x.dest = dest ∧ x.rel = (Order.release o).isSome ∧ x.acq = Order.acquire o ∧ t.mem = s.mem ∧
        (∀ c u, t.winAt c u = s.winAt c u) ∧
        (t.me = going.advance ∨ t.me = { s.me with hold := .access s.nextAcc }) ∧
        (x.stage = .translated → x.clg = 0 → s.outOfService x = false → t.me = going.advance) ∧
        (x.stage ≠ .translated → (dest = .none → s.postedMay s.cur what va.toNat n = false) →
          t.me = { s.me with hold := .access s.nextAcc }) ∧
        (x.stage ≠ .translated → dest = .none → s.postedMay s.cur what va.toNat n = true → t.me = going.advance)
    let owed : Slot := { s.me with loads := s.me.loads ++ [⟨s.nextAcc, d, Order.acquire o⟩] }
    let load (i : Instr) (n : Nat) (sgn : Bool) : Prop := starts i .load (at_ n) n 0 (.reg s.slot d sgn) owed
    let store (i : Instr) (n : Nat) : Prop :=
      starts i (.store (bytesOf n (s.me.readG z).toNat)) (at_ n) n 1 .none s.me
    (load (.gldBZ d a o f) 1 false ∧ load (.gldBS d a o f) 1 true ∧ load (.gldHZ d a o f) 2 false ∧
      load (.gldHS d a o f) 2 true ∧ load (.gldWZ d a o f) 4 false ∧ load (.gldWS d a o f) 4 true ∧
      load (.gldD d a o f) 8 false) ∧
    (s.me.fenceRel = none → store (.gstB z a o f) 1 ∧ store (.gstH z a o f) 2 ∧ store (.gstW z a o f) 4 ∧
      store (.gstD z a o f) 8 ∧
      (s.me.guard g = true →
        starts (.red op dbl sg fast o d a g) (.red op sg fast (s.me.readG d)) base w 2 .none s.me ∧
        (((Order.release o).isSome = true → s.quiet s.cur s.slot = true) →
          starts (.amo am dbl o d a g) (.amo am (s.me.readG d) (s.me.readG (d + 1))) base w 3
            (.reg s.slot d false) owed) ∧
        ((Order.release o).isSome = true → s.quiet s.cur s.slot = false → base.toNat % w = 0 →
          Leaves (.amo am dbl o d a g) s (s.holdAgain .release))))) ∧
  (∀ (s : State) (z : BitVec 5) (a : BitVec 4) (o : Order) (f : BitVec 11) (n : Nat), s.me.fenceRel = some n →
    (∃ x ∈ s.accs, x.holder = s.holderOf s.cur s.slot ∧ x.id < n) →
    Leaves (.gstB z a o f) s (s.holdAgain .rel) ∧ Leaves (.gstH z a o f) s (s.holdAgain .rel) ∧
    Leaves (.gstW z a o f) s (s.holdAgain .rel) ∧ Leaves (.gstD z a o f) s (s.holdAgain .rel)) ∧
  (∀ (s : State) (d z : BitVec 5) (a : BitVec 4) (o : Order) (f : BitVec 11), s.me.fenceRel = none →
    let at_ (n : Nat) : Addr := s.me.readA a + BitVec.ofInt 80 (f.toInt * n)
    let fault (n code : Nat) : Trap := ⟨12, BitVec.ofNat 64 (7 * 2 ^ 29 + 7 * 2 ^ 16 + code), none, some (at_ n)⟩
    let acquiring := s.me.loads.any (·.acq)
    ((at_ 2).toNat % 2 ≠ 0 → Traps (.gldHZ d a o f) s (fault 2 0) ∧ Traps (.gldHS d a o f) s (fault 2 0) ∧
      Traps (.gstH z a o f) s (fault 2 1)) ∧
    ((at_ 4).toNat % 4 ≠ 0 → Traps (.gldWZ d a o f) s (fault 4 0) ∧ Traps (.gldWS d a o f) s (fault 4 0) ∧
      Traps (.gstW z a o f) s (fault 4 1)) ∧
    ((at_ 8).toNat % 8 ≠ 0 → Traps (.gldD d a o f) s (fault 8 0) ∧ Traps (.gstD z a o f) s (fault 8 1)) ∧
    (acquiring = true → Leaves (.gldBZ d a o f) s (s.holdAgain .acquire) ∧
      Leaves (.gstB z a o f) s (s.holdAgain .acquire)) ∧
    (acquiring = false → s.belowLimit s.cur s.slot = false →
      Leaves (.gldBZ d a o f) s (s.holdAgain .limit) ∧ Leaves (.gstB z a o f) s (s.holdAgain .limit)) ∧
    (s.belowLimit s.cur s.slot = true ↔ (s.accs.filter fun x => x.holder == s.holderOf s.cur s.slot).length < 16 ∧
      (s.accs.filter fun x => x.core == s.cur && x.holder.isTask).length < 64))

/-- Translation in the cluster TLB (R238 to R243): an access whose address a TLB covers with a permitted leaf is
translated to the leaf's tier and physical address; one that no TLB covers joins the misses of its cluster. A free
walker takes the oldest miss; an answer without ABORT sends a held access back to translation. A walk that ends at a
leaf serves the access that waits for it and leaves the leaf in the cluster TLB (R236, R241, R242); its miss closes and
the walker is free; a walk that a TLBINV passed reads again from the root (R242), and one whose nodes' reads the buckets
do not hold waits (R398). Memory faults of a task's access at its translation (R239, R243, R244): without PTROOT.V, WHY
1 at level 4; at a leaf that does not permit it, the fault of the leaf at the leaf's level. The task takes the precise
trap at its access with the address, REPC as it was there (R113), and the access is gone; memory is as before. The
faults of a leaf, in the order of their checks (R237, R238, R243): a bad entry is WHY 5, another tenant 4, an atomic on
a remote page 8, no read permission 2 (a load or an atomic), no write permission 3 (a store, a reduction or an atomic),
an address beyond the tier 6. That an atomic on a page with neither permission is WHY 2, and that WHY 6 comes last, is
the model's choice (log 97). -/
def Obligations.Translation : Prop :=
  (∀ (s : State) (a : Acc) (e : TlbEntry) (die : Nat), s.accs = [a] →
    let cl := clusterOf a.core
    let root := (s.clusterAt cl).ptroot
    let covers := ((s.coreAt a.core).utlb ++ (s.clusterAt cl).tlb).find?
      (fun e => e.covers (rootAsid root) a.va.toNat)
    (a.stage = .lookup → rootV root = true → covers = some e →
      leafFault root s.pkg e.pte e.level.toNat a.op a.va.toNat a.size = none →
      ∃ t x, exec (.clusterTlbLookup a.id) s = .next t ∧ t.accs = [x] ∧ x.id = a.id ∧ x.op = a.op ∧ x.dest = a.dest ∧
        x.stage = .translated ∧ x.clg = pteClg e.pte ∧
        x.pa = pteTier e.pte * 2 ^ 58 + (ptePa e.pte + a.va.toNat % 2 ^ (15 + 13 * e.level.toNat)) ∧ t.mem = s.mem) ∧
    (a.stage = .lookup → rootV root = true → covers = none → (s.clusterAt cl).misses = [] →
      (s.clusterAt cl).missQueue = [] →
      ∃ t x, exec (.clusterTlbLookup a.id) s = .next t ∧ t.accs = [x] ∧ x.stage = .miss ∧ x.id = a.id ∧
        (t.clusterAt cl).misses = [⟨rootAsid root, a.va.toNat / 2 ^ 15, false⟩] ∧ t.mem = s.mem) ∧
    (∀ q m, s.walkTurn die = some (q, m) → (s.dieAt die).walks.length < 64 →
      ∃ t, exec (.pageWalkStart die) s = .next t ∧
        (t.dieAt die).walks = (s.dieAt die).walks ++ [⟨6 * die + q, m.asid, m.frame, false⟩] ∧ t.mem = s.mem ∧
        t.accs = s.accs) ∧
    (∀ v, (s.clusterAt cl).answers.elems = [v] → (s.clusterAt cl).unit.faultSite = none → v.getLsbD 63 = false →
      a.stage = .faulted → v.setWidth 46 = a.site →
      ∃ t, exec (.faultAnswer cl) s = .next t ∧ t.accs = [{ a with stage := .lookup }] ∧
        (t.clusterAt cl).answers.elems = [] ∧ t.mem = s.mem)) ∧
  (∀ (s : State) (a : Acc) (die : Nat) (w : Walk) (p : Word) (level : Nat) (bad : Option (BitVec 3)), s.accs = [a] →
    (s.dieAt die).walks = [w] →
    let cl := clusterOf a.core
    let root := (s.clusterAt cl).ptroot
    let frame := a.va.toNat / 2 ^ 15
    (w.cluster, w.asid, w.frame) = (cl, a.asid, frame) → (s.clusterAt cl).misses = [⟨a.asid, frame, true⟩] →
    (s.clusterAt cl).missQueue = [] → a.stage = .miss →
    let read := if w.redo then s.walkWhole bad root a.asid (frame * 2 ^ 15)
      else s.walk die bad root a.asid (frame * 2 ^ 15)
    let paid := s.payAll (s.clusterAt cl).tenant 16 (s.walkRequests die (s.firstNode die w) read.2)
    (paid = none → Leaves (.walkComplete die ⟨0, bad⟩) s s) ∧
    (paid.isSome = true → level < 3 → read.1 = .leaf level p →
      leafFault root s.pkg p level a.op a.va.toNat a.size = none →
      ∃ t x, exec (.walkComplete die ⟨0, bad⟩) s = .next t ∧ t.accs = [x] ∧ x.id = a.id ∧ x.stage = .translated ∧
        x.pa = pteTier p * 2 ^ 58 + (ptePa p + a.va.toNat % 2 ^ (15 + 13 * level)) ∧ (t.clusterAt cl).misses = [] ∧
        (t.dieAt die).walks = [] ∧ (∃ e ∈ (t.clusterAt cl).tlb, e.pte = p) ∧ t.mem = s.mem)) ∧
  (∀ (s : State) (a : Acc) (e : TlbEntry) (c t act : Nat), s.accs = [a] → a.stage = .lookup → a.holder = .task c t act →
    (s.slotAt c t).act = act → (s.slotAt c t).status = .runnable → (s.slotAt c t).killing = false →
    (∀ ts, (s.slotAt c t).hold ≠ .trapping ts) →
    let cl := clusterOf a.core
    let root := (s.clusterAt cl).ptroot
    let pc := BitVec.ofNat 12 (a.site.toNat / 2 ^ 16)
    let traps (s0 : State) (why level : Nat) : State :=
      (({ s0 with accs := [] }).setSlot c t { s0.slotAt c t with
        hold := .none, pc := pc, repc := a.repc, loads := (s0.slotAt c t).loads.filter fun l => l.id != a.id }).takeTrap c t
        ⟨12, BitVec.ofNat 64 (level * 2 ^ 29 + why * 2 ^ 16 + a.code.toNat), none, some a.va⟩ pc
    (rootV root = false → Leaves (.clusterTlbLookup a.id) s (traps s 1 4)) ∧
    (∀ why, rootV root = true → (s.coreAt a.core).utlb = [e] → (s.clusterAt cl).tlb = [] →
      e.covers (rootAsid root) a.va.toNat = true →
      leafFault root s.pkg e.pte e.level.toNat a.op a.va.toNat a.size = some why →
      Leaves (.clusterTlbLookup a.id) s (traps s why e.level.toNat))) ∧
  (∀ (root : Word) (pkg : BitVec 6) (p : Word) (level va n : Nat) (op : AccOp),
    let f := leafFault root pkg p level op va n
    let stores : Prop := (∃ bs, op = .store bs) ∨ ∃ r sg fast v, op = .red r sg fast v
    let within := paOk (pteTier p) (leafPa p level va) n
    (badPte pkg p level = true → f = some 5) ∧
    (badPte pkg p level = false → (p >>> 58).setWidth 5 ≠ (root >>> 58).setWidth 5 → f = some 4) ∧
    (badPte pkg p level = false → (p >>> 58).setWidth 5 = (root >>> 58).setWidth 5 →
      (∀ r v x, op = .amo r v x →
        (p.getLsbD 6 = true → f = some 8) ∧
        (p.getLsbD 6 = false → p.getLsbD 2 = false → f = some 2) ∧
        (p.getLsbD 6 = false → p.getLsbD 2 = true → p.getLsbD 3 = false → f = some 3) ∧
        (p.getLsbD 6 = false → p.getLsbD 2 = true → p.getLsbD 3 = true → within = true → f = none) ∧
        (p.getLsbD 6 = false → p.getLsbD 2 = true → p.getLsbD 3 = true → within = false → f = some 6)) ∧
      (op = .load →
        (p.getLsbD 2 = false → f = some 2) ∧ (p.getLsbD 2 = true → within = true → f = none) ∧
        (p.getLsbD 2 = true → within = false → f = some 6)) ∧
      (stores →
        (p.getLsbD 3 = false → f = some 3) ∧ (p.getLsbD 3 = true → within = true → f = none) ∧
        (p.getLsbD 3 = true → within = false → f = some 6))))

/-- What an access leaves at its home slice (R247, R248, R249, R251), and the frame of memory: a store writes its bytes,
a reduction and an atomic their result, a load and a CAS that does not match nothing; every byte outside the access
reads as before. A reduction adds, takes the smaller or larger value, unsigned or signed, combines the bits, or adds
FP32 values. The access carries the bytes it found. Here no claim of another is met, no byte of it is beyond correction
(R428), and no router merges it. The reply of a task's load or atomic (R246, R247, R251): the bytes it found, extended
as the load says, go to its register, and a task that it still holds goes on; the access is gone. -/
def Obligations.HomeSlice : Prop :=
  (∀ (s : State) (a : Acc), s.accAt a.id = some a → s.mayPerform a = true → s.claimMet a = none →
    s.outOfService a = false → s.spoils a.pa a.size = false → (∀ b, s.mergeable a b = false) →
    (∀ bs, a.op = .store bs → bs.length = a.size) →
    let old := s.readMem a.pa a.size
    let m := ofBytes old
    let n := 8 * a.size
    ∃ t, exec (.homeSliceAccess a.id false) s = .next t ∧
      (∀ k, k < a.pa ∨ a.pa + a.size ≤ k → tget 0 t.mem k = tget 0 s.mem k) ∧
      t.accAt a.id = some { a with stage := .performed, data := old } ∧
      (a.op = .load → t.mem = s.mem) ∧
      (∀ bs, a.op = .store bs → t.readMem a.pa a.size = bs) ∧
      (∀ v x, a.op = .amo .swap v x → ofBytes (t.readMem a.pa a.size) = v.toNat % 2 ^ n) ∧
      (∀ v x, a.op = .amo .add v x → ofBytes (t.readMem a.pa a.size) = (m + v.toNat) % 2 ^ n) ∧
      (∀ v x, a.op = .amo .cas v x → ofBytes (t.readMem a.pa a.size) =
        if m = v.toNat % 2 ^ n then x.toNat % 2 ^ n else m) ∧
      (∀ r sg fast v, a.op = .red r sg fast v →
        let u := v.toNat % 2 ^ n
        let below (x y : Nat) : Bool := if sg then (BitVec.ofNat n x).slt (BitVec.ofNat n y) else decide (x < y)
        let new := ofBytes (t.readMem a.pa a.size)
        (r = .add → new = (m + u) % 2 ^ n) ∧
        (r = .min → new = if below u m then u else m) ∧ (r = .max → new = if below m u then u else m) ∧
        (r = .and → new = m &&& u) ∧ (r = .or → new = m ||| u) ∧ (r = .xor → new = m ^^^ u) ∧
        (r = .fadd → a.size = 4 → new = (Fmt.f32.add .rne m u).1 % 2 ^ 32)) ∧
      (∀ c u, t.slotAt c u = s.slotAt c u) ∧ (∀ c u, t.winAt c u = s.winAt c u)) ∧
  (∀ (s : State) (a : Acc) (c t act u : Nat) (d : BitVec 5) (sgn : Bool), s.accAt a.id = some a →
    a.stage = .performed → a.holder = .task c t act → a.dest = .reg u d sgn → (s.slotAt c t).act = act →
    a.data.length = a.size → 0 < a.size → a.size ≤ 8 →
    let sl := s.slotAt c t
    let v : Word := if sgn ∧ 2 ^ (8 * a.size - 1) ≤ ofBytes a.data then
      BitVec.ofInt 64 ((ofBytes a.data : Int) - 2 ^ (8 * a.size)) else BitVec.ofNat 64 (ofBytes a.data)
    let left := sl.loads.filter fun l => l.id != a.id
    (sl.hold = .access a.id → ∃ s', exec (.accessReply a.id) s = .next s' ∧ s'.accAt a.id = none ∧ s'.mem = s.mem ∧
      s'.slotAt c t = ({ sl with hold := .none, loads := left }.writeG d v).advance) ∧
    (sl.hold ≠ .access a.id → (∃ l ∈ sl.loads, l.id = a.id) → ∃ s', exec (.accessReply a.id) s = .next s' ∧
      s'.accAt a.id = none ∧ s'.mem = s.mem ∧ s'.slotAt c t = { sl with loads := left }.writeG d v))

/-- Memory reads back what was written and changes nowhere else, and keeps its canonical form (R2, R247). -/
def Obligations.MemoryLaws : Prop :=
  ∀ (s : State) (key : Nat) (bs : List Byte),
    (s.writeMem key bs).readMem key bs.length = bs ∧
    (∀ k, k < key ∨ key + bs.length ≤ k → tget 0 (s.writeMem key bs).mem k = tget 0 s.mem k) ∧
    (Memory.wf s.mem = true → Memory.wf (s.writeMem key bs).mem = true) ∧
    Memory.wf State.reset.mem = true

/-- FENCE, and the end of holds (R246, R252, R262): the full fence goes on once the task's accesses are performed and
else holds; the acquire form goes on once its loads have returned; the release form with accesses open leaves its mark,
the number of the next access: a store behind it holds until the accesses before the mark are performed (R252). When a
hold's condition comes the instruction issues again. Releasing instructions hold while an access of their task is not
performed (R262): none of their effects happens. TLBINV (R253): no TLB of a core or a cluster of the package holds an
entry it names any more; it goes on at once where no access of the ASID is on its way, and else holds for them. That it
does not wait for an access held at a recoverable fault is the model's reading (log 20), and so is that an access counts
as performed and acknowledged for its task only once its reply has come (log 19). -/
def Obligations.Fences : Prop :=
  (∀ (s : State) (x : Scope) (c t : Nat),
    (HasNext s → s.me.loads = [] → Ends (.fence .acq x) s s.me) ∧
    (s.me.loads ≠ [] → Leaves (.fence .acq x) s (s.holdAgain .acquire)) ∧
    (HasNext s → s.quiet s.cur s.slot = true → ∃ u, exec (.fence .full x) s = .next u ∧
      u.me = { s.me with fenceRel := none }.advance ∧ u.mem = s.mem ∧ u.accs = s.accs) ∧
    (s.quiet s.cur s.slot = false → Leaves (.fence .full x) s (s.holdAgain .release)) ∧
    (HasNext s → s.quiet s.cur s.slot = false → Ends (.fence .rel x) s { s.me with fenceRel := some s.nextAcc }) ∧
    (HasNext s → s.quiet s.cur s.slot = true → ∃ u, exec (.fence .rel x) s = .next u ∧ u.me = s.me.advance ∧
      u.mem = s.mem) ∧
    ((s.slotAt c t).hold = .release → s.quiet c t = true →
      Leaves (.releasePerformed c t) s (s.setSlot c t { s.slotAt c t with hold := .none })) ∧
    ((s.slotAt c t).hold = .limit → s.belowLimit c t = true →
      Leaves (.releasePerformed c t) s (s.setSlot c t { s.slotAt c t with hold := .none })) ∧
    ((s.slotAt c t).hold = .release → s.quiet c t = false → Leaves (.releasePerformed c t) s s) ∧
    (∀ n, (s.slotAt c t).hold = .rel → (s.slotAt c t).fenceRel = some n →
      ((∀ a ∈ s.accs, a.holder = s.holderOf c t → n ≤ a.id) →
        Leaves (.releasePerformed c t) s (s.setSlot c t { s.slotAt c t with hold := .none })) ∧
      ((∃ a ∈ s.accs, a.holder = s.holderOf c t ∧ a.id < n) → Leaves (.releasePerformed c t) s s))) ∧
  (∀ (s : State) (w b : BitVec 4) (o : BitVec 14) (d z : BitVec 5) (p q : BitVec 3) (l : Level) (r : Port),
    s.quiet s.cur s.slot = false → ∀ i ∈ ([.wfill w z, .wwr w o z, .wshr w o, .wfilln w z p, .wdef w z, .bara d l b,
      .tret, .iss q r] : List Instr), Leaves i s (s.holdAgain .release)) ∧
  (∀ (s : State) (a : BitVec 4) (k : TlbKind), s.me.sup = true → s.quiet s.cur s.slot = true → HasNext s →
    let asid := rootAsid (s.clusterAt (clusterOf s.cur)).ptroot
    let names (e : TlbEntry) : Prop := e.asid = asid ∧
      (k = .page → e.page = (s.me.readA a).toNat / 2 ^ (15 + 13 * e.level.toNat))
    ∃ t, exec (.tlbinv a k) s = .next t ∧ t.mem = s.mem ∧ t.accs = s.accs ∧
      (∀ c, ∀ e ∈ (t.coreAt c).utlb, ¬names e) ∧ (∀ cl, ∀ e ∈ (t.clusterAt cl).tlb, ¬names e) ∧
      (s.inFlight asid = [] → t.me = s.me.advance) ∧
      (s.inFlight asid ≠ [] → t.me = { s.me with hold := .asid asid (s.inFlight asid) }))

/-- Backed windows and mirrors (R255, R256, R396): a fill of a backed window whose store is full or whose ring holds
elements goes to the ring by a spill: RFILL goes up by one, one store of the element to the ring starts, FILL and the
window store stand, and the filling task goes on, one that waited for room too. The agent reads the oldest ring elements
back for the shrink that made their place (R257), and they land in order. A mirrored egress fill writes its element and
then the pointer word. -/
def Obligations.Backing : Prop :=
  (∀ (s : State) (c w t : Nat) (b : BitVec 4) (z d : BitVec 5) (v : Word) (site : BitVec 46), c < Config.cores →
    let spills (s' : State) (c w : Nat) (v : Word) (site : BitVec 46) : Prop :=
      let x := s.winAt c w
      (s'.winAt c w).rfill = x.rfill + 1 ∧ (s'.winAt c w).fill = x.fill ∧ (s'.winAt c w).head = x.head ∧
      (s'.coreAt c).wstore = (s.coreAt c).wstore ∧ s'.mem = s.mem ∧
      ∃ y, s'.accs = s.accs ++ [y] ∧ y.holder = .agent c ∧ y.site = site ∧ y.va = x.ringAddr x.rfill.toNat ∧ y.size = x.esize ∧
        y.op = .store (bytesOf x.esize (v.toNat % 2 ^ (8 * min 8 x.esize)))
    (HasNext s → s.quiet s.cur s.slot = true → Usable (s.winAt s.cur b.toNat) .fill →
      (s.winAt s.cur b.toNat).fillsStore = false → (s.winAt s.cur b.toNat).fillsRing = true →
      Unwatched (s.coreAt s.cur) b.toNat →
      ∃ s', exec (.wfill b z) s = .next s' ∧ spills s' s.cur b.toNat (s.me.readG z) (s.siteOf s.cur s.slot) ∧
        s'.me = s.me.advance) ∧
    ((s.slotAt c t).wait = some (.window false c w (.fill v) d site) → Usable (s.winAt c w) .fill →
      (s.winAt c w).fillsStore = false → (s.winAt c w).fillsRing = true → Unwatched (s.coreAt c) w →
      ∃ s', exec (.waitingFillProceeds c t) s = .next s' ∧ spills s' c w v site ∧ s'.slotAt c t =
        { s.slotAt c t with status := .runnable, wait := none, ready := s.tick, issues := 0 }.advance)) ∧
  (∀ (s : State) (c w : Nat) (elem : Nat) (count : BitVec 32) (site : BitVec 46) (rest : List (Nat × BitVec 46))
    (later : List (BitVec 32 × BitVec 46)) (a : Acc) (m : Mirror),
    let x := s.winAt c w
    (x.v = true → x.mode = .backed → x.held = false → x.refillStop = .go → x.refills = [] → 0 < x.rc →
      x.ext < x.cap.toNat → s.spillOpen c w (x.rhead.toNat % 2 ^ 28) = false →
      ∃ t y, exec (.refillReadStart c w) s = .next t ∧ t.accs = s.accs ++ [y] ∧ y.op = .load ∧
        y.va = x.ringAddr (x.rhead.toNat % 2 ^ 28) ∧ y.size = x.esize ∧
        y.site = (x.causes.map Prod.snd).headD x.refillSite ∧
        (t.winAt c w).refills = [(x.rhead.toNat % 2 ^ 28, y.site)] ∧ t.mem = s.mem) ∧
    (x.refills = (elem, site) :: rest → s.refillRead c w elem = some a → Unwatched (s.coreAt c) w →
      a.data.length = x.esize →
      ∃ t, exec (.refillLand c w) s = .next t ∧ (t.winAt c w).fill = x.fill + 1 ∧ (t.winAt c w).refills = rest ∧
        (t.winAt c w).rhead = x.rhead + 1 ∧
        tgets 0 (t.coreAt c).wstore (elemAddr x x.ext) x.esize = a.data ∧ t.accAt a.id = none ∧ t.mem = s.mem) ∧
    ((s.coreAt c).mirrorOf w = some m → x.v = true → x.mode = .egress → x.esz = 1#4 →
      x.mirrors = (count, site) :: later →
      ∃ t y z, exec (.egressMirrorWrite c w) s = .next t ∧ t.accs = s.accs ++ [y, z] ∧ t.mem = s.mem ∧
        (t.winAt c w).mirrors = later ∧ y.site = site ∧ z.site = site ∧
        y.va = BitVec.ofNat 80 (m.base.toNat * 2 ^ 16 + 64 + 8 * (count.toNat % x.cap.toNat)) ∧
        z.va = BitVec.ofNat 80 (m.base.toNat * 2 ^ 16) ∧
        z.op = .store (bytesOf 8 (x.head.toNat * 2 ^ 32 + (count + 1).toNat)) ∧ z.after = [y.id]))

/-! ## Words of the spec, commands, system registers, images -/

/-- Words the spec writes out decode to the instructions it writes beside them. -/
def Obligations.SpecWordsDecode : Prop :=
  decode 0x10E6001F#32 = .ok (.andImm 7 6 31) ∧ decode 0x08000083#32 = .ok .nop ∧
  decode 0x04642812#32 = .ok (.div .z .w 3 4 5 ⟨0, false⟩) ∧ decode 0x30670004#32 = .ok (.cmp .eq .w 3 7 0 ⟨0, false⟩) ∧
  decode 0x38A611FC#32 = .ok (.bfxSImm 5 6 7 60) ∧ decode 0x44634804#32 = .ok (.astep 3 3 9 ⟨0, false⟩) ∧
  decode 0x55BFFFFE#32 = .ok (.br ⟨3, false⟩ 0x3FFFFE) ∧ decode 0x5C1F0000#32 = .ok (.jr 31 ⟨0, false⟩) ∧
  decode 0x64000103#32 = .ok (.rep 3 false false true) ∧ decode 0x80880000#32 = .ok (.wfill 2 4) ∧
  decode 0x84800230#32 = .ok (.wfillReg 6 4 ⟨2, false⟩) ∧ decode 0x88A64811#32 = .ok (.wrdRm 5 2 9 6 ⟨0, false⟩) ∧
  decode 0x9CA60030#32 = .ok (.fcvt .e4m3x4 .f32 .rne 5 6 ⟨0, false⟩) ∧
  decode 0xCCE2000C#32 = .ok (.red .add true false false .none 7 2 ⟨0, false⟩) ∧
  decode 0xD103001C#32 = .ok (.amo .cas true .none 8 3 ⟨0, false⟩) ∧ decode 0xE1100002#32 = .ok (.iss 2 .bte) ∧
  decode 0xFC300007#32 = .ok (.trap 7) ∧ decode 0xFC821400#32 = .ok (.spawn 4 5) ∧
  decode 0xFCC28032#32 = .ok (.bara 5 .clus 2) ∧ decode 0xFD130000#32 = .ok (.tkn 6 0) ∧
  decode 0xFDA28003#32 = .ok (.wpois 3 5) ∧ decode 0xFE010000#32 = .ok (.lsnap 2)

/-- ISS (R75, R79, R209, R280): a command that passes the checks joins its port's queue under the site of the ISS, and
SEQ counts; a full port makes the task wait; a command that fails a check faults with the first WHY that applies. -/
def Obligations.CommandIssue : Prop :=
  ∀ (s : State) (r : BitVec 3) (p : Port), s.quiet s.cur s.slot = true →
    let x := s.me.readK r
    let k := s.coreAt s.cur
    let why := issueFault k s.cur s.me.sup p x
    (why = none → (k.queue p).length < 8 → HasNext s → k.trc.v = false → k.dbgctl.getLsbD 0 = false →
      ∃ t q, exec (.iss r p) s = .next t ∧ (t.coreAt s.cur).queue p = k.queue p ++ [q] ∧ q.cmd = x ∧
        q.site = s.siteOf s.cur s.slot ∧ q.doneb = 0 ∧ (t.coreAt s.cur).seq = k.seq + 1 ∧
        (∀ o, o ≠ p → (t.coreAt s.cur).queue o = k.queue o) ∧ t.me = s.me.advance ∧ t.mem = s.mem ∧
        (∀ c u, ¬(c = s.cur ∧ u = s.slot) → t.slotAt c u = s.slotAt c u) ∧ (∀ c w, t.winAt c w = s.winAt c w)) ∧
    (why = none → 8 ≤ (k.queue p).length → HasNext s → ∃ t, exec (.iss r p) s = .next t ∧
      t.me = { s.me with status := .waiting, wait := some .again } ∧
      (k.stop ≠ .halted → ∃ e ∈ t.edges, e.party = .task s.cur s.slot ∧ e.kind = .port ∧ e.win = p.code) ∧
      (t.coreAt s.cur).queue p = k.queue p ∧ (t.coreAt s.cur).seq = k.seq ∧ t.mem = s.mem) ∧
    (∀ n, why = some n → Traps (.iss r p) s
      ⟨8, BitVec.ofNat 64 (r.toNat * 2 ^ 40 + p.code * 2 ^ 37 + n * 2 ^ 32 + x.toNat % 2 ^ 32), none, none⟩) ∧
    (opPort (x.toNat % 256) = none → why = some 1) ∧
    (∀ q, opPort (x.toNat % 256) = some q → q ≠ p → why = some 2)

/-- SRD (R13, R137): a number that a table assigns is read, with no other effect; any other is an illegal instruction.
Here are the values of the registers that no engine feeds. SWR and SLOTCTL (R13, R137, R139, R254, R344, R360, R407): a
register takes the bits it has and reads them back, no other register changes, but that WDCTL clears WDCNT; a backing
register of a window whose ring holds elements is not written; SLOTCTL resumes or kills a slot before the next
instruction. A kill frees the slot, once its accesses are performed (R262); until then its writer holds, which is the
model's reading (log 38). An SWR to a number that no table assigns, or that is read only, is an illegal instruction; a
supervisor register written without TSTAT.SUP is a privilege trap; both have the word in TRAPARG (R13). -/
def Obligations.SystemRegisters : Prop :=
  (∀ (s : State) (d : BitVec 5) (n : BitVec 10), HasNext s →
    let k := s.coreAt s.cur
    let reads (v : Word) : Prop := Ends (.srd d n) s (s.me.writeG d v)
    (sysAccess n.toNat = none → s.me.inRep = false →
      Traps (.srd d n) s ⟨1, (tget 0 k.istore s.me.pc.toNat).setWidth 64, none, none⟩) ∧
    ((sysAccess n.toNat).isSome → ∃ v, reads v) ∧
    (n = 0x000 → reads (BitVec.ofNat 64 s.cur)) ∧ (n = 0x001 → reads (BitVec.ofNat 64 s.slot)) ∧
    (n = 0x002 → reads (k.seq.setWidth 64)) ∧ (n = 0x003 → reads s.tick) ∧
    (n = 0x010 → reads (BitVec.ofNat 64 (2 * s.me.prio.toNat + s.me.sup.toNat))) ∧
    (n = 0x011 → reads (s.me.fpstat.setWidth 64)) ∧ (n = 0x012 → reads (s.me.repc.setWidth 64)) ∧
    (n = 0x018 → reads s.me.trapcause) ∧ (n = 0x019 → reads (s.me.trappc.setWidth 64)) ∧
    (n = 0x01A → reads (s.me.trapsite.setWidth 64)) ∧ (n = 0x01B → reads s.me.traparg) ∧
    (n = 0x040 → reads (BitVec.ofNat 64 (4096 * k.tvecEn.toNat + k.tvec.toNat))) ∧
    (n = 0x041 → reads (BitVec.ofNat 64 (2 * s.me.tv.toNat + s.me.psup.toNat))) ∧
    (n = 0x042 → reads s.me.trapva) ∧ (n = 0x043 → reads (s.me.trapvah.setWidth 64)) ∧
    (n = 0x060 → reads (s.clusterAt (s.cur / 256)).ptroot) ∧ (n = 0x0B0 → reads (k.wdctl.setWidth 64)) ∧
    (n = 0x0B1 → reads k.wdcnt) ∧ (n = 0x0B4 → reads 0) ∧ (n = 0x139 → reads k.dbgev)) ∧
  (∀ (s : State) (n : BitVec 10) (j : BitVec 4) (z : BitVec 5) (c u : Nat), HasNext s → s.me.inRep = false →
    let v := s.me.readG z
    let reg (x : State) (m : Nat) : Option Word := x.sysRead s.cur s.slot m (s.tick + 1) true
    let writes (i : Instr) (m : Nat) (new : Word) : Prop :=
      (s.me.sup = true ∨ sysAccess m = some .rw) → ∃ t, exec i s = .next t ∧ t.me.pc = s.me.pc + 1 ∧
        (∀ r, t.me.readG r = s.me.readG r) ∧ t.mem = s.mem ∧ reg t m = some new ∧
        (∀ o, o ≠ m → (m = 0x0B0 → o ≠ 0x0B1) → reg t o = reg s o) ∧
        (∀ e w, ¬(e = s.cur ∧ w = s.slot) → t.slotAt e w = s.slotAt e w)
    let window := s.winAt s.cur j.toNat
    let still : Prop := (window.mode = .backed → window.rc = 0) ∧ window.refills = []
    ((sysAccess n.toNat = some .sw ∨ sysAccess n.toNat = some .rw) → n ≠ 0x010 → n ≠ 0x0B4 → n ≠ 0x131 →
      ¬(0x080 ≤ n.toNat ∧ n.toNat ≤ 0x09F) → writes (.swr n z) n.toNat (v &&& sysBits n.toNat)) ∧
    (n = 0x010 → writes (.swr n z) 0x010 ((v &&& 1) ||| BitVec.ofNat 64 (2 * s.me.prio.toNat))) ∧
    writes (.fpstatWrite z) 0x011 (v &&& 0x3F) ∧ writes (.repcWrite z) 0x012 (v &&& 0x7F) ∧
    writes (.wdctlWrite z) 0x0B0 (v &&& 0xFF0000003F) ∧ writes (.trcctlWrite z) 0x131 (v &&& 0xFC1F) ∧
    (still → writes (.wbkbWrite j z) (0x080 + 2 * j.toNat) v ∧
      writes (.wbksWrite j z) (0x081 + 2 * j.toNat) (v &&& 0xF800000000000000)) ∧
    (¬still → s.me.sup = true →
      let arg : Word := BitVec.ofNat 64 ((if window.v then window.ext % 65536 else 0) * 2 ^ 48 + 5 * 2 ^ 8 + 5 * 2 ^ 4 +
        j.toNat)
      Traps (.wbkbWrite j z) s ⟨6, arg, none, none⟩ ∧ Traps (.wbksWrite j z) s ⟨6, arg, none, none⟩) ∧
    let killed := v.toNat % 32
    let waits : Prop := v.toNat / 256 % 4 = 2 ∧ killed ≠ s.slot ∧ (s.slotAt s.cur killed).status ≠ .free ∧
      s.quiet s.cur killed = false
    (n = 0x0B4 → s.me.sup = true → ∃ t, exec (.swr n z) s = .next t ∧ t.mem = s.mem ∧
      (¬waits → t.me = s.me.advance) ∧ (waits → t.me = { s.me with hold := .kill killed }) ∧
      t.agenda = (if v.toNat / 256 % 4 = 1 then [.slotResume s.cur (v.toNat % 32)]
        else if v.toNat / 256 % 4 = 2 then [.slotKill s.cur (v.toNat % 32)] else []) ++ s.agenda) ∧
    ((s.slotAt c u).status = .trapped → Leaves (.slotResume c u) s (s.setSlot c u
      { s.slotAt c u with status := .runnable, pc := (s.slotAt c u).trappc, sup := (s.slotAt c u).psup, tv := false, inRep := false, ready := s.tick, issues := 0 })) ∧
    ((s.slotAt c u).status ≠ .trapped → Leaves (.slotResume c u) s s) ∧
    ((s.slotAt c u).status = .free → Leaves (.slotKill c u) s s) ∧
    ((s.slotAt c u).status ≠ .free → s.quiet c u = true → (∀ e ∈ s.edges, e.kind ≠ .spawn) →
      ∃ t, exec (.slotKill c u) s = .next t ∧ t.slotAt c u = { s.slotAt c u with
        status := .free, bind := 0, hold := .none, wait := none, remote := none, inRep := false, tv := false,
        fenceRel := none, loads := [], tkns := [], again := false, banked := 0, paid := 0, killing := false,
        stopped := false } ∧
      (∀ e ∈ t.edges, e.party ≠ .task c u) ∧ t.mem = s.mem ∧ ∀ w, t.winAt c w = s.winAt c w) ∧
    ((s.slotAt c u).status ≠ .free → s.quiet c u = false → ∃ t, exec (.slotKill c u) s = .next t ∧
      t.slotAt c u = { s.slotAt c u with
        status := .runnable, hold := .none, wait := none, remote := none, inRep := false, tkns := [], killing := true } ∧
      (∀ e ∈ t.edges, e.party ≠ .task c u) ∧ t.accs = s.accs ∧ t.mem = s.mem) ∧
    (∀ k, (s.slotAt c u).hold = .kill k →
      ((s.slotAt c k).killing = true → Leaves (.releasePerformed c u) s s) ∧
      ((s.slotAt c k).killing = false →
        Leaves (.releasePerformed c u) s (s.setSlot c u { s.slotAt c u with hold := .none }.advance)))) ∧
  (∀ (s : State) (n : BitVec 10) (j : BitVec 4) (z : BitVec 5), s.me.inRep = false →
    let word := (tget 0 (s.coreAt s.cur).istore s.me.pc.toNat).setWidth 64
    let illegal : Trap := ⟨1, word, none, none⟩
    let privilege : Trap := ⟨3, word, none, none⟩
    (sysAccess n.toNat = none ∨ sysAccess n.toNat = some .ro → Traps (.swr n z) s illegal) ∧
    (s.me.sup = false →
      (sysAccess n.toNat = some .sw → Traps (.swr n z) s privilege) ∧
      Traps (.repcWrite z) s privilege ∧ Traps (.wdctlWrite z) s privilege ∧ Traps (.trcctlWrite z) s privilege ∧
      Traps (.wbkbWrite j z) s privilege ∧ Traps (.wbksWrite j z) s privilege))

/-- WSAVE, WREST and WPOIS (R353, R363 to R366). Once the buckets have let its requests go (R398), a save writes the
window's image and holds the window; a restore takes everything the image records; restoring a window's own image gives
the window back, its HSLOT at 0. -/
def Obligations.WindowImages : Prop :=
  ∀ (s : State) (w a : BitVec 4) (z : BitVec 5) (base : Nat) (bs : List Byte), HasNext s → s.me.sup = true →
    s.quiet s.cur s.slot = true →
    let x := s.winAt s.cur w.toNat
    let va := s.me.readA a
    let image := s.windowImage s.cur w.toNat
    let saved := x.mode = .plain ∨ x.mode = .backed
    let others (t : State) : Prop := (∀ c u, ¬(c = s.cur ∧ u = w.toNat) → t.winAt c u = s.winAt c u) ∧
      ∀ c u, ¬(c = s.cur ∧ u = s.slot) → t.slotAt c u = s.slotAt c u
    (x.v = true → saved → va.toNat % 64 = 0 → x.refills = [] →
      (∀ m q i n, i < image.length → ({ s with mem := m, spoiled := q } : State).translate s.cur (.store [])
        (va + BitVec.ofNat 80 i).toNat n = .ok (base + i)) → (∃ s1, Paid s s1 (.store []) va image.length 64) →
      ∃ t, exec (.wsave w a) s = .next t ∧ t.winAt s.cur w.toNat = { x with held := true } ∧
        t.me = { s.me with paid := 0 }.advance ∧
        others t ∧ t.readMem base image.length = image ∧
        ∀ b, b < base ∨ base + image.length ≤ b → tget 0 t.mem b = tget 0 s.mem b) ∧
    (x.v = false → Traps (.wsave w a) s (winTrap x w.toNat .query false 0 1) ∧
      Traps (.wrest w a) s (winTrap x w.toNat .define false 0 1) ∧
      Traps (.wpois w z) s (winTrap x w.toNat .define false 0 1)) ∧
    (x.v = true → ¬saved → Traps (.wsave w a) s (winTrap x w.toNat .query false 0 5)) ∧
    (x.v = true → saved → va.toNat % 64 ≠ 0 →
      Traps (.wsave w a) s ⟨12, memFaultArg 7 7 1, none, some va⟩ ∧
      Traps (.wrest w a) s ⟨12, memFaultArg 7 7 0, none, some va⟩) ∧
    (x.v = true → va.toNat % 64 = 0 → s.bulkRead s.cur va (imageBytes bs) = .ok bs → imageOk bs = true →
      imageExt bs ≤ x.cap.toNat → imageEsz bs = x.esz.toNat → numAt bs 0 8 / 2 ^ 39 % 8 = x.mode.code →
      s.bulkRead s.cur va 64 = .ok (bs.take 64) → (∃ s1, Paid s s1 .load va (imageBytes bs) 16) →
      ∃ t, exec (.wrest w a) s = .next t ∧ t.winAt s.cur w.toNat = x.restore 0 bs ∧
        t.me = { s.me with paid := 0 }.advance ∧ others t ∧
        t.mem = s.mem ∧ ∀ o, o < imageExt bs → (t.coreAt s.cur).readElem (x.restore 0 bs) o =
          (bs.drop (imageQ (numAt bs 56 1) (numAt bs 57 1) + o * x.esize)).take x.esize) ∧
    (x.prod.length ≤ 32 → x.cons.length ≤ 32 → (∀ e ∈ x.prod ++ x.cons, e.1 < 8192 ∧ e.2 < 32) →
      x.restore 0 image = { x with hslot := 0, refills := [], refillStop := .go, causes := [], held := false }) ∧
    (x.v = true → (s.me.readG z).getLsbD 63 = true → ∃ t, exec (.wpois w z) s = .next t ∧
      t.winAt s.cur w.toNat = { x with
        pv := false, refillStop := if x.refillStop = .readFailed then RefillStop.go else x.refillStop } ∧ t.me = s.me.advance ∧ others t ∧ t.mem = s.mem) ∧
    (x.v = true → (s.me.readG z).getLsbD 63 = false → ∃ t, exec (.wpois w z) s = .next t ∧
      let p := (s.me.readG z).setWidth 32
      t.winAt s.cur w.toNat = (if x.pv = true ∧ (x.pois - x.head).toNat ≤ (p - x.head).toNat then x else
        { x with pv := true, pois := p, wpsClass := 8, wpsSite := s.siteOf s.cur s.slot, wpd := BitVec.ofNat 64 ((s.me.readG z).toNat / 2 ^ 32 % 2 ^ 31) }) ∧
      t.me = s.me.advance ∧ others t ∧ t.mem = s.mem)

/-- CTXSAV, CTXRST and FSCAN (R368, R377, R381): the core stops, the image is written once every part has stopped, and
an image that passes the checks is loaded; a transfer takes place once the buckets have let its requests go (R398). A
slot's record gives its registers back. -/
def Obligations.ContextImages : Prop :=
  ∀ (s s1 s' : State) (a : BitVec 4) (bs : List Byte) (sl old : Slot) (tick : BitVec 64),
    let va := s.me.readA a
    let c := s.cur
    let k := s.coreAt c
    (HasNext s → s.me.sup = true → s.quiet c s.slot = true → va.toNat % 64 = 0 →
      (k.stop = .none → s.bulkFault c (.store []) va (chunks (s.contextImage c (some s.slot)).length)
          (lastChunk (s.contextImage c (some s.slot)).length) = none →
        ∃ t, exec (.ctxsav a) s = .next t ∧ (t.coreAt c).stop = .saved (some s.slot) ∧ t.me.hold = .stopping ∧
          t.me.pc = s.me.pc ∧ t.mem = s.mem) ∧
      (k.stop ≠ .none → s.stopDone c (some s.slot) = true →
        Paid s s1 (.store []) va ((s.finishStop c (some s.slot)).contextImage c (some s.slot)).length 64 →
        let held := s1.finishStop c (some s.slot)
        held.bulkWrite c va (held.contextImage c (some s.slot)) = .ok s' → EndsIn (.ctxsav a) s s') ∧
      (∀ n, n = numAt bs 8 4 → 0x3C600 ≤ n → n ≤ 0x240000 → s.bulkRead c va 64 = .ok (bs.take 64) →
        s.bulkRead c va n = .ok bs → contextFault c bs = none → k.busySlot s.slot bs = none →
        Paid s s1 .load va n 16 →
        let loaded := s1.loadContext c (some s.slot) bs
        EndsIn (.ctxrst a) s loaded ∧
        ∀ u, u < 32 → u ≠ s.slot → imageSlotState bs u ≠ 0 →
          loaded.slotAt c u =
            Slot.ofRecord (s.slotAt c u) ((bs.drop (0x1200 + 1024 * u)).take 1024) s.tick) ∧
      (k.round = none → s.bulkFault c (.store []) va 1024 16 = none → Paid s s1 (.store []) va 16384 64 →
        EndsIn (.fscan a) s (State.bulkPut 1024 s1 c va (List.replicate 16384 0)))) ∧
    (∀ y, y = Slot.ofRecord old (sl.record tick) tick →
      y.pc = sl.pc ∧ (∀ r, y.readG r = sl.readG r) ∧ y.a = sl.a ∧ (∀ r, y.readP r = sl.readP r) ∧ y.k = sl.k ∧
      y.bind = sl.bind ∧ (y.sup, y.prio, y.fpstat, y.repc) = (sl.sup, sl.prio, sl.fpstat, sl.repc) ∧
      (y.trapcause, y.trappc, y.trapsite, y.traparg) = (sl.trapcause, sl.trappc, sl.trapsite, sl.traparg) ∧
      (y.trapva, y.trapvah, y.tv, y.psup, y.tscr) = (sl.trapva, sl.trapvah, sl.tv, sl.psup, sl.tscr) ∧
      y.status = (if sl.status = .waiting then .runnable else sl.status))

/-! ## The fabric -/

/-- The commands of the fab port (R188, R209, R213 to R218): FCFG checks or reads its image, FRUN starts a round, FSTOP
ends one and completes behind its FRUN, AGSET and AGPRM change a shape record, FMARK drains a round. -/
def Obligations.FabricCommands : Prop :=
  ∀ (s : State) (c : Nat) (x : Cmd) (rest : List Cmd),
    let k := s.coreAt c
    let n := cf x.cmd 24 2
    let g := cf x.cmd 24 3
    let j := cf x.cmd 28 2
    let leaves (i : Instr) (p : State → Prop) : Prop := ∃ t, exec i s = .next t ∧ t.mem = s.mem ∧
      (t.coreAt c).fabq = rest ∧ p t
    let fails (t : State) (detail : Nat) : Prop := ∃ e ∈ (t.clusterAt (clusterOf c)).held, e.kind = 2 ∧
      e.info = 1 ∧ e.body = [x.site.setWidth 64, BitVec.ofNat 64 detail, 0, 0] ∧ e.core = siteCore x.site
    k.fabq = x :: rest → PortStarts k .fab →
    (k.fabFree = true → cmdOp x.cmd = 0x01 → cmdMod x.cmd 0 = false →
      leaves (.fcfg c) fun t => ((t.coreAt c).isReady n = true ↔ Image.fault (k.image n) = none) ∧
        ∀ o, Image.fault (k.image n) = some o → fails t o) ∧
    (k.fabFree = true → cmdOp x.cmd = 0x01 → cmdMod x.cmd 0 = true →
      leaves (.fcfg c) fun t => (t.coreAt c).isReady n = false ∧ (t.coreAt c).fabRun = k.fabRun ++ [x] ∧
        ∃ l, t.accs = s.accs ++ l ∧ l.map (fun a => a.va) = (List.range 32).map (fun i =>
          BitVec.ofNat 80 (cf x.cmd 32 80 + 64 * i)) ∧ ∀ a ∈ l, a.op = .load ∧ a.size = 64 ∧ a.holder = .cmd x.site) ∧
    (k.fabFree = true → cmdOp x.cmd = 0x02 → k.isReady n = true →
      leaves (.frun c) fun t => (t.coreAt c).round = some (Round.start n (k.image n) x)) ∧
    (k.fabFree = true → cmdOp x.cmd = 0x02 → k.isReady n = false →
      leaves (.frun c) fun t => (t.coreAt c).round = k.round ∧ fails t 0xFFF) ∧
    (cmdOp x.cmd = 0x03 → leaves (.fstop c) fun t => (t.coreAt c).round = none ∧
      ∀ r, k.round = some r → cmdOp r.cmd.cmd = 0x02 → x ∈ (t.coreAt c).fabRun ∧
        ∃ e ∈ (t.coreAt c).ended, e.cmd = r.cmd ∧ e.stop = true) ∧
    (∀ base, k.fabFree = true → (∀ y ∈ k.fabRun, cmdOp y.cmd ≠ 0x04) → cmdOp x.cmd = 0x04 → k.isReady j = true → (k.winAt (cmdSrcw x.cmd)).mode = .plain →
      k.engRead (cmdSrcw x.cmd) 0 (some 3#4) = .ready base →
      Image.fault (Image.withShape (k.image j) g (tgets 0 k.wstore base 32)) = none →
      leaves (.agset c) fun t => tgets 0 (t.coreAt c).cstore (j * 2048 + 1088 + 32 * g) 32 = tgets 0 k.wstore base 32 ∧
        Image.hasGen ((t.coreAt c).image j) g = true ∧
        (t.winAt c (cmdSrcw x.cmd)).head = (s.winAt c (cmdSrcw x.cmd)).head + 1) ∧
    (k.fabFree = true → cmdOp x.cmd = 0x05 → k.isReady j = true → Image.hasGen (k.image j) g = true →
      leaves (.agprm c) fun t => Image.shape ((t.coreAt c).image j) g =
          gWrite (Image.shape (k.image j) g) (cf x.cmd 16 3) (BitVec.ofNat 32 (cf x.cmd 32 32)) ∧
        ∀ b, b < j * 2048 + 1088 + 32 * g ∨ j * 2048 + 1120 + 32 * g ≤ b →
          tget 0 (t.coreAt c).cstore b = tget 0 k.cstore b) ∧
    (cmdOp x.cmd = 0x06 → k.round = none → leaves (.fmark c) fun t => (t.coreAt c).round = none) ∧
    (∀ r, cmdOp x.cmd = 0x06 → k.round = some r → leaves (.fmark c) fun t =>
      ∃ q d, (t.coreAt c).round = some q ∧ q.drain = some d ∧ x ∈ d.fmark)

/-- Tokens in a round (R171 to R184, R204): what a firing of an element, a steer, a merge, a carry, a reducer, a
generator takes and what it leaves; nothing else of the core, and no memory, changes. Sinks, the end of a round, and
draining (R186, R188, R369 to R372): a sink fills its window; a quiet round ends and its FRUN completes; markers align;
a complete drain, or one of 4096 ticks, suspends the round. -/
def Obligations.FabricTokens : Prop :=
  (∀ (s : State) (c e g o : Nat) (r : Round) (v w : BitVec 32) (b : Bool) (t : Tok) (q : List Tok) (i : Nat),
    (s.coreAt c).round = some r → r.suspended = .no →
    let m := (s.coreAt c).image r.image
    let k := Image.cfg m e
    let x := r.elemAt e
    let y := r.genAt g
    let rounds (a : Instr) (r' : Round) : Prop := ∃ u, exec a s = .next u ∧ (u.coreAt c).round = some r' ∧
      u.mem = s.mem ∧ (∀ d n, u.slotAt d n = s.slotAt d n) ∧ ∀ d n, u.winAt d n = s.winAt d n
    let leaves (a : Instr) (p : Round → Prop) : Prop := ∃ r', rounds a r' ∧ p r'
    (y.phase = .waitParam → r.bufAt (2048 + g) = some (.w v) → gTotal (gWrite y.shape (gPsel y.shape) v) ≠ 0 →
      rounds (.generatorPassStart c g) ((r.setBuf (2048 + g) none).setGen g { y with
        shape := gWrite y.shape (gPsel y.shape) v, pos := 0, phase := .running })) ∧
    (∀ base, y.stopped = false → y.phase = .running → y.pos + 1 < gTotal y.shape →
      (y.queue.filter fun z => z != .e && z != .m).length + y.order.length < 8 → gKind y.shape = 0 →
      (s.coreAt c).engRead (gWin y.shape) ((gBase y.shape % 2 ^ 32 + gStep y.shape y.pos) % 2 ^ 32).toNat (some 0#4) =
        .ready base →
      rounds (.generatorRequest c g) (r.setGen g { y with
        queue := y.queue ++ [.w (BitVec.ofNat 32 (ofBytes (tgets 0 (s.coreAt c).wstore base 4)))], pos := y.pos + 1 })) ∧
    (y.stopped = false → y.phase = .running → y.pos < gTotal y.shape →
      (y.queue.filter fun z => z != .e && z != .m).length + y.order.length < 8 → gKind y.shape ≠ 0 →
      (BitVec.ofInt 80 (gBase y.shape + gStep y.shape y.pos)).toNat % 4 = 0 →
      ∃ u z, exec (.generatorRequest c g) s = .next u ∧ u.accs = s.accs ++ [z] ∧ z.op = .load ∧ z.size = 4 ∧
        z.va = BitVec.ofInt 80 (gBase y.shape + gStep y.shape y.pos) ∧ z.holder = .cmd r.cmd.site ∧
        z.dest = .generator g (y.firstTag + y.order.length) ∧ u.mem = s.mem) ∧
    (y.queue = t :: q → t ≠ .e → r.roomAll m (Image.wordIn m (2 * g) 0) = true →
      rounds (.generatorReply c g) ((r.setGen g { y with queue := q }).put (Image.wordIn m (2 * g) 0) t)) ∧
    ((∀ z ∈ [0x00, 0x0A, 0x15, 0x16, 0x17, 0x18, 0x19, 0x23, 0x24, 0x2A, 0x2B, 0x2C], k.op ≠ z) →
      isUnitOp k.op = false → isReducer k.op = false → opInputs k.op (Image.extOf m e) = [0, 1] →
      1 ≤ k.selOf 0 → k.selOf 0 ≤ 4 → 1 ≤ k.selOf 1 → k.selOf 1 ≤ 4 → k.selOf 2 = 0 → x.ended = [] → x.room k = true →
      r.drain = none → r.bufAt (e * 32) = some (.w v) → r.bufAt (e * 32 + 1) = some (.w w) →
      leaves (.elementFire c e) fun r' =>
        (r'.elemAt e).q = x.q ++ [.w (BitVec.ofNat 32 (opResult k (Image.extOf m e) v.toNat w.toNat 0).1)] ∧
        r'.bufAt (e * 32) = none ∧ r'.bufAt (e * 32 + 1) = none ∧
        (∀ z, z ≠ e → r'.elemAt z = r.elemAt z) ∧ ∀ z, z ≠ e * 32 → z ≠ e * 32 + 1 → r'.bufAt z = r.bufAt z) ∧
    (∀ z, rtSti (Image.router m e) ≠ 0 → r.bufAt (e * 32 + 3) = some (.w v) →
      r.ctlAt (e * 4 + rtStc (Image.router m e)) = some z → z.tok = .bit b → z.left.contains 4 = true →
      r.roomAll m (Image.readers m e (if b then 7 else 6)) = true →
      rounds (.routerOperatorFire c e .steer) (((r.setBuf (e * 32 + 3) none).takeCtl
        (e * 4 + rtStc (Image.router m e)) 4).put (Image.readers m e (if b then 7 else 6)) (.w v))) ∧
    (∀ z, rtMga (Image.router m e) ≠ 0 → x.mdisc = [] → r.bufAt (e * 32 + if b then 6 else 5) = some (.w v) →
      r.ctlAt (e * 4 + rtMgc (Image.router m e)) = some z → z.tok = .bit b → z.left.contains 7 = true →
      r.roomAll m (Image.readers m e 8) = true →
      rounds (.routerOperatorFire c e .merge) (((r.setBuf (e * 32 + if b then 6 else 5) none).takeCtl
        (e * 4 + rtMgc (Image.router m e)) 7).put (Image.readers m e 8) (.w v))) ∧
    (rtCyi (Image.router m e) ≠ 0 → r.roomAll m (Image.readers m e 9) = true →
      (x.armed = true → rounds (.routerOperatorFire c e .carry)
        ((r.put (Image.readers m e 9) (.c (BitVec.ofNat 32 k.konst) e)).setElem e { x with
          armed := false, fresh := true })) ∧
      (x.armed = false → r.bufAt (e * 32 + 8) = some (.w v) → rounds (.routerOperatorFire c e .carry)
        (((r.setBuf (e * 32 + 8) none).put (Image.readers m e 9) (.w v)).setElem e { x with fresh := false }))) ∧
    (∀ z, Image.lanesOf m i = [0] → Image.toLane m (16 * i) = true → (r.elemAt (16 * i)).q = .w v :: z →
      let out := Image.fork m (16 * i) ++ Image.feedback m (16 * i)
      r.roomAll m out = true → tget none r.rows (i + 1) = none → Image.rowUsers m (i + 1) ≠ [] →
      leaves (.rowWordMove c i) fun r' => (r'.elemAt (16 * i)).q = z ∧
        tget none r'.rows (i + 1) = some ⟨.w 0, some v :: List.replicate 15 none, Image.rowUsers m (i + 1)⟩ ∧
        (∀ p ∈ out, r'.bufAt p = some (.w v)) ∧ ∀ p, p ∉ out → r'.bufAt p = r.bufAt p) ∧
    (∀ z, Image.lanesOf m i = [0] → Image.toLane m (16 * i) = true → (r.elemAt (16 * i)).q = .w v :: z →
      r.roomAll m (Image.fork m (16 * i) ++ Image.feedback m (16 * i)) = false →
      rounds (.rowWordMove c i) r ∧ rounds (.tokenHop c (16 * i) 0) r) ∧
    (∀ z, tget none r.rows i = some z → z.kind = .w 0 → z.left = [100] →
      (r.elemAt (16 * i + 15)).room (Image.cfg m (16 * i + 15)) = true →
      leaves (.reducerFire c i) fun r' => tget none r'.rows i = none ∧ (r'.elemAt (16 * i + 15)).q =
        (r.elemAt (16 * i + 15)).q ++ [.w (BitVec.ofNat 32 (redResult (Image.cfg m (16 * i + 15)) z.lanes).1)]) ∧
    ((r.reordAt g).next = some i → (r.elemAt (2 * g)).room (Image.cfg m (2 * g)) = true →
      leaves (.reordBlockEmit c g) fun r' => (r'.elemAt (2 * g)).q = (r.elemAt (2 * g)).q ++
        [.w ((r.reordAt g).block.getD ((reordMap (Image.extOf m (2 * g))).getD i 0) 0)]) ∧
    (isUnitOp k.op = true → 1 ≤ k.selOf 0 → k.selOf 0 ≤ 4 → k.selOf 1 = 0 → k.selOf 2 = 8 → x.ended = [] →
      r.drain = none → r.bufAt (e * 32) = some (.w v) →
      (r.unitServes m e = true → leaves (.elementFire c e) fun r' => r'.units = r.units ++ [(e, v)] ∧
        (r'.elemAt e).credits = x.credits + 1 ∧ r'.bufAt (e * 32) = none ∧ r'.unitServes m e = false) ∧
      (r.unitServes m e = false → leaves (.elementFire c e) fun r' => r'.units = r.units ∧
        (r'.elemAt e).credits = x.credits ∧ r'.bufAt (e * 32) = some (.w v))) ∧
    (∀ z, r.units = (e, v) :: z → leaves (.unitReply c e) fun r' => r'.units = z ∧
      (r'.elemAt e).q = x.q ++ [.w (BitVec.ofNat 32 (unitResult k.op v.toNat).1)]) ∧
    (o < 4 → r.bufAt (e * 32 + 9 + o) = some t → r.roomAll m (Image.wordOut m e o) = true →
      rounds (.tokenHop c e (o + 1)) ((r.setBuf (e * 32 + 9 + o) none).put (Image.wordOut m e o) t)) ∧
    (∀ z, x.q = .w v :: z → Image.toLane m e = false → isUnitOp k.op = false →
      r.roomAll m (Image.fork m e ++ Image.feedback m e) = true →
      rounds (.tokenHop c e 0) ((r.setElem e { x with q := z }).put (Image.fork m e ++ Image.feedback m e) (.w v)))) ∧
  (∀ (s : State) (c e n : Nat) (r : Round) (v : BitVec 32) (d : Drain), (s.coreAt c).round = some r → r.suspended = .no →
    let k := s.coreAt c
    let m := k.image r.image
    let w := Image.sink m n % 16
    let x := s.winAt c w
    (fbit (Image.sink m n) 4 = false → fbit (Image.sink m n) 5 = false → r.sinkAt n = Sink.init →
      r.bufAt (2056 + n) = some (.w v) → x.v = true → x.held = false → x.mode = .plain → x.esz = 0 →
      x.ext < x.cap.toNat → Unwatched k w →
      ∃ t r', exec (.sinkFill c n) s = .next t ∧ (t.coreAt c).round = some r' ∧ r'.bufAt (2056 + n) = none ∧
        (t.winAt c w).fill = x.fill + 1 ∧ tgets 0 (t.coreAt c).wstore (elemAddr x x.ext) 4 = bytesOf 4 v.toNat ∧
        t.mem = s.mem) ∧
    (r.quiet m = true → (∀ z ∈ r.sinks, z.2.hold = []) → cmdOp r.cmd.cmd = 0x02 →
      ∃ t, exec (.roundEnd c) s = .next t ∧ (t.coreAt c).round = none ∧
        (∃ z ∈ (t.coreAt c).ended, z.cmd = r.cmd ∧ z.fault = false ∧ z.stop = false ∧ z.census = true) ∧
        t.mem = s.mem) ∧
    (r.quiet m = false → Leaves (.roundEnd c) s s) ∧
    (r.drain = some d → (r.elemAt e).mark = false → (Image.cfg m e).op ≠ 0 → isReducer (Image.cfg m e).op = false →
      (∀ z ∈ Image.aligned m e, r.bufAt (e * 32 + z) = some .m ∧ 1 ≤ (Image.cfg m e).selOf z ∧ (Image.cfg m e).selOf z ≤ 4) →
      r.busy (Image.cfg m e) e = false → (∀ u ∈ r.units, u.1 ≠ e) → (∀ o, o < 3 → Image.hasOp m e o = false) →
      ∃ t r', exec (.markerAlign c e) s = .next t ∧ (t.coreAt c).round = some r' ∧ (r'.elemAt e).mark = true ∧
        (r'.elemAt e).q = (r.elemAt e).q ++ [.m] ∧ (∀ z ∈ Image.aligned m e, r'.bufAt (e * 32 + z) = none) ∧
        t.mem = s.mem) ∧
    (r.drain = some d → r.drained m = true → d.save = true → d.fscan = [] →
      ∃ t, exec (.drainComplete c) s = .next t ∧ t.mem = s.mem ∧
        (t.coreAt c).round = some { r with suspended := .drained }) ∧
    (r.drain = some d → r.drained m = true → d.save = false → d.fscan = [] → d.fmark = [] →
      ∃ t, exec (.drainComplete c) s = .next t ∧ t.mem = s.mem ∧ (t.coreAt c).round = some r.resume) ∧
    (r.drain = some d → r.units = [] → d.save = true → d.fscan = [] →
      (4096 ≤ d.ticks → ∃ t, exec (.fabricScanOut c) s = .next t ∧ t.mem = s.mem ∧
        (t.coreAt c).round = some { r with suspended := .scanned }) ∧
      (d.ticks < 4096 → Leaves (.fabricScanOut c) s s)))

/-! ## The block-transfer engine -/

/-- The commands of the bte port start in the lowest free engine slot, unless a running one holds them back (R60,
R281). What a block transfer does (R281, R286, R288, R289, R291): a request covers bytes of the stream whose addresses
run on within 64 aligned bytes; a write carries the source window's bytes; an element whose bytes are there is filled
in stream order; the command completes once every byte is delivered, and one that met a fault (R294) once the writes it
sent are performed and the source elements it has delivered are shrunk: that it waits for its writes is the model's
reading (log 83). Done elements (R210, R212): the element of a command that has ended carries its site, bit 63 for a
fault and bit 62 for a stop, and goes to the window the command names; one that finds no room waits with an edge. -/
def Obligations.BlockTransfers : Prop :=
  (∀ (s : State) (c : Nat) (x : Cmd) (rest : List Cmd),
    let k := s.coreAt c
    k.bteq = x :: rest → PortStarts k .bte → x.doneb = 0 →
    ∀ p ∈ ([(.gtw c, 0x41), (.wtg c, 0x42), (.wtw c, 0x43), (.gath c, 0x44), (.scat c, 0x45), (.gredw c, 0x46)] :
      List (Instr × Nat)), cmdOp x.cmd = p.2 →
      (∀ e, k.bteSlot c x.cmd = some e → e < 4 ∧ (∀ f, f < e → (k.bteAt f).isSome) ∧ k.bteAt e = none ∧
        ∃ t, exec p.1 s = .next t ∧ (t.coreAt c).bteAt e = some (BteRun.start x 0) ∧
          (∀ f, f ≠ e → (t.coreAt c).bteAt f = k.bteAt f) ∧ (t.coreAt c).bteq = rest ∧ t.mem = s.mem ∧ t.accs = s.accs) ∧
      (k.bteSlot c x.cmd = none → Leaves p.1 s s) ∧
      (∀ f y, k.bteAt f = some y → y.cmd.doneb.toNat < y.cmd.total → fillTarget c x.cmd ≠ none →
        fillTarget c y.cmd.cmd = fillTarget c x.cmd → k.bteSlot c x.cmd = none)) ∧
  (∀ (s : State) (c e : Nat) (r : BteRun) (a : Addr) (bs : List Byte),
    let k := s.coreAt c
    let x := r.cmd.cmd
    let t := r.issued
    let w := cmdDstw x
    let y := s.winAt c w
    let step (i : Instr) (p : State → Prop) : Prop := ∃ u, exec i s = .next u ∧ u.mem = s.mem ∧ p u
    k.bteAt e = some r → k.stop = .none → r.hold = false →
    (r.failing = none → ((cmdOp x = 0x41 ∨ cmdOp x = 0x42) → t < r.cmd.total → r.byteAddr t = some a →
      (cmdOp x = 0x42 → k.sourceBytes 18 r t (r.runFrom a t 63 + 1) = .ready bs) →
      step (.bteRequestIssue c e) fun u => ∃ z r', u.accs = s.accs ++ [z] ∧ (u.coreAt c).bteAt e = some r' ∧
        r'.issued = t + z.size ∧ r'.cmd = r.cmd ∧ z.va = a ∧ z.holder = .cmd r.cmd.site ∧ z.dest = .engine e t ∧
        1 ≤ z.size ∧ z.size ≤ 64 ∧ t + z.size ≤ r.cmd.total ∧
        (∀ i, i < z.size → r.byteAddr (t + i) = some (a + BitVec.ofNat 80 i) ∧
          (a + BitVec.ofNat 80 i).toNat / 64 = a.toNat / 64) ∧
        z.op = (if cmdOp x = 0x42 then .store bs else .load)) ∧
    (cmdOp x = 0x41 → t < r.cmd.total → r.byteAddr t = none → step (.bteRequestIssue c e) fun u =>
      u.accs = s.accs ∧ ∃ r' n, (u.coreAt c).bteAt e = some r' ∧ 0 < n ∧ r'.issued = t + n ∧
        tget [] r'.got t = List.replicate n 0) ∧
    (cmdOp x = 0x41 → y.v = true → y.held = false → y.mode = .plain → y.ext < y.cap.toNat → Unwatched k w →
      r.cmd.doneb.toNat + y.esize ≤ r.cmd.total → r.cmd.total < 2 ^ 32 →
      y.esize ≤ (contiguous r.got r.cmd.doneb.toNat).length →
      step (.bteElementFill c e) fun u => (u.winAt c w).fill = y.fill + 1 ∧
        tgets 0 (u.coreAt c).wstore (elemAddr y y.ext) y.esize = (contiguous r.got r.cmd.doneb.toNat).take y.esize ∧
        ∃ r', (u.coreAt c).bteAt e = some r' ∧ r'.cmd.doneb.toNat = r.cmd.doneb.toNat + y.esize) ∧
    (cmdOp x = 0x41 → r.cmd.total ≤ r.cmd.doneb.toNat → r.flight = 0 → (∀ z ∈ s.accs, z.holder ≠ .cmd r.cmd.site) →
      step (.bteCommandComplete c e) fun u => (u.coreAt c).bteAt e = none ∧
        (cmdDone x = true → ∃ z ∈ (u.coreAt c).ended, z.cmd = r.cmd ∧ z.dw = doneWin x ∧ z.fault = false ∧
          z.stop = false)) ∧
    (r.cmd.doneb.toNat < r.cmd.total → Leaves (.bteCommandComplete c e) s s)) ∧
    (∀ f, r.failing = some f → Leaves (.bteRequestIssue c e) s s ∧
      ((∃ z ∈ s.accs, z.holder = .cmd r.cmd.site) → Leaves (.bteCommandComplete c e) s s) ∧
      ((∀ z ∈ s.accs, z.holder ≠ .cmd r.cmd.site) → s.owesShrink c r = false →
        step (.bteCommandComplete c e) fun u => (u.coreAt c).bteAt e = none ∧
        (cmdDone x = true → ∃ z ∈ (u.coreAt c).ended, z.cmd = r.cmd ∧ z.dw = doneWin x ∧ z.fault = true)))) ∧
  (∀ (s : State) (c w : Nat) (e : Ended),
    let x := s.winAt c w
    (s.coreAt c).ended = [e] → (s.coreAt c).stop = .none → e.census = false → e.dw = some w → x.v = true → x.esz = 1 →
    x.held = false → x.mode = .plain → Unwatched (s.coreAt c) w →
    (x.ext < x.cap.toNat → ∃ t, exec (.doneElementFill c) s = .next t ∧ (t.coreAt c).ended = [] ∧
      Filled s t c w (BitVec.ofNat 64 (2 ^ 63 * e.fault.toNat + 2 ^ 62 * e.stop.toNat + e.cmd.site.toNat))) ∧
    (x.ext = x.cap.toNat → siteCore e.cmd.site = c → ∃ t, exec (.doneElementFill c) s = .next t ∧
      (t.coreAt c).ended = [e] ∧
      (∃ z ∈ t.edges, z.party = .cmd e.cmd.site ∧ z.kind = .fill ∧ z.core = c ∧ z.win = w) ∧ t.winAt c w = x ∧
      t.mem = s.mem))

/-! ## The matrix unit -/

/-- The commands of the mx port on an idle unit (R295, R302, R303, R306 to R309, R313, R314): MXW, MXA, MXTM and MXOUT
begin to run, MXSWP turns the banks, MXZ zeroes its slot. What a matrix command does (R296 to R301, R306, R307, R309,
R311, R314, R315): a weight row enters its bank; a row of activations goes through the bank in one chain a column,
added to the block buffer where the block is not the first; PRO promotes by the row's scale times the weights' scale;
MXTM goes row by row and step by step, and the lower core of a split product goes on when its peer's block is there;
MXOUT fills an element; the end of the last step ends the command. -/
def Obligations.Matrix : Prop :=
  (∀ (s : State) (c : Nat) (x : Cmd) (rest : List Cmd),
    let k := s.coreAt c
    let m := k.mx
    let z := cmdMod x.cmd 2
    let leaves (i : Instr) (p : Mx → Prop) : Prop := ∃ t, exec i s = .next t ∧ t.mem = s.mem ∧
      (t.coreAt c).mxq = rest ∧ p (t.coreAt c).mx
    k.mxq = x :: rest → PortStarts k .mx → mxIssueOk k c x.cmd = true → m.load = [] →
    m.run = none → m.out = none →
    (cmdOp x.cmd = 0x21 → leaves (.mxw c) fun n => n = { m with load := [MxRun.start x (cmdMod x.cmd 0) false none] }) ∧
    (cmdOp x.cmd = 0x22 → leaves (.mxa c) fun n => n = { m with run := some (MxRun.start x m.cur z none) }) ∧
    (cmdOp x.cmd = 0x23 → leaves (.mxswp c) fun n => n = { m with cur := !m.cur }) ∧
    (cmdOp x.cmd = 0x24 → cmdMod x.cmd 4 = false → leaves (.mxtm c) fun n =>
      n = { m with run := some (MxRun.start x m.cur z none) }) ∧
    (cmdOp x.cmd = 0x25 → leaves (.mxz c) fun n => (∀ i, tget 0 (n.acc z) i = 0) ∧ n.acc (!z) = m.acc (!z) ∧
      n.banks = m.banks ∧ n.buf = m.buf ∧ n.out = some (MxRun.start x false z none)) ∧
    (cmdOp x.cmd = 0x26 → leaves (.mxout c) fun n => n = { m with out := some (MxRun.start x false z none) })) ∧
  (∀ (s : State) (c : Nat) (r : MxRun) (base : Nat) (b : PeerBlock),
    let k := s.coreAt c
    let m := k.mx
    let x := r.cmd.cmd
    let leaves (i : Instr) (p : State → Mx → Prop) : Prop := ∃ t, exec i s = .next t ∧ t.mem = s.mem ∧ p t (t.coreAt c).mx
    let through (n : Mx) (i kb : Nat) (row : List Nat) (bank : Bool) : Prop := ∀ j, j < 32 →
      let v := chain (mxAf x) (m.bank bank).wf row ((m.bank bank).column j)
      tget 0 n.buf (32 * i + j) = BitVec.ofNat 32
        (if kb = 0 then v else (Fmt.f32.add .rne (tget 0 m.buf (32 * i + j)).toNat v).1)
    r.ended = false → k.stop = .none →
    (cmdOp x = 0x21 → m.load = [r] → m.run = none → r.step < 32 →
      k.engRead (cmdSrcw x) (cf x 32 16 + if mxWf x then (32 * cf x 48 2 + r.step) / 64 else 0) (some 12#4) = .ready base →
      leaves (.mxTileRead c) fun _ n => n.load = [{ r with step := r.step + 1 }] ∧ n.bank (!r.bank) = m.bank (!r.bank) ∧
        ∀ j, j < 32 → tget 0 (n.bank r.bank).w (32 * r.step + j) =
          BitVec.ofNat 16 (tileValue k base (mxWf x) (32 * cf x 48 2 + r.step) (32 * cf x 50 2 + j))) ∧
    (cmdOp x = 0x22 → mxPro x = false → m.run = some r → m.load = [] → r.row = 0 → r.step ≤ cf x 75 7 →
      let i := cf x 68 7 + r.step
      k.engRead (cmdSrcw x) (cf x 32 16 + if mxAf x then i / 64 else 0) (some 12#4) = .ready base →
      leaves (.mxTileRead c) fun _ n => (∃ q, n.run = some q ∧ q.step = r.step + 1 ∧ q.cmd = r.cmd) ∧
        through n i (cf x 64 2) (tileRow k base (mxAf x) i (32 * cf x 64 2)) r.bank ∧ n.slots = m.slots) ∧
    (cmdOp x = 0x22 → mxPro x = true → mxAf x = true → m.run = some r → m.load = [] → r.row = 0 → r.step ≤ cf x 75 7 →
      cf x 68 7 + cf x 75 7 ≤ 127 →
      let i := cf x 68 7 + r.step
      let sc := rowScale 0x3F800000 (m.bank r.bank).scale
      k.engRead (cmdSrcw x) (cf x 32 16 + i / 64) (some 12#4) = .ready base →
      leaves (.mxTileRead c) fun _ n => ∀ j, j < 32 →
        let key := 128 * i + 32 * cf x 66 2 + j
        tget 0 (n.acc r.slot) key = BitVec.ofNat 32 (Fmt.f32.fma .rne (tget 0 n.buf (32 * i + j)).toNat sc.toNat
          (tget 0 (m.acc r.slot) key).toNat).1) ∧
    (cmdOp x = 0x24 → m.run = some r → r.stopped = false → r.peerWait = false → r.reload = false → r.step < 148 →
      r.step % 37 ≠ 36 → r.step % 37 % 9 ≠ 0 → mxRing x = false → r.row < 16 →
      let kb := r.step % 37 / 9
      let i := 16 * (r.step % 37 % 9 - 1) + r.row
      k.engRead (cmdSrcw x) (cf x 32 16 + if mxAf x then i / 64 else 0) (some 12#4) = .ready base →
      leaves (.mxtmStep c) fun _ n =>
        (∃ y, n.run = some y ∧ (y.step, y.row) = if r.row = 15 then (r.step + 1, 0) else (r.step, r.row + 1)) ∧
        through n i kb (tileRow k base (mxAf x) i (32 * kb)) (r.bank != decide ((4 * (r.step / 37) + kb) % 2 = 1))) ∧
    (∀ vs, m.run = some r → r.peerWait = true → r.stopped = false → mxSplit x = true → c ≤ mxPeer x →
      s.mxScales c r (s.mxtmOperands c x).2.2.1 = .ready vs → m.peer = [b] → b.src = mxPeer x →
      leaves (.splitBlockArrival c) fun _ n =>
        n.peer = [] ∧ ∃ y, n.run = some y ∧ y.peerWait = false ∧ y.step = r.step + 1) ∧
    (cmdOp x = 0x26 → m.out = some r → m.run = none → m.load = [] →
      let y := s.winAt c (cmdDstw x)
      r.step < 16384 * ((outFmt x).width / 8) / y.esize → y.v = true → y.held = false → y.mode = .plain →
      y.ext < y.cap.toNat → Unwatched k (cmdDstw x) →
      leaves (.mxoutElementFill c) fun t n => (t.winAt c (cmdDstw x)).fill = y.fill + 1 ∧
        (∃ q, n.out = some q ∧ q.step = r.step + 1) ∧
        ∀ j, j < y.esize / ((outFmt x).width / 8) →
          tgets 0 (t.coreAt c).wstore (elemAddr y y.ext + j * ((outFmt x).width / 8)) ((outFmt x).width / 8) =
            bytesOf ((outFmt x).width / 8)
              (outValue x (tget 0 (m.acc r.slot) (r.step * (y.esize / ((outFmt x).width / 8)) + j))).1) ∧
    (cmdOp x = 0x24 → m.run = some r → m.load = [] → 148 ≤ r.step →
      leaves (.mxCommandComplete c false) fun t n => n.run = some { r with ended := true } ∧
        ∃ e ∈ (t.coreAt c).ended, e.cmd = r.cmd ∧ e.census = true ∧ e.fault = false) ∧
    (cmdOp x = 0x25 → m.out = some r → leaves (.mxCommandComplete c true) fun t n =>
      n.out = some { r with ended := true } ∧ ∃ e ∈ (t.coreAt c).ended, e.cmd = r.cmd ∧ e.census = true ∧
        e.fault = false))

/-! ## Encounter rings -/

/-- The commands of the ring port (R318, R319, R323, R325, R335, R337, R338): RGCFG makes a segment, RGMT writes match
entries, RGPUT takes its tile's place, RGGO starts a sweep, RGROT a rotation, RGDRN empties the ring; a command that
belongs to the first core faults with WHY 1 elsewhere. Beats, meetings and encounters (R320 to R331): tiles move
together, one step around the segment; a pair that an entry of the core names becomes an encounter where its slot
admits the target, is deferred in flow mode, and else waits; the encounter is delivered, finishes, and its target's
token goes to its owner; the sweep ends when every target has. A pending meeting or a pinned tile keeps the next beat
from starting (R320), and a held ring window makes RGDRN wait (R363). RGCFG empties the encounter queues of its cores,
which is the model's reading (log 34), since R337 does not name them; that the windows of a segment are looked at again
at the start of each command and of each beat, and a segment that is no longer fit ends its sweep with WHY 3, is the
model's reading of R338 (log 33). -/
def Obligations.Rings : Prop :=
  (∀ (s : State) (c j base : Nat) (x : Cmd) (rest : List Cmd),
    let k := s.coreAt c
    let q := ctrlHere c
    let y := s.ctrlAt q
    let leaves (i : Instr) (p : State → Prop) : Prop := ∃ t, exec i s = .next t ∧ t.mem = s.mem ∧
      (t.coreAt c).ringq = rest ∧ p t
    let fits (z : Ctrl) : Prop := ∀ d ∈ s.segCores q, (s.coreAt d).segmentOk z = true
    k.ringq = x :: rest → PortStarts k .ring → k.ring.run = none →
    (cmdOp x.cmd = 0x61 → s.overlapping q ((y.configure x.cmd k.group).length) = [] →
      (∀ i, i < (y.configure x.cmd k.group).length →
        (s.coreAt (c + i)).group = k.group ∧ (s.coreAt (c + i)).segmentOk (y.configure x.cmd k.group) = true) →
      leaves (.rgcfg c) fun t => t.ctrlAt q = y.configure x.cmd k.group ∧
        (∀ z, z ≠ q → t.ctrlAt z = s.ctrlAt z) ∧
        ∀ i, i < (y.configure x.cmd k.group).length → (t.ringAt (c + i)).east = none ∧ (t.ringAt (c + i)).west = none ∧
          (t.ringAt (c + i)).queue = []) ∧
    (cmdOp x.cmd = 0x62 → s.isFirst c = true → fits y → x.doneb = 0 → 0 < cf x.cmd 42 11 →
      k.engRead (cmdSrcw x.cmd) 0 (some 0#4) = .ready base →
      leaves (.rgmt c) fun t =>
        tget offEntry (t.ctrlAt q).table (cf x.cmd 32 10) =
          BitVec.ofNat 32 (ofBytes (tgets 0 k.wstore base 4)) &&& 0x0FFFFFFF ∧
        (∀ i, i ≠ cf x.cmd 32 10 → tget offEntry (t.ctrlAt q).table i = tget offEntry y.table i) ∧
        (t.ringAt c).run = some { x with doneb := 1 }) ∧
    (cmdOp x.cmd = 0x63 → s.segmentOf c = some j → (s.ctrlAt j).run = .idle → s.windowsOk j = true →
      (s.winAt c ((s.ctrlAt j).family (cmdMod x.cmd 0)).1).ext = 0 →
      (s.winAt c ((s.ctrlAt j).family (cmdMod x.cmd 0)).2).ext = 0 →
      leaves (.rgput c) fun t => (t.ringAt c).run = some x ∧ (t.ringAt c).buf = []) ∧
    (cmdOp x.cmd = 0x64 → s.isFirst c = true → s.slotsHeld q = false → fits y → s.sweepOk q = true →
      leaves (.rggo c) fun t => (t.ctrlAt q).run = .sweep x ∧ (t.ctrlAt q).meet = s.segCores q ∧
        (t.ctrlAt q).targets = sweepTargets y.entries ∧ (t.ctrlAt q).swp = y.swp + 1 ∧ (t.ctrlAt q).beat = 0 ∧
        (t.ctrlAt q).rev = 0 ∧ (t.ctrlAt q).table = y.table) ∧
    (cmdOp x.cmd = 0x65 → s.isFirst c = true → fits y → leaves (.rgrot c) fun t =>
      (t.ctrlAt q).run = .rotate x (cf x.cmd 32 16) ∧ (t.ctrlAt q).beat = 0 ∧ (t.ctrlAt q).table = y.table) ∧
    (cmdOp x.cmd = 0x66 → s.isFirst c = true → s.heldRing q = none → fits y → leaves (.rgdrn c) fun t =>
      (t.ctrlAt q).targets = [] ∧ (t.ctrlAt q).deferral = [] ∧ (t.ringAt c).run = none ∧
      ∀ d ∈ s.segCores q, (t.ringAt d).east = none ∧ (t.ringAt d).west = none ∧
        ∀ w ∈ [y.ewin, y.wwin, y.eswin, y.wswin], (t.winAt d w).ext = 0) ∧
    (cmdOp x.cmd = 0x66 → s.isFirst c = true → s.heldRing q ≠ none → leaves (.rgdrn c) fun t =>
      (t.ringAt c).run = some x ∧ ∀ d w, t.winAt d w = s.winAt d w) ∧
    (let faults (i : Instr) (why : Word) : Prop := leaves i fun t => ∃ e ∈ (t.clusterAt (clusterOf c)).held, e.kind = 2 ∧
        e.info = 7 ∧ e.body = [x.site.setWidth 64, why, 0, 0]
     (s.isFirst c = false → ∀ p ∈ ([(.rgmt c, 0x62), (.rggo c, 0x64), (.rgrot c, 0x65), (.rgdrn c, 0x66)] :
        List (Instr × Nat)), cmdOp x.cmd = p.2 → faults p.1 1) ∧
     (s.isFirst c = true → ¬fits y → (cmdOp x.cmd = 0x62 → faults (.rgmt c) 3) ∧
        (cmdOp x.cmd = 0x65 → faults (.rgrot c) 3)))) ∧
  (∀ (s : State) (q c i u : Nat) (e : BitVec 32) (z : Encounter) (cmd : Cmd) (v : Word) (site : BitVec 46),
    let x := s.ctrlAt q
    let r := s.ringAt c
    let k := s.coreAt c
    let west := decide (x.beat % 2 = 1)
    let ms := s.movingTiles q
    let leaves (a : Instr) (p : State → Prop) : Prop := ∃ t, exec a s = .next t ∧ t.mem = s.mem ∧ p t
    (x.seg = true → x.run = .sweep cmd → x.boundary = false → x.moving = false →
      (∀ d ∈ s.segCores q, (s.coreAt d).stop = .none) →
      (x.meet = [] → (∀ d ∈ s.segCores q, (s.ringAt d).pinned = false) → s.windowsOk q = true →
        leaves (.beatStart q) fun t => t.ctrlAt q = { x with moving := true }) ∧
      (x.meet = [] → (∀ d ∈ s.segCores q, (s.ringAt d).pinned = false) → s.windowsOk q = false →
        leaves (.beatStart q) fun t => (t.ctrlAt q).run = .idle ∧ (t.ctrlAt q).moving = false) ∧
      ((x.meet ≠ [] ∨ ∃ d ∈ s.segCores q, (s.ringAt d).pinned = true) →
        leaves (.beatStart q) fun t => t.ctrlAt q = x)) ∧
    (x.run = .sweep cmd → x.moving = true → (∀ m ∈ ms, s.landingEdges q (x.family west) x.site m = []) →
      s.poisonedMove (x.family west) ms = none →
      leaves (.tileLanding q) fun t => (t.ctrlAt q).moving = false ∧ (t.ctrlAt q).beat = x.beat + 1 ∧
        (t.ctrlAt q).boundary = (x.boundary || decide ((x.beat + 1) % (2 * x.length) = 0)) ∧
        ∀ d ∈ s.segCores q, (if west then (t.ringAt d).west else (t.ringAt d).east) =
            (ms.find? fun m => m.dst == d).map Moving.id ∧
          (if west then (t.ringAt d).east else (t.ringAt d).west) =
            (if west then (s.ringAt d).east else (s.ringAt d).west)) ∧
    (s.segmentOf c = some q → x.meet.contains c = true → s.meets q c = some (i, e) →
      let holder := vget none r.holders (entSlot e).toNat
      ((holder = none ∨ holder = some (entTgt e)) → r.queue.length < 4 → leaves (.meeting c) fun t =>
        (∃ y, (t.ringAt c).queue = r.queue ++ [y] ∧ y.entry = i ∧ y.slot = none ∧ y.finished = false) ∧
        (t.ringAt c).enc = bump16 r.enc ∧ vget none (t.ringAt c).holders (entSlot e).toNat = some (entTgt e) ∧
        (t.ctrlAt q).meet = x.meet.filter (· != c)) ∧
      (holder ≠ none → holder ≠ some (entTgt e) → x.flow = true → leaves (.meeting c) fun t =>
        (t.ringAt c).queue = r.queue ∧ i ∈ (t.ctrlAt q).deferral ∧ (t.ringAt c).defs = bump16 r.defs ∧
        (t.ctrlAt q).meet = x.meet.filter (· != c)) ∧
      (holder ≠ none → holder ≠ some (entTgt e) → x.flow = false → Leaves (.meeting c) s s)) ∧
    (r.queue = [z] → z.slot = none → k.boundTo (sourceKey 3 0) = some u → k.stop = .none →
      leaves (.encounterDelivery c) fun t => (t.ringAt c).queue = [{ z with slot := some u }] ∧
        (t.slotAt c u).status = .runnable ∧ (t.slotAt c u).pc = bindEntry (s.slotAt c u).bind ∧
        (t.slotAt c u).readG 1 = eventWord (encounterData z (s.matchEntry c z.entry)) 1 3 z.entry) ∧
    (r.queue = [z] → z.retired = true → z.served = false → leaves (.tileUnpin c) fun t =>
      (t.ringAt c).queue = [{ z with unpinned := true }]) ∧
    (r.queue = [z] → z.finished = true → s.segmentOf c = some q →
      let n := entTgt (tget offEntry x.table z.entry)
      let g := tget Target.init x.targets n
      g.live = true → g.posted = false → leaves (.encounterFinish c) fun t => (t.ringAt c).queue = [] ∧
        (tget Target.init (t.ctrlAt q).targets n).count = g.count - 1 ∧
        (g.count = 1 → ∃ y, (t.ctrlAt q).tokens = x.tokens ++ [(ctrlFirst q + g.own, y, x.goSite)] ∧ y.toNat % 64 = n) ∧
        (g.count ≠ 1 → (t.ctrlAt q).tokens = x.tokens)) ∧
    (x.tokens = [(c, v, site)] → (k.winAt x.cwin).doneOk = true → (k.winAt x.cwin).held = false →
      (k.winAt x.cwin).ext < (k.winAt x.cwin).cap.toNat → Unwatched k x.cwin →
      leaves (.completionTokenFill q) fun t => (t.ctrlAt q).tokens = [] ∧
        (t.winAt c x.cwin).fill = (k.winAt x.cwin).fill + 1 ∧
        tgets 0 (t.coreAt c).wstore (elemAddr (k.winAt x.cwin) (k.winAt x.cwin).ext) 8 = bytesOf 8 v.toNat) ∧
    (x.run = .sweep cmd → x.boundary = true → x.deferral = [] → (∀ g ∈ x.targets, g.2.count = 0) →
      leaves (.sweepEnd q) fun t => (t.ctrlAt q).run = .idle ∧ (t.ctrlAt q).boundary = false ∧
        (t.ringAt (ctrlFirst q)).run = none) ∧
    (x.run = .sweep cmd → x.boundary = true → x.deferral ≠ [] → x.rev < x.rlim.toNat →
      leaves (.sweepEnd q) fun t => (t.ctrlAt q).rev = x.rev + 1 ∧ (t.ctrlAt q).recov = true ∧
        (t.ctrlAt q).boundary = false ∧ (t.ctrlAt q).meet = s.segCores q))

/-! ## Packets, reports, observation -/

/-- PKT and its copies (R385, R386, R388, R389): a PKT sends one copy to each core it names; a copy enters the queue of
its class if it has room, and else waits; one for another tenant is discarded, and the PKT faults with CLASS 0x0A at
its end. -/
def Obligations.Packets : Prop :=
  ∀ (s : State) (c d : Nat) (x : Cmd) (rest : List Cmd) (r : PktRun) (seq : BitVec 16),
    let k := s.coreAt c
    let route := (vget 0 k.pkrt (cf x.cmd 24 4)).toNat
    let queue (t : State) (e : Nat) : List Packet := (t.coreAt e).classQueue (pktClass r.cmd.cmd)
    let i : Instr := .pktCopyEnqueue c seq d
    (k.pktq = x :: rest → PortStarts k .pkt → cmdOp x.cmd = 0x81 →
      k.pktDests x.cmd ≠ [] → ∃ t, exec (.pkt c) s = .next t ∧ t.mem = s.mem ∧ (t.coreAt c).pktq = rest ∧
        (t.coreAt c).pktRuns = k.pktRuns ++ [⟨x, k.pktDests x.cmd, none⟩] ∧
        ∀ e ∈ k.pktDests x.cmd, .pktCopyEnqueue c (BitVec.ofNat 16 (siteSeq x.site)) e ∈ t.agenda) ∧
    (cmdMod x.cmd 0 = false → k.pktDests x.cmd = [cf x.cmd 32 13]) ∧
    (cmdMod x.cmd 0 = true → ∀ e, e ∈ k.pktDests x.cmd ↔ e < 6144 ∧ route / 2 ^ (16 + e / 256) % 2 = 1 ∧
      route % 16 ≤ rowOf e ∧ rowOf e ≤ route % 16 + route / 256 % 16 ∧
      route / 16 % 16 ≤ colOf e ∧ colOf e ≤ route / 16 % 16 + route / 4096 % 16) ∧
    (k.pktRuns = [r] → siteSeq r.cmd.site = seq.toNat → r.left.contains d = true → r.bad = none →
      pktPeer s.pkg r.cmd.cmd = none →
      (s.tenantOf d = s.tenantOf c → (queue s d).length < 16 → ∃ t, exec i s = .next t ∧ t.mem = s.mem ∧
        queue t d = queue s d ++ [⟨BitVec.ofNat 32 (cf r.cmd.cmd 64 32)⟩] ∧ (∀ e, e ≠ d → queue t e = queue s e) ∧
        (t.coreAt c).pktRuns = if r.left.erase d = [] then [] else [{ r with left := r.left.erase d }]) ∧
      (s.tenantOf d = s.tenantOf c → 16 ≤ (queue s d).length → Leaves i s s) ∧
      (s.tenantOf d ≠ s.tenantOf c → ∃ t, exec i s = .next t ∧ t.mem = s.mem ∧ (∀ e, queue t e = queue s e) ∧
        let detail : Word := BitVec.ofNat 64 (2 ^ 19 + s.pkg.toNat * 2 ^ 13 + d)
        (t.coreAt c).pktRuns = (if r.left.erase d = [] then []
          else [{ r with left := r.left.erase d, bad := some detail }]) ∧
        (r.left.erase d = [] → ∃ e ∈ (t.clusterAt (clusterOf c)).held, e.kind = 2 ∧ e.info = 10 ∧
          e.body = [r.cmd.site.setWidth 64, detail, 0, 0])))

/-- The report window (R345, R346): a record is posted whole, its header first, once the window has room for all of it;
it counts RSEQ, raises vector 0 of the owner, and its header goes to the notice window where RPNOT names one. Standoffs
and orphan waits (R356 to R359): what the detector keeps is the union of all sets of blocked parties whose successors
lie within them; two tasks that wait on each other are reported once, by the lowest cluster of the set; a wait that
nothing can end is reported by its own cluster. The watchdog (R360 to R362): with EN and WDCNT at the limit it posts a
record of kind 5 and clears WDCNT; POL 1 pre-empts the core's group, POL 2 kills it, where a slot whose accesses are not
all performed is freed once they are (R262), any other leaves it. Which waits a standoff report lists and marks is the
model's reading (log 43), so is the layout of a member with its core field (log 42), and so is that a kill ends the
commands of the group's cores at once and what they still owe goes with the group (log 44). -/
def Obligations.Reports : Prop :=
  (∀ (s : State) (cl w : Nat) (r : Report),
    let u := s.clusterAt cl
    let k := s.coreAt r.core
    let n := r.body.length + 1
    let header : Word := BitVec.ofNat 64 (u.rseq.toNat * 2 ^ 48 + r.kind.toNat * 2 ^ 40 + n * 2 ^ 32 + r.info.toNat)
    let x := k.winAt w
    u.held = [r] → (∀ e ∈ s.cores, e.2.notices = []) →
    (u.reports.ext + n ≤ 1024 → ∃ t, exec (.reportRecordPost cl) s = .next t ∧ t.mem = s.mem ∧
      (t.clusterAt cl).held = [] ∧ (t.clusterAt cl).reports =
        ⟨u.reports.head, u.reports.fill + BitVec.ofNat 32 n, u.reports.elems ++ header :: r.body⟩ ∧
      (t.clusterAt cl).rseq = u.rseq + 1 ∧
      (∃ l, t.msix = s.msix ++ u.owner.toList.map (fun f => (f.toNat, 0)) ++ l ∧ (r.kind ≠ 2 → l = [])) ∧
      (clusterOf r.core = cl → k.rpnot.getLsbD 4 = true → k.rpnot.toNat % 16 = w → x.v = true → x.mode = .plain →
        x.esz = 1 → x.held = false → x.ext < x.cap.toNat → Unwatched k w → Filled s t r.core w header)) ∧
    (1024 < u.reports.ext + n → Leaves (.reportRecordPost cl) s s)) ∧
  ((∀ l m : Waits,
    (∀ x ∈ largest l.length l, x ∈ l ∧ ∀ q ∈ x.2, ∃ y ∈ largest l.length l, y.1 = q) ∧
    ((∀ x ∈ m, x ∈ l ∧ ∀ q ∈ x.2, ∃ y ∈ m, y.1 = q) → ∀ x ∈ m, x ∈ largest l.length l)) ∧
  (∀ (s : State) (cl : Nat), ∃ t, exec (.standoffReport cl) s = .next t ∧ t.mem = s.mem ∧ t.cores = s.cores ∧
    t.edges.map Edge.party = s.edges.map Edge.party) ∧
  (∀ (s : State) (c t d u : Nat) (e f : Edge), s.edges = [e, f] → e.party = .task c t → f.party = .task d u → c < d →
    (s.slotAt c t).status = .waiting → (s.slotAt d u).status = .waiting → s.sigma e = some [.task d u] →
    s.sigma f = some [.task c t] →
    (e.reported = false → f.reported = false → Leaves (.standoffReport (clusterOf c)) s
      ((s.markReported [e, f]).report (clusterOf c) ⟨3, 2, s.member e false ++ s.member f false, c, none⟩)) ∧
    (e.reported = true → f.reported = true → Leaves (.standoffReport (clusterOf c)) s s) ∧
    ∀ cl, cl ≠ clusterOf c → Leaves (.standoffReport cl) s s) ∧
  (∀ (s : State) (e : Edge), s.edges = [e] → e.reported = false →
    let x := s.winAt e.core e.win
    let i : Instr := .orphanWaitReport (clusterOf e.party.core)
    let reports (code arg : Nat) : Prop := Leaves i s ((s.markReported [e]).report (clusterOf e.party.core)
      ⟨4, 1, [e.site.setWidth 64, BitVec.ofNat 64 (code * 2 ^ 60 + e.win % 16 * 2 ^ 56 + e.level % 8 * 2 ^ 53 +
          e.core % 8192 * 2 ^ 40 + arg), BitVec.ofNat 64 (x.fill.toNat * 2 ^ 32 + x.ext)], e.party.core, none⟩)
    (e.core < 6144 → x.v = true → x.held = false → x.mode = .plain →
      (e.kind = .read → x.pcnt = 0 → s.touching true e.core e.win = [] → reports 1 e.arg.toNat) ∧
      (e.kind = .fill → x.ccnt = 0 → s.touching false e.core e.win = [] → reports 2 0)) ∧
    (s.orphan e = false → Leaves i s s))) ∧
  (∀ (s : State) (c gn : Nat),
    let k := s.coreAt c
    let pol := k.wdctl.toNat / 2 ^ 37 % 4
    let limit := 2 ^ min 40 (max 16 (k.wdctl.toNat % 64))
    let heart : Nat := if k.wdctl.getLsbD 36 then 4 else 0
    let masks : Word := BitVec.ofNat 64 k.slotMasks
    let fires (p : State → Prop) : Prop := ∃ t, exec (.watchdogFire c) s = .next t ∧ (t.coreAt c).wdcnt = 0 ∧
      t.mem = s.mem ∧ (∃ e ∈ (t.clusterAt (clusterOf c)).held, e.kind = 5 ∧
        e.info = BitVec.ofNat 32 ((if pol = 3 then 0 else pol) + heart) ∧
        e.body = [BitVec.ofNat 64 c, k.wdcnt, masks, s.tick]) ∧ p t
    (twf Slot.init k.slots = true → (∀ e ∈ k.slots, e.1 < 32) → ∀ u, u < 32 →
      masks.getLsbD u = decide ((k.slotAt u).status = .waiting) ∧
      masks.getLsbD (32 + u) = decide ((k.slotAt u).status = .runnable)) ∧
    ((k.wdctl.getLsbD 39 = false ∨ k.wdcnt.toNat < limit) → Leaves (.watchdogFire c) s s) ∧
    (k.wdctl.getLsbD 39 = true → limit ≤ k.wdcnt.toNat → k.group = some gn →
      (pol = 0 ∨ pol = 3 → fires fun t => t.groups = s.groups ∧ ∀ d u, t.slotAt d u = s.slotAt d u) ∧
      (pol = 1 → fires fun t => .groupPreempt gn ∈ t.agenda ∧ ∀ d u, t.slotAt d u = s.slotAt d u) ∧
      (pol = 2 → (∀ e ∈ s.edges, e.kind ≠ .spawn) → fires fun t => .coreGroupCompletion gn ∈ t.agenda ∧
        ∀ d ∈ (s.groupAt gn).members, (t.coreAt d).commands = [] ∧ ∀ u, u < 32 →
          (t.slotAt d u).status = .free ∨ (s.quiet d u = false ∧ (t.slotAt d u).killing = true))))

/-- CENS and TRCM (R406 to R409): CENS changes the census state its operand names as its tick ends, and faults on any
other operand; TRCM forms a trace record of kind 6 where the trace unit is on. After its tick a record is filled into
the unit's window, or counted where that has no room; with the unit lent it goes to the ring in memory that the loan
names (R408, R415; the ring's layout is the model's choice, log 13). The census and replay (R401, R402, R404, R405): the
entry of an ended command is filled, waits for room, or is dropped and counted; a replay compares it with the oldest
element of its window, which it then shrinks; a held window makes that shrink wait (R363); a difference halts the core
and every other member of its group, and is reported. -/
def Obligations.Census : Prop :=
  (∀ (s : State) (w : BitVec 4) (z : BitVec 5) (n : BitVec 10) (tk : Word) (x : TraceRec) (q : Nat), HasNext s →
    let v := (s.me.readG z).toNat
    let k := s.coreAt s.cur
    let sets (x : Cens) : Prop :=
      EndsIn (.cens w z) s (s.setCore s.cur { k with censOp := some (w, s.me.readG z) }) ∧
        ∀ j : Core, j.cens = k.cens → j.censOp = some (w, s.me.readG z) → j.clearTick.cens = x
    let y := k.winAt k.trc.win.toNat
    (v = 0 → sets { k.cens with cwin := w, v := true }) ∧
    (v = 1 → sets { k.cens with v := false }) ∧
    (v < 32 → v % 8 = 2 →
      sets { k.cens with rwin := w, rpv := true, rpm := false, cseq := decide (v / 8 % 2 = 1), ccore := decide (v / 16 = 1) }) ∧
    (v = 3 → sets { k.cens with rpv := false }) ∧
    (v = 4 → sets { k.cens with cdrop := 0 }) ∧
    (4 < v → ¬(v < 32 ∧ v % 8 = 2) → Traps (.cens w z) s
      ⟨9, BitVec.ofNat 64 (v % 2 ^ 32 * 2 ^ 32 + 7 * 2 ^ 8 + 0x1E), none, none⟩) ∧
    (k.trc.v = false ∨ k.trc.kmask.getLsbD 5 = false → EndsIn (.trcm n z) s s) ∧
    (k.trc.v = true → k.trc.kmask.getLsbD 5 = true → EndsIn (.trcm n z) s (s.setCore s.cur { k with
      traced := k.traced ++ [(s.tick, k.trcLent, ⟨6, s.siteOf s.cur s.slot, s.me.readG z, 0, n.toNat, s.slot⟩)] })) ∧
    (let t := s.flushTrace s.cur
      let bytes := bytesOf 8 x.site.toNat ++ bytesOf 8 tk.toNat ++ bytesOf 8 x.value.toNat ++ bytesOf 1 x.kind ++
        bytesOf 1 x.code ++ bytesOf 2 x.n ++ bytesOf 4 0
      (k.traced = [(tk, false, x)] → tk ≠ s.tick → y.v = true → y.mode = .plain → y.esz = 3 → y.held = false →
        Unwatched k k.trc.win.toNat →
        (y.ext < y.cap.toNat → t.mem = s.mem ∧ (t.coreAt s.cur).traced = [] ∧
          (t.winAt s.cur k.trc.win.toNat).fill = y.fill + 1 ∧ (t.coreAt s.cur).readElem y y.ext = bytes) ∧
        (y.ext = y.cap.toNat → t.mem = s.mem ∧ t.coreAt s.cur = { k with
          traced := [], trc := { k.trc with drop := if k.trc.drop = 0xFFFF then 0xFFFF else k.trc.drop + 1 } })) ∧
      (k.traced = [(tk, true, x)] → tk ≠ s.tick → (s.clusterAt (clusterOf s.cur)).traceLoan = some q →
        (s.traceRingAt q).size ≠ 0 →
        (∀ b, tget 0 t.mem b = tget 0 (s.writeServed ((s.traceRingAt q).base.toNat +
          (s.traceRingAt q).next % (s.traceRingAt q).size * 32) bytes).mem b) ∧
        t.traceRingAt q = { s.traceRingAt q with next := (s.traceRingAt q).next + 1 }))) ∧
  (∀ (s : State) (c : Nat) (e : Ended) (m : Nat) (site : BitVec 46),
    let k := s.coreAt c
    let y := s.winAt c e.replayWin.toNat
    let diff := entryDiff e e.entry (k.readElem y 0)
    let event (why : Nat) (at_ : BitVec 46) : Word := BitVec.ofNat 64 (2 ^ 63 + why * 2 ^ 48 + at_.toNat)
    (k.ended = [e] → k.stop = .none → e.census = true → e.port = .fab → e.dw.isSome → siteCore e.cmd.site = c →
      e.shrinks = false → (∀ y ∈ k.fabRun, cmdOp y.cmd ≠ 3) →
      (e.compared = true → e.replay = false →
        (∀ w, e.cens = some w → ∀ x, x = s.winAt c w.toNat → x.v = true → x.mode = .plain → x.esz = 3 →
          x.held = false → Unwatched k w.toNat →
          (x.ext < x.cap.toNat → ∃ t, exec (.censusEntryFill c) s = .next t ∧ t.mem = s.mem ∧
            (t.coreAt c).ended = [{ e with census := false, fresh := false }] ∧ (t.winAt c w.toNat).fill = x.fill + 1 ∧
            (t.coreAt c).readElem x x.ext = bytesOf 8 e.cmd.site.toNat ++ bytesOf 4 e.cmd.nan ++ bytesOf 4 e.cmd.inf ++
              bytesOf 4 e.cmd.sat ++ bytesOf 4 e.cmd.unf ++ bytesOf 1 (cmdOp e.cmd.cmd) ++
              bytesOf 1 (e.fault.toNat + 2 * e.stop.toNat + 4 * e.mis.toNat) ++ bytesOf 6 0) ∧
          (x.ext = x.cap.toNat → ∃ t, exec (.censusEntryFill c) s = .next t ∧
            (t.coreAt c).ended = [{ e with fresh := false }] ∧ t.winAt c w.toNat = x ∧ ((t.coreAt c).stop = .none →
              ∃ z ∈ t.edges, z.party = .cmd e.cmd.site ∧ z.kind = .fill ∧ z.win = w.toNat))) ∧
        (e.cens = none → ∃ t, exec (.censusEntryFill c) s = .next t ∧
          (t.coreAt c).ended = [{ e with census := false, fresh := false }] ∧
          (t.coreAt c).cens.cdrop = (if k.cens.cdrop = 0xFFFFFFFF then 0xFFFFFFFF else k.cens.cdrop + 1))) ∧
      (e.compared = false → e.replay = true → e.mis = false → e.cens = none → y.v = true → y.mode = .plain → y.esz = 3 →
        y.held = false → y.poisonedAt 0 = false → 0 < y.ext → y.cap ≠ 0 →
        (diff = 0 → ∃ t, exec (.replayCompare c) s = .next t ∧ t.mem = s.mem ∧
          ((e.fresh = false ∨ k.dbgctl.getLsbD 0 = false) → (t.coreAt c).stop = .none) ∧
          (t.coreAt c).ended = [{ e with census := false, compared := true, fresh := false }] ∧
          (t.winAt c e.replayWin.toNat).head = y.head + 1) ∧
        (diff ≠ 0 → ∃ t, exec (.replayCompare c) s = .next t ∧ t.mem = s.mem ∧ (t.coreAt c).stop = .halted ∧
          (t.coreAt c).ended = [{ e with census := false, compared := true, mis := true, fresh := false }] ∧
          (t.coreAt c).cens.rpm = true ∧ (t.coreAt c).cens.rpv = false ∧ (t.coreAt c).dbgev = event 3 e.cmd.site ∧
          (∃ z ∈ (t.clusterAt (clusterOf c)).held, z.kind = 6 ∧ z.info = BitVec.ofNat 32 diff ∧ z.body.length = 8) ∧
          (∀ g, k.group = some g → m ∈ (s.groupAt g).members → m ≠ c → .memberHalt m e.cmd.site ∈ t.agenda)))) ∧
    (k.ended = [e] → k.stop = .none → e.census = true → e.compared = false → e.shrinks = true → y.held = true →
      siteCore e.cmd.site = c → ∃ t, exec (.replayCompare c) s = .next t ∧ t.mem = s.mem ∧ (t.coreAt c).ended = [e] ∧
        (∀ w, t.winAt c w = s.winAt c w) ∧ ∃ z ∈ t.edges, z.party = .cmd e.cmd.site ∧ z.win = e.replayWin.toNat) ∧
    (k.stop = .none → ∃ t, exec (.memberHalt c site) s = .next t ∧ (t.coreAt c).stop = .halted ∧
      (t.coreAt c).dbgctl = k.dbgctl ||| 6 ∧ (t.coreAt c).dbgev = event 3 site ∧ (t.coreAt c).haltTick = s.tick ∧
      t.msix = s.msix ++ [(0, 4)] ∧ t.mem = s.mem))

/-- Brodfort (R410 to R412): HALT stops a core and resumes it, a REP cut off between repeats issuing again (R113); a
register, a word of a window's descriptor or bytes of a window are read and written; a dump leaves the context image and
64 bytes in memory, but for that of a fenced die (R429); while the device does not run, reads return ones (R420). The
site of the event that a written HALT leaves, with slot, PC and SEQ of no task, is the model's choice (log 30), so is
that the answer of a read stands in `hostReply` (log 14), and so is what takes a write of a register (log 100). -/
def Obligations.Brodfort : Prop :=
  ∀ (s : State) (c u w b addr : Nat) (n : BitVec 10) (q : Fin 3) (v : Word),
    let k := s.coreAt c
    let bits : Word := if n = 0x139 then 0x80FF3FFFFFFFFFFF else if 0x13A ≤ n.toNat then 0xF0003FFFFFFFFFFF else -1
    let at_ := (s.winAt c w).base.toNat * 32 + b
    let halted (t : State) (ctl : BitVec 4) : Prop := (t.coreAt c).stop = .halted ∧ (t.coreAt c).dbgctl = ctl ∧
      (t.coreAt c).dbgev = BitVec.ofNat 64 (2 ^ 63 + 4 * 2 ^ 48 + (mkSite c 0 0 k.seq).toNat) ∧
      (t.coreAt c).haltTick = s.tick ∧ t.msix = s.msix ++ [(0, 4)] ∧ t.mem = s.mem ∧ ∀ d i, t.winAt d i = s.winAt d i
    let stores (t : State) : Prop := t.mem = s.mem ∧ (t.coreAt c).wins = k.wins ∧
      tgets 0 (t.coreAt c).wstore at_ 8 = bytesOf 8 v.toNat ∧
      ∀ i, i < at_ ∨ at_ + 8 ≤ i → tget 0 (t.coreAt c).wstore i = tget 0 k.wstore i
    (s.device.dev = .running →
      (k.stop = .none → (∃ t, exec (.coreHalt c) s = .next t ∧ halted t (k.dbgctl ||| 2)) ∧
        (v.getLsbD 1 = true → k.dbgctl.getLsbD 1 = false →
          ∃ t, exec (.brodfortAccess c (.sys u 0x138) (some v)) s = .next t ∧
            halted t ((k.dbgctl &&& 14) ||| (v.setWidth 4 &&& 1) ||| 2))) ∧
      (k.stop = .halted → k.round = none → ∃ t, exec (.coreResume c) s = .next t ∧ (t.coreAt c).stop = .none ∧
        (t.coreAt c).dbgctl = k.dbgctl &&& 1 ∧ (∀ i, t.slotAt c i = (s.slotAt c i).resumed) ∧ t.mem = s.mem) ∧
      (∀ x, s.sysRead c u n.toNat s.tick false = some x →
        Leaves (.brodfortAccess c (.sys u n) none) s { s with hostReply := x }) ∧
      ((n = 0x018 ∨ n = 0x01B ∨ n = 0x042 ∨ (0x139 ≤ n.toNat ∧ n.toNat ≤ 0x13D)) →
        ∃ t, exec (.brodfortAccess c (.sys u n) (some v)) s = .next t ∧ t.mem = s.mem ∧
          t.sysRead c u n.toNat t.tick false = some (v &&& bits)) ∧
      Leaves (.brodfortAccess c (.desc w q) none) s { s with hostReply := (s.winAt c w).word q.val } ∧
      (∃ t, exec (.brodfortAccess c (.desc w 1) (some v)) s = .next t ∧ t.mem = s.mem ∧
        t.winAt c w = { s.winAt c w with fill := (v >>> 32).setWidth 32, head := v.setWidth 32 }) ∧
      (∃ t, exec (.brodfortAccess c (.desc w 2) (some v)) s = .next t ∧ t.mem = s.mem ∧
        t.winAt c w = { s.winAt c w with
          hslot := (v >>> 33).setWidth 16, pv := v.getLsbD 32, pois := v.setWidth 32 }) ∧
      Leaves (.brodfortAccess c (.window w b) none) s
        { s with hostReply := BitVec.ofNat 64 (ofBytes (tgets 0 k.wstore at_ 8)) } ∧
      (at_ + 8 ≤ 131072 → ∃ t, exec (.brodfortAccess c (.window w b) (some v)) s = .next t ∧ stores t) ∧
      (k.stop = .halted → s.stopDone c none = true → Leaves (.brodfortDump c addr) s
        (if s.lostMemory (addr / 2 ^ 58) (addr % 2 ^ 58) then s else s.writeMem addr
          (s.contextImage c none ++ bytesOf 8 k.dbgev.toNat ++ bytesOf 8 k.haltTick.toNat ++
            bytesOf 8 k.cens.word.toNat ++ List.replicate 40 0)))) ∧
    (k.stop ≠ .halted → Leaves (.brodfortDump c addr) s s) ∧
    (s.device.dev ≠ .running → ∀ r, Leaves (.brodfortAccess c r none) s { s with hostReply := BitVec.allOnes 64 } ∧
      Leaves (.brodfortAccess c r (some v)) s s)

/-- Snapshots of the link counters and the buckets (R398, R416 to R418): LSNAP writes one to memory, in which a tenant
sees only its own clusters; at its ticks the interval unit writes one to the next buffer and clears the counts; every
1024 ticks a bucket with requests pending gains its share of the port. LSNAP's stores go once the buckets have let their
requests go (R398), and the memory of a fenced die takes no snapshot (R429). What a link counted is a free value, zero
while nothing has moved since the counts were cleared (log 13); that the base of the interval unit's buffers is a
physical address is presumed (log 29), and that a bucket is held as its distance below its top, numbered by port and
tenant, is the model's encoding (log 5). -/
def Obligations.CountersAndBuckets : Prop :=
  ∀ (s s1 : State) (a : BitVec 4) (ten q b port : Nat),
    let snap := s.snapshot false ten 0
    let l := s.links
    let i := l.interval.toNat
    let at_ := l.base.toNat + l.snapshot % l.buffers * 988352
    let key := port * 32 + ten
    let va := s.me.readA a
    let lost := s.lostMemory (at_ / 2 ^ 58) (at_ % 2 ^ 58)
    (HasNext s → s.me.sup = true → s.quiet s.cur s.slot = true → va.toNat % 64 = 0 →
      s.bulkFault s.cur (.store []) va (chunks snapshotBytes) 16 = none → Paid s s1 (.store []) va snapshotBytes 64 →
      EndsIn (.lsnap a) s
        (State.bulkPut (chunks snapshotBytes) s1 s.cur va (s1.snapshot false (s1.meterTenant s.cur) 0))) ∧
    (s.me.sup = true → va.toNat % 64 ≠ 0 → Traps (.lsnap a) s ⟨12, memFaultArg 7 7 1, none, some va⟩) ∧
    (snap.length = 988352 ∧ numAt snap 8 8 = s.tick.toNat ∧ numAt snap 24 8 = l.began.toNat ∧
      (ten ≠ 0 → q < 24 → (s.clusterAt q).owner.map BitVec.toNat ≠ some ten → b < 40960 →
        snap.getD (64 + 40960 * q + b) 0 = 0)) ∧
    (i < 14 ∨ 26 < i ∨ l.buffers = 0 ∨ s.tick.toNat % 2 ^ i ≠ 0 → Leaves .linkSnapshot s s) ∧
    (14 ≤ i → i ≤ 26 → l.buffers ≠ 0 → s.tick.toNat % 2 ^ i = 0 → l.began ≠ s.tick →
      ∃ t, exec .linkSnapshot s = .next t ∧
        (lost = false → t.readMem at_ 988352 = s.snapshot true 0 l.snapshot) ∧
        (∀ j, j < at_ ∨ at_ + 988352 ≤ j ∨ lost = true → tget 0 t.mem j = tget 0 s.mem j) ∧
        t.links = { l with snapshot := l.snapshot + 1, began := s.tick, cleared := l.moved } ∧
        ∀ d h, d < 4 → h < 64 → (t.sliceAt (d, h)).evictions = 0 ∧ (t.sliceAt (d, h)).merges = 0 ∧
          (t.sliceAt (d, h)).exceptions = 0) ∧
    (l.moved = l.cleared → s.linkCount q = 0) ∧
    (s.tick.toNat % 1024 ≠ 0 → Leaves .bucketRefill s s) ∧
    (s.tick.toNat % 1024 = 0 → ∃ t, exec .bucketRefill s = .next t ∧ t.mem = s.mem ∧ t.shares = s.shares ∧
      (ten < 32 → (port, ten) ∉ s.pendingPorts → tget 0 t.buckets key = tget 0 s.buckets key) ∧
      ((port, ten) ∈ s.pendingPorts → 0 < s.share port ten → s.share port ten ≤ 256 →
        (∀ x ∈ s.pendingPorts, x.1 = port → x.2 = ten) → tget 0 t.buckets key = tget 0 s.buckets key - 65536))

/-! ## Launch -/

/-- A launch unit takes the next record of 24 elements when it is idle, its function is not fenced and no kept group
can be restored (R158, R161, R163); a condition on a completion counter makes it wait (R159); the unit of a multi-part
launch hears of the other records and fails with them (R162); a full status window holds its elements (R164). The
checks of a part and its loading (R58, R59, R161, R432): an image with data that cannot be corrected fails with 0x84,
DETAIL 9; a part that fails a check posts its code and detail; one that
passes and finds its members free is loaded: they belong to the group, their slots are free, and the image's words
stand from the load base; else it waits, or pre-empts a group of lower priority. The image is read once the buckets have
let its requests go (R398). A launch-time record (R58, R59) that fits sets the bits of its field, in one word or in the
four of a command constant, to its value and changes no other bit, and no record fits that R59 rejects; that one whose
WORD lies outside the image is rejected without CC too is the model's choice (log 50). -/
def Obligations.Launch : Prop :=
  (∀ (s : State) (cl other d : Nat) (gid : BitVec 16) (v : Word) (bad : Bool),
    let u := s.unitAt cl
    let r := u.record
    let o := s.unitAt other
    let cc := (u.cc.toList.getD (recFld r 1 48 4) 0).toNat
    let word (n : Nat) : Word := BitVec.ofNat 64 n
    (u.stage = .idle → u.posts = [] → s.fenced cl = false →
      ((s.restorable cl).isSome → Leaves (.launchRecordRead cl) s (s.post (.groupRestore cl))) ∧
      (s.restorable cl = none → u.records.ext < 24 → Leaves (.launchRecordRead cl) s s) ∧
      (s.restorable cl = none → 24 ≤ u.records.ext → ∃ t, exec (.launchRecordRead cl) s = .next t ∧ t.mem = s.mem ∧
        t.unitAt cl = { u with
          stage := .read, record := u.records.elems.take 24, rseq := u.readCount, readCount := u.readCount + 1, posted05 := false, binds := [],
          records := ⟨u.records.head + 24, u.records.fill, u.records.elems.drop 24⟩, paid := 0 } ∧
        .launchPartLoad ⟨cl, false⟩ ∈ t.agenda ∧
        (recGid (u.records.elems.take 24) ≠ 0 → ∀ q, q < 24 → q ≠ cl → .launchPartMessage q cl ∈ t.agenda))) ∧
    ((u.stage ≠ .idle ∨ u.posts ≠ [] ∨ s.fenced cl = true) → Leaves (.launchRecordRead cl) s s) ∧
    (s.failedElsewhere cl = none → recFld r 1 52 1 = 1 → 2 ^ 15 ≤ (cc + 65536 - recFld r 1 32 16) % 65536 →
      Leaves (.launchPartLoad ⟨cl, bad⟩) s s) ∧
    (u.stage = .read → o.stage ≠ .idle → recGid o.record ≠ 0 → s.failedElsewhere cl = none →
      ∃ t, exec (.launchPartMessage cl other) s = .next t ∧ (t.unitAt cl).heard.contains other = true ∧
        (t.unitAt cl).record = r ∧ .launchPartLoad ⟨cl, false⟩ ∈ t.agenda ∧ t.mem = s.mem) ∧
    (u.stage = .read → s.failedElsewhere cl = some d → ∃ t, exec (.launchPartMessage cl other) s = .next t ∧
      (t.unitAt cl).stage = .idle ∧ t.mem = s.mem ∧ (t.unitAt cl).posts = u.posts ++
        [word (recGid r % 65536 * 2 ^ 48 + u.rseq.toNat * 2 ^ 32 + d % 256 * 256 + 0x87)]) ∧
    (u.posts = [v] → u.status.ext < 64 → ∃ t, exec (.launchStatusPost cl) s = .next t ∧ (t.unitAt cl).posts = [] ∧
      (t.unitAt cl).status = ⟨u.status.head, u.status.fill + 1, u.status.elems ++ [v]⟩ ∧
      t.msix = s.msix ++ (s.clusterAt cl).owner.toList.map (fun f => (f.toNat, 1)) ∧ t.mem = s.mem) ∧
    (64 ≤ u.status.ext → Leaves (.launchStatusPost cl) s (s.post (.launchRecordRead cl))) ∧
    (gid ≠ 0 → (∀ e ∈ s.gidFails, e.1 ≠ gid) → u.stage ≠ .idle → recGid r = gid.toNat → cl < 24 →
      ∃ t n, exec (.gidCancel gid) s = .next t ∧ t.gidFails = (gid, 0xFF, n) :: s.gidFails ∧
        .launchPartMessage cl cl ∈ t.agenda ∧ t.mem = s.mem) ∧
    ((∀ q, q < 24 → (s.unitAt q).stage = .idle ∨ recGid (s.unitAt q).record ≠ gid.toNat) → Leaves (.gidCancel gid) s s)) ∧
  (∀ (s s1 : State) (cl g code detail : Nat) (parts : List (Nat × List Word)) (ld : Loaded) (head : List Byte)
    (bad : Bool),
    let u := s.unitAt cl
    let r := u.record
    let ms := partMembers cl r
    let cc := (u.cc.toList.getD (recFld r 1 48 4) 0).toNat
    let due : Prop := u.stage = .read ∧ u.posts = [] ∧ s.fenced cl = false ∧ s.failedElsewhere cl = none ∧
      ¬(recFld r 1 52 1 = 1 ∧ 2 ^ 15 ≤ (cc + 65536 - recFld r 1 32 16) % 65536) ∧ s.partsOf cl = some parts
    let goes : Prop := due ∧ s.payUnit cl .load 16 (s.imageReads cl r) = (s1, true)
    (recOk r = false → s.checkPart cl r parts bad = .error (0x83, 0xFF)) ∧
    (recOk r = true → recOutside r = none → s.imageBytes (cl * 256) (recImage r) 64 = .ok head →
      (bad = true → s.checkPart cl r parts bad = .error (0x84, 9)) ∧
      (bad = false → KImage.ok ⟨recImage r, head, cl * 256⟩ = false → s.checkPart cl r parts bad = .error (0x82, 0))) ∧
    (due → s.payUnit cl .load 16 (s.imageReads cl r) = (s1, false) → Leaves (.launchPartLoad ⟨cl, bad⟩) s s1) ∧
    (goes → s1.checkPart cl r parts bad = .error (code, detail) → ∃ t, exec (.launchPartLoad ⟨cl, bad⟩) s = .next t ∧
      (t.unitAt cl).stage = .idle ∧ t.mem = s.mem ∧ (t.unitAt cl).posts =
        [BitVec.ofNat 64 (recGid r % 65536 * 2 ^ 48 + u.rseq.toNat * 2 ^ 32 + detail % 256 * 256 + code)]) ∧
    (goes → s1.checkPart cl r parts bad = .ok ld → (∀ c ∈ ms, (s.coreAt c).group = none) →
      ms.any s.device.sparing.contains = false → ∃ t gn, exec (.launchPartLoad ⟨cl, bad⟩) s = .next t ∧
        (t.unitAt cl).stage = .loaded gn ∧ (t.unitAt cl).binds = partBinds r ld.binds ∧ t.mem = s.mem ∧
        .startBarrierFire gn ∈ t.agenda ∧ ∀ c ∈ ms, (t.coreAt c).group = some gn ∧
          (∀ i, i < 32 → (t.slotAt c i).status = .free) ∧ (t.coreAt c).seq = 0 ∧ (t.coreAt c).commands = [] ∧
          ∀ i, i < ld.words.length →
            tget 0 (t.coreAt c).istore (4 * recFld r 2 22 10 + i) = BitVec.ofNat 32 (ld.words.getD i 0)) ∧
    (goes → s1.checkPart cl r parts bad = .ok ld → (∃ c ∈ ms, ∃ h, (s.coreAt c).group = some h ∧
      (recLpri r).toNat ≤ (s.groupAt h).lpri.toNat) → Leaves (.launchPartLoad ⟨cl, bad⟩) s s1) ∧
    (goes → s1.checkPart cl r parts bad = .ok ld → (∀ c ∈ ms, (s.coreAt c).group = none ∨ (s.coreAt c).group = some g) →
      (∃ c ∈ ms, (s.coreAt c).group = some g) → ms.any s.device.sparing.contains = false →
      (s.groupAt g).lpri.toNat < (recLpri r).toNat → (s.groupAt g).started = true → (s.groupAt g).saving = false →
      s.hasSaveSlot g = true → Leaves (.launchPartLoad ⟨cl, bad⟩) s (s1.post (.groupPreempt g)))) ∧
  (∀ (words ws : List Nat) (n : Nat) (r : List Word) (ms : List Nat),
    let i := n / 2 ^ 48 % 4096
    let pos := n / 2 ^ 41 % 128
    let wid := n / 2 ^ 34 % 128
    let cc := n / 2 ^ 32 % 2
    let span := 1 + 3 * cc
    let field (l : List Nat) : Nat := ((List.range span).map fun j => l.getD (i + j) 0 * 2 ^ (32 * j)).sum
    let x := recordValue n (field words / 2 ^ pos % 2 ^ wid) r ms
    let val := n / 2 ^ 8 % 2 ^ 24
    (∀ w ∈ words, w < 2 ^ 32) →
    (applyRecord words n r ms = some ws → ws.length = words.length ∧
      (∀ j, j < i ∨ i + span ≤ j → ws.getD j 0 = words.getD j 0) ∧
      ∃ v, x = some v ∧ ∀ b, (field ws).testBit b =
        if pos ≤ b ∧ b < pos + wid then v.testBit (b - pos) else (field words).testBit b) ∧
    (applyRecord words n r ms = none ↔ (wid = 0 ∨ 80 < wid ∨ 32 * span < pos + wid ∨ words.length < i + span ∨
      (cc = 1 ∧ i % 4 ≠ 0) ∨ x = none ∨ (∃ v, x = some v ∧ 2 ^ wid ≤ v))) ∧
    (n / 2 ^ 60 = 3 → ∀ c, recordValue n c r ms = some
      ((recWord r (4 + n % 16) + (if val < 2 ^ 23 then val else 2 ^ 80 + val - 2 ^ 24)) % 2 ^ 80)) ∧
    (n / 2 ^ 60 = 0 ∨ 4 < n / 2 ^ 60 → ∀ c, recordValue n c r ms = none) ∧
    (n / 2 ^ 60 = 1 → ∀ c, recordValue n c r ms = some (c + 4 * recFld r 2 22 10)) ∧
    (n / 2 ^ 60 = 2 → ∀ c, recordValue n c r ms = some (recWord r (4 + n % 16))) ∧
    (n / 2 ^ 60 = 4 → ∀ c, recordValue n c r ms = ms[n % 2 ^ 13]?))

/-- Groups (R161 to R164, R368): the start barrier fires once every part is loaded and binds each member's slots in
order; a group whose slots are free and whose commands have ended completes, and its cores return to reset; a
pre-empted group stops, is saved, and is restored when its cores are free; a kept group can be discarded. Images move
once the buckets have let their requests go (R398). That a group being saved has its save slots reserved, that a
pre-emption of a group that has not started changes nothing, and that a discard posts its status and counts nothing, are
the model's reading (log 54). -/
def Obligations.Groups : Prop :=
  ∀ (s s1 : State) (gn cl j c i : Nat) (ms : List Nat) (n : BitVec 16) (counts : Bool) (cc : BitVec 4) (x : Kept)
    (images : List (Nat × List Byte)),
    let g := s.groupAt gn
    let u := s.unitAt cl
    let at_ (t : State) : LaunchUnit := t.unitAt cl
    let status (code : Nat) : Word := BitVec.ofNat 64 (g.gid.toNat * 2 ^ 48 + n.toNat * 2 ^ 32 + code)
    let leaves (e : Instr) (p : State → Prop) : Prop := ∃ t, exec e s = .next t ∧ p t
    let l := (levelOf (recFld u.record 1 19 3)).getD .lane
    let b : BitVec 4 := BitVec.ofNat 4 (recFld u.record 1 22 4)
    let stopped := g.members.foldl (fun s c => s.stopStep c) s
    let done := g.members.foldl (fun s c => s.finishStop c none) stopped
    g.parts = [(cl, ms, n, counts, cc)] → g.members = ms → ms.Nodup →
    (g.started = false → u.stage = .loaded gn → u.binds.length ≤ 32 → (∀ c ∈ ms, ∀ i, i < 32 → (s.slotAt c i).status = .free) →
      leaves (.startBarrierFire gn) fun t => (t.groupAt gn).started = true ∧ (at_ t).stage = .idle ∧ t.mem = s.mem ∧
        (at_ t).posts = u.posts ++ [status 1] ∧
        (c ∈ ms → ∃ gen, .barrierReleaseArrival c l b gen false ∈ t.agenda) ∧
        (c ∈ ms → i < u.binds.length → (t.slotAt c i).bind = u.binds.getD i 0 ∧ (t.slotAt c i).lsup = g.sup ∧
          (t.slotAt c i).status ≠ .free) ∧
        (c ∈ ms → u.binds.length ≤ i → (t.slotAt c i).status = (s.slotAt c i).status)) ∧
    (g.started = true ∨ u.stage ≠ .loaded gn → Leaves (.startBarrierFire gn) s s) ∧
    (g.started = true → g.saving = false → (∀ c ∈ ms, (s.coreAt c).group = some gn ∧ (s.coreAt c).commands = [] ∧
        (∀ e ∈ (s.coreAt c).slots, e.2.status = .free) ∧ ∀ a ∈ s.accs, ∀ y, a.holder = .cmd y → siteCore y ≠ c) →
      leaves (.coreGroupCompletion gn) fun t => tget none t.groups gn = none ∧ t.mem = s.mem ∧
        (at_ t).posts = u.posts ++ [status (if g.failed then 0x88 else 0x02)] ∧
        (at_ t).cc[cc.toNat] = u.cc[cc.toNat] + (if counts then 1 else 0) ∧
        (c ∈ ms → (t.coreAt c).group = none ∧ (t.coreAt c).istore = [] ∧ (t.coreAt c).wstore = [] ∧ (t.coreAt c).seq = 0 ∧
          ∀ w, t.winAt c w = Win.init)) ∧
    (g.started = true → g.saving = false → (∀ c ∈ ms, (s.coreAt c).group = some gn) → s.hasSaveSlot gn = true →
      leaves (.groupPreempt gn) fun t => ∀ c ∈ ms, (t.coreAt c).stop = .saved none) ∧
    (g.started = true → g.saving = true → (∀ c ∈ ms, (s.coreAt c).group = some gn) →
      (∀ c ∈ ms, stopped.stopDone c none = true ∧ stopped.releaseComing c = false) → done.saveXfer gn = .fine →
      (done.payParts (.store []) 64 (done.saveList gn) = (s1, true) →
        leaves (.groupPreempt gn) fun t => (t.groupAt gn).saving = false ∧ (at_ t).posts = u.posts ++ [status 3] ∧
          ∀ c ∈ ms, (t.coreAt c).group = none) ∧
      (done.payParts (.store []) 64 (done.saveList gn) = (s1, false) → Leaves (.groupPreempt gn) s s1)) ∧
    (g.started = false ∨ (g.saving = false ∧ s.hasSaveSlot gn = false) → Leaves (.groupPreempt gn) s s) ∧
    (u.stage = .idle → u.posts = [] → s.fenced cl = false → s.restorable cl = some (j, x) → x.group = gn →
      (s.restoreXfer gn = (.fine, images) → s.payParts .load 16 (s.restoreList gn images) = (s1, true) →
        leaves (.groupRestore cl) fun t => (at_ t).posts = [status 4] ∧
          t.mem = s.mem ∧ (∀ y ∈ (at_ t).kept, ∀ z, y = some z → z.group ≠ gn) ∧
          ∀ e ∈ images, (t.coreAt e.1).group = some gn) ∧
      (s.restoreXfer gn = (.fine, images) → s.payParts .load 16 (s.restoreList gn images) = (s1, false) →
        Leaves (.groupRestore cl) s s1) ∧
      (∀ r, s.restoreXfer gn = (.fatal, r) → leaves (.groupRestore cl) fun t => (at_ t).posts = [status 0x88] ∧
        t.mem = s.mem ∧ tget none t.groups gn = none)) ∧
    (s.restorable cl = none → Leaves (.groupRestore cl) s s) ∧
    (u.kept.getD j none = some x → x.group = gn → s.device.dev = .running → leaves (.keptGroupDiscard cl j) fun t =>
      (at_ t).posts = u.posts ++ [status 2] ∧ t.mem = s.mem ∧ tget none t.groups gn = none ∧
        ∀ y ∈ (at_ t).kept, ∀ z, y = some z → z.group ≠ gn) ∧
    (u.kept.getD j none = none ∨ s.device.dev ≠ .running → Leaves (.keptGroupDiscard cl j) s s)

/-! ## Functions, tenants, the host -/

/-- Owners and configuration space (R164, R239, R360, R393, R394, R397, R398, R416): a cluster changes its owner while
it runs no group, and its translation context takes the new tenant's number; a register of configuration space takes the
bits it has, every function's while the device runs and only function 0's in the safe state (R420); a share is taken
only where the port's shares stay within 256, and its bucket keeps what it holds, up to its top. Loans (R415): the stall
counters and the trace unit of a virtual function's cluster are lent and returned; the guest reads every register as
before, the lent counters start from zero. The reset of a virtual function (R399): its networks drain and close first,
and a killed task is gone once its accesses are performed (R262); then its tasks and groups are gone, its cores are as
after reset, its units keep their counters and hold nothing else, and no other unit changes. The model's choices or
readings are: that TEN of PTROOT follows the owner at once, and that the clusters and networks of a fenced die get no
owner (log 46); that a share above what the port has left is not taken and that a bucket is clamped to its new top (log
47); what the reset of a virtual function empties and what it keeps (log 55); and the registers that name a trace ring
(log 13). -/
def Obligations.Tenants : Prop :=
  (∀ (s : State) (cl net e port ten : Nat) (f : Option (BitVec 5)) (v : Word) (any : CfgReg),
    let k := s.clusterAt cl
    let up (r : CfgReg) : Prop := s.functionUp (s.cfgFunction r) = true
    let owned (o : Option (BitVec 5)) (w : Word) : Word :=
      (w &&& 0x03FFFFFFFFFF3FFF) ||| BitVec.ofNat 64 ((o.getD 0).toNat * 2 ^ 58)
    let writes (r : CfgReg) (t : State) : Prop := up r → Leaves (.configSpaceWrite r v) s t
    let others := (((List.range 24).filter (· ≠ ten)).map (s.share port)).sum
    let dead (d : Nat) : Prop := (s.dieAt d).fenced = true
    ((s.unitAt cl).stage = .idle → (∀ c, clusterOf c = cl → (s.coreAt c).group = none) → ¬dead (cl / 6) →
      Leaves (.clusterOwnerSet cl f) s (s.setCluster cl { k with owner := f, ptroot := owned f k.ptroot })) ∧
    ((dead (cl / 6) ∨ (s.unitAt cl).stage ≠ .idle ∨ ∃ c, clusterOf c = cl ∧ (s.coreAt c).group ≠ none) →
      Leaves (.clusterOwnerSet cl f) s s) ∧
    (¬dead (net / 8) → Leaves (.networkOwnerSet net f) s (s.setNet net { s.netAt net with owner := f })) ∧
    (dead (net / 8) → Leaves (.networkOwnerSet net f) s s) ∧
    (s.device.dev = .running → up any) ∧
    (s.device.dev = .safe → (up (.ptag port) ↔ port = 0) ∧ up (.share port ten) ∧ up .linkBase ∧
      (k.owner = none → up (.ptroot cl)) ∧
      (∀ o, k.owner = some o → o ≠ 0 → ¬up (.ptroot cl) ∧ ¬up (.wdDefault cl) ∧ ¬up (.saveArea cl))) ∧
    (s.device.dev = .booting ∨ s.device.dev = .off → ¬up any) ∧
    (¬up any → Leaves (.configSpaceWrite any v) s s) ∧
    writes (.ptroot cl) (s.setCluster cl { k with ptroot := owned k.owner v }) ∧
    writes (.wdDefault cl) (s.setCluster cl { k with wdDefault := v.setWidth 40 &&& 0xFF0000003F }) ∧
    writes (.saveArea cl) (s.setCluster cl { k with saveArea := some (v.setWidth 80 <<< 16) }) ∧
    (up (.ptag port) → ∃ t, Leaves (.configSpaceWrite (.ptag port) v) s t ∧ tget 0 t.ptags port = v.setWidth 16) ∧
    writes (.podGid e) (s.setPod e { s.podAt e with gid := v.setWidth 16 }) ∧
    writes (.podTag e) (s.setPod e { s.podAt e with tag := v.setWidth 16 }) ∧
    writes (.podMask e) (s.setPod e { s.podAt e with mask := v }) ∧
    writes (.podCount e) (s.setPod e { s.podAt e with count := v.setWidth 16 }) ∧
    (up (.share port ten) → v.toNat + others ≤ 256 → ∃ t, Leaves (.configSpaceWrite (.share port ten) v) s t ∧
      t.share port ten = v.toNat ∧
      t.bucket port ten = min (s.bucket port ten) (512 * v.toNat) ∧ t.mem = s.mem) ∧
    (256 < v.toNat + others → writes (.share port ten) s) ∧
    writes .linkInterval { s with links := { s.links with interval := v.setWidth 5, began := s.tick } } ∧
    writes .linkBase { s with links := { s.links with base := v.setWidth 80 } } ∧
    writes .linkBuffers { s with links := { s.links with buffers := v.toNat } } ∧
    writes (.traceBase e) (s.setTraceRing e { s.traceRingAt e with base := v.setWidth 80, next := 0 }) ∧
    writes (.traceSize e) (s.setTraceRing e { s.traceRingAt e with size := v.toNat, next := 0 })) ∧
  (∀ (s : State) (cl ring c u n : Nat) (b : Bool), clusterOf c = cl → n ≠ 0x13F →
    let k := s.coreAt c
    let asBefore (t : State) : Prop := t.mem = s.mem ∧ t.tick = s.tick ∧
      t.sysRead c u n s.tick true = s.sysRead c u n s.tick true
    let virtual : Prop := ∃ f, (s.clusterAt cl).owner = some f ∧ f ≠ 0
    (virtual → k.stallLent = false → ∃ t, exec (.stallCounterLoan cl) s = .next t ∧ asBefore t ∧
      (t.coreAt c).stallLent = true ∧ (t.clusterAt cl).stallLoan = true ∧
      (0x140 ≤ n → n ≤ 0x14F → t.sysRead c u n s.tick false = some 0)) ∧
    (virtual → k.trcLent = false → ∃ t, exec (.traceLoan cl ring) s = .next t ∧ asBefore t ∧
      (t.coreAt c).trcLent = true ∧ (t.clusterAt cl).traceLoan = some ring) ∧
    (¬virtual → Leaves (.stallCounterLoan cl) s s ∧ Leaves (.traceLoan cl ring) s s) ∧
    (∃ t, exec (.loanReturn cl b) s = .next t ∧ asBefore t ∧
      (if b then (t.coreAt c).trcLent = false ∧ (t.clusterAt cl).traceLoan = none
        else (t.coreAt c).stallLent = false ∧ (t.clusterAt cl).stallLoan = false))) ∧
  (∀ (s : State) (ten : BitVec 5) (cl n : Nat),
    (ten = 0 ∨ 23 < ten.toNat ∨ ten ∈ s.resets ∨ s.device.dev ≠ .running → Leaves (.vfReset ten) s s) ∧
    (ten ≠ 0 → ten.toNat ≤ 23 → ten ∉ s.resets → s.device.dev = .running →
      (n < 32 → (s.netAt n).owner = some ten → (s.netAt n).tokens ≠ [] → (s.netAt n).state = .opened →
        ∃ t, exec (.vfReset ten) s = .next t ∧ t.resets = ten :: s.resets ∧ (t.netAt n).state = .draining ∧
          t.mem = s.mem) ∧
      ((∀ m, m < 32 → (s.netAt m).owner ≠ some ten) → (∀ a ∈ s.accs, ∃ c, a.holder = .agent c) →
        ∃ t, exec (.vfReset ten) s = .next t ∧ t.mem = s.mem ∧
        t.resets = s.resets ∧ (cl < 24 →
          ((s.clusterAt cl).owner = some ten →
            (t.unitAt cl).stage = .idle ∧ (t.unitAt cl).records.elems = [] ∧ (t.unitAt cl).cc = (s.unitAt cl).cc ∧
            (t.unitAt cl).kept = [none, none, none, none] ∧ ∀ c, clusterOf c = cl → (t.coreAt c).group = none ∧
              (t.coreAt c).commands = [] ∧ (∀ u, u < 32 → (t.slotAt c u).status = .free) ∧
              ∀ w, t.winAt c w = Win.init) ∧
          ((s.clusterAt cl).owner ≠ some ten → t.unitAt cl = s.unitAt cl)))))

/-- The host's accesses (R394, R395, R420): a doorbell fills an ingress or service window with room, frees elements of
an egress window, reads its oldest element and its pointers; one that is not permitted does nothing but count, a fenced
cluster takes none, and a device that does not run answers ones. An address of BAR 2 falls into the regions of the
function's clusters in increasing order: 16 bytes for each window slot of its cores, then those of its service windows;
an access of another size or offset is one to reserved bytes, discarded or answered with ones, and counted. The model's
choices or readings are: that a write to the memory of a fenced die is discarded (log 57), that a doorbell or a shrink
beyond the extent does nothing but count (log 48), and that the answer of a read stands in `hostReply` (log 14). -/
def Obligations.HostAccesses : Prop :=
  ∀ (s : State) (c w cl addr fn j i size : Nat) (v : Word) (f : BitVec 5) (bs : List Byte),
    let k := s.coreAt c
    let x := s.winAt c w
    let u := s.unitAt cl
    let lost : Prop := addr / 2 ^ 58 ≠ 2 ∧ addr % 2 ^ 58 / 2 ^ 52 = s.pkg.toNat ∧ (s.dieAt (addr / 2 ^ 50 % 4)).fenced = true
    let regions := (List.range 24).filter fun q => (s.clusterAt q).owner == some (BitVec.ofNat 5 fn)
    let bar (off : Nat) : HostWin := .bar fn (0x20000 * j + off) 8
    let same (off : Nat) (h : HostWin) : Prop :=
      exec (.hostFill (bar off) v) s = exec (.hostFill h v) s ∧
      exec (.hostReadElement (bar off)) s = exec (.hostReadElement h) s ∧
      exec (.hostShrink (bar (off + 8)) v) s = exec (.hostShrink h v) s ∧
      exec (.hostReadPointers (bar (off + 8))) s = exec (.hostReadPointers h) s
    let ones (i : Instr) (h : HostWin) : Prop := ∃ t, exec i s = .next t ∧ t.hostReply = BitVec.allOnes 64 ∧ t.mem = s.mem ∧
      ((s.clusterAt (hostCluster h)).owner = some f → tget 0 t.hostErrors f.toNat = tget 0 s.hostErrors f.toNat + 1)
    let counted (h : HostWin) (t : State) : Prop := (s.clusterAt (hostCluster h)).owner = some f →
      tget 0 t.hostErrors f.toNat = tget 0 s.hostErrors f.toNat + 1
    let denied (i : Instr) (h : HostWin) : Prop := ∃ t, exec i s = .next t ∧ counted h t ∧ t.cores = s.cores ∧
      t.clusters = s.clusters ∧ t.mem = s.mem
    let n := v.toNat % 2 ^ 32
    (s.fenced (clusterOf c) = false → Unwatched k w →
      (x.v = true → x.mode = .ingress → x.held = false → x.ext < x.cap.toNat →
        ∃ t, exec (.hostFill (.core c w) v) s = .next t ∧ Filled s t c w v) ∧
      (x.v = false ∨ x.mode ≠ .ingress ∨ x.held = true ∨ x.ext = x.cap.toNat →
        denied (.hostFill (.core c w) v) (.core c w)) ∧
      (x.v = true → x.mode = .egress → x.held = false → n ≤ x.ext →
        ∃ t, exec (.hostShrink (.core c w) v) s = .next t ∧ (t.winAt c w).head = x.head + BitVec.ofNat 32 n ∧
          (t.winAt c w).fill = x.fill ∧ t.mem = s.mem) ∧
      (x.v = false ∨ x.mode ≠ .egress ∨ x.held = true ∨ x.ext < n →
        denied (.hostShrink (.core c w) v) (.core c w))) ∧
    (s.fenced (clusterOf c) = true →
      Leaves (.hostFill (.core c w) v) s s ∧ Leaves (.hostShrink (.core c w) v) s s) ∧
    (s.fenced cl = false →
      (u.records.ext < 768 → ∃ t, exec (.hostFill (.records cl) v) s = .next t ∧ t.mem = s.mem ∧
        (t.unitAt cl).records = ⟨u.records.head, u.records.fill + 1, u.records.elems ++ [v]⟩ ∧
        .launchRecordRead cl ∈ t.agenda) ∧
      (768 ≤ u.records.ext → denied (.hostFill (.records cl) v) (.records cl)) ∧
      denied (.hostFill (.status cl) v) (.status cl) ∧ denied (.hostShrink (.records cl) v) (.records cl) ∧
      denied (.hostFill (.reserved cl) v) (.reserved cl) ∧ denied (.hostShrink (.reserved cl) v) (.reserved cl) ∧
      (n ≤ u.status.ext → ∃ t, exec (.hostShrink (.status cl) v) s = .next t ∧ t.mem = s.mem ∧
        (t.unitAt cl).status = ⟨u.status.head + BitVec.ofNat 32 n, u.status.fill, u.status.elems.drop n⟩)) ∧
    (s.device.dev = .running →
      (x.v = true → x.held = false → 0 < x.ext → ∃ a, IsElement k x 0 a ∧
        Leaves (.hostReadElement (.core c w)) s { s with hostReply := a }) ∧
      (x.v = false ∨ x.held = true ∨ x.ext = 0 →
        Leaves (.hostReadElement (.core c w)) s { s with hostReply := 0 }) ∧
      Leaves (.hostReadElement (.status cl)) s { s with hostReply := u.status.elems.headD 0 } ∧
      Leaves (.hostReadPointers (.core c w)) s { s with hostReply := x.fill ++ x.head } ∧
      Leaves (.hostReadPointers (.records cl)) s { s with hostReply := u.records.fill ++ u.records.head } ∧
      (¬lost → Leaves (.hostMemoryWrite addr bs) s (s.writeMem addr bs))) ∧
    (addr / 2 ^ 58 = 2 → Leaves (.hostMemoryWrite addr bs) s (s.writeMem addr bs)) ∧
    (lost ∨ addr / 2 ^ 58 ≠ 2 ∧ s.device.dev ≠ .running → Leaves (.hostMemoryWrite addr bs) s s) ∧
    (s.device.dev ≠ .running →
      ones (.hostReadElement (.core c w)) (.core c w) ∧ ones (.hostReadPointers (.core c w)) (.core c w)) ∧
    ones (.hostReadElement (.reserved cl)) (.reserved cl) ∧ ones (.hostReadPointers (.reserved cl)) (.reserved cl) ∧
    (∀ q, regions[j]? = some q → (i < 256 → w < 16 → same (256 * i + 16 * w) (.core (256 * q + i) w)) ∧
      same 0x10000 (.records q) ∧ same 0x10010 (.status q) ∧ same 0x10100 (.faults q) ∧ same 0x10110 (.answers q) ∧
      same 0x10200 (.reports q) ∧ same 0x10020 (.reserved q) ∧
      (size ≠ 8 ∨ i % 16 ≠ 0 → i < 0x20000 →
        exec (.hostFill (.bar fn (0x20000 * j + i) size) v) s = exec (.hostFill (.reserved q) v) s ∧
        exec (.hostReadElement (.bar fn (0x20000 * j + i) size)) s = exec (.hostReadElement (.reserved q)) s) ∧
      (size ≠ 8 ∨ i % 16 ≠ 8 → i < 0x20000 →
        exec (.hostShrink (.bar fn (0x20000 * j + i) size) v) s = exec (.hostShrink (.reserved q) v) s ∧
        exec (.hostReadPointers (.bar fn (0x20000 * j + i) size)) s = exec (.hostReadPointers (.reserved q)) s))

/-! ## The life of the device -/

/-- Power, bring-up and the alarm (R419, R420, R422, R426, R427): a bring-up whose stages all pass leaves the device
running with everything at its reset value; a stage that fails leaves safe mode with its cause; power that goes takes
the package's state with it; the alarm stops every core and leaves the mailbox alone. The mailbox and the firmware
(R421, R423 to R425): an image is verified where its key has the fused hash and its signature is one of its digest,
which is measured first; a command that is accepted shows BUSY and is answered at the end of the tick by the status
word, the measurements, an attestation of part number, policy, measurements and nonce, or one word for any other and for
one it cannot serve; one that comes meanwhile is discarded; the firmware changes only while nothing runs. An error that
no check corrects is, at a home slice, met by the next reads of its bytes, and anywhere else an unrecoverable fault of
the command whose data it was (log 85). Repairs (R393, R397, R428 to R430): a spare takes a free core's place with its
class queues; a busy core waits for its group to leave it; a fenced die has no owners; a replaced peer leaves the masks
and the domain; corrected errors count, and the events that only cost time change nothing. The model's choices or
readings, beside log 85, are: the formats of the mailbox's answers, the layout of an attestation and the effect of a
switchover that is refused (log 6); that power and a restart keep what lies outside the package (log 57); that the class
queues stay with a spared core and when the spare comes in (log 58); what the alarm drops (log 59) and what power and a
restart drop (log 70). -/
def Obligations.Device : Prop :=
  (∀ (s : State) (r : BootResults) (src : AlarmSource) (key : Nat),
    let fw := r.firmware
    let verified : Prop := Config.sha512 (bytesOf 512 fw.proof.key.toNat) = s.device.keyHash ∧
      fw.proof.signature.toNat ^ Config.rsaExponent % fw.proof.key.toNat = Config.rsaEncoded (Config.sha512 fw.image) % fw.proof.key.toNat
    let few : Prop := ∀ n ∈ r.sparesNeeded, n ≤ 8
    let good : Prop := r.keyStoreOk = true ∧ verified ∧ few ∧ r.memoryOk = true ∧ r.linksOk = true ∧ r.tripStands = none
    let unpowered : Prop := s.device.dev = .off ∨ s.device.dev = .booting
    let empty (t : State) : Prop := t.cores = [] ∧ t.clusters = [] ∧ t.nets = [] ∧ t.ctrls = [] ∧ t.groups = [] ∧
      t.accs = [] ∧ t.edges = [] ∧ t.agenda = [] ∧ t.tick = 0 ∧ t.pkg = s.pkg
    let boots (i : Instr) (t : State) : Prop := exec i s = .next t ∧ empty t
    let failed (n : BitVec 4) (measured : List (BitVec 512)) (v : BitVec 32) : Prop := ∃ t, boots (.powerApplied r) t ∧
      t.device.dev = .safe ∧ t.device.cause = n ∧ t.device.measurements = measured ∧ t.device.fwver = v
    (unpowered →
      (good → ∃ t, boots (.powerApplied r) t ∧ t.device.dev = .running ∧ t.device.cause = 0 ∧
        t.device.measurements = [Config.sha512 fw.image] ∧ t.device.fwver = fw.version) ∧
      (r.keyStoreOk = false → failed 1 [] 0) ∧
      (r.keyStoreOk = true → ¬verified → failed 2 [Config.sha512 fw.image] 0) ∧
      (r.keyStoreOk = true → verified → ¬few → failed 3 [Config.sha512 fw.image] fw.version) ∧
      (r.keyStoreOk = true → verified → few → r.memoryOk = false → failed 4 [Config.sha512 fw.image] fw.version) ∧
      (r.keyStoreOk = true → verified → few → r.memoryOk = true → r.linksOk = false →
        failed 5 [Config.sha512 fw.image] fw.version)) ∧
    (¬unpowered → Leaves (.powerApplied r) s s) ∧
    (s.mailboxTakes = true → good → ∃ t, boots (.mailboxRestart r) t ∧ t.device.dev = .running ∧
      t.device.alarmLatch = s.device.alarmLatch ∧ t.device.keyStore = s.device.keyStore ∧
      ∃ w : Word, t.device.reply = [w] ∧ w.toNat % 16 = 0) ∧
    (s.mailboxTakes = false → Leaves (.mailboxRestart r) s s) ∧
    (∃ t, boots .powerRemoved t ∧ t.device.dev = .off ∧ t.device.keyStore = s.device.keyStore ∧
      t.device.alarmLatch = false ∧ tget 0 t.mem key =
        if key / 2 ^ 58 = 2 ∨ key % 2 ^ 58 / 2 ^ 52 ≠ s.pkg.toNat then tget 0 s.mem key else 0) ∧
    (s.device.dev = .running ∨ s.device.dev = .safe → ∃ t, exec (.alarmTrip src) s = .next t ∧ t.device.dev = .safe ∧
      t.device.cause = 6 ∧ t.device.busy = s.device.busy ∧ t.device.pending = s.device.pending ∧ t.accs = [] ∧ t.edges = [] ∧ t.agenda = [] ∧ t.mem = s.mem ∧
      (∀ c, c < 6144 → (t.coreAt c).stop = .halted ∧ (twf Slot.init (s.coreAt c).slots = true →
        ∀ u, t.slotAt c u = (s.slotAt c u).halted s.tick)) ∧
      t.device.keyStore = (s.device.keyStore && !s.device.fusePolicy) ∧
      (src ≠ .temperature → s.device.fusePolicy = false → t.device.alarmLatch = true)) ∧
    (s.device.dev = .booting ∨ s.device.dev = .off → Leaves (.alarmTrip src) s s)) ∧
  (∀ (s : State) (nonce : BitVec 256) (cmd : Word) (fw : Firmware),
    let dev := s.device
    let accepts (i : Instr) (m : MailCmd) : Prop := Leaves i s { s with device := { dev with busy := true, pending := some m } }
    let answers (m : MailCmd) (reply : List Word) : Prop := dev.pending = some m → ∃ n, s.mailboxTick = { s with
      device := { dev with reply := reply, busy := false, pending := none }, free := n }
    let fenced := ((List.range 4).map fun d => if (s.dieAt d).fenced then 2 ^ d else 0).sum
    let state : Nat := if dev.dev = .running then 1 else if dev.dev = .safe then 2 else 0
    let word (busy : Bool) : Word := BitVec.ofNat 64 (dev.fwver.toNat * 2 ^ 32 + dev.spares.toNat * 2 ^ 24 + fenced * 2 ^ 16 +
      busy.toNat * 2 ^ 12 + dev.cause.toNat * 2 ^ 8 + state)
    let verified : Prop := Config.sha512 (bytesOf 512 fw.proof.key.toNat) = dev.keyHash ∧
      fw.proof.signature.toNat ^ Config.rsaExponent % fw.proof.key.toNat = Config.rsaEncoded (Config.sha512 fw.image) % fw.proof.key.toNat
    let measured : List Word := dev.measurements.flatMap fun m => wordsOf 8 m.toNat
    let name : List Word := [0x41343431362D3445, if dev.fusePolicy then 1 else 0]
    let able : Prop := dev.dev = .running ∧ dev.alarmLatch = false ∧ dev.keyStore = true
    let idle : Prop := (∀ e ∈ s.groups, e.2 = none) ∧ ∀ n, n < 32 → (s.netAt n).state = .closed
    (s.mailboxTakes = true ↔ (dev.dev = .running ∨ dev.dev = .safe) ∧ dev.busy = false) ∧
    (s.mailboxTakes = true → accepts .mailboxStatus .status ∧ accepts .mailboxDiag .diag ∧
      accepts (.mailboxAttest nonce) (.attest nonce) ∧ accepts (.mailboxOther cmd) .other) ∧
    s.mailboxWord = word dev.busy ∧
    answers .status [word false] ∧
    (∃ w, answers .diag ((w :: measured).take 256)) ∧
    (able → ∃ sig : List Word, sig.length = 8 ∧ answers (.attest nonce)
      ((name ++ measured ++ wordsOf 4 nonce.toNat ++ sig).take 256)) ∧
    (¬able → ∃ w, answers (.attest nonce) [w]) ∧
    (∃ w, answers .other [w]) ∧
    (dev.pending = none → s.mailboxTick = s) ∧
    (s.mailboxTakes = false → ∀ i ∈ [Instr.mailboxStatus, .mailboxDiag, .mailboxAttest nonce, .mailboxOther cmd],
      Leaves i s s) ∧
    (dev.dev = .running → idle → verified → Leaves (.firmwareSwitchover fw.image fw.version fw.proof) s
      { s with device := { dev with measurements := dev.measurements ++ [Config.sha512 fw.image], fwver := fw.version } }) ∧
    (dev.dev = .running → idle → ¬verified →
      ∃ w n, Leaves (.firmwareSwitchover fw.image fw.version fw.proof) s { s with hostReply := w, free := n }) ∧
    (¬idle ∨ dev.dev ≠ .running → Leaves (.firmwareSwitchover fw.image fw.version fw.proof) s s)) ∧
  (∀ (s : State) (c g die i old new e j : Nat) (r : BteRun) (p : PktRun),
    let k := s.coreAt c
    let dev := s.device
    let used := tget 0 dev.clusterSpares (clusterOf c)
    let swap (m : BitVec 64) (b : Nat) : Bool := if b = old then false else m.getLsbD b || (b == new && m.getLsbD old)
    (∀ x ∈ [Instr.hbmSparing i j, .laneSparing i j, .powerThrottle c, .linkRetry (.link i)], Leaves x s s) ∧
    Leaves .softErrorCorrected s { s with device := { dev with softErrors := dev.softErrors + 1 } } ∧
    (∃ t, exec (.linkRetry (.memory i j)) s = .next t ∧ t = { s with spoiled := t.spoiled } ∧
      ∀ a, a ∈ t.spoiled ↔ a ∈ s.spoiled ∨ (i ≤ a ∧ a < i + j)) ∧
    (e < 4 → k.bteAt e = some r → r.failing = none → k.fabRun = [] → k.round = none →
      (∀ q, q < e → ∀ x, k.bteAt q = some x → x.cmd.site ≠ r.cmd.site) →
      (∃ a ∈ s.accs, a.holder = .cmd r.cmd.site ∧ a.op ≠ .load ∧ a.stage = .translated) →
      ∃ t, exec (.linkRetry (.party c r.cmd.site)) s = .next t ∧ t.mem = s.mem ∧
        ∃ x, (t.coreAt c).bteAt e = some x ∧ x.cmd = r.cmd ∧ x.failing = some (3, BitVec.ofNat 64 (7 * 2 ^ 29 + 9 * 2 ^ 16), 0)) ∧
    (k.fabRun = [] → k.round = none → (∀ q, k.bteAt q = none) → k.mx.run = none → k.mx.load = [] → k.mx.out = none →
      k.ring.run = none →
      (k.pktRuns = [p] → p.cmd.site = r.cmd.site → ∃ t, exec (.linkRetry (.party c r.cmd.site)) s = .next t ∧
        t.mem = s.mem ∧ (t.coreAt c).pktRuns = [] ∧ ∃ x ∈ (t.clusterAt (clusterOf c)).held,
          x.kind = 2 ∧ x.info = 3 ∧ x.body.head? = some (p.cmd.site.setWidth 64)) ∧
      (k.pktRuns = [] → (∀ a ∈ s.accs, a.holder ≠ .agent c) → Leaves (.linkRetry (.party c r.cmd.site)) s s)) ∧
    (dev.dev = .running → c ∉ dev.sparing → k.group = none → used < 8 → ∃ t, exec (.coreSparing c) s = .next t ∧
      t.device.spares = dev.spares + 1 ∧ tget 0 t.device.clusterSpares (clusterOf c) = used + 1 ∧
      t.device.sparing = dev.sparing ∧ (t.coreAt c).classq = k.classq ∧ (∀ w, t.winAt c w = Win.init) ∧
      (∀ u, u < 32 → (t.slotAt c u).status = .free) ∧ t.mem = s.mem) ∧
    (dev.dev = .running → c ∉ dev.sparing → k.group = some g → (s.groupAt g).lpri ≠ 3 → (s.groupAt g).saving = false →
      Leaves (.coreSparing c) s
        ({ s with device := { dev with sparing := c :: dev.sparing } }.post (.groupPreempt g))) ∧
    (dev.dev ≠ .running ∨ c ∈ dev.sparing → Leaves (.coreSparing c) s s) ∧
    (∃ t, exec (.dieFencing die) s = .next t ∧ (t.dieAt die).fenced = true ∧ t.cores = s.cores ∧ t.mem = s.mem ∧
      (i < 6 → (t.clusterAt (6 * die + i)).owner = none ∧ (t.clusterAt (6 * die + i)).ptroot.toNat / 2 ^ 58 = 0) ∧
      (j < 8 → (t.netAt (8 * die + j)).owner = none)) ∧
    (old < 64 → new < 64 → old ≠ new → ∃ t, exec (.packageReplacement old new) s = .next t ∧ t.mem = s.mem ∧
      (∀ b, b < 64 → s.domain.getLsbD old = true → t.domain.getLsbD b = swap s.domain b) ∧
      (s.domain.getLsbD old = false → t.domain = s.domain) ∧
      (e < 16 → (s.podAt e).mask.getLsbD old = true →
        ∀ b, b < 64 → (t.podAt e).mask.getLsbD b = swap (s.podAt e).mask b) ∧
      ((t.podAt e).gid, (t.podAt e).tag, (t.podAt e).count) = ((s.podAt e).gid, (s.podAt e).tag, (s.podAt e).count)))

/-! ## An invariant of every step -/

/-- Every step keeps the canonical form of memory: keys rising, no entry equal to what an unlisted key reads as. -/
def Obligations.MemoryCanonical : Prop :=
  ∀ s t : State, Memory.wf s.mem = true → step s = .next t → Memory.wf t.mem = true
end

