-- ==== Sys2Proof/Laws/Sparse.lean ====
section
/-! SUPPORT. Tables: reading after writing, writing twice, and the canonical form every operation keeps. -/

namespace Sys2Proof.Machine

variable {α : Type} (dflt : α)

@[simp] theorem tget_nil (k : Nat) : tget dflt [] k = dflt := rfl

theorem tget_filter_ne (m : Table α) (k j : Nat) (h : j ≠ k) :
    tget dflt (m.filter fun e => decide (e.1 ≠ k)) j = tget dflt m j := by
  induction m with
  | nil => rfl
  | cons e r ih =>
    obtain ⟨i, u⟩ := e
    by_cases hi : i = k
    · simp [hi, tget, Ne.symm h]; simpa using ih
    · simp [hi, tget]; rw [← ih]; simp

theorem tget_filter_self (m : Table α) (k : Nat) :
    tget dflt (m.filter fun e => decide (e.1 ≠ k)) k = dflt := by
  induction m with
  | nil => rfl
  | cons e r ih =>
    obtain ⟨i, u⟩ := e
    by_cases hi : i = k
    · simpa [hi] using ih
    · simp [hi, tget]; simpa using ih

theorem tget_tins (m : Table α) (k j : Nat) (v : α) :
    tget dflt (tins m k v) j = if j = k then v else tget dflt m j := by
  induction m with
  | nil => simp [tins, tget, eq_comm]
  | cons e r ih =>
    obtain ⟨i, u⟩ := e
    by_cases hi : i < k
    · simp only [tins, hi, if_true, tget, ih]
      by_cases hj : i = j
      · subst hj; simp [Nat.ne_of_lt hi]
      · simp [hj]
    · simp only [tins, hi, if_false, tget]
      by_cases hj : j = k
      · simp [hj]
      · simp [hj, Ne.symm hj]

variable [DecidableEq α]

/-- Reading any key after setting one. -/
theorem tget_tput (m : Table α) (k j : Nat) (v : α) :
    tget dflt (tput dflt m k v) j = if j = k then v else tget dflt m j := by
  unfold tput
  by_cases hj : j = k
  · subst hj
    by_cases hv : v = dflt
    · simpa [hv] using tget_filter_self dflt m j
    · simp [hv, tget_tins]
  · by_cases hv : v = dflt
    · simpa [hv, hj] using tget_filter_ne dflt m k j hj
    · simp only [hv, if_false, tget_tins, hj]
      exact tget_filter_ne dflt m k j hj

@[simp] theorem tget_tput_self (m : Table α) (k : Nat) (v : α) : tget dflt (tput dflt m k v) k = v := by
  simp [tget_tput]

theorem tget_tput_ne (m : Table α) (k j : Nat) (v : α) (h : j ≠ k) :
    tget dflt (tput dflt m k v) j = tget dflt m j := by
  simp [tget_tput, h]

omit [DecidableEq α] in
theorem filter_tins (m : Table α) (k : Nat) (v : α) :
    (tins m k v).filter (fun e => decide (e.1 ≠ k)) = m.filter fun e => decide (e.1 ≠ k) := by
  induction m with
  | nil => simp [tins]
  | cons e r ih =>
    obtain ⟨i, u⟩ := e
    by_cases hi : i < k
    · simp [tins, hi, Nat.ne_of_lt hi]; simpa using ih
    · simp [tins, hi]

/-- Setting one key twice is setting it once. -/
@[simp] theorem tput_tput (m : Table α) (k : Nat) (v w : α) :
    tput dflt (tput dflt m k v) k w = tput dflt m k w := by
  have h : (tput dflt m k v).filter (fun e => decide (e.1 ≠ k)) = m.filter fun e => decide (e.1 ≠ k) := by
    unfold tput
    split
    · simp
    · rw [filter_tins]; simp
  show (if w = dflt then _ else tins _ k w) = if w = dflt then _ else tins _ k w
  rw [h]

/-- A larger bound is a stronger form. -/
theorem twfFrom_mono {lo hi : Nat} (m : Table α) (h : lo ≤ hi) (hm : twfFrom dflt hi m = true) :
    twfFrom dflt lo m = true := by
  cases m with
  | nil => rfl
  | cons e r =>
    simp only [twfFrom, Bool.and_eq_true, decide_eq_true_eq] at hm ⊢
    exact ⟨⟨h.trans hm.1.1, hm.1.2⟩, hm.2⟩

/-- Keeping some entries of a canonical table leaves it canonical. -/
theorem twfFrom_filter (p : Nat × α → Bool) (lo : Nat) (m : Table α) (hm : twfFrom dflt lo m = true) :
    twfFrom dflt lo (m.filter p) = true := by
  induction m generalizing lo with
  | nil => rfl
  | cons e r ih =>
    simp only [twfFrom, Bool.and_eq_true, decide_eq_true_eq] at hm
    have hr := ih _ hm.2
    by_cases hp : p e = true
    · simp only [hp, List.filter_cons_of_pos, twfFrom, Bool.and_eq_true, decide_eq_true_eq]
      exact ⟨hm.1, hr⟩
    · rw [List.filter_cons_of_neg hp]
      exact twfFrom_mono dflt _ (by omega) hr

theorem twfFrom_tins (lo : Nat) (m : Table α) (k : Nat) (v : α) (hv : v ≠ dflt) (hlo : lo ≤ k)
    (hk : ∀ e ∈ m, e.1 ≠ k) (hm : twfFrom dflt lo m = true) : twfFrom dflt lo (tins m k v) = true := by
  induction m generalizing lo with
  | nil => simp [tins, twfFrom, hv, hlo]
  | cons e r ih =>
    obtain ⟨i, u⟩ := e
    simp only [twfFrom, Bool.and_eq_true, decide_eq_true_eq] at hm
    have hi : i ≠ k := hk (i, u) (by simp)
    by_cases hlt : i < k
    · simp only [tins, hlt, if_true, twfFrom, Bool.and_eq_true, decide_eq_true_eq]
      exact ⟨hm.1, ih _ (by omega) (fun e he => hk e (by simp [he])) hm.2⟩
    · simp only [tins, hlt, if_false, twfFrom, Bool.and_eq_true, decide_eq_true_eq]
      exact ⟨⟨hlo, hv⟩, ⟨by omega, hm.1.2⟩, hm.2⟩

/-- Setting an entry keeps the canonical form. -/
theorem twf_tput (m : Table α) (k : Nat) (v : α) (hm : twf dflt m = true) : twf dflt (tput dflt m k v) = true := by
  have hf := twfFrom_filter dflt (fun e => decide (e.1 ≠ k)) 0 m hm
  unfold tput twf
  split
  · exact hf
  · exact twfFrom_tins dflt 0 _ k v ‹_› (by omega) (fun e he => by simpa using (List.mem_filter.mp he).2) hf

/-- Setting a run of entries keeps the canonical form. -/
theorem twf_tputs (m : Table α) (k : Nat) (vs : List α) (hm : twf dflt m = true) :
    twf dflt (tputs dflt m k vs) = true := by
  induction vs generalizing m k with
  | nil => exact hm
  | cons v r ih => exact ih _ _ (twf_tput dflt m k v hm)

omit [DecidableEq α] in
/-- Reading any key after clearing a range. -/
theorem tget_tclear (m : Table α) (k n j : Nat) :
    tget dflt (tclear m k n) j = if k ≤ j ∧ j < k + n then dflt else tget dflt m j := by
  induction m with
  | nil => simp [tclear, tget]
  | cons e r ih =>
    obtain ⟨i, u⟩ := e
    unfold tclear at ih ⊢
    by_cases hi : i < k ∨ k + n ≤ i
    · rw [List.filter_cons_of_pos (by simpa using hi)]
      simp only [tget, ih]
      by_cases hj : i = j
      · subst hj; simp; omega
      · simp [hj]
    · rw [List.filter_cons_of_neg (by simpa using hi), ih]
      by_cases hj : i = j
      · subst hj; simp [show k ≤ i ∧ i < k + n by omega]
      · simp [tget, hj]

/-- Clearing a range keeps the canonical form. -/
theorem twf_tclear (m : Table α) (k n : Nat) (hm : twf dflt m = true) : twf dflt (tclear m k n) = true :=
  twfFrom_filter dflt _ 0 m hm

/-- Reading a key outside a run of entries that was set. -/
theorem tget_tputs_out (m : Table α) (k j : Nat) (vs : List α) (h : j < k ∨ k + vs.length ≤ j) :
    tget dflt (tputs dflt m k vs) j = tget dflt m j := by
  induction vs generalizing m k with
  | nil => rfl
  | cons v r ih =>
    simp only [List.length_cons] at h
    rw [tputs, ih _ _ (by omega), tget_tput_ne _ _ _ _ _ (by omega)]

/-- Reading an entry of a run that was set. -/
theorem tget_tputs_in (m : Table α) (k i : Nat) (vs : List α) (h : i < vs.length) :
    tget dflt (tputs dflt m k vs) (k + i) = vs[i] := by
  induction vs generalizing m k i with
  | nil => simp at h
  | cons v r ih =>
    cases i with
    | zero => rw [tputs, tget_tputs_out _ _ _ _ _ (by omega)]; simp
    | succ i =>
      have hr : i < r.length := by simpa using h
      have := ih (tput dflt m k v) (k + 1) i hr
      rw [tputs, show k + (i + 1) = k + 1 + i by omega]
      simpa using this

/-- Reading back a run of entries that was set. -/
theorem tgets_tputs (m : Table α) (k : Nat) (vs : List α) : tgets dflt (tputs dflt m k vs) k vs.length = vs := by
  induction vs generalizing m k with
  | nil => rfl
  | cons v r ih =>
    simp only [List.length_cons, tgets, tputs, ih]
    rw [tget_tputs_out _ _ _ _ _ (by omega)]; simp

end Sys2Proof.Machine
end

