-- ==== Sys2Proof/Laws/Bulk.lean ====
section
/-! SUPPORT. What whole transfers of bytes do (R246, R366, R381): they meet no fault where every chunk translates, and the
lengths of the images they carry. -/

namespace Sys2Proof.Machine

open Sys2Proof

/-! ## Lengths -/

@[simp] theorem bytesOf_length (n v : Nat) : (bytesOf n v).length = n := by
  induction n generalizing v with
  | zero => rfl
  | succ n ih => simp [bytesOf, ih]

@[simp] theorem tgets_length {α : Type} (d : α) (m : Table α) (k n : Nat) : (tgets d m k n).length = n := by
  induction n generalizing k with
  | zero => rfl
  | succ n ih => simp [tgets, ih]

theorem tgets_add {α : Type} (d : α) (m : Table α) (k n j : Nat) :
    tgets d m k (n + j) = tgets d m k n ++ tgets d m (k + n) j := by
  induction n generalizing k with
  | zero => simp [tgets]
  | succ n ih => rw [show n + 1 + j = (n + j) + 1 by omega, tgets, tgets, ih]; simp [Nat.add_comm, Nat.add_left_comm]

/-- Lists of one length joined. -/
theorem length_flatMap_const {α β : Type} (l : List α) (f : α → List β) (n : Nat) (h : ∀ x ∈ l, (f x).length = n) :
    (l.flatMap f).length = l.length * n := by
  induction l with
  | nil => simp
  | cons x l ih =>
    rw [List.flatMap_cons, List.length_append, h x (by simp), ih fun y hy => h y (by simp [hy]), List.length_cons]
    ring

/-! ## Chunks -/

/-- A transfer meets no fault where every chunk translates. -/
theorem State.bulkFault_none (s : State) (c : Nat) (op : AccOp) (va : Addr) (n last : Nat)
    (h : ∀ i m, i < n → (m = 16 ∨ m = last) → ∃ k, s.translate c op (va + BitVec.ofNat 80 (16 * i)).toNat m = .ok k) :
    s.bulkFault c op va n last = none := by
  induction n generalizing va with
  | zero => rfl
  | succ n ih =>
    obtain ⟨k, hk⟩ := h 0 (if n = 0 then last else 16) (by omega) (by split <;> simp)
    rw [State.bulkFault]
    simp only [Nat.mul_zero, BitVec.add_zero] at hk
    rw [hk]
    refine ih (va + 16) fun i m hi hm => ?_
    obtain ⟨j, hj⟩ := h (i + 1) m (by omega) hm
    refine ⟨j, ?_⟩
    rw [← hj]
    congr 2
    rw [show 16 * (i + 1) = 16 + 16 * i by ring, BitVec.ofNat_add, BitVec.add_assoc]
    rfl

/-- A write whose chunks translate is made. -/
theorem State.bulkWrite_ok (s : State) (c : Nat) (va : Addr) (bs : List Byte)
    (h : s.bulkFault c (.store []) va (chunks bs.length) (lastChunk bs.length) = none) :
    s.bulkWrite c va bs = .ok (State.bulkPut (chunks bs.length) s c va bs) := by
  rw [State.bulkWrite, h]

/-- A read whose chunks translate is made. -/
theorem State.bulkRead_ok (s : State) (c : Nat) (va : Addr) (n : Nat)
    (h : s.bulkFault c .load va (chunks n) (lastChunk n) = none) :
    s.bulkRead c va n = .ok ((s.bulkBytes c va (chunks n)).take n) := by
  rw [State.bulkRead, h]

/-- Reading a range that translates to a run of memory reads that run. -/
theorem State.bulkBytes_run (s : State) (c : Nat) (va : Addr) (n key : Nat)
    (h : ∀ i, i < n → s.translate c .load (va + BitVec.ofNat 80 (16 * i)).toNat 16 = .ok (key + 16 * i)) :
    s.bulkBytes c va n = s.readMem key (16 * n) := by
  induction n generalizing va key with
  | zero => rfl
  | succ n ih =>
    have h0 := h 0 (by omega)
    simp only [Nat.mul_zero, BitVec.add_zero, Nat.add_zero] at h0
    rw [State.bulkBytes, h0, show 16 * (n + 1) = 16 + 16 * n by ring]
    simp only [State.readMem]
    rw [tgets_add]
    congr 1
    refine ih (va + 16) (key + 16) fun i hi => ?_
    have := h (i + 1) (by omega)
    rw [show 16 * (i + 1) = 16 + 16 * i by ring, BitVec.ofNat_add, ← BitVec.add_assoc] at this
    rw [Nat.add_assoc]
    exact this

/-! ## Context images -/

/-- A slot record is 992 + 32 bytes (R377). -/
@[simp] theorem Slot.record_length (sl : Slot) (tick : BitVec 64) : (sl.record tick).length = 1024 := by
  simp only [Slot.record, List.length_append, List.length_replicate, bytesOf_length]
  rw [length_flatMap_const _ _ 8 (by simp), length_flatMap_const _ _ 16 (by simp), length_flatMap_const _ _ 16 (by simp),
    length_flatMap_const _ _ 8 (by simp)]
  simp

/-- A port section is 1024 bytes (R378). -/
@[simp] theorem Core.portSection_length (k : Core) (p : Port) : (k.portSection p).length = 1024 := by
  simp only [Core.portSection, List.length_take, List.length_append, List.length_replicate]
  omega

/-- The marks of promoted operands are 2040 bytes of the first operand bank's section. -/
@[simp] theorem Mx.marksPart_length (m : Mx) : m.marksPart.length = 2040 := by
  rw [Mx.marksPart, List.length_append, bytesOf_length, List.length_replicate]

/-- The scales of a running MXTM are 2040 bytes of the second operand bank's section. -/
@[simp] theorem Mx.scalesPart_length (m : Mx) : m.scalesPart.length = 2040 := by
  simp only [Mx.scalesPart, List.length_append, List.length_take, List.length_replicate, bytesOf_length]
  omega

/-- The matrix sections are 155,648 bytes (R375). -/
@[simp] theorem Mx.sections_length (m : Mx) : m.sections.length = 155648 := by
  simp only [Mx.sections, List.length_append, Mx.marksPart_length, Mx.scalesPart_length, bytesOf_length]
  rw [length_flatMap_const _ _ 4 (by simp), length_flatMap_const _ _ 2 (by simp), length_flatMap_const _ _ 2 (by simp),
    length_flatMap_const _ _ 65536]
  · simp only [tgets_length, Vector.length_toList]
  · intro t _
    rw [length_flatMap_const _ _ 4 (by simp), tgets_length]

/-- What the ports keep beside their commands is 752 bytes of the ring section. -/
@[simp] theorem Core.portExtra_length (k : Core) : k.portExtra.length = 752 := by
  rw [Core.portExtra, List.length_append, length_flatMap_const portOrder _ 48]
  · simp only [List.length_append, List.length_take, List.length_replicate, portOrder, List.length_cons, List.length_nil]
    omega
  · intro p _
    simp only [List.length_take, List.length_append, List.length_replicate]
    omega

/-- The ring part of a core is 256 bytes (R379). -/
@[simp] theorem RingCore.imagePart_length (r : RingCore) (n : Nat) : (r.imagePart n).length = 256 := by
  simp only [RingCore.imagePart, List.length_take, List.length_append, List.length_replicate]
  omega

/-- The image of a core with no window defined, no round, no segment and no pending event is its fixed part (R375). -/
theorem State.contextImage_length (s : State) (c : Nat) (o : Option Nat) (hw : (s.coreAt c).definedWins = [])
    (hr : (s.coreAt c).round = none) (hs : s.segmentOf c = none) (hp : (s.coreAt c).pend = []) :
    (s.contextImage c o).length = 0x3C600 := by
  simp only [State.contextImage, hw, List.flatMap_nil, List.append_nil, List.length_append, bytesOf_length,
    List.length_replicate, State.registerBlock, Core.pendEntries, hp, List.filterMap_nil, List.take_nil,
    List.flatten_nil, List.length_nil, tgets_length, Mx.sections_length, State.ringSection, hs,
    RingCore.imagePart_length, Core.fabricSection, hr, Core.portExtra_length]
  rw [length_flatMap_const _ _ 8 (by simp), length_flatMap_const _ _ 1024 (by simp), length_flatMap_const _ _ 4 (by simp),
    length_flatMap_const _ _ 1024 (by simp)]
  simp only [List.length_range, tgets_length, portOrder, List.length_cons, List.length_nil]

end Sys2Proof.Machine
end

