-- ==== Sys2Proof/Laws/Encoding.lean ====
section
/-! SUPPORT. Each format's fields read back from the word that format builds, and the field codes. -/

set_option Elab.async false

namespace Sys2Proof

@[simp] theorem negOf_negBit (n : Bool) : negOf (negBit n) = n := by cases n <;> rfl

theorem negBit_toNat_le (n : Bool) : (negBit n).toNat ≤ 1 := by cases n <;> decide

/-- Reading n bits at p of a number whose digits there are v. -/
theorem bits_eq {n : Nat} (x p hi lo : Nat) (v : BitVec n) (hx : x = (hi * 2 ^ n + v.toNat) * 2 ^ p + lo)
    (hlo : lo < 2 ^ p) : bits x p n = v := by
  apply BitVec.eq_of_toNat_eq
  have hp : 0 < 2 ^ p := Nat.two_pow_pos p
  have : x / 2 ^ p = hi * 2 ^ n + v.toNat := by
    subst hx
    rw [Nat.mul_comm, Nat.mul_add_div hp, Nat.div_eq_of_lt hlo, Nat.add_zero]
  rw [bits, this, BitVec.toNat_ofNat, Nat.mul_comm, Nat.mul_add_mod, Nat.mod_eq_of_lt v.isLt]

theorem word_toNat {n : Nat} (h : n < 2 ^ 32) : (BitVec.ofNat 32 n).toNat = n := by
  rw [BitVec.toNat_ofNat]; exact Nat.mod_eq_of_lt h

@[simp] theorem majorOf_f3Word (m : BitVec 6) (x : F3) : majorOf (f3Word m x) = m := by
  obtain ⟨d, a, b, ⟨p, n⟩, f⟩ := x
  have := m.isLt; have := d.isLt; have := a.isLt; have := b.isLt; have := p.isLt; have := f.isLt
  have := negBit_toNat_le n
  rw [majorOf, f3Word, word_toNat (by dsimp only; omega)]
  refine bits_eq _ 26 0 (d.toNat * 2 ^ 21 + a.toNat * 2 ^ 16 + b.toNat * 2 ^ 11 + p.toNat * 2 ^ 8
    + (negBit n).toNat * 2 ^ 7 + f.toNat) _ (by dsimp only; omega) (by omega)

@[simp] theorem f3Of_f3Word (m : BitVec 6) (x : F3) : f3Of (f3Word m x) = x := by
  obtain ⟨d, a, b, ⟨p, n⟩, f⟩ := x
  have := m.isLt; have := d.isLt; have := a.isLt; have := b.isLt; have := p.isLt; have := f.isLt
  have := negBit_toNat_le n
  rw [f3Of, f3Word, word_toNat (by dsimp only; omega)]
  congr 1
  · exact bits_eq _ 21 m.toNat (a.toNat * 2 ^ 16 + b.toNat * 2 ^ 11 + p.toNat * 2 ^ 8
      + (negBit n).toNat * 2 ^ 7 + f.toNat) _ (by dsimp only; omega) (by omega)
  · exact bits_eq _ 16 (m.toNat * 2 ^ 5 + d.toNat) (b.toNat * 2 ^ 11 + p.toNat * 2 ^ 8
      + (negBit n).toNat * 2 ^ 7 + f.toNat) _ (by dsimp only; omega) (by omega)
  · exact bits_eq _ 11 (m.toNat * 2 ^ 10 + d.toNat * 2 ^ 5 + a.toNat) (p.toNat * 2 ^ 8
      + (negBit n).toNat * 2 ^ 7 + f.toNat) _ (by dsimp only; omega) (by omega)
  · congr 1
    · exact bits_eq _ 8 (m.toNat * 2 ^ 15 + d.toNat * 2 ^ 10 + a.toNat * 2 ^ 5 + b.toNat)
        ((negBit n).toNat * 2 ^ 7 + f.toNat) _ (by dsimp only; omega) (by omega)
    · rw [bits_eq _ 7 (m.toNat * 2 ^ 18 + d.toNat * 2 ^ 13 + a.toNat * 2 ^ 8 + b.toNat * 2 ^ 3 + p.toNat)
        f.toNat (negBit n) (by dsimp only; omega) (by omega), negOf_negBit]
  · exact bits_eq _ 0 (m.toNat * 2 ^ 19 + d.toNat * 2 ^ 14 + a.toNat * 2 ^ 9 + b.toNat * 2 ^ 4 + p.toNat * 2
      + (negBit n).toNat) 0 _ (by dsimp only; omega) (by omega)

@[simp] theorem majorOf_fiWord (m : BitVec 6) (x : FI) : majorOf (fiWord m x) = m := by
  obtain ⟨d, a, i⟩ := x
  have := m.isLt; have := d.isLt; have := a.isLt; have := i.isLt
  rw [majorOf, fiWord, word_toNat (by dsimp only; omega)]
  exact bits_eq _ 26 0 (d.toNat * 2 ^ 21 + a.toNat * 2 ^ 16 + i.toNat) _ (by dsimp only; omega) (by omega)

@[simp] theorem fiOf_fiWord (m : BitVec 6) (x : FI) : fiOf (fiWord m x) = x := by
  obtain ⟨d, a, i⟩ := x
  have := m.isLt; have := d.isLt; have := a.isLt; have := i.isLt
  rw [fiOf, fiWord, word_toNat (by dsimp only; omega)]
  congr 1
  · exact bits_eq _ 21 m.toNat (a.toNat * 2 ^ 16 + i.toNat) _ (by dsimp only; omega) (by omega)
  · exact bits_eq _ 16 (m.toNat * 2 ^ 5 + d.toNat) i.toNat _ (by dsimp only; omega) (by omega)
  · exact bits_eq _ 0 (m.toNat * 2 ^ 10 + d.toNat * 2 ^ 5 + a.toNat) 0 _ (by dsimp only; omega) (by omega)

@[simp] theorem majorOf_fwWord (m : BitVec 6) (x : FW) : majorOf (fwWord m x) = m := by
  obtain ⟨w, r, o, i⟩ := x
  have := m.isLt; have := w.isLt; have := r.isLt; have := o.isLt; have := i.isLt
  rw [majorOf, fwWord, word_toNat (by dsimp only; omega)]
  exact bits_eq _ 26 0 (w.toNat * 2 ^ 22 + r.toNat * 2 ^ 17 + o.toNat * 2 ^ 14 + i.toNat) _
    (by dsimp only; omega) (by omega)

@[simp] theorem fwOf_fwWord (m : BitVec 6) (x : FW) : fwOf (fwWord m x) = x := by
  obtain ⟨w, r, o, i⟩ := x
  have := m.isLt; have := w.isLt; have := r.isLt; have := o.isLt; have := i.isLt
  rw [fwOf, fwWord, word_toNat (by dsimp only; omega)]
  congr 1
  · exact bits_eq _ 22 m.toNat (r.toNat * 2 ^ 17 + o.toNat * 2 ^ 14 + i.toNat) _ (by dsimp only; omega) (by omega)
  · exact bits_eq _ 17 (m.toNat * 2 ^ 4 + w.toNat) (o.toNat * 2 ^ 14 + i.toNat) _
      (by dsimp only; omega) (by omega)
  · exact bits_eq _ 14 (m.toNat * 2 ^ 9 + w.toNat * 2 ^ 5 + r.toNat) i.toNat _ (by dsimp only; omega) (by omega)
  · exact bits_eq _ 0 (m.toNat * 2 ^ 12 + w.toNat * 2 ^ 8 + r.toNat * 2 ^ 3 + o.toNat) 0 _
      (by dsimp only; omega) (by omega)

@[simp] theorem majorOf_fbWord (m : BitVec 6) (x : FB) : majorOf (fbWord m x) = m := by
  obtain ⟨⟨p, n⟩, o⟩ := x
  have := m.isLt; have := p.isLt; have := o.isLt; have := negBit_toNat_le n
  rw [majorOf, fbWord, word_toNat (by dsimp only; omega)]
  exact bits_eq _ 26 0 (p.toNat * 2 ^ 23 + (negBit n).toNat * 2 ^ 22 + o.toNat) _ (by dsimp only; omega) (by omega)

@[simp] theorem fbOf_fbWord (m : BitVec 6) (x : FB) : fbOf (fbWord m x) = x := by
  obtain ⟨⟨p, n⟩, o⟩ := x
  have := m.isLt; have := p.isLt; have := o.isLt; have := negBit_toNat_le n
  rw [fbOf, fbWord, word_toNat (by dsimp only; omega)]
  congr 1
  · congr 1
    · exact bits_eq _ 23 m.toNat ((negBit n).toNat * 2 ^ 22 + o.toNat) _ (by dsimp only; omega) (by omega)
    · rw [bits_eq _ 22 (m.toNat * 2 ^ 3 + p.toNat) o.toNat (negBit n) (by dsimp only; omega) (by omega),
        negOf_negBit]
  · exact bits_eq _ 0 (m.toNat * 2 ^ 4 + p.toNat * 2 + (negBit n).toNat) 0 _ (by dsimp only; omega) (by omega)

@[simp] theorem majorOf_fkWord (m : BitVec 6) (x : FK) : majorOf (fkWord m x) = m := by
  obtain ⟨k, o, x⟩ := x
  have := m.isLt; have := k.isLt; have := o.isLt; have := x.isLt
  rw [majorOf, fkWord, word_toNat (by dsimp only; omega)]
  exact bits_eq _ 26 0 (k.toNat * 2 ^ 23 + o.toNat * 2 ^ 20 + x.toNat) _ (by dsimp only; omega) (by omega)

@[simp] theorem fkOf_fkWord (m : BitVec 6) (x : FK) : fkOf (fkWord m x) = x := by
  obtain ⟨k, o, x⟩ := x
  have := m.isLt; have := k.isLt; have := o.isLt; have := x.isLt
  rw [fkOf, fkWord, word_toNat (by dsimp only; omega)]
  congr 1
  · exact bits_eq _ 23 m.toNat (o.toNat * 2 ^ 20 + x.toNat) _ (by dsimp only; omega) (by omega)
  · exact bits_eq _ 20 (m.toNat * 2 ^ 3 + k.toNat) x.toNat _ (by dsimp only; omega) (by omega)
  · exact bits_eq _ 0 (m.toNat * 2 ^ 6 + k.toNat * 2 ^ 3 + o.toNat) 0 _ (by dsimp only; omega) (by omega)

@[simp] theorem majorOf_fsWord (m : BitVec 6) (x : FS) : majorOf (fsWord m x) = m := by
  obtain ⟨f, x, y, z⟩ := x
  have := m.isLt; have := f.isLt; have := x.isLt; have := y.isLt; have := z.isLt
  rw [majorOf, fsWord, word_toNat (by dsimp only; omega)]
  exact bits_eq _ 26 0 (f.toNat * 2 ^ 20 + x.toNat * 2 ^ 15 + y.toNat * 2 ^ 10 + z.toNat) _
    (by dsimp only; omega) (by omega)

@[simp] theorem fsOf_fsWord (m : BitVec 6) (x : FS) : fsOf (fsWord m x) = x := by
  obtain ⟨f, x, y, z⟩ := x
  have := m.isLt; have := f.isLt; have := x.isLt; have := y.isLt; have := z.isLt
  rw [fsOf, fsWord, word_toNat (by dsimp only; omega)]
  congr 1
  · exact bits_eq _ 20 m.toNat (x.toNat * 2 ^ 15 + y.toNat * 2 ^ 10 + z.toNat) _ (by dsimp only; omega) (by omega)
  · exact bits_eq _ 15 (m.toNat * 2 ^ 6 + f.toNat) (y.toNat * 2 ^ 10 + z.toNat) _
      (by dsimp only; omega) (by omega)
  · exact bits_eq _ 10 (m.toNat * 2 ^ 11 + f.toNat * 2 ^ 5 + x.toNat) z.toNat _ (by dsimp only; omega) (by omega)
  · exact bits_eq _ 0 (m.toNat * 2 ^ 16 + f.toNat * 2 ^ 10 + x.toNat * 2 ^ 5 + y.toNat) 0 _
      (by dsimp only; omega) (by omega)

@[simp] theorem sizeOf2_code (s : Size) : sizeOf2 s.code = s := by cases s <;> rfl
@[simp] theorem rndOf2_code (r : Rnd) : rndOf2 r.code = r := by cases r <;> rfl
@[simp] theorem scopeOf3_code (s : Scope) : scopeOf3 s.code = s := by cases s <;> rfl
@[simp] theorem condOf_code (c : Cond) : condOf c.code = some c := by cases c <;> rfl
@[simp] theorem cvtTyOf_code (t : CvtTy) : cvtTyOf t.code = some t := by cases t <;> rfl
@[simp] theorem levelOf_code (l : Level) : levelOf l.code = some l := by cases l <;> rfl
@[simp] theorem portOf_code (p : Port) : portOf p.code = some p := by cases p <;> rfl

/-- An address-register number in a 5-bit field reads back. -/
@[simp] theorem aReg_aField (a : BitVec 4) (k : BitVec 4 → Decoded) : aReg (aField a) k = k a := by
  have h := a.isLt
  have : (aField a).toNat = a.toNat := by
    rw [aField, BitVec.toNat_ofNat]; exact Nat.mod_eq_of_lt (by omega)
  simp only [aReg, this, if_pos h, BitVec.ofNat_toNat, BitVec.setWidth_eq]

/-- A predicate number in a 5-bit field reads back. -/
@[simp] theorem pReg_pField (p : BitVec 3) (k : BitVec 3 → Decoded) : pReg (pField p) k = k p := by
  have h := p.isLt
  have : (pField p).toNat = p.toNat := by
    rw [pField, BitVec.toNat_ofNat]; exact Nat.mod_eq_of_lt (by omega)
  simp only [pReg, this, if_pos h, BitVec.ofNat_toNat, BitVec.setWidth_eq]

@[simp] theorem zeroField_zero (k : Decoded) : zeroField 0 k = k := rfl
@[simp] theorem need_true (k : Decoded) : need true k = k := rfl
@[simp] theorem named_some {α : Type} (x : α) (k : α → Decoded) : named (some x) k = k x := rfl

/-! The dispatch on the major opcode, one equation per major. -/
@[simp] theorem decode_f3Word_01 (x : F3) : decode (f3Word 0x01#6 x) = decodeInt .z x := by
  simp [decode]
@[simp] theorem decode_f3Word_02 (x : F3) : decode (f3Word 0x02#6 x) = decodeInt .s x := by
  simp [decode]
@[simp] theorem decode_fiWord_03 (x : FI) : decode (fiWord 0x03#6 x) = .ok (.addImm x.d x.a x.i) := by
  simp [decode]
@[simp] theorem decode_fiWord_04 (x : FI) : decode (fiWord 0x04#6 x) = .ok (.andImm x.d x.a x.i) := by
  simp [decode]
@[simp] theorem decode_fiWord_05 (x : FI) : decode (fiWord 0x05#6 x) = .ok (.orImm x.d x.a x.i) := by
  simp [decode]
@[simp] theorem decode_fiWord_06 (x : FI) : decode (fiWord 0x06#6 x) = .ok (.xorImm x.d x.a x.i) := by
  simp [decode]
@[simp] theorem decode_fiWord_07 (x : FI) : decode (fiWord 0x07#6 x) =
    decodeShiftImm x fun n => .shlImm x.d x.a n := by
  simp [decode]
@[simp] theorem decode_fiWord_08 (x : FI) : decode (fiWord 0x08#6 x) =
    decodeShiftImm x fun n => .shrZImm x.d x.a n := by
  simp [decode]
@[simp] theorem decode_fiWord_09 (x : FI) : decode (fiWord 0x09#6 x) =
    decodeShiftImm x fun n => .shrSImm x.d x.a n := by
  simp [decode]
@[simp] theorem decode_fiWord_0A (x : FI) : decode (fiWord 0x0A#6 x) =
    zeroField x.a.toNat (.ok (.movImm x.d x.i)) := by
  simp [decode]
@[simp] theorem decode_fiWord_0B (x : FI) : decode (fiWord 0x0B#6 x) = decodeMovh x := by
  simp [decode]
@[simp] theorem decode_f3Word_0C (x : F3) : decode (f3Word 0x0C#6 x) = decodeCmp x := by
  simp [decode]
@[simp] theorem decode_f3Word_0D (x : F3) : decode (f3Word 0x0D#6 x) =
    zeroField x.f.toNat (.ok (.sel x.d x.a x.b x.g)) := by
  simp [decode]
@[simp] theorem decode_fiWord_0E (x : FI) : decode (fiWord 0x0E#6 x) = decodeBfx x := by
  simp [decode]
@[simp] theorem decode_fiWord_0F (x : FI) : decode (fiWord 0x0F#6 x) = decodeBfi x := by
  simp [decode]
@[simp] theorem decode_f3Word_10 (x : F3) : decode (f3Word 0x10#6 x) = decodeBf x := by
  simp [decode]
@[simp] theorem decode_f3Word_11 (x : F3) : decode (f3Word 0x11#6 x) = decodeAddr x := by
  simp [decode]
@[simp] theorem decode_fiWord_12 (x : FI) : decode (fiWord 0x12#6 x) =
    aReg x.d fun d => aReg x.a fun a => .ok (.aaddImm d a x.i) := by
  simp [decode]
@[simp] theorem decode_f3Word_13 (x : F3) : decode (f3Word 0x13#6 x) = decodeAcmp x := by
  simp [decode]
@[simp] theorem decode_f3Word_14 (x : F3) : decode (f3Word 0x14#6 x) = decodePred x := by
  simp [decode]
@[simp] theorem decode_fbWord_15 (x : FB) : decode (fbWord 0x15#6 x) = .ok (.br x.g x.o) := by
  simp [decode]
@[simp] theorem decode_fiWord_16 (x : FI) : decode (fiWord 0x16#6 x) =
    zeroField x.a.toNat (.ok (.jal x.d x.i)) := by
  simp [decode]
@[simp] theorem decode_f3Word_17 (x : F3) : decode (f3Word 0x17#6 x) =
    zeroField x.d.toNat (zeroField x.b.toNat (zeroField x.f.toNat (.ok (.jr x.a x.g)))) := by
  simp [decode]
@[simp] theorem decode_fiWord_18 (x : FI) : decode (fiWord 0x18#6 x) =
    zeroField x.a.toNat (.ok (.loop x.d x.i)) := by
  simp [decode]
@[simp] theorem decode_fiWord_19 (x : FI) : decode (fiWord 0x19#6 x) = decodeRep x := by
  simp [decode]
@[simp] theorem decode_fwWord_20 (x : FW) : decode (fwWord 0x20#6 x) = decodeWin x := by
  simp [decode]
@[simp] theorem decode_f3Word_21 (x : F3) : decode (f3Word 0x21#6 x) = decodeWinReg x := by
  simp [decode]
@[simp] theorem decode_f3Word_22 (x : F3) : decode (f3Word 0x22#6 x) = decodeWinRm x := by
  simp [decode]
@[simp] theorem decode_f3Word_24 (x : F3) : decode (f3Word 0x24#6 x) = decodeFp .f32 x := by
  simp [decode]
@[simp] theorem decode_f3Word_25 (x : F3) : decode (f3Word 0x25#6 x) = decodeFp .bf16x2 x := by
  simp [decode]
@[simp] theorem decode_f3Word_26 (x : F3) : decode (f3Word 0x26#6 x) = decodeFp .f16x2 x := by
  simp [decode]
@[simp] theorem decode_f3Word_27 (x : F3) : decode (f3Word 0x27#6 x) = decodeCvt x := by
  simp [decode]
@[simp] theorem decode_fiWord_28 (x : FI) : decode (fiWord 0x28#6 x) = decodeLoad x .gldBZ := by
  simp [decode]
@[simp] theorem decode_fiWord_29 (x : FI) : decode (fiWord 0x29#6 x) = decodeLoad x .gldBS := by
  simp [decode]
@[simp] theorem decode_fiWord_2A (x : FI) : decode (fiWord 0x2A#6 x) = decodeLoad x .gldHZ := by
  simp [decode]
@[simp] theorem decode_fiWord_2B (x : FI) : decode (fiWord 0x2B#6 x) = decodeLoad x .gldHS := by
  simp [decode]
@[simp] theorem decode_fiWord_2C (x : FI) : decode (fiWord 0x2C#6 x) = decodeLoad x .gldWZ := by
  simp [decode]
@[simp] theorem decode_fiWord_2D (x : FI) : decode (fiWord 0x2D#6 x) = decodeLoad x .gldWS := by
  simp [decode]
@[simp] theorem decode_fiWord_2E (x : FI) : decode (fiWord 0x2E#6 x) = decodeLoad x .gldD := by
  simp [decode]
@[simp] theorem decode_fiWord_2F (x : FI) : decode (fiWord 0x2F#6 x) = decodeStore x .gstB := by
  simp [decode]
@[simp] theorem decode_fiWord_30 (x : FI) : decode (fiWord 0x30#6 x) = decodeStore x .gstH := by
  simp [decode]
@[simp] theorem decode_fiWord_31 (x : FI) : decode (fiWord 0x31#6 x) = decodeStore x .gstW := by
  simp [decode]
@[simp] theorem decode_fiWord_32 (x : FI) : decode (fiWord 0x32#6 x) = decodeStore x .gstD := by
  simp [decode]
@[simp] theorem decode_f3Word_33 (x : F3) : decode (f3Word 0x33#6 x) = decodeRed x := by
  simp [decode]
@[simp] theorem decode_f3Word_34 (x : F3) : decode (f3Word 0x34#6 x) = decodeAmo x := by
  simp [decode]
@[simp] theorem decode_fkWord_38 (x : FK) : decode (fkWord 0x38#6 x) = decodeK x := by
  simp [decode]
@[simp] theorem decode_fsWord_3F (x : FS) : decode (fsWord 0x3F#6 x) = decodeSys x := by
  simp [decode]

end Sys2Proof
end

