-- ==== Sys2Proof/Laws/State.lean ====
section
/-! SUPPORT. What each update of the state leaves alone, and what it reads back. -/

set_option Elab.async false

namespace Sys2Proof.Machine

open Sys2Proof

/-! ## setCore -/
@[simp] theorem setCore_clusters (s : State) (c : Nat) (k : Core) : (s.setCore c k).clusters = s.clusters := rfl
@[simp] theorem setCore_dies (s : State) (c : Nat) (k : Core) : (s.setCore c k).dies = s.dies := rfl
@[simp] theorem setCore_nets (s : State) (c : Nat) (k : Core) : (s.setCore c k).nets = s.nets := rfl
@[simp] theorem setCore_ctrls (s : State) (c : Nat) (k : Core) : (s.setCore c k).ctrls = s.ctrls := rfl
@[simp] theorem setCore_mem (s : State) (c : Nat) (k : Core) : (s.setCore c k).mem = s.mem := rfl
@[simp] theorem setCore_accs (s : State) (c : Nat) (k : Core) : (s.setCore c k).accs = s.accs := rfl
@[simp] theorem setCore_nextAcc (s : State) (c : Nat) (k : Core) : (s.setCore c k).nextAcc = s.nextAcc := rfl
@[simp] theorem setCore_nextToken (s : State) (c : Nat) (k : Core) : (s.setCore c k).nextToken = s.nextToken := rfl
@[simp] theorem setCore_edges (s : State) (c : Nat) (k : Core) : (s.setCore c k).edges = s.edges := rfl
@[simp] theorem setCore_groups (s : State) (c : Nat) (k : Core) : (s.setCore c k).groups = s.groups := rfl
@[simp] theorem setCore_nextGroup (s : State) (c : Nat) (k : Core) : (s.setCore c k).nextGroup = s.nextGroup := rfl
@[simp] theorem setCore_gidFails (s : State) (c : Nat) (k : Core) : (s.setCore c k).gidFails = s.gidFails := rfl
@[simp] theorem setCore_resets (s : State) (c : Nat) (k : Core) : (s.setCore c k).resets = s.resets := rfl
@[simp] theorem setCore_pkg (s : State) (c : Nat) (k : Core) : (s.setCore c k).pkg = s.pkg := rfl
@[simp] theorem setCore_pods (s : State) (c : Nat) (k : Core) : (s.setCore c k).pods = s.pods := rfl
@[simp] theorem setCore_ptags (s : State) (c : Nat) (k : Core) : (s.setCore c k).ptags = s.ptags := rfl
@[simp] theorem setCore_domain (s : State) (c : Nat) (k : Core) : (s.setCore c k).domain = s.domain := rfl
@[simp] theorem setCore_shares (s : State) (c : Nat) (k : Core) : (s.setCore c k).shares = s.shares := rfl
@[simp] theorem setCore_buckets (s : State) (c : Nat) (k : Core) : (s.setCore c k).buckets = s.buckets := rfl
@[simp] theorem setCore_hostErrors (s : State) (c : Nat) (k : Core) : (s.setCore c k).hostErrors = s.hostErrors := rfl
@[simp] theorem setCore_hostReply (s : State) (c : Nat) (k : Core) : (s.setCore c k).hostReply = s.hostReply := rfl
@[simp] theorem setCore_msix (s : State) (c : Nat) (k : Core) : (s.setCore c k).msix = s.msix := rfl
@[simp] theorem setCore_links (s : State) (c : Nat) (k : Core) : (s.setCore c k).links = s.links := rfl
@[simp] theorem setCore_traceRings (s : State) (c : Nat) (k : Core) : (s.setCore c k).traceRings = s.traceRings := rfl
@[simp] theorem setCore_device (s : State) (c : Nat) (k : Core) : (s.setCore c k).device = s.device := rfl
@[simp] theorem setCore_tick (s : State) (c : Nat) (k : Core) : (s.setCore c k).tick = s.tick := rfl
@[simp] theorem setCore_agenda (s : State) (c : Nat) (k : Core) : (s.setCore c k).agenda = s.agenda := rfl
@[simp] theorem setCore_due (s : State) (c : Nat) (k : Core) : (s.setCore c k).due = s.due := rfl
@[simp] theorem setCore_late (s : State) (c : Nat) (k : Core) : (s.setCore c k).late = s.late := rfl
@[simp] theorem setCore_issuers (s : State) (c : Nat) (k : Core) : (s.setCore c k).issuers = s.issuers := rfl
@[simp] theorem setCore_cur (s : State) (c : Nat) (k : Core) : (s.setCore c k).cur = s.cur := rfl
@[simp] theorem setCore_slot (s : State) (c : Nat) (k : Core) : (s.setCore c k).slot = s.slot := rfl
@[simp] theorem setCore_free (s : State) (c : Nat) (k : Core) : (s.setCore c k).free = s.free := rfl
@[simp] theorem setCore_spoiled (s : State) (c : Nat) (k : Core) : (s.setCore c k).spoiled = s.spoiled := rfl

/-! ## setCluster -/
@[simp] theorem setCluster_cores (s : State) (c : Nat) (k : Cluster) : (s.setCluster c k).cores = s.cores := rfl
@[simp] theorem setCluster_dies (s : State) (c : Nat) (k : Cluster) : (s.setCluster c k).dies = s.dies := rfl
@[simp] theorem setCluster_nets (s : State) (c : Nat) (k : Cluster) : (s.setCluster c k).nets = s.nets := rfl
@[simp] theorem setCluster_ctrls (s : State) (c : Nat) (k : Cluster) : (s.setCluster c k).ctrls = s.ctrls := rfl
@[simp] theorem setCluster_mem (s : State) (c : Nat) (k : Cluster) : (s.setCluster c k).mem = s.mem := rfl
@[simp] theorem setCluster_accs (s : State) (c : Nat) (k : Cluster) : (s.setCluster c k).accs = s.accs := rfl
@[simp] theorem setCluster_nextAcc (s : State) (c : Nat) (k : Cluster) : (s.setCluster c k).nextAcc = s.nextAcc := rfl
@[simp] theorem setCluster_nextToken (s : State) (c : Nat) (k : Cluster) : (s.setCluster c k).nextToken = s.nextToken := rfl
@[simp] theorem setCluster_edges (s : State) (c : Nat) (k : Cluster) : (s.setCluster c k).edges = s.edges := rfl
@[simp] theorem setCluster_groups (s : State) (c : Nat) (k : Cluster) : (s.setCluster c k).groups = s.groups := rfl
@[simp] theorem setCluster_nextGroup (s : State) (c : Nat) (k : Cluster) : (s.setCluster c k).nextGroup = s.nextGroup := rfl
@[simp] theorem setCluster_gidFails (s : State) (c : Nat) (k : Cluster) : (s.setCluster c k).gidFails = s.gidFails := rfl
@[simp] theorem setCluster_resets (s : State) (c : Nat) (k : Cluster) : (s.setCluster c k).resets = s.resets := rfl
@[simp] theorem setCluster_pkg (s : State) (c : Nat) (k : Cluster) : (s.setCluster c k).pkg = s.pkg := rfl
@[simp] theorem setCluster_pods (s : State) (c : Nat) (k : Cluster) : (s.setCluster c k).pods = s.pods := rfl
@[simp] theorem setCluster_ptags (s : State) (c : Nat) (k : Cluster) : (s.setCluster c k).ptags = s.ptags := rfl
@[simp] theorem setCluster_domain (s : State) (c : Nat) (k : Cluster) : (s.setCluster c k).domain = s.domain := rfl
@[simp] theorem setCluster_shares (s : State) (c : Nat) (k : Cluster) : (s.setCluster c k).shares = s.shares := rfl
@[simp] theorem setCluster_buckets (s : State) (c : Nat) (k : Cluster) : (s.setCluster c k).buckets = s.buckets := rfl
@[simp] theorem setCluster_hostErrors (s : State) (c : Nat) (k : Cluster) : (s.setCluster c k).hostErrors = s.hostErrors := rfl
@[simp] theorem setCluster_hostReply (s : State) (c : Nat) (k : Cluster) : (s.setCluster c k).hostReply = s.hostReply := rfl
@[simp] theorem setCluster_msix (s : State) (c : Nat) (k : Cluster) : (s.setCluster c k).msix = s.msix := rfl
@[simp] theorem setCluster_links (s : State) (c : Nat) (k : Cluster) : (s.setCluster c k).links = s.links := rfl
@[simp] theorem setCluster_traceRings (s : State) (c : Nat) (k : Cluster) : (s.setCluster c k).traceRings = s.traceRings := rfl
@[simp] theorem setCluster_device (s : State) (c : Nat) (k : Cluster) : (s.setCluster c k).device = s.device := rfl
@[simp] theorem setCluster_tick (s : State) (c : Nat) (k : Cluster) : (s.setCluster c k).tick = s.tick := rfl
@[simp] theorem setCluster_agenda (s : State) (c : Nat) (k : Cluster) : (s.setCluster c k).agenda = s.agenda := rfl
@[simp] theorem setCluster_due (s : State) (c : Nat) (k : Cluster) : (s.setCluster c k).due = s.due := rfl
@[simp] theorem setCluster_late (s : State) (c : Nat) (k : Cluster) : (s.setCluster c k).late = s.late := rfl
@[simp] theorem setCluster_issuers (s : State) (c : Nat) (k : Cluster) : (s.setCluster c k).issuers = s.issuers := rfl
@[simp] theorem setCluster_cur (s : State) (c : Nat) (k : Cluster) : (s.setCluster c k).cur = s.cur := rfl
@[simp] theorem setCluster_slot (s : State) (c : Nat) (k : Cluster) : (s.setCluster c k).slot = s.slot := rfl
@[simp] theorem setCluster_free (s : State) (c : Nat) (k : Cluster) : (s.setCluster c k).free = s.free := rfl
@[simp] theorem setCluster_spoiled (s : State) (c : Nat) (k : Cluster) : (s.setCluster c k).spoiled = s.spoiled := rfl

/-! ## setDie -/
@[simp] theorem setDie_cores (s : State) (d : Nat) (k : Die) : (s.setDie d k).cores = s.cores := rfl
@[simp] theorem setDie_clusters (s : State) (d : Nat) (k : Die) : (s.setDie d k).clusters = s.clusters := rfl
@[simp] theorem setDie_nets (s : State) (d : Nat) (k : Die) : (s.setDie d k).nets = s.nets := rfl
@[simp] theorem setDie_ctrls (s : State) (d : Nat) (k : Die) : (s.setDie d k).ctrls = s.ctrls := rfl
@[simp] theorem setDie_mem (s : State) (d : Nat) (k : Die) : (s.setDie d k).mem = s.mem := rfl
@[simp] theorem setDie_accs (s : State) (d : Nat) (k : Die) : (s.setDie d k).accs = s.accs := rfl
@[simp] theorem setDie_nextAcc (s : State) (d : Nat) (k : Die) : (s.setDie d k).nextAcc = s.nextAcc := rfl
@[simp] theorem setDie_nextToken (s : State) (d : Nat) (k : Die) : (s.setDie d k).nextToken = s.nextToken := rfl
@[simp] theorem setDie_edges (s : State) (d : Nat) (k : Die) : (s.setDie d k).edges = s.edges := rfl
@[simp] theorem setDie_groups (s : State) (d : Nat) (k : Die) : (s.setDie d k).groups = s.groups := rfl
@[simp] theorem setDie_nextGroup (s : State) (d : Nat) (k : Die) : (s.setDie d k).nextGroup = s.nextGroup := rfl
@[simp] theorem setDie_gidFails (s : State) (d : Nat) (k : Die) : (s.setDie d k).gidFails = s.gidFails := rfl
@[simp] theorem setDie_resets (s : State) (d : Nat) (k : Die) : (s.setDie d k).resets = s.resets := rfl
@[simp] theorem setDie_pkg (s : State) (d : Nat) (k : Die) : (s.setDie d k).pkg = s.pkg := rfl
@[simp] theorem setDie_pods (s : State) (d : Nat) (k : Die) : (s.setDie d k).pods = s.pods := rfl
@[simp] theorem setDie_ptags (s : State) (d : Nat) (k : Die) : (s.setDie d k).ptags = s.ptags := rfl
@[simp] theorem setDie_domain (s : State) (d : Nat) (k : Die) : (s.setDie d k).domain = s.domain := rfl
@[simp] theorem setDie_shares (s : State) (d : Nat) (k : Die) : (s.setDie d k).shares = s.shares := rfl
@[simp] theorem setDie_buckets (s : State) (d : Nat) (k : Die) : (s.setDie d k).buckets = s.buckets := rfl
@[simp] theorem setDie_hostErrors (s : State) (d : Nat) (k : Die) : (s.setDie d k).hostErrors = s.hostErrors := rfl
@[simp] theorem setDie_hostReply (s : State) (d : Nat) (k : Die) : (s.setDie d k).hostReply = s.hostReply := rfl
@[simp] theorem setDie_msix (s : State) (d : Nat) (k : Die) : (s.setDie d k).msix = s.msix := rfl
@[simp] theorem setDie_links (s : State) (d : Nat) (k : Die) : (s.setDie d k).links = s.links := rfl
@[simp] theorem setDie_traceRings (s : State) (d : Nat) (k : Die) : (s.setDie d k).traceRings = s.traceRings := rfl
@[simp] theorem setDie_device (s : State) (d : Nat) (k : Die) : (s.setDie d k).device = s.device := rfl
@[simp] theorem setDie_tick (s : State) (d : Nat) (k : Die) : (s.setDie d k).tick = s.tick := rfl
@[simp] theorem setDie_agenda (s : State) (d : Nat) (k : Die) : (s.setDie d k).agenda = s.agenda := rfl
@[simp] theorem setDie_due (s : State) (d : Nat) (k : Die) : (s.setDie d k).due = s.due := rfl
@[simp] theorem setDie_late (s : State) (d : Nat) (k : Die) : (s.setDie d k).late = s.late := rfl
@[simp] theorem setDie_issuers (s : State) (d : Nat) (k : Die) : (s.setDie d k).issuers = s.issuers := rfl
@[simp] theorem setDie_cur (s : State) (d : Nat) (k : Die) : (s.setDie d k).cur = s.cur := rfl
@[simp] theorem setDie_slot (s : State) (d : Nat) (k : Die) : (s.setDie d k).slot = s.slot := rfl
@[simp] theorem setDie_free (s : State) (d : Nat) (k : Die) : (s.setDie d k).free = s.free := rfl
@[simp] theorem setDie_spoiled (s : State) (d : Nat) (k : Die) : (s.setDie d k).spoiled = s.spoiled := rfl

/-! ## setNet -/
@[simp] theorem setNet_cores (s : State) (n : Nat) (k : Net) : (s.setNet n k).cores = s.cores := rfl
@[simp] theorem setNet_clusters (s : State) (n : Nat) (k : Net) : (s.setNet n k).clusters = s.clusters := rfl
@[simp] theorem setNet_dies (s : State) (n : Nat) (k : Net) : (s.setNet n k).dies = s.dies := rfl
@[simp] theorem setNet_ctrls (s : State) (n : Nat) (k : Net) : (s.setNet n k).ctrls = s.ctrls := rfl
@[simp] theorem setNet_mem (s : State) (n : Nat) (k : Net) : (s.setNet n k).mem = s.mem := rfl
@[simp] theorem setNet_accs (s : State) (n : Nat) (k : Net) : (s.setNet n k).accs = s.accs := rfl
@[simp] theorem setNet_nextAcc (s : State) (n : Nat) (k : Net) : (s.setNet n k).nextAcc = s.nextAcc := rfl
@[simp] theorem setNet_nextToken (s : State) (n : Nat) (k : Net) : (s.setNet n k).nextToken = s.nextToken := rfl
@[simp] theorem setNet_edges (s : State) (n : Nat) (k : Net) : (s.setNet n k).edges = s.edges := rfl
@[simp] theorem setNet_groups (s : State) (n : Nat) (k : Net) : (s.setNet n k).groups = s.groups := rfl
@[simp] theorem setNet_nextGroup (s : State) (n : Nat) (k : Net) : (s.setNet n k).nextGroup = s.nextGroup := rfl
@[simp] theorem setNet_gidFails (s : State) (n : Nat) (k : Net) : (s.setNet n k).gidFails = s.gidFails := rfl
@[simp] theorem setNet_resets (s : State) (n : Nat) (k : Net) : (s.setNet n k).resets = s.resets := rfl
@[simp] theorem setNet_pkg (s : State) (n : Nat) (k : Net) : (s.setNet n k).pkg = s.pkg := rfl
@[simp] theorem setNet_pods (s : State) (n : Nat) (k : Net) : (s.setNet n k).pods = s.pods := rfl
@[simp] theorem setNet_ptags (s : State) (n : Nat) (k : Net) : (s.setNet n k).ptags = s.ptags := rfl
@[simp] theorem setNet_domain (s : State) (n : Nat) (k : Net) : (s.setNet n k).domain = s.domain := rfl
@[simp] theorem setNet_shares (s : State) (n : Nat) (k : Net) : (s.setNet n k).shares = s.shares := rfl
@[simp] theorem setNet_buckets (s : State) (n : Nat) (k : Net) : (s.setNet n k).buckets = s.buckets := rfl
@[simp] theorem setNet_hostErrors (s : State) (n : Nat) (k : Net) : (s.setNet n k).hostErrors = s.hostErrors := rfl
@[simp] theorem setNet_hostReply (s : State) (n : Nat) (k : Net) : (s.setNet n k).hostReply = s.hostReply := rfl
@[simp] theorem setNet_msix (s : State) (n : Nat) (k : Net) : (s.setNet n k).msix = s.msix := rfl
@[simp] theorem setNet_links (s : State) (n : Nat) (k : Net) : (s.setNet n k).links = s.links := rfl
@[simp] theorem setNet_traceRings (s : State) (n : Nat) (k : Net) : (s.setNet n k).traceRings = s.traceRings := rfl
@[simp] theorem setNet_device (s : State) (n : Nat) (k : Net) : (s.setNet n k).device = s.device := rfl
@[simp] theorem setNet_tick (s : State) (n : Nat) (k : Net) : (s.setNet n k).tick = s.tick := rfl
@[simp] theorem setNet_agenda (s : State) (n : Nat) (k : Net) : (s.setNet n k).agenda = s.agenda := rfl
@[simp] theorem setNet_due (s : State) (n : Nat) (k : Net) : (s.setNet n k).due = s.due := rfl
@[simp] theorem setNet_late (s : State) (n : Nat) (k : Net) : (s.setNet n k).late = s.late := rfl
@[simp] theorem setNet_issuers (s : State) (n : Nat) (k : Net) : (s.setNet n k).issuers = s.issuers := rfl
@[simp] theorem setNet_cur (s : State) (n : Nat) (k : Net) : (s.setNet n k).cur = s.cur := rfl
@[simp] theorem setNet_slot (s : State) (n : Nat) (k : Net) : (s.setNet n k).slot = s.slot := rfl
@[simp] theorem setNet_free (s : State) (n : Nat) (k : Net) : (s.setNet n k).free = s.free := rfl
@[simp] theorem setNet_spoiled (s : State) (n : Nat) (k : Net) : (s.setNet n k).spoiled = s.spoiled := rfl

/-! ## setCtrl -/
@[simp] theorem setCtrl_cores (s : State) (n : Nat) (k : Ctrl) : (s.setCtrl n k).cores = s.cores := rfl
@[simp] theorem setCtrl_clusters (s : State) (n : Nat) (k : Ctrl) : (s.setCtrl n k).clusters = s.clusters := rfl
@[simp] theorem setCtrl_dies (s : State) (n : Nat) (k : Ctrl) : (s.setCtrl n k).dies = s.dies := rfl
@[simp] theorem setCtrl_nets (s : State) (n : Nat) (k : Ctrl) : (s.setCtrl n k).nets = s.nets := rfl
@[simp] theorem setCtrl_mem (s : State) (n : Nat) (k : Ctrl) : (s.setCtrl n k).mem = s.mem := rfl
@[simp] theorem setCtrl_accs (s : State) (n : Nat) (k : Ctrl) : (s.setCtrl n k).accs = s.accs := rfl
@[simp] theorem setCtrl_nextAcc (s : State) (n : Nat) (k : Ctrl) : (s.setCtrl n k).nextAcc = s.nextAcc := rfl
@[simp] theorem setCtrl_nextToken (s : State) (n : Nat) (k : Ctrl) : (s.setCtrl n k).nextToken = s.nextToken := rfl
@[simp] theorem setCtrl_edges (s : State) (n : Nat) (k : Ctrl) : (s.setCtrl n k).edges = s.edges := rfl
@[simp] theorem setCtrl_groups (s : State) (n : Nat) (k : Ctrl) : (s.setCtrl n k).groups = s.groups := rfl
@[simp] theorem setCtrl_nextGroup (s : State) (n : Nat) (k : Ctrl) : (s.setCtrl n k).nextGroup = s.nextGroup := rfl
@[simp] theorem setCtrl_gidFails (s : State) (n : Nat) (k : Ctrl) : (s.setCtrl n k).gidFails = s.gidFails := rfl
@[simp] theorem setCtrl_resets (s : State) (n : Nat) (k : Ctrl) : (s.setCtrl n k).resets = s.resets := rfl
@[simp] theorem setCtrl_pkg (s : State) (n : Nat) (k : Ctrl) : (s.setCtrl n k).pkg = s.pkg := rfl
@[simp] theorem setCtrl_pods (s : State) (n : Nat) (k : Ctrl) : (s.setCtrl n k).pods = s.pods := rfl
@[simp] theorem setCtrl_ptags (s : State) (n : Nat) (k : Ctrl) : (s.setCtrl n k).ptags = s.ptags := rfl
@[simp] theorem setCtrl_domain (s : State) (n : Nat) (k : Ctrl) : (s.setCtrl n k).domain = s.domain := rfl
@[simp] theorem setCtrl_shares (s : State) (n : Nat) (k : Ctrl) : (s.setCtrl n k).shares = s.shares := rfl
@[simp] theorem setCtrl_buckets (s : State) (n : Nat) (k : Ctrl) : (s.setCtrl n k).buckets = s.buckets := rfl
@[simp] theorem setCtrl_hostErrors (s : State) (n : Nat) (k : Ctrl) : (s.setCtrl n k).hostErrors = s.hostErrors := rfl
@[simp] theorem setCtrl_hostReply (s : State) (n : Nat) (k : Ctrl) : (s.setCtrl n k).hostReply = s.hostReply := rfl
@[simp] theorem setCtrl_msix (s : State) (n : Nat) (k : Ctrl) : (s.setCtrl n k).msix = s.msix := rfl
@[simp] theorem setCtrl_links (s : State) (n : Nat) (k : Ctrl) : (s.setCtrl n k).links = s.links := rfl
@[simp] theorem setCtrl_traceRings (s : State) (n : Nat) (k : Ctrl) : (s.setCtrl n k).traceRings = s.traceRings := rfl
@[simp] theorem setCtrl_device (s : State) (n : Nat) (k : Ctrl) : (s.setCtrl n k).device = s.device := rfl
@[simp] theorem setCtrl_tick (s : State) (n : Nat) (k : Ctrl) : (s.setCtrl n k).tick = s.tick := rfl
@[simp] theorem setCtrl_agenda (s : State) (n : Nat) (k : Ctrl) : (s.setCtrl n k).agenda = s.agenda := rfl
@[simp] theorem setCtrl_due (s : State) (n : Nat) (k : Ctrl) : (s.setCtrl n k).due = s.due := rfl
@[simp] theorem setCtrl_late (s : State) (n : Nat) (k : Ctrl) : (s.setCtrl n k).late = s.late := rfl
@[simp] theorem setCtrl_issuers (s : State) (n : Nat) (k : Ctrl) : (s.setCtrl n k).issuers = s.issuers := rfl
@[simp] theorem setCtrl_cur (s : State) (n : Nat) (k : Ctrl) : (s.setCtrl n k).cur = s.cur := rfl
@[simp] theorem setCtrl_slot (s : State) (n : Nat) (k : Ctrl) : (s.setCtrl n k).slot = s.slot := rfl
@[simp] theorem setCtrl_free (s : State) (n : Nat) (k : Ctrl) : (s.setCtrl n k).free = s.free := rfl
@[simp] theorem setCtrl_spoiled (s : State) (n : Nat) (k : Ctrl) : (s.setCtrl n k).spoiled = s.spoiled := rfl

@[simp] theorem setTraceRing_cores (s : State) (r : Nat) (x : TraceRing) : (s.setTraceRing r x).cores = s.cores := rfl
@[simp] theorem setTraceRing_clusters (s : State) (r : Nat) (x : TraceRing) : (s.setTraceRing r x).clusters = s.clusters := rfl
@[simp] theorem setTraceRing_dies (s : State) (r : Nat) (x : TraceRing) : (s.setTraceRing r x).dies = s.dies := rfl
@[simp] theorem setTraceRing_nets (s : State) (r : Nat) (x : TraceRing) : (s.setTraceRing r x).nets = s.nets := rfl
@[simp] theorem setTraceRing_mem (s : State) (r : Nat) (x : TraceRing) : (s.setTraceRing r x).mem = s.mem := rfl
@[simp] theorem setTraceRing_accs (s : State) (r : Nat) (x : TraceRing) : (s.setTraceRing r x).accs = s.accs := rfl
@[simp] theorem setTraceRing_nextAcc (s : State) (r : Nat) (x : TraceRing) : (s.setTraceRing r x).nextAcc = s.nextAcc := rfl
@[simp] theorem setTraceRing_nextToken (s : State) (r : Nat) (x : TraceRing) : (s.setTraceRing r x).nextToken = s.nextToken := rfl
@[simp] theorem setTraceRing_edges (s : State) (r : Nat) (x : TraceRing) : (s.setTraceRing r x).edges = s.edges := rfl
@[simp] theorem setTraceRing_groups (s : State) (r : Nat) (x : TraceRing) : (s.setTraceRing r x).groups = s.groups := rfl
@[simp] theorem setTraceRing_nextGroup (s : State) (r : Nat) (x : TraceRing) : (s.setTraceRing r x).nextGroup = s.nextGroup := rfl
@[simp] theorem setTraceRing_gidFails (s : State) (r : Nat) (x : TraceRing) : (s.setTraceRing r x).gidFails = s.gidFails := rfl
@[simp] theorem setTraceRing_resets (s : State) (r : Nat) (x : TraceRing) : (s.setTraceRing r x).resets = s.resets := rfl
@[simp] theorem setTraceRing_pkg (s : State) (r : Nat) (x : TraceRing) : (s.setTraceRing r x).pkg = s.pkg := rfl
@[simp] theorem setTraceRing_pods (s : State) (r : Nat) (x : TraceRing) : (s.setTraceRing r x).pods = s.pods := rfl
@[simp] theorem setTraceRing_ptags (s : State) (r : Nat) (x : TraceRing) : (s.setTraceRing r x).ptags = s.ptags := rfl
@[simp] theorem setTraceRing_domain (s : State) (r : Nat) (x : TraceRing) : (s.setTraceRing r x).domain = s.domain := rfl
@[simp] theorem setTraceRing_shares (s : State) (r : Nat) (x : TraceRing) : (s.setTraceRing r x).shares = s.shares := rfl
@[simp] theorem setTraceRing_buckets (s : State) (r : Nat) (x : TraceRing) : (s.setTraceRing r x).buckets = s.buckets := rfl
@[simp] theorem setTraceRing_hostErrors (s : State) (r : Nat) (x : TraceRing) : (s.setTraceRing r x).hostErrors = s.hostErrors := rfl
@[simp] theorem setTraceRing_hostReply (s : State) (r : Nat) (x : TraceRing) : (s.setTraceRing r x).hostReply = s.hostReply := rfl
@[simp] theorem setTraceRing_msix (s : State) (r : Nat) (x : TraceRing) : (s.setTraceRing r x).msix = s.msix := rfl
@[simp] theorem setTraceRing_links (s : State) (r : Nat) (x : TraceRing) : (s.setTraceRing r x).links = s.links := rfl
@[simp] theorem setTraceRing_device (s : State) (r : Nat) (x : TraceRing) : (s.setTraceRing r x).device = s.device := rfl
@[simp] theorem setTraceRing_tick (s : State) (r : Nat) (x : TraceRing) : (s.setTraceRing r x).tick = s.tick := rfl
@[simp] theorem setTraceRing_agenda (s : State) (r : Nat) (x : TraceRing) : (s.setTraceRing r x).agenda = s.agenda := rfl
@[simp] theorem setTraceRing_due (s : State) (r : Nat) (x : TraceRing) : (s.setTraceRing r x).due = s.due := rfl
@[simp] theorem setTraceRing_late (s : State) (r : Nat) (x : TraceRing) : (s.setTraceRing r x).late = s.late := rfl
@[simp] theorem setTraceRing_issuers (s : State) (r : Nat) (x : TraceRing) : (s.setTraceRing r x).issuers = s.issuers := rfl
@[simp] theorem setTraceRing_cur (s : State) (r : Nat) (x : TraceRing) : (s.setTraceRing r x).cur = s.cur := rfl
@[simp] theorem setTraceRing_slot (s : State) (r : Nat) (x : TraceRing) : (s.setTraceRing r x).slot = s.slot := rfl
@[simp] theorem setTraceRing_free (s : State) (r : Nat) (x : TraceRing) : (s.setTraceRing r x).free = s.free := rfl
@[simp] theorem setTraceRing_ctrls (s : State) (r : Nat) (x : TraceRing) : (s.setTraceRing r x).ctrls = s.ctrls := rfl
@[simp] theorem setTraceRing_spoiled (s : State) (r : Nat) (x : TraceRing) : (s.setTraceRing r x).spoiled = s.spoiled := rfl

/-! ## post -/
@[simp] theorem post_cores (s : State) (e : Instr) : (s.post e).cores = s.cores := rfl
@[simp] theorem post_clusters (s : State) (e : Instr) : (s.post e).clusters = s.clusters := rfl
@[simp] theorem post_dies (s : State) (e : Instr) : (s.post e).dies = s.dies := rfl
@[simp] theorem post_nets (s : State) (e : Instr) : (s.post e).nets = s.nets := rfl
@[simp] theorem post_ctrls (s : State) (e : Instr) : (s.post e).ctrls = s.ctrls := rfl
@[simp] theorem post_mem (s : State) (e : Instr) : (s.post e).mem = s.mem := rfl
@[simp] theorem post_accs (s : State) (e : Instr) : (s.post e).accs = s.accs := rfl
@[simp] theorem post_nextAcc (s : State) (e : Instr) : (s.post e).nextAcc = s.nextAcc := rfl
@[simp] theorem post_nextToken (s : State) (e : Instr) : (s.post e).nextToken = s.nextToken := rfl
@[simp] theorem post_edges (s : State) (e : Instr) : (s.post e).edges = s.edges := rfl
@[simp] theorem post_groups (s : State) (e : Instr) : (s.post e).groups = s.groups := rfl
@[simp] theorem post_nextGroup (s : State) (e : Instr) : (s.post e).nextGroup = s.nextGroup := rfl
@[simp] theorem post_gidFails (s : State) (e : Instr) : (s.post e).gidFails = s.gidFails := rfl
@[simp] theorem post_resets (s : State) (e : Instr) : (s.post e).resets = s.resets := rfl
@[simp] theorem post_pkg (s : State) (e : Instr) : (s.post e).pkg = s.pkg := rfl
@[simp] theorem post_pods (s : State) (e : Instr) : (s.post e).pods = s.pods := rfl
@[simp] theorem post_ptags (s : State) (e : Instr) : (s.post e).ptags = s.ptags := rfl
@[simp] theorem post_domain (s : State) (e : Instr) : (s.post e).domain = s.domain := rfl
@[simp] theorem post_shares (s : State) (e : Instr) : (s.post e).shares = s.shares := rfl
@[simp] theorem post_buckets (s : State) (e : Instr) : (s.post e).buckets = s.buckets := rfl
@[simp] theorem post_hostErrors (s : State) (e : Instr) : (s.post e).hostErrors = s.hostErrors := rfl
@[simp] theorem post_hostReply (s : State) (e : Instr) : (s.post e).hostReply = s.hostReply := rfl
@[simp] theorem post_msix (s : State) (e : Instr) : (s.post e).msix = s.msix := rfl
@[simp] theorem post_links (s : State) (e : Instr) : (s.post e).links = s.links := rfl
@[simp] theorem post_traceRings (s : State) (e : Instr) : (s.post e).traceRings = s.traceRings := rfl
@[simp] theorem post_device (s : State) (e : Instr) : (s.post e).device = s.device := rfl
@[simp] theorem post_tick (s : State) (e : Instr) : (s.post e).tick = s.tick := rfl
@[simp] theorem post_due (s : State) (e : Instr) : (s.post e).due = s.due := rfl
@[simp] theorem post_late (s : State) (e : Instr) : (s.post e).late = s.late := rfl
@[simp] theorem post_issuers (s : State) (e : Instr) : (s.post e).issuers = s.issuers := rfl
@[simp] theorem post_cur (s : State) (e : Instr) : (s.post e).cur = s.cur := rfl
@[simp] theorem post_slot (s : State) (e : Instr) : (s.post e).slot = s.slot := rfl
@[simp] theorem post_free (s : State) (e : Instr) : (s.post e).free = s.free := rfl
@[simp] theorem post_spoiled (s : State) (e : Instr) : (s.post e).spoiled = s.spoiled := rfl

/-! ## urgent -/
@[simp] theorem urgent_cores (s : State) (es : List Instr) : (s.urgent es).cores = s.cores := rfl
@[simp] theorem urgent_clusters (s : State) (es : List Instr) : (s.urgent es).clusters = s.clusters := rfl
@[simp] theorem urgent_dies (s : State) (es : List Instr) : (s.urgent es).dies = s.dies := rfl
@[simp] theorem urgent_nets (s : State) (es : List Instr) : (s.urgent es).nets = s.nets := rfl
@[simp] theorem urgent_ctrls (s : State) (es : List Instr) : (s.urgent es).ctrls = s.ctrls := rfl
@[simp] theorem urgent_mem (s : State) (es : List Instr) : (s.urgent es).mem = s.mem := rfl
@[simp] theorem urgent_accs (s : State) (es : List Instr) : (s.urgent es).accs = s.accs := rfl
@[simp] theorem urgent_nextAcc (s : State) (es : List Instr) : (s.urgent es).nextAcc = s.nextAcc := rfl
@[simp] theorem urgent_nextToken (s : State) (es : List Instr) : (s.urgent es).nextToken = s.nextToken := rfl
@[simp] theorem urgent_edges (s : State) (es : List Instr) : (s.urgent es).edges = s.edges := rfl
@[simp] theorem urgent_groups (s : State) (es : List Instr) : (s.urgent es).groups = s.groups := rfl
@[simp] theorem urgent_nextGroup (s : State) (es : List Instr) : (s.urgent es).nextGroup = s.nextGroup := rfl
@[simp] theorem urgent_gidFails (s : State) (es : List Instr) : (s.urgent es).gidFails = s.gidFails := rfl
@[simp] theorem urgent_resets (s : State) (es : List Instr) : (s.urgent es).resets = s.resets := rfl
@[simp] theorem urgent_pkg (s : State) (es : List Instr) : (s.urgent es).pkg = s.pkg := rfl
@[simp] theorem urgent_pods (s : State) (es : List Instr) : (s.urgent es).pods = s.pods := rfl
@[simp] theorem urgent_ptags (s : State) (es : List Instr) : (s.urgent es).ptags = s.ptags := rfl
@[simp] theorem urgent_domain (s : State) (es : List Instr) : (s.urgent es).domain = s.domain := rfl
@[simp] theorem urgent_shares (s : State) (es : List Instr) : (s.urgent es).shares = s.shares := rfl
@[simp] theorem urgent_buckets (s : State) (es : List Instr) : (s.urgent es).buckets = s.buckets := rfl
@[simp] theorem urgent_hostErrors (s : State) (es : List Instr) : (s.urgent es).hostErrors = s.hostErrors := rfl
@[simp] theorem urgent_hostReply (s : State) (es : List Instr) : (s.urgent es).hostReply = s.hostReply := rfl
@[simp] theorem urgent_msix (s : State) (es : List Instr) : (s.urgent es).msix = s.msix := rfl
@[simp] theorem urgent_links (s : State) (es : List Instr) : (s.urgent es).links = s.links := rfl
@[simp] theorem urgent_traceRings (s : State) (es : List Instr) : (s.urgent es).traceRings = s.traceRings := rfl
@[simp] theorem urgent_device (s : State) (es : List Instr) : (s.urgent es).device = s.device := rfl
@[simp] theorem urgent_tick (s : State) (es : List Instr) : (s.urgent es).tick = s.tick := rfl
@[simp] theorem urgent_late (s : State) (es : List Instr) : (s.urgent es).late = s.late := rfl
@[simp] theorem urgent_issuers (s : State) (es : List Instr) : (s.urgent es).issuers = s.issuers := rfl
@[simp] theorem urgent_cur (s : State) (es : List Instr) : (s.urgent es).cur = s.cur := rfl
@[simp] theorem urgent_slot (s : State) (es : List Instr) : (s.urgent es).slot = s.slot := rfl
@[simp] theorem urgent_free (s : State) (es : List Instr) : (s.urgent es).free = s.free := rfl
@[simp] theorem urgent_spoiled (s : State) (es : List Instr) : (s.urgent es).spoiled = s.spoiled := rfl

/-! ## dropEdges -/
@[simp] theorem dropEdges_cores (s : State) (p : Party) : (s.dropEdges p).cores = s.cores := rfl
@[simp] theorem dropEdges_clusters (s : State) (p : Party) : (s.dropEdges p).clusters = s.clusters := rfl
@[simp] theorem dropEdges_dies (s : State) (p : Party) : (s.dropEdges p).dies = s.dies := rfl
@[simp] theorem dropEdges_nets (s : State) (p : Party) : (s.dropEdges p).nets = s.nets := rfl
@[simp] theorem dropEdges_ctrls (s : State) (p : Party) : (s.dropEdges p).ctrls = s.ctrls := rfl
@[simp] theorem dropEdges_mem (s : State) (p : Party) : (s.dropEdges p).mem = s.mem := rfl
@[simp] theorem dropEdges_accs (s : State) (p : Party) : (s.dropEdges p).accs = s.accs := rfl
@[simp] theorem dropEdges_nextAcc (s : State) (p : Party) : (s.dropEdges p).nextAcc = s.nextAcc := rfl
@[simp] theorem dropEdges_nextToken (s : State) (p : Party) : (s.dropEdges p).nextToken = s.nextToken := rfl
@[simp] theorem dropEdges_groups (s : State) (p : Party) : (s.dropEdges p).groups = s.groups := rfl
@[simp] theorem dropEdges_nextGroup (s : State) (p : Party) : (s.dropEdges p).nextGroup = s.nextGroup := rfl
@[simp] theorem dropEdges_gidFails (s : State) (p : Party) : (s.dropEdges p).gidFails = s.gidFails := rfl
@[simp] theorem dropEdges_resets (s : State) (p : Party) : (s.dropEdges p).resets = s.resets := rfl
@[simp] theorem dropEdges_pkg (s : State) (p : Party) : (s.dropEdges p).pkg = s.pkg := rfl
@[simp] theorem dropEdges_pods (s : State) (p : Party) : (s.dropEdges p).pods = s.pods := rfl
@[simp] theorem dropEdges_ptags (s : State) (p : Party) : (s.dropEdges p).ptags = s.ptags := rfl
@[simp] theorem dropEdges_domain (s : State) (p : Party) : (s.dropEdges p).domain = s.domain := rfl
@[simp] theorem dropEdges_shares (s : State) (p : Party) : (s.dropEdges p).shares = s.shares := rfl
@[simp] theorem dropEdges_buckets (s : State) (p : Party) : (s.dropEdges p).buckets = s.buckets := rfl
@[simp] theorem dropEdges_hostErrors (s : State) (p : Party) : (s.dropEdges p).hostErrors = s.hostErrors := rfl
@[simp] theorem dropEdges_hostReply (s : State) (p : Party) : (s.dropEdges p).hostReply = s.hostReply := rfl
@[simp] theorem dropEdges_msix (s : State) (p : Party) : (s.dropEdges p).msix = s.msix := rfl
@[simp] theorem dropEdges_links (s : State) (p : Party) : (s.dropEdges p).links = s.links := rfl
@[simp] theorem dropEdges_traceRings (s : State) (p : Party) : (s.dropEdges p).traceRings = s.traceRings := rfl
@[simp] theorem dropEdges_device (s : State) (p : Party) : (s.dropEdges p).device = s.device := rfl
@[simp] theorem dropEdges_tick (s : State) (p : Party) : (s.dropEdges p).tick = s.tick := rfl
@[simp] theorem dropEdges_agenda (s : State) (p : Party) : (s.dropEdges p).agenda = s.agenda := rfl
@[simp] theorem dropEdges_due (s : State) (p : Party) : (s.dropEdges p).due = s.due := rfl
@[simp] theorem dropEdges_late (s : State) (p : Party) : (s.dropEdges p).late = s.late := rfl
@[simp] theorem dropEdges_issuers (s : State) (p : Party) : (s.dropEdges p).issuers = s.issuers := rfl
@[simp] theorem dropEdges_cur (s : State) (p : Party) : (s.dropEdges p).cur = s.cur := rfl
@[simp] theorem dropEdges_slot (s : State) (p : Party) : (s.dropEdges p).slot = s.slot := rfl
@[simp] theorem dropEdges_free (s : State) (p : Party) : (s.dropEdges p).free = s.free := rfl
@[simp] theorem dropEdges_spoiled (s : State) (p : Party) : (s.dropEdges p).spoiled = s.spoiled := rfl

/-! ## addEdge -/
@[simp] theorem addEdge_cores (s : State) (e : Edge) : (s.addEdge e).cores = s.cores := by unfold State.addEdge; split <;> rfl
@[simp] theorem addEdge_clusters (s : State) (e : Edge) : (s.addEdge e).clusters = s.clusters := by unfold State.addEdge; split <;> rfl
@[simp] theorem addEdge_dies (s : State) (e : Edge) : (s.addEdge e).dies = s.dies := by unfold State.addEdge; split <;> rfl
@[simp] theorem addEdge_nets (s : State) (e : Edge) : (s.addEdge e).nets = s.nets := by unfold State.addEdge; split <;> rfl
@[simp] theorem addEdge_ctrls (s : State) (e : Edge) : (s.addEdge e).ctrls = s.ctrls := by unfold State.addEdge; split <;> rfl
@[simp] theorem addEdge_mem (s : State) (e : Edge) : (s.addEdge e).mem = s.mem := by unfold State.addEdge; split <;> rfl
@[simp] theorem addEdge_spoiled (s : State) (e : Edge) : (s.addEdge e).spoiled = s.spoiled := by unfold State.addEdge; split <;> rfl
@[simp] theorem addEdge_accs (s : State) (e : Edge) : (s.addEdge e).accs = s.accs := by unfold State.addEdge; split <;> rfl
@[simp] theorem addEdge_nextAcc (s : State) (e : Edge) : (s.addEdge e).nextAcc = s.nextAcc := by unfold State.addEdge; split <;> rfl
@[simp] theorem addEdge_nextToken (s : State) (e : Edge) : (s.addEdge e).nextToken = s.nextToken := by unfold State.addEdge; split <;> rfl
@[simp] theorem addEdge_groups (s : State) (e : Edge) : (s.addEdge e).groups = s.groups := by unfold State.addEdge; split <;> rfl
@[simp] theorem addEdge_nextGroup (s : State) (e : Edge) : (s.addEdge e).nextGroup = s.nextGroup := by unfold State.addEdge; split <;> rfl
@[simp] theorem addEdge_gidFails (s : State) (e : Edge) : (s.addEdge e).gidFails = s.gidFails := by unfold State.addEdge; split <;> rfl
@[simp] theorem addEdge_resets (s : State) (e : Edge) : (s.addEdge e).resets = s.resets := by unfold State.addEdge; split <;> rfl
@[simp] theorem addEdge_pkg (s : State) (e : Edge) : (s.addEdge e).pkg = s.pkg := by unfold State.addEdge; split <;> rfl
@[simp] theorem addEdge_pods (s : State) (e : Edge) : (s.addEdge e).pods = s.pods := by unfold State.addEdge; split <;> rfl
@[simp] theorem addEdge_ptags (s : State) (e : Edge) : (s.addEdge e).ptags = s.ptags := by unfold State.addEdge; split <;> rfl
@[simp] theorem addEdge_domain (s : State) (e : Edge) : (s.addEdge e).domain = s.domain := by unfold State.addEdge; split <;> rfl
@[simp] theorem addEdge_shares (s : State) (e : Edge) : (s.addEdge e).shares = s.shares := by unfold State.addEdge; split <;> rfl
@[simp] theorem addEdge_buckets (s : State) (e : Edge) : (s.addEdge e).buckets = s.buckets := by unfold State.addEdge; split <;> rfl
@[simp] theorem addEdge_hostErrors (s : State) (e : Edge) : (s.addEdge e).hostErrors = s.hostErrors := by unfold State.addEdge; split <;> rfl
@[simp] theorem addEdge_hostReply (s : State) (e : Edge) : (s.addEdge e).hostReply = s.hostReply := by unfold State.addEdge; split <;> rfl
@[simp] theorem addEdge_msix (s : State) (e : Edge) : (s.addEdge e).msix = s.msix := by unfold State.addEdge; split <;> rfl
@[simp] theorem addEdge_links (s : State) (e : Edge) : (s.addEdge e).links = s.links := by unfold State.addEdge; split <;> rfl
@[simp] theorem addEdge_traceRings (s : State) (e : Edge) : (s.addEdge e).traceRings = s.traceRings := by unfold State.addEdge; split <;> rfl
@[simp] theorem addEdge_device (s : State) (e : Edge) : (s.addEdge e).device = s.device := by unfold State.addEdge; split <;> rfl
@[simp] theorem addEdge_tick (s : State) (e : Edge) : (s.addEdge e).tick = s.tick := by unfold State.addEdge; split <;> rfl
@[simp] theorem addEdge_agenda (s : State) (e : Edge) : (s.addEdge e).agenda = s.agenda := by unfold State.addEdge; split <;> rfl
@[simp] theorem addEdge_due (s : State) (e : Edge) : (s.addEdge e).due = s.due := by unfold State.addEdge; split <;> rfl
@[simp] theorem addEdge_late (s : State) (e : Edge) : (s.addEdge e).late = s.late := by unfold State.addEdge; split <;> rfl
@[simp] theorem addEdge_issuers (s : State) (e : Edge) : (s.addEdge e).issuers = s.issuers := by unfold State.addEdge; split <;> rfl
@[simp] theorem addEdge_cur (s : State) (e : Edge) : (s.addEdge e).cur = s.cur := by unfold State.addEdge; split <;> rfl
@[simp] theorem addEdge_slot (s : State) (e : Edge) : (s.addEdge e).slot = s.slot := by unfold State.addEdge; split <;> rfl
@[simp] theorem addEdge_free (s : State) (e : Edge) : (s.addEdge e).free = s.free := by unfold State.addEdge; split <;> rfl

/-! ## setAcc -/
@[simp] theorem setAcc_cores (s : State) (a : Acc) : (s.setAcc a).cores = s.cores := rfl
@[simp] theorem setAcc_clusters (s : State) (a : Acc) : (s.setAcc a).clusters = s.clusters := rfl
@[simp] theorem setAcc_dies (s : State) (a : Acc) : (s.setAcc a).dies = s.dies := rfl
@[simp] theorem setAcc_nets (s : State) (a : Acc) : (s.setAcc a).nets = s.nets := rfl
@[simp] theorem setAcc_ctrls (s : State) (a : Acc) : (s.setAcc a).ctrls = s.ctrls := rfl
@[simp] theorem setAcc_mem (s : State) (a : Acc) : (s.setAcc a).mem = s.mem := rfl
@[simp] theorem setAcc_nextAcc (s : State) (a : Acc) : (s.setAcc a).nextAcc = s.nextAcc := rfl
@[simp] theorem setAcc_nextToken (s : State) (a : Acc) : (s.setAcc a).nextToken = s.nextToken := rfl
@[simp] theorem setAcc_edges (s : State) (a : Acc) : (s.setAcc a).edges = s.edges := rfl
@[simp] theorem setAcc_groups (s : State) (a : Acc) : (s.setAcc a).groups = s.groups := rfl
@[simp] theorem setAcc_nextGroup (s : State) (a : Acc) : (s.setAcc a).nextGroup = s.nextGroup := rfl
@[simp] theorem setAcc_gidFails (s : State) (a : Acc) : (s.setAcc a).gidFails = s.gidFails := rfl
@[simp] theorem setAcc_resets (s : State) (a : Acc) : (s.setAcc a).resets = s.resets := rfl
@[simp] theorem setAcc_pkg (s : State) (a : Acc) : (s.setAcc a).pkg = s.pkg := rfl
@[simp] theorem setAcc_pods (s : State) (a : Acc) : (s.setAcc a).pods = s.pods := rfl
@[simp] theorem setAcc_ptags (s : State) (a : Acc) : (s.setAcc a).ptags = s.ptags := rfl
@[simp] theorem setAcc_domain (s : State) (a : Acc) : (s.setAcc a).domain = s.domain := rfl
@[simp] theorem setAcc_shares (s : State) (a : Acc) : (s.setAcc a).shares = s.shares := rfl
@[simp] theorem setAcc_buckets (s : State) (a : Acc) : (s.setAcc a).buckets = s.buckets := rfl
@[simp] theorem setAcc_hostErrors (s : State) (a : Acc) : (s.setAcc a).hostErrors = s.hostErrors := rfl
@[simp] theorem setAcc_hostReply (s : State) (a : Acc) : (s.setAcc a).hostReply = s.hostReply := rfl
@[simp] theorem setAcc_msix (s : State) (a : Acc) : (s.setAcc a).msix = s.msix := rfl
@[simp] theorem setAcc_links (s : State) (a : Acc) : (s.setAcc a).links = s.links := rfl
@[simp] theorem setAcc_traceRings (s : State) (a : Acc) : (s.setAcc a).traceRings = s.traceRings := rfl
@[simp] theorem setAcc_device (s : State) (a : Acc) : (s.setAcc a).device = s.device := rfl
@[simp] theorem setAcc_tick (s : State) (a : Acc) : (s.setAcc a).tick = s.tick := rfl
@[simp] theorem setAcc_agenda (s : State) (a : Acc) : (s.setAcc a).agenda = s.agenda := rfl
@[simp] theorem setAcc_due (s : State) (a : Acc) : (s.setAcc a).due = s.due := rfl
@[simp] theorem setAcc_late (s : State) (a : Acc) : (s.setAcc a).late = s.late := rfl
@[simp] theorem setAcc_issuers (s : State) (a : Acc) : (s.setAcc a).issuers = s.issuers := rfl
@[simp] theorem setAcc_cur (s : State) (a : Acc) : (s.setAcc a).cur = s.cur := rfl
@[simp] theorem setAcc_slot (s : State) (a : Acc) : (s.setAcc a).slot = s.slot := rfl
@[simp] theorem setAcc_free (s : State) (a : Acc) : (s.setAcc a).free = s.free := rfl
@[simp] theorem setAcc_spoiled (s : State) (a : Acc) : (s.setAcc a).spoiled = s.spoiled := rfl

/-! ## dropAcc -/
@[simp] theorem dropAcc_cores (s : State) (a : Nat) : (s.dropAcc a).cores = s.cores := rfl
@[simp] theorem dropAcc_clusters (s : State) (a : Nat) : (s.dropAcc a).clusters = s.clusters := rfl
@[simp] theorem dropAcc_dies (s : State) (a : Nat) : (s.dropAcc a).dies = s.dies := rfl
@[simp] theorem dropAcc_nets (s : State) (a : Nat) : (s.dropAcc a).nets = s.nets := rfl
@[simp] theorem dropAcc_ctrls (s : State) (a : Nat) : (s.dropAcc a).ctrls = s.ctrls := rfl
@[simp] theorem dropAcc_mem (s : State) (a : Nat) : (s.dropAcc a).mem = s.mem := rfl
@[simp] theorem dropAcc_nextAcc (s : State) (a : Nat) : (s.dropAcc a).nextAcc = s.nextAcc := rfl
@[simp] theorem dropAcc_nextToken (s : State) (a : Nat) : (s.dropAcc a).nextToken = s.nextToken := rfl
@[simp] theorem dropAcc_edges (s : State) (a : Nat) : (s.dropAcc a).edges = s.edges := rfl
@[simp] theorem dropAcc_groups (s : State) (a : Nat) : (s.dropAcc a).groups = s.groups := rfl
@[simp] theorem dropAcc_nextGroup (s : State) (a : Nat) : (s.dropAcc a).nextGroup = s.nextGroup := rfl
@[simp] theorem dropAcc_gidFails (s : State) (a : Nat) : (s.dropAcc a).gidFails = s.gidFails := rfl
@[simp] theorem dropAcc_resets (s : State) (a : Nat) : (s.dropAcc a).resets = s.resets := rfl
@[simp] theorem dropAcc_pkg (s : State) (a : Nat) : (s.dropAcc a).pkg = s.pkg := rfl
@[simp] theorem dropAcc_pods (s : State) (a : Nat) : (s.dropAcc a).pods = s.pods := rfl
@[simp] theorem dropAcc_ptags (s : State) (a : Nat) : (s.dropAcc a).ptags = s.ptags := rfl
@[simp] theorem dropAcc_domain (s : State) (a : Nat) : (s.dropAcc a).domain = s.domain := rfl
@[simp] theorem dropAcc_shares (s : State) (a : Nat) : (s.dropAcc a).shares = s.shares := rfl
@[simp] theorem dropAcc_buckets (s : State) (a : Nat) : (s.dropAcc a).buckets = s.buckets := rfl
@[simp] theorem dropAcc_hostErrors (s : State) (a : Nat) : (s.dropAcc a).hostErrors = s.hostErrors := rfl
@[simp] theorem dropAcc_hostReply (s : State) (a : Nat) : (s.dropAcc a).hostReply = s.hostReply := rfl
@[simp] theorem dropAcc_msix (s : State) (a : Nat) : (s.dropAcc a).msix = s.msix := rfl
@[simp] theorem dropAcc_links (s : State) (a : Nat) : (s.dropAcc a).links = s.links := rfl
@[simp] theorem dropAcc_traceRings (s : State) (a : Nat) : (s.dropAcc a).traceRings = s.traceRings := rfl
@[simp] theorem dropAcc_device (s : State) (a : Nat) : (s.dropAcc a).device = s.device := rfl
@[simp] theorem dropAcc_tick (s : State) (a : Nat) : (s.dropAcc a).tick = s.tick := rfl
@[simp] theorem dropAcc_agenda (s : State) (a : Nat) : (s.dropAcc a).agenda = s.agenda := rfl
@[simp] theorem dropAcc_due (s : State) (a : Nat) : (s.dropAcc a).due = s.due := rfl
@[simp] theorem dropAcc_late (s : State) (a : Nat) : (s.dropAcc a).late = s.late := rfl
@[simp] theorem dropAcc_issuers (s : State) (a : Nat) : (s.dropAcc a).issuers = s.issuers := rfl
@[simp] theorem dropAcc_cur (s : State) (a : Nat) : (s.dropAcc a).cur = s.cur := rfl
@[simp] theorem dropAcc_slot (s : State) (a : Nat) : (s.dropAcc a).slot = s.slot := rfl
@[simp] theorem dropAcc_free (s : State) (a : Nat) : (s.dropAcc a).free = s.free := rfl
@[simp] theorem dropAcc_spoiled (s : State) (a : Nat) : (s.dropAcc a).spoiled = s.spoiled := rfl

/-! ## setSlot -/
@[simp] theorem setSlot_clusters (s : State) (c t : Nat) (sl : Slot) : (s.setSlot c t sl).clusters = s.clusters := rfl
@[simp] theorem setSlot_dies (s : State) (c t : Nat) (sl : Slot) : (s.setSlot c t sl).dies = s.dies := rfl
@[simp] theorem setSlot_nets (s : State) (c t : Nat) (sl : Slot) : (s.setSlot c t sl).nets = s.nets := rfl
@[simp] theorem setSlot_ctrls (s : State) (c t : Nat) (sl : Slot) : (s.setSlot c t sl).ctrls = s.ctrls := rfl
@[simp] theorem setSlot_mem (s : State) (c t : Nat) (sl : Slot) : (s.setSlot c t sl).mem = s.mem := rfl
@[simp] theorem setSlot_accs (s : State) (c t : Nat) (sl : Slot) : (s.setSlot c t sl).accs = s.accs := rfl
@[simp] theorem setSlot_nextAcc (s : State) (c t : Nat) (sl : Slot) : (s.setSlot c t sl).nextAcc = s.nextAcc := rfl
@[simp] theorem setSlot_nextToken (s : State) (c t : Nat) (sl : Slot) : (s.setSlot c t sl).nextToken = s.nextToken := rfl
@[simp] theorem setSlot_edges (s : State) (c t : Nat) (sl : Slot) : (s.setSlot c t sl).edges = s.edges := rfl
@[simp] theorem setSlot_groups (s : State) (c t : Nat) (sl : Slot) : (s.setSlot c t sl).groups = s.groups := rfl
@[simp] theorem setSlot_nextGroup (s : State) (c t : Nat) (sl : Slot) : (s.setSlot c t sl).nextGroup = s.nextGroup := rfl
@[simp] theorem setSlot_gidFails (s : State) (c t : Nat) (sl : Slot) : (s.setSlot c t sl).gidFails = s.gidFails := rfl
@[simp] theorem setSlot_resets (s : State) (c t : Nat) (sl : Slot) : (s.setSlot c t sl).resets = s.resets := rfl
@[simp] theorem setSlot_pkg (s : State) (c t : Nat) (sl : Slot) : (s.setSlot c t sl).pkg = s.pkg := rfl
@[simp] theorem setSlot_pods (s : State) (c t : Nat) (sl : Slot) : (s.setSlot c t sl).pods = s.pods := rfl
@[simp] theorem setSlot_ptags (s : State) (c t : Nat) (sl : Slot) : (s.setSlot c t sl).ptags = s.ptags := rfl
@[simp] theorem setSlot_domain (s : State) (c t : Nat) (sl : Slot) : (s.setSlot c t sl).domain = s.domain := rfl
@[simp] theorem setSlot_shares (s : State) (c t : Nat) (sl : Slot) : (s.setSlot c t sl).shares = s.shares := rfl
@[simp] theorem setSlot_buckets (s : State) (c t : Nat) (sl : Slot) : (s.setSlot c t sl).buckets = s.buckets := rfl
@[simp] theorem setSlot_hostErrors (s : State) (c t : Nat) (sl : Slot) : (s.setSlot c t sl).hostErrors = s.hostErrors := rfl
@[simp] theorem setSlot_hostReply (s : State) (c t : Nat) (sl : Slot) : (s.setSlot c t sl).hostReply = s.hostReply := rfl
@[simp] theorem setSlot_msix (s : State) (c t : Nat) (sl : Slot) : (s.setSlot c t sl).msix = s.msix := rfl
@[simp] theorem setSlot_links (s : State) (c t : Nat) (sl : Slot) : (s.setSlot c t sl).links = s.links := rfl
@[simp] theorem setSlot_traceRings (s : State) (c t : Nat) (sl : Slot) : (s.setSlot c t sl).traceRings = s.traceRings := rfl
@[simp] theorem setSlot_device (s : State) (c t : Nat) (sl : Slot) : (s.setSlot c t sl).device = s.device := rfl
@[simp] theorem setSlot_tick (s : State) (c t : Nat) (sl : Slot) : (s.setSlot c t sl).tick = s.tick := rfl
@[simp] theorem setSlot_agenda (s : State) (c t : Nat) (sl : Slot) : (s.setSlot c t sl).agenda = s.agenda := rfl
@[simp] theorem setSlot_due (s : State) (c t : Nat) (sl : Slot) : (s.setSlot c t sl).due = s.due := rfl
@[simp] theorem setSlot_late (s : State) (c t : Nat) (sl : Slot) : (s.setSlot c t sl).late = s.late := rfl
@[simp] theorem setSlot_issuers (s : State) (c t : Nat) (sl : Slot) : (s.setSlot c t sl).issuers = s.issuers := rfl
@[simp] theorem setSlot_cur (s : State) (c t : Nat) (sl : Slot) : (s.setSlot c t sl).cur = s.cur := rfl
@[simp] theorem setSlot_slot (s : State) (c t : Nat) (sl : Slot) : (s.setSlot c t sl).slot = s.slot := rfl
@[simp] theorem setSlot_free (s : State) (c t : Nat) (sl : Slot) : (s.setSlot c t sl).free = s.free := rfl
@[simp] theorem setSlot_spoiled (s : State) (c t : Nat) (sl : Slot) : (s.setSlot c t sl).spoiled = s.spoiled := rfl

/-! ## setMe -/
@[simp] theorem setMe_clusters (s : State) (sl : Slot) : (s.setMe sl).clusters = s.clusters := rfl
@[simp] theorem setMe_dies (s : State) (sl : Slot) : (s.setMe sl).dies = s.dies := rfl
@[simp] theorem setMe_nets (s : State) (sl : Slot) : (s.setMe sl).nets = s.nets := rfl
@[simp] theorem setMe_ctrls (s : State) (sl : Slot) : (s.setMe sl).ctrls = s.ctrls := rfl
@[simp] theorem setMe_mem (s : State) (sl : Slot) : (s.setMe sl).mem = s.mem := rfl
@[simp] theorem setMe_accs (s : State) (sl : Slot) : (s.setMe sl).accs = s.accs := rfl
@[simp] theorem setMe_nextAcc (s : State) (sl : Slot) : (s.setMe sl).nextAcc = s.nextAcc := rfl
@[simp] theorem setMe_nextToken (s : State) (sl : Slot) : (s.setMe sl).nextToken = s.nextToken := rfl
@[simp] theorem setMe_edges (s : State) (sl : Slot) : (s.setMe sl).edges = s.edges := rfl
@[simp] theorem setMe_groups (s : State) (sl : Slot) : (s.setMe sl).groups = s.groups := rfl
@[simp] theorem setMe_nextGroup (s : State) (sl : Slot) : (s.setMe sl).nextGroup = s.nextGroup := rfl
@[simp] theorem setMe_gidFails (s : State) (sl : Slot) : (s.setMe sl).gidFails = s.gidFails := rfl
@[simp] theorem setMe_resets (s : State) (sl : Slot) : (s.setMe sl).resets = s.resets := rfl
@[simp] theorem setMe_pkg (s : State) (sl : Slot) : (s.setMe sl).pkg = s.pkg := rfl
@[simp] theorem setMe_pods (s : State) (sl : Slot) : (s.setMe sl).pods = s.pods := rfl
@[simp] theorem setMe_ptags (s : State) (sl : Slot) : (s.setMe sl).ptags = s.ptags := rfl
@[simp] theorem setMe_domain (s : State) (sl : Slot) : (s.setMe sl).domain = s.domain := rfl
@[simp] theorem setMe_shares (s : State) (sl : Slot) : (s.setMe sl).shares = s.shares := rfl
@[simp] theorem setMe_buckets (s : State) (sl : Slot) : (s.setMe sl).buckets = s.buckets := rfl
@[simp] theorem setMe_hostErrors (s : State) (sl : Slot) : (s.setMe sl).hostErrors = s.hostErrors := rfl
@[simp] theorem setMe_hostReply (s : State) (sl : Slot) : (s.setMe sl).hostReply = s.hostReply := rfl
@[simp] theorem setMe_msix (s : State) (sl : Slot) : (s.setMe sl).msix = s.msix := rfl
@[simp] theorem setMe_links (s : State) (sl : Slot) : (s.setMe sl).links = s.links := rfl
@[simp] theorem setMe_traceRings (s : State) (sl : Slot) : (s.setMe sl).traceRings = s.traceRings := rfl
@[simp] theorem setMe_device (s : State) (sl : Slot) : (s.setMe sl).device = s.device := rfl
@[simp] theorem setMe_tick (s : State) (sl : Slot) : (s.setMe sl).tick = s.tick := rfl
@[simp] theorem setMe_agenda (s : State) (sl : Slot) : (s.setMe sl).agenda = s.agenda := rfl
@[simp] theorem setMe_due (s : State) (sl : Slot) : (s.setMe sl).due = s.due := rfl
@[simp] theorem setMe_late (s : State) (sl : Slot) : (s.setMe sl).late = s.late := rfl
@[simp] theorem setMe_issuers (s : State) (sl : Slot) : (s.setMe sl).issuers = s.issuers := rfl
@[simp] theorem setMe_cur (s : State) (sl : Slot) : (s.setMe sl).cur = s.cur := rfl
@[simp] theorem setMe_slot (s : State) (sl : Slot) : (s.setMe sl).slot = s.slot := rfl
@[simp] theorem setMe_free (s : State) (sl : Slot) : (s.setMe sl).free = s.free := rfl
@[simp] theorem setMe_spoiled (s : State) (sl : Slot) : (s.setMe sl).spoiled = s.spoiled := rfl

/-! ## Core.setSlot -/
@[simp] theorem Core.setSlot_wins (k : Core) (t : Nat) (sl : Slot) : (k.setSlot t sl).wins = k.wins := rfl
@[simp] theorem Core.setSlot_istore (k : Core) (t : Nat) (sl : Slot) : (k.setSlot t sl).istore = k.istore := rfl
@[simp] theorem Core.setSlot_wstore (k : Core) (t : Nat) (sl : Slot) : (k.setSlot t sl).wstore = k.wstore := rfl
@[simp] theorem Core.setSlot_cstore (k : Core) (t : Nat) (sl : Slot) : (k.setSlot t sl).cstore = k.cstore := rfl
@[simp] theorem Core.setSlot_seq (k : Core) (t : Nat) (sl : Slot) : (k.setSlot t sl).seq = k.seq := rfl
@[simp] theorem Core.setSlot_tvecEn (k : Core) (t : Nat) (sl : Slot) : (k.setSlot t sl).tvecEn = k.tvecEn := rfl
@[simp] theorem Core.setSlot_tvec (k : Core) (t : Nat) (sl : Slot) : (k.setSlot t sl).tvec = k.tvec := rfl
@[simp] theorem Core.setSlot_bnh (k : Core) (t : Nat) (sl : Slot) : (k.setSlot t sl).bnh = k.bnh := rfl
@[simp] theorem Core.setSlot_bxsh (k : Core) (t : Nat) (sl : Slot) : (k.setSlot t sl).bxsh = k.bxsh := rfl
@[simp] theorem Core.setSlot_pkrt (k : Core) (t : Nat) (sl : Slot) : (k.setSlot t sl).pkrt = k.pkrt := rfl
@[simp] theorem Core.setSlot_egm (k : Core) (t : Nat) (sl : Slot) : (k.setSlot t sl).egm = k.egm := rfl
@[simp] theorem Core.setSlot_rpnot (k : Core) (t : Nat) (sl : Slot) : (k.setSlot t sl).rpnot = k.rpnot := rfl
@[simp] theorem Core.setSlot_wdctl (k : Core) (t : Nat) (sl : Slot) : (k.setSlot t sl).wdctl = k.wdctl := rfl
@[simp] theorem Core.setSlot_wdcnt (k : Core) (t : Nat) (sl : Slot) : (k.setSlot t sl).wdcnt = k.wdcnt := rfl
@[simp] theorem Core.setSlot_cens (k : Core) (t : Nat) (sl : Slot) : (k.setSlot t sl).cens = k.cens := rfl
@[simp] theorem Core.setSlot_trc (k : Core) (t : Nat) (sl : Slot) : (k.setSlot t sl).trc = k.trc := rfl
@[simp] theorem Core.setSlot_trcShadow (k : Core) (t : Nat) (sl : Slot) : (k.setSlot t sl).trcShadow = k.trcShadow := rfl
@[simp] theorem Core.setSlot_trcLent (k : Core) (t : Nat) (sl : Slot) : (k.setSlot t sl).trcLent = k.trcLent := rfl
@[simp] theorem Core.setSlot_traced (k : Core) (t : Nat) (sl : Slot) : (k.setSlot t sl).traced = k.traced := rfl
@[simp] theorem Core.setSlot_dbgctl (k : Core) (t : Nat) (sl : Slot) : (k.setSlot t sl).dbgctl = k.dbgctl := rfl
@[simp] theorem Core.setSlot_dbgev (k : Core) (t : Nat) (sl : Slot) : (k.setSlot t sl).dbgev = k.dbgev := rfl
@[simp] theorem Core.setSlot_bks (k : Core) (t : Nat) (sl : Slot) : (k.setSlot t sl).bks = k.bks := rfl
@[simp] theorem Core.setSlot_stall (k : Core) (t : Nat) (sl : Slot) : (k.setSlot t sl).stall = k.stall := rfl
@[simp] theorem Core.setSlot_stallShadow (k : Core) (t : Nat) (sl : Slot) : (k.setSlot t sl).stallShadow = k.stallShadow := rfl
@[simp] theorem Core.setSlot_stallLent (k : Core) (t : Nat) (sl : Slot) : (k.setSlot t sl).stallLent = k.stallLent := rfl
@[simp] theorem Core.setSlot_cready (k : Core) (t : Nat) (sl : Slot) : (k.setSlot t sl).cready = k.cready := rfl
@[simp] theorem Core.setSlot_pend (k : Core) (t : Nat) (sl : Slot) : (k.setSlot t sl).pend = k.pend := rfl
@[simp] theorem Core.setSlot_cmask (k : Core) (t : Nat) (sl : Slot) : (k.setSlot t sl).cmask = k.cmask := rfl
@[simp] theorem Core.setSlot_classq (k : Core) (t : Nat) (sl : Slot) : (k.setSlot t sl).classq = k.classq := rfl
@[simp] theorem Core.setSlot_gens (k : Core) (t : Nat) (sl : Slot) : (k.setSlot t sl).gens = k.gens := rfl
@[simp] theorem Core.setSlot_fabq (k : Core) (t : Nat) (sl : Slot) : (k.setSlot t sl).fabq = k.fabq := rfl
@[simp] theorem Core.setSlot_mxq (k : Core) (t : Nat) (sl : Slot) : (k.setSlot t sl).mxq = k.mxq := rfl
@[simp] theorem Core.setSlot_bteq (k : Core) (t : Nat) (sl : Slot) : (k.setSlot t sl).bteq = k.bteq := rfl
@[simp] theorem Core.setSlot_ringq (k : Core) (t : Nat) (sl : Slot) : (k.setSlot t sl).ringq = k.ringq := rfl
@[simp] theorem Core.setSlot_pktq (k : Core) (t : Nat) (sl : Slot) : (k.setSlot t sl).pktq = k.pktq := rfl
@[simp] theorem Core.setSlot_pktRuns (k : Core) (t : Nat) (sl : Slot) : (k.setSlot t sl).pktRuns = k.pktRuns := rfl
@[simp] theorem Core.setSlot_stuck (k : Core) (t : Nat) (sl : Slot) : (k.setSlot t sl).stuck = k.stuck := rfl
@[simp] theorem Core.setSlot_notices (k : Core) (t : Nat) (sl : Slot) : (k.setSlot t sl).notices = k.notices := rfl
@[simp] theorem Core.setSlot_fabRun (k : Core) (t : Nat) (sl : Slot) : (k.setSlot t sl).fabRun = k.fabRun := rfl
@[simp] theorem Core.setSlot_round (k : Core) (t : Nat) (sl : Slot) : (k.setSlot t sl).round = k.round := rfl
@[simp] theorem Core.setSlot_bte (k : Core) (t : Nat) (sl : Slot) : (k.setSlot t sl).bte = k.bte := rfl
@[simp] theorem Core.setSlot_mx (k : Core) (t : Nat) (sl : Slot) : (k.setSlot t sl).mx = k.mx := rfl
@[simp] theorem Core.setSlot_ring (k : Core) (t : Nat) (sl : Slot) : (k.setSlot t sl).ring = k.ring := rfl
@[simp] theorem Core.setSlot_ended (k : Core) (t : Nat) (sl : Slot) : (k.setSlot t sl).ended = k.ended := rfl
@[simp] theorem Core.setSlot_utlb (k : Core) (t : Nat) (sl : Slot) : (k.setSlot t sl).utlb = k.utlb := rfl
@[simp] theorem Core.setSlot_banks (k : Core) (t : Nat) (sl : Slot) : (k.setSlot t sl).banks = k.banks := rfl
@[simp] theorem Core.setSlot_stop (k : Core) (t : Nat) (sl : Slot) : (k.setSlot t sl).stop = k.stop := rfl
@[simp] theorem Core.setSlot_haltTick (k : Core) (t : Nat) (sl : Slot) : (k.setSlot t sl).haltTick = k.haltTick := rfl
@[simp] theorem Core.setSlot_group (k : Core) (t : Nat) (sl : Slot) : (k.setSlot t sl).group = k.group := rfl
@[simp] theorem Core.setSlot_censOp (k : Core) (t : Nat) (sl : Slot) : (k.setSlot t sl).censOp = k.censOp := rfl
@[simp] theorem Core.setSlot_fabLast (k : Core) (t : Nat) (sl : Slot) : (k.setSlot t sl).fabLast = k.fabLast := rfl

/-! ## Core.setWin -/
@[simp] theorem Core.setWin_slots (k : Core) (w : Nat) (x : Win) : (k.setWin w x).slots = k.slots := rfl
@[simp] theorem Core.setWin_istore (k : Core) (w : Nat) (x : Win) : (k.setWin w x).istore = k.istore := rfl
@[simp] theorem Core.setWin_wstore (k : Core) (w : Nat) (x : Win) : (k.setWin w x).wstore = k.wstore := rfl
@[simp] theorem Core.setWin_cstore (k : Core) (w : Nat) (x : Win) : (k.setWin w x).cstore = k.cstore := rfl
@[simp] theorem Core.setWin_seq (k : Core) (w : Nat) (x : Win) : (k.setWin w x).seq = k.seq := rfl
@[simp] theorem Core.setWin_tvecEn (k : Core) (w : Nat) (x : Win) : (k.setWin w x).tvecEn = k.tvecEn := rfl
@[simp] theorem Core.setWin_tvec (k : Core) (w : Nat) (x : Win) : (k.setWin w x).tvec = k.tvec := rfl
@[simp] theorem Core.setWin_bnh (k : Core) (w : Nat) (x : Win) : (k.setWin w x).bnh = k.bnh := rfl
@[simp] theorem Core.setWin_bxsh (k : Core) (w : Nat) (x : Win) : (k.setWin w x).bxsh = k.bxsh := rfl
@[simp] theorem Core.setWin_pkrt (k : Core) (w : Nat) (x : Win) : (k.setWin w x).pkrt = k.pkrt := rfl
@[simp] theorem Core.setWin_egm (k : Core) (w : Nat) (x : Win) : (k.setWin w x).egm = k.egm := rfl
@[simp] theorem Core.setWin_rpnot (k : Core) (w : Nat) (x : Win) : (k.setWin w x).rpnot = k.rpnot := rfl
@[simp] theorem Core.setWin_wdctl (k : Core) (w : Nat) (x : Win) : (k.setWin w x).wdctl = k.wdctl := rfl
@[simp] theorem Core.setWin_wdcnt (k : Core) (w : Nat) (x : Win) : (k.setWin w x).wdcnt = k.wdcnt := rfl
@[simp] theorem Core.setWin_cens (k : Core) (w : Nat) (x : Win) : (k.setWin w x).cens = k.cens := rfl
@[simp] theorem Core.setWin_trc (k : Core) (w : Nat) (x : Win) : (k.setWin w x).trc = k.trc := rfl
@[simp] theorem Core.setWin_trcShadow (k : Core) (w : Nat) (x : Win) : (k.setWin w x).trcShadow = k.trcShadow := rfl
@[simp] theorem Core.setWin_trcLent (k : Core) (w : Nat) (x : Win) : (k.setWin w x).trcLent = k.trcLent := rfl
@[simp] theorem Core.setWin_traced (k : Core) (w : Nat) (x : Win) : (k.setWin w x).traced = k.traced := rfl
@[simp] theorem Core.setWin_dbgctl (k : Core) (w : Nat) (x : Win) : (k.setWin w x).dbgctl = k.dbgctl := rfl
@[simp] theorem Core.setWin_dbgev (k : Core) (w : Nat) (x : Win) : (k.setWin w x).dbgev = k.dbgev := rfl
@[simp] theorem Core.setWin_bks (k : Core) (w : Nat) (x : Win) : (k.setWin w x).bks = k.bks := rfl
@[simp] theorem Core.setWin_stall (k : Core) (w : Nat) (x : Win) : (k.setWin w x).stall = k.stall := rfl
@[simp] theorem Core.setWin_stallShadow (k : Core) (w : Nat) (x : Win) : (k.setWin w x).stallShadow = k.stallShadow := rfl
@[simp] theorem Core.setWin_stallLent (k : Core) (w : Nat) (x : Win) : (k.setWin w x).stallLent = k.stallLent := rfl
@[simp] theorem Core.setWin_cready (k : Core) (w : Nat) (x : Win) : (k.setWin w x).cready = k.cready := rfl
@[simp] theorem Core.setWin_pend (k : Core) (w : Nat) (x : Win) : (k.setWin w x).pend = k.pend := rfl
@[simp] theorem Core.setWin_cmask (k : Core) (w : Nat) (x : Win) : (k.setWin w x).cmask = k.cmask := rfl
@[simp] theorem Core.setWin_classq (k : Core) (w : Nat) (x : Win) : (k.setWin w x).classq = k.classq := rfl
@[simp] theorem Core.setWin_gens (k : Core) (w : Nat) (x : Win) : (k.setWin w x).gens = k.gens := rfl
@[simp] theorem Core.setWin_fabq (k : Core) (w : Nat) (x : Win) : (k.setWin w x).fabq = k.fabq := rfl
@[simp] theorem Core.setWin_mxq (k : Core) (w : Nat) (x : Win) : (k.setWin w x).mxq = k.mxq := rfl
@[simp] theorem Core.setWin_bteq (k : Core) (w : Nat) (x : Win) : (k.setWin w x).bteq = k.bteq := rfl
@[simp] theorem Core.setWin_ringq (k : Core) (w : Nat) (x : Win) : (k.setWin w x).ringq = k.ringq := rfl
@[simp] theorem Core.setWin_pktq (k : Core) (w : Nat) (x : Win) : (k.setWin w x).pktq = k.pktq := rfl
@[simp] theorem Core.setWin_pktRuns (k : Core) (w : Nat) (x : Win) : (k.setWin w x).pktRuns = k.pktRuns := rfl
@[simp] theorem Core.setWin_stuck (k : Core) (w : Nat) (x : Win) : (k.setWin w x).stuck = k.stuck := rfl
@[simp] theorem Core.setWin_notices (k : Core) (w : Nat) (x : Win) : (k.setWin w x).notices = k.notices := rfl
@[simp] theorem Core.setWin_fabRun (k : Core) (w : Nat) (x : Win) : (k.setWin w x).fabRun = k.fabRun := rfl
@[simp] theorem Core.setWin_round (k : Core) (w : Nat) (x : Win) : (k.setWin w x).round = k.round := rfl
@[simp] theorem Core.setWin_bte (k : Core) (w : Nat) (x : Win) : (k.setWin w x).bte = k.bte := rfl
@[simp] theorem Core.setWin_mx (k : Core) (w : Nat) (x : Win) : (k.setWin w x).mx = k.mx := rfl
@[simp] theorem Core.setWin_ring (k : Core) (w : Nat) (x : Win) : (k.setWin w x).ring = k.ring := rfl
@[simp] theorem Core.setWin_ended (k : Core) (w : Nat) (x : Win) : (k.setWin w x).ended = k.ended := rfl
@[simp] theorem Core.setWin_utlb (k : Core) (w : Nat) (x : Win) : (k.setWin w x).utlb = k.utlb := rfl
@[simp] theorem Core.setWin_banks (k : Core) (w : Nat) (x : Win) : (k.setWin w x).banks = k.banks := rfl
@[simp] theorem Core.setWin_stop (k : Core) (w : Nat) (x : Win) : (k.setWin w x).stop = k.stop := rfl
@[simp] theorem Core.setWin_haltTick (k : Core) (w : Nat) (x : Win) : (k.setWin w x).haltTick = k.haltTick := rfl
@[simp] theorem Core.setWin_group (k : Core) (w : Nat) (x : Win) : (k.setWin w x).group = k.group := rfl
@[simp] theorem Core.setWin_censOp (k : Core) (w : Nat) (x : Win) : (k.setWin w x).censOp = k.censOp := rfl
@[simp] theorem Core.setWin_fabLast (k : Core) (w : Nat) (x : Win) : (k.setWin w x).fabLast = k.fabLast := rfl

/-! ## Slot.writeG -/
@[simp] theorem Slot.writeG_status (sl : Slot) (d : BitVec 5) (v : Word) : (sl.writeG d v).status = sl.status := by unfold Slot.writeG; split <;> rfl
@[simp] theorem Slot.writeG_pc (sl : Slot) (d : BitVec 5) (v : Word) : (sl.writeG d v).pc = sl.pc := by unfold Slot.writeG; split <;> rfl
@[simp] theorem Slot.writeG_a (sl : Slot) (d : BitVec 5) (v : Word) : (sl.writeG d v).a = sl.a := by unfold Slot.writeG; split <;> rfl
@[simp] theorem Slot.writeG_p (sl : Slot) (d : BitVec 5) (v : Word) : (sl.writeG d v).p = sl.p := by unfold Slot.writeG; split <;> rfl
@[simp] theorem Slot.writeG_k (sl : Slot) (d : BitVec 5) (v : Word) : (sl.writeG d v).k = sl.k := by unfold Slot.writeG; split <;> rfl
@[simp] theorem Slot.writeG_prio (sl : Slot) (d : BitVec 5) (v : Word) : (sl.writeG d v).prio = sl.prio := by unfold Slot.writeG; split <;> rfl
@[simp] theorem Slot.writeG_sup (sl : Slot) (d : BitVec 5) (v : Word) : (sl.writeG d v).sup = sl.sup := by unfold Slot.writeG; split <;> rfl
@[simp] theorem Slot.writeG_fpstat (sl : Slot) (d : BitVec 5) (v : Word) : (sl.writeG d v).fpstat = sl.fpstat := by unfold Slot.writeG; split <;> rfl
@[simp] theorem Slot.writeG_repc (sl : Slot) (d : BitVec 5) (v : Word) : (sl.writeG d v).repc = sl.repc := by unfold Slot.writeG; split <;> rfl
@[simp] theorem Slot.writeG_inRep (sl : Slot) (d : BitVec 5) (v : Word) : (sl.writeG d v).inRep = sl.inRep := by unfold Slot.writeG; split <;> rfl
@[simp] theorem Slot.writeG_trapcause (sl : Slot) (d : BitVec 5) (v : Word) : (sl.writeG d v).trapcause = sl.trapcause := by unfold Slot.writeG; split <;> rfl
@[simp] theorem Slot.writeG_trappc (sl : Slot) (d : BitVec 5) (v : Word) : (sl.writeG d v).trappc = sl.trappc := by unfold Slot.writeG; split <;> rfl
@[simp] theorem Slot.writeG_trapsite (sl : Slot) (d : BitVec 5) (v : Word) : (sl.writeG d v).trapsite = sl.trapsite := by unfold Slot.writeG; split <;> rfl
@[simp] theorem Slot.writeG_traparg (sl : Slot) (d : BitVec 5) (v : Word) : (sl.writeG d v).traparg = sl.traparg := by unfold Slot.writeG; split <;> rfl
@[simp] theorem Slot.writeG_trapva (sl : Slot) (d : BitVec 5) (v : Word) : (sl.writeG d v).trapva = sl.trapva := by unfold Slot.writeG; split <;> rfl
@[simp] theorem Slot.writeG_trapvah (sl : Slot) (d : BitVec 5) (v : Word) : (sl.writeG d v).trapvah = sl.trapvah := by unfold Slot.writeG; split <;> rfl
@[simp] theorem Slot.writeG_psup (sl : Slot) (d : BitVec 5) (v : Word) : (sl.writeG d v).psup = sl.psup := by unfold Slot.writeG; split <;> rfl
@[simp] theorem Slot.writeG_tv (sl : Slot) (d : BitVec 5) (v : Word) : (sl.writeG d v).tv = sl.tv := by unfold Slot.writeG; split <;> rfl
@[simp] theorem Slot.writeG_tscr (sl : Slot) (d : BitVec 5) (v : Word) : (sl.writeG d v).tscr = sl.tscr := by unfold Slot.writeG; split <;> rfl
@[simp] theorem Slot.writeG_bind (sl : Slot) (d : BitVec 5) (v : Word) : (sl.writeG d v).bind = sl.bind := by unfold Slot.writeG; split <;> rfl
@[simp] theorem Slot.writeG_lsup (sl : Slot) (d : BitVec 5) (v : Word) : (sl.writeG d v).lsup = sl.lsup := by unfold Slot.writeG; split <;> rfl
@[simp] theorem Slot.writeG_ready (sl : Slot) (d : BitVec 5) (v : Word) : (sl.writeG d v).ready = sl.ready := by unfold Slot.writeG; split <;> rfl
@[simp] theorem Slot.writeG_issues (sl : Slot) (d : BitVec 5) (v : Word) : (sl.writeG d v).issues = sl.issues := by unfold Slot.writeG; split <;> rfl
@[simp] theorem Slot.writeG_hold (sl : Slot) (d : BitVec 5) (v : Word) : (sl.writeG d v).hold = sl.hold := by unfold Slot.writeG; split <;> rfl
@[simp] theorem Slot.writeG_wait (sl : Slot) (d : BitVec 5) (v : Word) : (sl.writeG d v).wait = sl.wait := by unfold Slot.writeG; split <;> rfl
@[simp] theorem Slot.writeG_remote (sl : Slot) (d : BitVec 5) (v : Word) : (sl.writeG d v).remote = sl.remote := by unfold Slot.writeG; split <;> rfl
@[simp] theorem Slot.writeG_fenceRel (sl : Slot) (d : BitVec 5) (v : Word) : (sl.writeG d v).fenceRel = sl.fenceRel := by unfold Slot.writeG; split <;> rfl
@[simp] theorem Slot.writeG_loads (sl : Slot) (d : BitVec 5) (v : Word) : (sl.writeG d v).loads = sl.loads := by unfold Slot.writeG; split <;> rfl
@[simp] theorem Slot.writeG_tkns (sl : Slot) (d : BitVec 5) (v : Word) : (sl.writeG d v).tkns = sl.tkns := by unfold Slot.writeG; split <;> rfl
@[simp] theorem Slot.writeG_again (sl : Slot) (d : BitVec 5) (v : Word) : (sl.writeG d v).again = sl.again := by unfold Slot.writeG; split <;> rfl
@[simp] theorem Slot.writeG_banked (sl : Slot) (d : BitVec 5) (v : Word) : (sl.writeG d v).banked = sl.banked := by unfold Slot.writeG; split <;> rfl
@[simp] theorem Slot.writeG_paid (sl : Slot) (d : BitVec 5) (v : Word) : (sl.writeG d v).paid = sl.paid := by unfold Slot.writeG; split <;> rfl
@[simp] theorem Slot.writeG_killing (sl : Slot) (d : BitVec 5) (v : Word) : (sl.writeG d v).killing = sl.killing := by unfold Slot.writeG; split <;> rfl
@[simp] theorem Slot.writeG_act (sl : Slot) (d : BitVec 5) (v : Word) : (sl.writeG d v).act = sl.act := by unfold Slot.writeG; split <;> rfl
@[simp] theorem Slot.writeG_stopped (sl : Slot) (d : BitVec 5) (v : Word) : (sl.writeG d v).stopped = sl.stopped := by unfold Slot.writeG; split <;> rfl

/-! ## Slot.writeA -/
@[simp] theorem Slot.writeA_status (sl : Slot) (d : BitVec 4) (v : Addr) : (sl.writeA d v).status = sl.status := rfl
@[simp] theorem Slot.writeA_pc (sl : Slot) (d : BitVec 4) (v : Addr) : (sl.writeA d v).pc = sl.pc := rfl
@[simp] theorem Slot.writeA_g (sl : Slot) (d : BitVec 4) (v : Addr) : (sl.writeA d v).g = sl.g := rfl
@[simp] theorem Slot.writeA_p (sl : Slot) (d : BitVec 4) (v : Addr) : (sl.writeA d v).p = sl.p := rfl
@[simp] theorem Slot.writeA_k (sl : Slot) (d : BitVec 4) (v : Addr) : (sl.writeA d v).k = sl.k := rfl
@[simp] theorem Slot.writeA_prio (sl : Slot) (d : BitVec 4) (v : Addr) : (sl.writeA d v).prio = sl.prio := rfl
@[simp] theorem Slot.writeA_sup (sl : Slot) (d : BitVec 4) (v : Addr) : (sl.writeA d v).sup = sl.sup := rfl
@[simp] theorem Slot.writeA_fpstat (sl : Slot) (d : BitVec 4) (v : Addr) : (sl.writeA d v).fpstat = sl.fpstat := rfl
@[simp] theorem Slot.writeA_repc (sl : Slot) (d : BitVec 4) (v : Addr) : (sl.writeA d v).repc = sl.repc := rfl
@[simp] theorem Slot.writeA_inRep (sl : Slot) (d : BitVec 4) (v : Addr) : (sl.writeA d v).inRep = sl.inRep := rfl
@[simp] theorem Slot.writeA_trapcause (sl : Slot) (d : BitVec 4) (v : Addr) : (sl.writeA d v).trapcause = sl.trapcause := rfl
@[simp] theorem Slot.writeA_trappc (sl : Slot) (d : BitVec 4) (v : Addr) : (sl.writeA d v).trappc = sl.trappc := rfl
@[simp] theorem Slot.writeA_trapsite (sl : Slot) (d : BitVec 4) (v : Addr) : (sl.writeA d v).trapsite = sl.trapsite := rfl
@[simp] theorem Slot.writeA_traparg (sl : Slot) (d : BitVec 4) (v : Addr) : (sl.writeA d v).traparg = sl.traparg := rfl
@[simp] theorem Slot.writeA_trapva (sl : Slot) (d : BitVec 4) (v : Addr) : (sl.writeA d v).trapva = sl.trapva := rfl
@[simp] theorem Slot.writeA_trapvah (sl : Slot) (d : BitVec 4) (v : Addr) : (sl.writeA d v).trapvah = sl.trapvah := rfl
@[simp] theorem Slot.writeA_psup (sl : Slot) (d : BitVec 4) (v : Addr) : (sl.writeA d v).psup = sl.psup := rfl
@[simp] theorem Slot.writeA_tv (sl : Slot) (d : BitVec 4) (v : Addr) : (sl.writeA d v).tv = sl.tv := rfl
@[simp] theorem Slot.writeA_tscr (sl : Slot) (d : BitVec 4) (v : Addr) : (sl.writeA d v).tscr = sl.tscr := rfl
@[simp] theorem Slot.writeA_bind (sl : Slot) (d : BitVec 4) (v : Addr) : (sl.writeA d v).bind = sl.bind := rfl
@[simp] theorem Slot.writeA_lsup (sl : Slot) (d : BitVec 4) (v : Addr) : (sl.writeA d v).lsup = sl.lsup := rfl
@[simp] theorem Slot.writeA_ready (sl : Slot) (d : BitVec 4) (v : Addr) : (sl.writeA d v).ready = sl.ready := rfl
@[simp] theorem Slot.writeA_issues (sl : Slot) (d : BitVec 4) (v : Addr) : (sl.writeA d v).issues = sl.issues := rfl
@[simp] theorem Slot.writeA_hold (sl : Slot) (d : BitVec 4) (v : Addr) : (sl.writeA d v).hold = sl.hold := rfl
@[simp] theorem Slot.writeA_wait (sl : Slot) (d : BitVec 4) (v : Addr) : (sl.writeA d v).wait = sl.wait := rfl
@[simp] theorem Slot.writeA_remote (sl : Slot) (d : BitVec 4) (v : Addr) : (sl.writeA d v).remote = sl.remote := rfl
@[simp] theorem Slot.writeA_fenceRel (sl : Slot) (d : BitVec 4) (v : Addr) : (sl.writeA d v).fenceRel = sl.fenceRel := rfl
@[simp] theorem Slot.writeA_loads (sl : Slot) (d : BitVec 4) (v : Addr) : (sl.writeA d v).loads = sl.loads := rfl
@[simp] theorem Slot.writeA_tkns (sl : Slot) (d : BitVec 4) (v : Addr) : (sl.writeA d v).tkns = sl.tkns := rfl
@[simp] theorem Slot.writeA_again (sl : Slot) (d : BitVec 4) (v : Addr) : (sl.writeA d v).again = sl.again := rfl
@[simp] theorem Slot.writeA_banked (sl : Slot) (d : BitVec 4) (v : Addr) : (sl.writeA d v).banked = sl.banked := rfl
@[simp] theorem Slot.writeA_killing (sl : Slot) (d : BitVec 4) (v : Addr) : (sl.writeA d v).killing = sl.killing := rfl
@[simp] theorem Slot.writeA_act (sl : Slot) (d : BitVec 4) (v : Addr) : (sl.writeA d v).act = sl.act := rfl
@[simp] theorem Slot.writeA_stopped (sl : Slot) (d : BitVec 4) (v : Addr) : (sl.writeA d v).stopped = sl.stopped := rfl
@[simp] theorem Slot.writeA_paid (sl : Slot) (d : BitVec 4) (v : Addr) : (sl.writeA d v).paid = sl.paid := rfl

/-! ## Slot.writeP -/
@[simp] theorem Slot.writeP_status (sl : Slot) (d : BitVec 3) (v : Bool) : (sl.writeP d v).status = sl.status := by unfold Slot.writeP; split <;> rfl
@[simp] theorem Slot.writeP_pc (sl : Slot) (d : BitVec 3) (v : Bool) : (sl.writeP d v).pc = sl.pc := by unfold Slot.writeP; split <;> rfl
@[simp] theorem Slot.writeP_g (sl : Slot) (d : BitVec 3) (v : Bool) : (sl.writeP d v).g = sl.g := by unfold Slot.writeP; split <;> rfl
@[simp] theorem Slot.writeP_a (sl : Slot) (d : BitVec 3) (v : Bool) : (sl.writeP d v).a = sl.a := by unfold Slot.writeP; split <;> rfl
@[simp] theorem Slot.writeP_k (sl : Slot) (d : BitVec 3) (v : Bool) : (sl.writeP d v).k = sl.k := by unfold Slot.writeP; split <;> rfl
@[simp] theorem Slot.writeP_prio (sl : Slot) (d : BitVec 3) (v : Bool) : (sl.writeP d v).prio = sl.prio := by unfold Slot.writeP; split <;> rfl
@[simp] theorem Slot.writeP_sup (sl : Slot) (d : BitVec 3) (v : Bool) : (sl.writeP d v).sup = sl.sup := by unfold Slot.writeP; split <;> rfl
@[simp] theorem Slot.writeP_fpstat (sl : Slot) (d : BitVec 3) (v : Bool) : (sl.writeP d v).fpstat = sl.fpstat := by unfold Slot.writeP; split <;> rfl
@[simp] theorem Slot.writeP_repc (sl : Slot) (d : BitVec 3) (v : Bool) : (sl.writeP d v).repc = sl.repc := by unfold Slot.writeP; split <;> rfl
@[simp] theorem Slot.writeP_inRep (sl : Slot) (d : BitVec 3) (v : Bool) : (sl.writeP d v).inRep = sl.inRep := by unfold Slot.writeP; split <;> rfl
@[simp] theorem Slot.writeP_trapcause (sl : Slot) (d : BitVec 3) (v : Bool) : (sl.writeP d v).trapcause = sl.trapcause := by unfold Slot.writeP; split <;> rfl
@[simp] theorem Slot.writeP_trappc (sl : Slot) (d : BitVec 3) (v : Bool) : (sl.writeP d v).trappc = sl.trappc := by unfold Slot.writeP; split <;> rfl
@[simp] theorem Slot.writeP_trapsite (sl : Slot) (d : BitVec 3) (v : Bool) : (sl.writeP d v).trapsite = sl.trapsite := by unfold Slot.writeP; split <;> rfl
@[simp] theorem Slot.writeP_traparg (sl : Slot) (d : BitVec 3) (v : Bool) : (sl.writeP d v).traparg = sl.traparg := by unfold Slot.writeP; split <;> rfl
@[simp] theorem Slot.writeP_trapva (sl : Slot) (d : BitVec 3) (v : Bool) : (sl.writeP d v).trapva = sl.trapva := by unfold Slot.writeP; split <;> rfl
@[simp] theorem Slot.writeP_trapvah (sl : Slot) (d : BitVec 3) (v : Bool) : (sl.writeP d v).trapvah = sl.trapvah := by unfold Slot.writeP; split <;> rfl
@[simp] theorem Slot.writeP_psup (sl : Slot) (d : BitVec 3) (v : Bool) : (sl.writeP d v).psup = sl.psup := by unfold Slot.writeP; split <;> rfl
@[simp] theorem Slot.writeP_tv (sl : Slot) (d : BitVec 3) (v : Bool) : (sl.writeP d v).tv = sl.tv := by unfold Slot.writeP; split <;> rfl
@[simp] theorem Slot.writeP_tscr (sl : Slot) (d : BitVec 3) (v : Bool) : (sl.writeP d v).tscr = sl.tscr := by unfold Slot.writeP; split <;> rfl
@[simp] theorem Slot.writeP_bind (sl : Slot) (d : BitVec 3) (v : Bool) : (sl.writeP d v).bind = sl.bind := by unfold Slot.writeP; split <;> rfl
@[simp] theorem Slot.writeP_lsup (sl : Slot) (d : BitVec 3) (v : Bool) : (sl.writeP d v).lsup = sl.lsup := by unfold Slot.writeP; split <;> rfl
@[simp] theorem Slot.writeP_ready (sl : Slot) (d : BitVec 3) (v : Bool) : (sl.writeP d v).ready = sl.ready := by unfold Slot.writeP; split <;> rfl
@[simp] theorem Slot.writeP_issues (sl : Slot) (d : BitVec 3) (v : Bool) : (sl.writeP d v).issues = sl.issues := by unfold Slot.writeP; split <;> rfl
@[simp] theorem Slot.writeP_hold (sl : Slot) (d : BitVec 3) (v : Bool) : (sl.writeP d v).hold = sl.hold := by unfold Slot.writeP; split <;> rfl
@[simp] theorem Slot.writeP_wait (sl : Slot) (d : BitVec 3) (v : Bool) : (sl.writeP d v).wait = sl.wait := by unfold Slot.writeP; split <;> rfl
@[simp] theorem Slot.writeP_remote (sl : Slot) (d : BitVec 3) (v : Bool) : (sl.writeP d v).remote = sl.remote := by unfold Slot.writeP; split <;> rfl
@[simp] theorem Slot.writeP_fenceRel (sl : Slot) (d : BitVec 3) (v : Bool) : (sl.writeP d v).fenceRel = sl.fenceRel := by unfold Slot.writeP; split <;> rfl
@[simp] theorem Slot.writeP_loads (sl : Slot) (d : BitVec 3) (v : Bool) : (sl.writeP d v).loads = sl.loads := by unfold Slot.writeP; split <;> rfl
@[simp] theorem Slot.writeP_tkns (sl : Slot) (d : BitVec 3) (v : Bool) : (sl.writeP d v).tkns = sl.tkns := by unfold Slot.writeP; split <;> rfl
@[simp] theorem Slot.writeP_again (sl : Slot) (d : BitVec 3) (v : Bool) : (sl.writeP d v).again = sl.again := by unfold Slot.writeP; split <;> rfl
@[simp] theorem Slot.writeP_banked (sl : Slot) (d : BitVec 3) (v : Bool) : (sl.writeP d v).banked = sl.banked := by unfold Slot.writeP; split <;> rfl
@[simp] theorem Slot.writeP_paid (sl : Slot) (d : BitVec 3) (v : Bool) : (sl.writeP d v).paid = sl.paid := by unfold Slot.writeP; split <;> rfl
@[simp] theorem Slot.writeP_killing (sl : Slot) (d : BitVec 3) (v : Bool) : (sl.writeP d v).killing = sl.killing := by unfold Slot.writeP; split <;> rfl
@[simp] theorem Slot.writeP_act (sl : Slot) (d : BitVec 3) (v : Bool) : (sl.writeP d v).act = sl.act := by unfold Slot.writeP; split <;> rfl
@[simp] theorem Slot.writeP_stopped (sl : Slot) (d : BitVec 3) (v : Bool) : (sl.writeP d v).stopped = sl.stopped := by unfold Slot.writeP; split <;> rfl

/-! ## Slot.writeK -/
@[simp] theorem Slot.writeK_status (sl : Slot) (d : BitVec 3) (v : Wide) : (sl.writeK d v).status = sl.status := rfl
@[simp] theorem Slot.writeK_pc (sl : Slot) (d : BitVec 3) (v : Wide) : (sl.writeK d v).pc = sl.pc := rfl
@[simp] theorem Slot.writeK_g (sl : Slot) (d : BitVec 3) (v : Wide) : (sl.writeK d v).g = sl.g := rfl
@[simp] theorem Slot.writeK_a (sl : Slot) (d : BitVec 3) (v : Wide) : (sl.writeK d v).a = sl.a := rfl
@[simp] theorem Slot.writeK_p (sl : Slot) (d : BitVec 3) (v : Wide) : (sl.writeK d v).p = sl.p := rfl
@[simp] theorem Slot.writeK_prio (sl : Slot) (d : BitVec 3) (v : Wide) : (sl.writeK d v).prio = sl.prio := rfl
@[simp] theorem Slot.writeK_sup (sl : Slot) (d : BitVec 3) (v : Wide) : (sl.writeK d v).sup = sl.sup := rfl
@[simp] theorem Slot.writeK_fpstat (sl : Slot) (d : BitVec 3) (v : Wide) : (sl.writeK d v).fpstat = sl.fpstat := rfl
@[simp] theorem Slot.writeK_repc (sl : Slot) (d : BitVec 3) (v : Wide) : (sl.writeK d v).repc = sl.repc := rfl
@[simp] theorem Slot.writeK_inRep (sl : Slot) (d : BitVec 3) (v : Wide) : (sl.writeK d v).inRep = sl.inRep := rfl
@[simp] theorem Slot.writeK_trapcause (sl : Slot) (d : BitVec 3) (v : Wide) : (sl.writeK d v).trapcause = sl.trapcause := rfl
@[simp] theorem Slot.writeK_trappc (sl : Slot) (d : BitVec 3) (v : Wide) : (sl.writeK d v).trappc = sl.trappc := rfl
@[simp] theorem Slot.writeK_trapsite (sl : Slot) (d : BitVec 3) (v : Wide) : (sl.writeK d v).trapsite = sl.trapsite := rfl
@[simp] theorem Slot.writeK_traparg (sl : Slot) (d : BitVec 3) (v : Wide) : (sl.writeK d v).traparg = sl.traparg := rfl
@[simp] theorem Slot.writeK_trapva (sl : Slot) (d : BitVec 3) (v : Wide) : (sl.writeK d v).trapva = sl.trapva := rfl
@[simp] theorem Slot.writeK_trapvah (sl : Slot) (d : BitVec 3) (v : Wide) : (sl.writeK d v).trapvah = sl.trapvah := rfl
@[simp] theorem Slot.writeK_psup (sl : Slot) (d : BitVec 3) (v : Wide) : (sl.writeK d v).psup = sl.psup := rfl
@[simp] theorem Slot.writeK_tv (sl : Slot) (d : BitVec 3) (v : Wide) : (sl.writeK d v).tv = sl.tv := rfl
@[simp] theorem Slot.writeK_tscr (sl : Slot) (d : BitVec 3) (v : Wide) : (sl.writeK d v).tscr = sl.tscr := rfl
@[simp] theorem Slot.writeK_bind (sl : Slot) (d : BitVec 3) (v : Wide) : (sl.writeK d v).bind = sl.bind := rfl
@[simp] theorem Slot.writeK_lsup (sl : Slot) (d : BitVec 3) (v : Wide) : (sl.writeK d v).lsup = sl.lsup := rfl
@[simp] theorem Slot.writeK_ready (sl : Slot) (d : BitVec 3) (v : Wide) : (sl.writeK d v).ready = sl.ready := rfl
@[simp] theorem Slot.writeK_issues (sl : Slot) (d : BitVec 3) (v : Wide) : (sl.writeK d v).issues = sl.issues := rfl
@[simp] theorem Slot.writeK_hold (sl : Slot) (d : BitVec 3) (v : Wide) : (sl.writeK d v).hold = sl.hold := rfl
@[simp] theorem Slot.writeK_wait (sl : Slot) (d : BitVec 3) (v : Wide) : (sl.writeK d v).wait = sl.wait := rfl
@[simp] theorem Slot.writeK_remote (sl : Slot) (d : BitVec 3) (v : Wide) : (sl.writeK d v).remote = sl.remote := rfl
@[simp] theorem Slot.writeK_fenceRel (sl : Slot) (d : BitVec 3) (v : Wide) : (sl.writeK d v).fenceRel = sl.fenceRel := rfl
@[simp] theorem Slot.writeK_loads (sl : Slot) (d : BitVec 3) (v : Wide) : (sl.writeK d v).loads = sl.loads := rfl
@[simp] theorem Slot.writeK_tkns (sl : Slot) (d : BitVec 3) (v : Wide) : (sl.writeK d v).tkns = sl.tkns := rfl
@[simp] theorem Slot.writeK_again (sl : Slot) (d : BitVec 3) (v : Wide) : (sl.writeK d v).again = sl.again := rfl
@[simp] theorem Slot.writeK_banked (sl : Slot) (d : BitVec 3) (v : Wide) : (sl.writeK d v).banked = sl.banked := rfl
@[simp] theorem Slot.writeK_killing (sl : Slot) (d : BitVec 3) (v : Wide) : (sl.writeK d v).killing = sl.killing := rfl
@[simp] theorem Slot.writeK_act (sl : Slot) (d : BitVec 3) (v : Wide) : (sl.writeK d v).act = sl.act := rfl
@[simp] theorem Slot.writeK_stopped (sl : Slot) (d : BitVec 3) (v : Wide) : (sl.writeK d v).stopped = sl.stopped := rfl
@[simp] theorem Slot.writeK_paid (sl : Slot) (d : BitVec 3) (v : Wide) : (sl.writeK d v).paid = sl.paid := rfl

/-! ## Units -/

/-- A core after one was replaced. -/
theorem coreAt_setCore (s : State) (c d : Nat) (k : Core) :
    (s.setCore c k).coreAt d = if d = c then k else s.coreAt d := tget_tput ..
@[simp] theorem coreAt_setCore_self (s : State) (c : Nat) (k : Core) : (s.setCore c k).coreAt c = k :=
  tget_tput_self ..
/-- A cluster after one was replaced. -/
theorem clusterAt_setCluster (s : State) (c d : Nat) (k : Cluster) :
    (s.setCluster c k).clusterAt d = if d = c then k else s.clusterAt d := tget_tput ..
@[simp] theorem clusterAt_setCluster_self (s : State) (c : Nat) (k : Cluster) :
    (s.setCluster c k).clusterAt c = k := tget_tput_self ..
/-- A die after one was replaced. -/
theorem dieAt_setDie (s : State) (c d : Nat) (k : Die) :
    (s.setDie c k).dieAt d = if d = c then k else s.dieAt d := tget_tput ..
@[simp] theorem dieAt_setDie_self (s : State) (c : Nat) (k : Die) : (s.setDie c k).dieAt c = k := tget_tput_self ..
/-- A network after one was replaced. -/
theorem netAt_setNet (s : State) (c d : Nat) (k : Net) :
    (s.setNet c k).netAt d = if d = c then k else s.netAt d := tget_tput ..
@[simp] theorem netAt_setNet_self (s : State) (c : Nat) (k : Net) : (s.setNet c k).netAt c = k := tget_tput_self ..
/-- A ring controller after one was replaced. -/
theorem ctrlAt_setCtrl (s : State) (c d : Nat) (k : Ctrl) :
    (s.setCtrl c k).ctrlAt d = if d = c then k else s.ctrlAt d := tget_tput ..
@[simp] theorem ctrlAt_setCtrl_self (s : State) (c : Nat) (k : Ctrl) : (s.setCtrl c k).ctrlAt c = k :=
  tget_tput_self ..
/-- A slot of a core after one was replaced. -/
theorem Core.slotAt_setSlot (k : Core) (t u : Nat) (sl : Slot) :
    (k.setSlot t sl).slotAt u = if u = t then sl else k.slotAt u := tget_tput ..
@[simp] theorem Core.slotAt_setSlot_self (k : Core) (t : Nat) (sl : Slot) : (k.setSlot t sl).slotAt t = sl :=
  tget_tput_self ..
@[simp] theorem Core.winAt_setSlot (k : Core) (t w : Nat) (sl : Slot) : (k.setSlot t sl).winAt w = k.winAt w := rfl
/-- A window of a core after one was replaced. -/
theorem Core.winAt_setWin (k : Core) (w v : Nat) (x : Win) :
    (k.setWin w x).winAt v = if v = w then x else k.winAt v := tget_tput ..
@[simp] theorem Core.winAt_setWin_self (k : Core) (w : Nat) (x : Win) : (k.setWin w x).winAt w = x :=
  tget_tput_self ..
@[simp] theorem Core.slotAt_setWin (k : Core) (t w : Nat) (x : Win) : (k.setWin w x).slotAt t = k.slotAt t := rfl

@[simp] theorem setCore_setCore (s : State) (c : Nat) (k j : Core) : (s.setCore c k).setCore c j = s.setCore c j := by
  simp [State.setCore]
@[simp] theorem Core.setSlot_setSlot (k : Core) (t : Nat) (x y : Slot) : (k.setSlot t x).setSlot t y = k.setSlot t y := by
  simp [Core.setSlot]
@[simp] theorem Core.setWin_setWin (k : Core) (t : Nat) (x y : Win) : (k.setWin t x).setWin t y = k.setWin t y := by
  simp [Core.setWin]

/-- A slot of the package after one was replaced. -/
theorem slotAt_setSlot (s : State) (c t d u : Nat) (sl : Slot) :
    (s.setSlot c t sl).slotAt d u = if d = c ∧ u = t then sl else s.slotAt d u := by
  simp only [State.slotAt, State.setSlot, coreAt_setCore]
  split
  · subst d; simp [Core.slotAt_setSlot]
  · simp [*]
@[simp] theorem slotAt_setSlot_self (s : State) (c t : Nat) (sl : Slot) : (s.setSlot c t sl).slotAt c t = sl := by
  simp [slotAt_setSlot]
@[simp] theorem setSlot_setSlot (s : State) (c t : Nat) (x y : Slot) :
    (s.setSlot c t x).setSlot c t y = s.setSlot c t y := by
  simp [State.setSlot]
@[simp] theorem me_setMe (s : State) (sl : Slot) : (s.setMe sl).me = sl := by simp [State.me, State.setMe]
@[simp] theorem setMe_setMe (s : State) (x y : Slot) : (s.setMe x).setMe y = s.setMe y := by simp [State.setMe]
@[simp] theorem advance_me (s : State) : s.advance s.cur s.slot = s.setMe s.me.advance := rfl
@[simp] theorem setSlot_cur_slot (s : State) (x : Slot) : s.setSlot s.cur s.slot x = s.setMe x := rfl
@[simp] theorem slotAt_cur_slot (s : State) : s.slotAt s.cur s.slot = s.me := rfl
/-- A slot of the package after the issuing one was replaced. -/
theorem slotAt_setMe (s : State) (c t : Nat) (sl : Slot) :
    (s.setMe sl).slotAt c t = if c = s.cur ∧ t = s.slot then sl else s.slotAt c t := slotAt_setSlot ..
/-- A core after the issuing slot was replaced. -/
theorem coreAt_setMe (s : State) (c : Nat) (sl : Slot) :
    (s.setMe sl).coreAt c = if c = s.cur then (s.coreAt s.cur).setSlot s.slot sl else s.coreAt c := coreAt_setCore ..
@[simp] theorem setG_eq (s : State) (d : BitVec 5) (v : Word) : s.setG d v = s.setMe (s.me.writeG d v) := rfl
@[simp] theorem setA_eq (s : State) (d : BitVec 4) (v : Addr) : s.setA d v = s.setMe (s.me.writeA d v) := rfl
@[simp] theorem setP_eq (s : State) (d : BitVec 3) (v : Bool) : s.setP d v = s.setMe (s.me.writeP d v) := rfl

/-! ## Registers -/

@[simp] theorem Slot.readG_zero (sl : Slot) : sl.readG 0 = 0 := rfl
@[simp] theorem Slot.writeG_zero (sl : Slot) (v : Word) : sl.writeG 0 v = sl := rfl
@[simp] theorem Slot.readP_zero (sl : Slot) : sl.readP 0 = true := rfl
@[simp] theorem Slot.writeP_zero (sl : Slot) (v : Bool) : sl.writeP 0 v = sl := rfl
/-- A general register after a write. -/
theorem Slot.readG_writeG (sl : Slot) (d e : BitVec 5) (v : Word) :
    (sl.writeG d v).readG e = if e = d ∧ e ≠ 0 then v else sl.readG e := by
  unfold Slot.readG Slot.writeG
  by_cases h : e = 0#5
  · simp [h]
  · by_cases hd : d = 0#5
    · simp [hd, h]
    · by_cases he : e = d
      · simp [he, hd]
      · have : d.toNat ≠ e.toNat := fun h => he (BitVec.eq_of_toNat_eq h.symm)
        simp [h, hd, he, this]
/-- An address register after a write. -/
theorem Slot.readA_writeA (sl : Slot) (d e : BitVec 4) (v : Addr) :
    (sl.writeA d v).readA e = if e = d then v else sl.readA e := by
  unfold Slot.readA Slot.writeA
  by_cases he : e = d
  · simp [he]
  · have : d.toNat ≠ e.toNat := fun h => he (BitVec.eq_of_toNat_eq h.symm)
    simp [he, this]
/-- A predicate after a write. -/
theorem Slot.readP_writeP (sl : Slot) (d e : BitVec 3) (v : Bool) :
    (sl.writeP d v).readP e = if e = d ∧ e ≠ 0 then v else sl.readP e := by
  unfold Slot.readP Slot.writeP
  by_cases h : e = 0#3
  · simp [h]
  · by_cases hd : d = 0#3
    · simp [hd, h]
    · by_cases he : e = d
      · simp [he, hd]
      · have : d.toNat ≠ e.toNat := fun h => he (BitVec.eq_of_toNat_eq h.symm)
        simp [h, hd, he, this]
/-- A command register after a write. -/
theorem Slot.readK_writeK (sl : Slot) (d e : BitVec 3) (v : Wide) :
    (sl.writeK d v).readK e = if e = d then v else sl.readK e := by
  unfold Slot.readK Slot.writeK
  by_cases he : e = d
  · simp [he]
  · have : d.toNat ≠ e.toNat := fun h => he (BitVec.eq_of_toNat_eq h.symm)
    simp [he, this]

@[simp] theorem Slot.readA_writeG (sl : Slot) (d : BitVec 5) (e : BitVec 4) (v : Word) : (sl.writeG d v).readA e = sl.readA e := by
  simp [Slot.readA]
@[simp] theorem Slot.readP_writeG (sl : Slot) (d : BitVec 5) (e : BitVec 3) (v : Word) : (sl.writeG d v).readP e = sl.readP e := by
  simp [Slot.readP]
@[simp] theorem Slot.readK_writeG (sl : Slot) (d : BitVec 5) (e : BitVec 3) (v : Word) : (sl.writeG d v).readK e = sl.readK e := by
  simp [Slot.readK]
@[simp] theorem Slot.readG_writeA (sl : Slot) (d : BitVec 4) (e : BitVec 5) (v : Addr) : (sl.writeA d v).readG e = sl.readG e := by
  simp [Slot.readG]
@[simp] theorem Slot.readP_writeA (sl : Slot) (d : BitVec 4) (e : BitVec 3) (v : Addr) : (sl.writeA d v).readP e = sl.readP e := by
  simp [Slot.readP]
@[simp] theorem Slot.readK_writeA (sl : Slot) (d : BitVec 4) (e : BitVec 3) (v : Addr) : (sl.writeA d v).readK e = sl.readK e := by
  simp [Slot.readK]
@[simp] theorem Slot.readG_writeP (sl : Slot) (d : BitVec 3) (e : BitVec 5) (v : Bool) : (sl.writeP d v).readG e = sl.readG e := by
  simp [Slot.readG]
@[simp] theorem Slot.readA_writeP (sl : Slot) (d : BitVec 3) (e : BitVec 4) (v : Bool) : (sl.writeP d v).readA e = sl.readA e := by
  simp [Slot.readA]
@[simp] theorem Slot.readK_writeP (sl : Slot) (d : BitVec 3) (e : BitVec 3) (v : Bool) : (sl.writeP d v).readK e = sl.readK e := by
  simp [Slot.readK]
@[simp] theorem Slot.readG_writeK (sl : Slot) (d : BitVec 3) (e : BitVec 5) (v : Wide) : (sl.writeK d v).readG e = sl.readG e := by
  simp [Slot.readG]
@[simp] theorem Slot.readA_writeK (sl : Slot) (d : BitVec 3) (e : BitVec 4) (v : Wide) : (sl.writeK d v).readA e = sl.readA e := by
  simp [Slot.readA]
@[simp] theorem Slot.readP_writeK (sl : Slot) (d : BitVec 3) (e : BitVec 3) (v : Wide) : (sl.writeK d v).readP e = sl.readP e := by
  simp [Slot.readP]

end Sys2Proof.Machine
end

