-- ==== Sys2Proof/Laws/Memory.lean ====
section
/-! SUPPORT. Memory keeps its canonical form under the operations that write it, and every shared operation that does
not write memory leaves it alone. -/

namespace Sys2Proof.Machine

open Sys2Proof

/-! ## The operations that write memory -/

/-- Writing bytes keeps the canonical form. -/
theorem writeMem_wf (s : State) (key : Nat) (bs : List Byte) (h : Memory.wf s.mem = true) :
    Memory.wf (s.writeMem key bs).mem = true := twf_tputs 0 s.mem key bs h

/-- A bulk transfer keeps the canonical form. -/
theorem bulkPut_wf (n : Nat) (s : State) (c : Nat) (va : Addr) (bs : List Byte) (h : Memory.wf s.mem = true) :
    Memory.wf (State.bulkPut n s c va bs).mem = true := by
  induction n generalizing s va bs with
  | zero => exact h
  | succ n ih =>
    unfold State.bulkPut
    apply ih
    split
    · exact writeMem_wf s _ _ h
    · exact h

/-- A write by key keeps the canonical form, where the memory is in service and where it is not. -/
theorem writeServed_wf (s : State) (key : Nat) (bs : List Byte) (h : Memory.wf s.mem = true) :
    Memory.wf (s.writeServed key bs).mem = true := by
  unfold State.writeServed
  split
  · exact h
  · exact writeMem_wf s key bs h

/-! ## Metering -/

@[simp] theorem take_mem (s : State) (ports : List Nat) (ten n : Nat) : (s.take ports ten n).mem = s.mem := by
  unfold State.take
  induction ports generalizing s with
  | nil => rfl
  | cons e r ih => rw [List.foldl_cons, ih]
@[simp] theorem inject_mem (s : State) (a : Acc) : (s.inject a).mem = s.mem := take_mem ..

/-- A bulk write that finds no fault keeps the canonical form. -/
theorem bulkWrite_wf (s t : State) (c : Nat) (va : Addr) (bs : List Byte) (h : Memory.wf s.mem = true)
    (ht : s.bulkWrite c va bs = .ok t) : Memory.wf t.mem = true := by
  unfold State.bulkWrite at ht
  split at ht
  · cases ht
  · cases ht
    exact bulkPut_wf _ s c va bs h

/-- What is left of memory when the package's power goes is in canonical form. -/
theorem bare_wf (s : State) (dev : Device) (h : Memory.wf s.mem = true) : Memory.wf (s.bare dev).mem = true :=
  twfFrom_filter 0 s.outside 0 s.mem h

/-- Memory at reset is in canonical form. -/
theorem reset_wf : Memory.wf State.reset.mem = true := rfl

/-! ## Operations that leave memory alone -/

@[simp] theorem setWin_mem (s : State) (c w : Nat) (x : Win) : (s.setWin c w x).mem = s.mem := rfl
@[simp] theorem freeBelow_mem (s : State) (n : Nat) : (s.freeBelow n).2.mem = s.mem := rfl
@[simp] theorem stallAdd_mem (s : State) (c : Nat) (n : Fin 16) : (s.stallAdd c n).mem = s.mem := rfl
@[simp] theorem retryWin_mem (s : State) (c w : Nat) : (s.retryWin c w).mem = s.mem := by simp [State.retryWin]
@[simp] theorem dropRetry_mem (s : State) (p : Party) (r : Instr) : (s.dropRetry p r).mem = s.mem := rfl
@[simp] theorem wake_mem (s : State) (c t : Nat) : (s.wake c t).mem = s.mem := rfl
@[simp] theorem progress_mem (s : State) (c : Nat) : (s.progress c).mem = s.mem := by
  unfold State.progress; simp only []; split <;> rfl
@[simp] theorem progressFill_mem (s : State) (c w : Nat) : (s.progressFill c w).mem = s.mem := by
  unfold State.progressFill; simp only []; split <;> rfl
@[simp] theorem activateRaw_mem (s : State) (c t : Nat) (v : Word) : (s.activateRaw c t v).mem = s.mem := rfl
@[simp] theorem deliver_mem (s : State) (c key : Nat) : (s.deliver c key).1.mem = s.mem := by
  unfold State.deliver; simp only []; split
  · split <;> rfl
  · rfl
@[simp] theorem startAcc_mem (s : State) (a : Acc) : (s.startAcc a).mem = s.mem := by
  unfold State.startAcc; simp only []; split
  · split <;> rfl
  · rfl
@[simp] theorem spill_mem (s : State) (c w : Nat) (bs : List Byte) (site : BitVec 46) :
    (s.spill c w bs site).mem = s.mem := by simp [State.spill]
@[simp] theorem landRaw_mem (s : State) (c w : Nat) (bs : List Byte) : (s.landRaw c w bs).mem = s.mem := by
  simp [State.landRaw]
@[simp] theorem advance_mem (s : State) (c t : Nat) : (s.advance c t).mem = s.mem := rfl
@[simp] theorem report_mem (s : State) (cl : Nat) (r : Report) : (s.report cl r).mem = s.mem := rfl
@[simp] theorem raiseMsix_mem (s : State) (f v : Nat) : (s.raiseMsix f v).mem = s.mem := rfl
@[simp] theorem stopTrapped_mem (s : State) (c t code : Nat) (n : Bool) (site : BitVec 46) (arg : Word) :
    (s.stopTrapped c t code n site arg).mem = s.mem := rfl
@[simp] theorem holdMe_mem (s : State) (h : Hold) : (s.holdMe h).mem = s.mem := rfl
@[simp] theorem holdAgain_mem (s : State) (h : Hold) : (s.holdAgain h).mem = s.mem := rfl
@[simp] theorem waitMe_mem (s : State) (p : Pend) (e : Edge) : (s.waitMe p e).mem = s.mem := by simp [State.waitMe]

@[simp] theorem dropEdge_mem (s : State) (e : Edge) : (s.dropEdge e).mem = s.mem := rfl
@[simp] theorem soon_mem (s : State) (e : Instr) : (s.soon e).mem = s.mem := rfl
@[simp] theorem trace_mem (s : State) (c : Nat) (r : TraceRec) : (s.trace c r).mem = s.mem := by
  unfold State.trace; simp only []; split <;> rfl
@[simp] theorem traceActivation_mem (s : State) (c t : Nat) (v : Word) : (s.traceActivation c t v).mem = s.mem := trace_mem ..
@[simp] theorem deliverTraced_mem (s : State) (c key : Nat) : (s.deliverTraced c key).mem = s.mem := by
  unfold State.deliverTraced; simp only []; split <;> simp
@[simp] theorem afterFill_mem (s : State) (c w : Nat) : (s.afterFill c w).mem = s.mem := by simp [State.afterFill]
@[simp] theorem fillNow_mem (s : State) (c w : Nat) (bs : List Byte) (site : BitVec 46) (who : Option (Nat × Nat)) :
    (s.fillNow c w bs site who).mem = s.mem := by
  unfold State.fillNow; simp only []; split <;> simp
@[simp] theorem fillWin_mem (s : State) (c w : Nat) (bs : List Byte) (site : BitVec 46) (who : Option (Nat × Nat)) :
    (s.fillWin c w bs site who).mem = s.mem := by
  unfold State.fillWin; simp only []; split <;> simp
@[simp] theorem shrinkWin_mem (s : State) (c w n : Nat) (site : BitVec 46) (who : Option (Nat × Nat)) :
    (s.shrinkWin c w n site who).mem = s.mem := by
  unfold State.shrinkWin; simp only []; split
  · rfl
  · split <;> simp
@[simp] theorem activate_mem (s : State) (c t : Nat) (v : Word) : (s.activate c t v).mem = s.mem := by
  simp [State.activate]
@[simp] theorem deliverSource_mem (s : State) (c key : Nat) : (s.deliverSource c key).mem = s.mem := by
  unfold State.deliverSource; simp only []; split <;> simp
@[simp] theorem setPoison_mem (s : State) (c w : Nat) (p : BitVec 32) (cls : BitVec 8) (site : BitVec 46) (d : Word) :
    (s.setPoison c w p cls site d).mem = s.mem := by
  unfold State.setPoison; simp only []; split <;> split <;> simp
@[simp] theorem trapNow_mem (s : State) (c t : Nat) (tr : Trap) (ret : BitVec 12) :
    (s.trapNow c t tr ret).mem = s.mem := by
  unfold State.trapNow; simp only []; split
  · simp
  · split <;> simp
@[simp] theorem takeTrap_mem (s : State) (c t : Nat) (tr : Trap) (ret : BitVec 12) :
    (s.takeTrap c t tr ret).mem = s.mem := by
  unfold State.takeTrap; simp only []; split <;> simp
@[simp] theorem filterClaims_mem (s : State) (keep : Claim → Bool) : (s.filterClaims keep).mem = s.mem := by
  unfold State.filterClaims
  generalize s.dies = l
  induction l generalizing s with
  | nil => rfl
  | cons e r ih => rw [List.foldl_cons, ih]; rfl
@[simp] theorem releaseClaims_mem (s : State) (h : Holder) : (s.releaseClaims h).mem = s.mem := by
  simp [State.releaseClaims]
@[simp] theorem setSlice_mem (s : State) (p : Nat × Nat) (x : Slice) : (s.setSlice p x).mem = s.mem := rfl
@[simp] theorem taskFault_mem (s : State) (a : Acc) (tr : Trap) : (s.taskFault a tr).mem = s.mem := by
  unfold State.taskFault; simp only []; split
  · split
    · split
      · simp
      · split <;> simp
    · simp
  · rfl
  · rfl
@[simp] theorem tryMerge_mem (s : State) (a : Acc) : (s.tryMerge a).1.mem = s.mem := by
  unfold State.tryMerge; simp only []; split
  · split
    · rfl
    · split <;> simp
  · rfl

/-! ## Ends and faults of commands and accesses -/

@[simp] theorem stopSlot_mem (s : State) (c u : Nat) : (s.stopSlot c u).mem = s.mem := by
  unfold State.stopSlot; simp only []; split <;> rfl
@[simp] theorem stopSlots_mem (s : State) (c : Nat) (x : Option Nat) : (s.stopSlots c x).mem = s.mem := by
  unfold State.stopSlots
  generalize (s.coreAt c).slots = l
  induction l generalizing s with
  | nil => rfl
  | cons e r ih => rw [List.foldl_cons, ih]; split <;> simp
@[simp] theorem dropCmdEdges_mem (s : State) (c : Nat) : (s.dropCmdEdges c).mem = s.mem := rfl
@[simp] theorem halt_mem (s : State) (c : Nat) (b : BitVec 4) : (s.halt c b).mem = s.mem := by
  unfold State.halt
  simp only []
  rw [dropCmdEdges_mem, stopSlots_mem]
  rfl
@[simp] theorem debugEvent_mem (s : State) (c why : Nat) (site : BitVec 46) : (s.debugEvent c why site).mem = s.mem := rfl
@[simp] theorem breakpoint_mem (s : State) (c ev : Nat) (site : BitVec 46) : (s.breakpoint c ev site).mem = s.mem := by
  unfold State.breakpoint; split <;> simp
@[simp] theorem endCommand_mem (s : State) (c : Nat) (x : Cmd) (p : Port) (f st sl : Bool) :
    (s.endCommand c x p f st sl).mem = s.mem := by
  unfold State.endCommand
  extract_lets census s1 s2 k e s3 k2
  split
  · simp [s2, s1]
  · simp [s3, s2, s1]
@[simp] theorem poisonAll_mem (s : State) (c : Nat) (ws : List Nat) (cls : Nat) (site : BitVec 46) (d : Word) :
    (s.poisonAll c ws cls site d).mem = s.mem := by
  unfold State.poisonAll
  induction ws generalizing s with
  | nil => rfl
  | cons w r ih => rw [List.foldl_cons, ih]; simp
@[simp] theorem engineReport_mem (s : State) (c : Nat) (site : BitVec 46) (p : Option Port) (cls mask : Nat) (d : Word)
    (va : Addr) : (s.engineReport c site p cls mask d va).mem = s.mem := by simp [State.engineReport]
@[simp] theorem failCommand_mem (s : State) (c : Nat) (x : Cmd) (p : Port) (ws : List Nat) (cls : Nat) (d : Word)
    (va : Addr) (sl : Bool) : (s.failCommand c x p ws cls d va sl).mem = s.mem := by simp [State.failCommand]
@[simp] theorem setBte_mem (s : State) (c e : Nat) (r : Option BteRun) : (s.setBte c e r).mem = s.mem := rfl
@[simp] theorem abandonReads_mem (s : State) (site : BitVec 46) : (s.abandonReads site).mem = s.mem := rfl
@[simp] theorem bteEnd_mem (s : State) (c e : Nat) (r : BteRun) (cls : Nat) (d : Word) (va : Addr) :
    (s.bteEnd c e r cls d va).mem = s.mem := by
  unfold State.bteEnd; simp only []; split
  · split <;> simp
  · simp
@[simp] theorem bteFail_mem (s : State) (c e : Nat) (r : BteRun) (cls : Nat) (d : Word) (va : Addr) :
    (s.bteFail c e r cls d va).mem = s.mem := by
  unfold State.bteFail; simp only []; split
  · rfl
  · split <;> simp
@[simp] theorem bteHold_mem (s : State) (c e : Nat) (on : Bool) : (s.bteHold c e on).mem = s.mem := by
  unfold State.bteHold; split
  · rfl
  · split <;> rfl
@[simp] theorem fcfgFail_mem (s : State) (c : Nat) (site : BitVec 46) (cls : Nat) (d : Word) (va : Addr) :
    (s.fcfgFail c site cls d va).mem = s.mem := by
  unfold State.fcfgFail; simp only []; split <;> simp
/-- A fold of steps that leave memory alone leaves it alone. -/
theorem foldl_mem_same {α : Type} (l : List α) (f : State → α → State) (hf : ∀ u x, (f u x).mem = u.mem) (u : State) :
    (l.foldl f u).mem = u.mem := by
  induction l generalizing u with
  | nil => rfl
  | cons x r ih => rw [List.foldl_cons, ih, hf]
@[simp] theorem dropRound_mem (s : State) (c : Nat) (r : Round) : (s.dropRound c r).mem = s.mem := by
  unfold State.dropRound
  extract_lets s1 s2 rest
  split
  · rfl
  · rename_i d _
    refine (foldl_mem_same _ _ (fun u x => by simp) _).trans ?_
    refine (foldl_mem_same _ _ (fun u x => ?_) _).trans rfl
    simp only []
    split <;> rfl
@[simp] theorem roundFault_mem (s : State) (c : Nat) (r : Round) (cls : Nat) (d : Word) (va : Addr) :
    (s.roundFault c r cls d va).mem = s.mem := by simp [State.roundFault]
@[simp] theorem notifyOwner_mem (s : State) (cl v : Nat) : (s.notifyOwner cl v).mem = s.mem := by
  unfold State.notifyOwner; split <;> rfl
@[simp] theorem pumpFaults_mem (n : Nat) (s : State) (cl : Nat) : (State.pumpFaults n s cl).mem = s.mem := by
  induction n generalizing s with
  | zero => rfl
  | succ n ih =>
    unfold State.pumpFaults
    simp only []
    split
    · rfl
    · rw [ih, notifyOwner_mem]; rfl
    · split
      · rw [ih]; simp
      · rfl
@[simp] theorem faultRecord_mem (s : State) (cl : Nat) (site : BitVec 46) (why : Nat) (code : BitVec 3) (va : Addr)
    (level : Nat) : (s.faultRecord cl site why code va level).mem = s.mem := by simp [State.faultRecord]
@[simp] theorem agentFail_mem (s : State) (a : Acc) (w : Nat) (n : BitVec 32) (d : Word) :
    (s.agentFail a w n d).mem = s.mem := by simp [State.agentFail]
@[simp] theorem dropRefills_mem (s : State) (c w j : Nat) : (s.dropRefills c w j).mem = s.mem := rfl
@[simp] theorem engineFault_mem (s : State) (a : Acc) (cls : Nat) (d : Word) : (s.engineFault a cls d).mem = s.mem := by
  unfold State.engineFault; simp only []; split
  · split
    · simp
    · split
      · split <;> simp
      · rfl
  · split <;> simp
  all_goals simp
@[simp] theorem accFault_mem (s : State) (a : Acc) (why level : Nat) : (s.accFault a why level).mem = s.mem := by
  unfold State.accFault; simp only []; split
  · simp
  all_goals
    split
    · rw [faultRecord_mem]
      split
      · split <;> simp
      all_goals rfl
    · simp
@[simp] theorem claimFault_mem (s : State) (a : Acc) (x : Claim) : (s.claimFault a x).mem = s.mem := by
  unfold State.claimFault; simp only []; split <;> simp

/-- An access performed at its home slice keeps the canonical form. -/
theorem performAcc_wf (s : State) (a : Acc) (u : Bool) (h : Memory.wf s.mem = true) :
    Memory.wf (s.performAcc a u).mem = true := by
  unfold State.performAcc
  split
  · simpa using h
  extract_lets r s1 b s2 p s3 old s4
  have h2 : s2.mem = s.mem := by
    simp only [s2]
    split <;> simp [s1, r]
  have h3 : s3.mem = s.mem := by
    simp only [s3]
    split <;> simp [h2]
  split
  · simpa using h
  · split
    · simpa using h
    · show Memory.wf s4.mem = true
      simp only [s4]
      split
      · exact writeMem_wf _ _ _ (by rw [h3]; exact h)
      · rw [h3]; exact h

/-! ## Trace records (R408, R415) -/

@[simp] theorem fillTrace_mem (s : State) (c : Nat) (bs : List Byte) (site : BitVec 46) :
    (s.fillTrace c bs site).mem = s.mem := by
  unfold State.fillTrace; simp only []; split <;> simp

/-- A record that goes to a trace ring keeps the canonical form. -/
theorem ringRecord_wf (s : State) (c : Nat) (bs : List Byte) (h : Memory.wf s.mem = true) :
    Memory.wf (s.ringRecord c bs).mem = true := by
  unfold State.ringRecord
  split
  · exact h
  · simp only []
    split
    · exact h
    · exact writeServed_wf s _ _ h

/-- A fold of steps that keep the canonical form keeps it. -/
theorem foldl_wf {α : Type} (l : List α) (f : State → α → State)
    (hf : ∀ u x, Memory.wf u.mem = true → Memory.wf (f u x).mem = true) (u : State) (h : Memory.wf u.mem = true) :
    Memory.wf (l.foldl f u).mem = true := by
  induction l generalizing u with
  | nil => exact h
  | cons x r ih => exact ih (f u x) (hf u x h)

/-- Filling the trace records of a tick keeps the canonical form. -/
theorem flushTraces_wf (s : State) (h : Memory.wf s.mem = true) : Memory.wf s.flushTraces.mem = true := by
  refine foldl_wf _ _ (fun u x hu => ?_) s h
  refine foldl_wf _ _ (fun v y hv => ?_) _ hu
  split
  · exact ringRecord_wf v _ _ hv
  · simpa using hv

/-! ## Ending an instruction -/

/-- The state an instruction comes to, for the frame of memory; a trap leaves the state it began in. -/
def Out.within (p : State → Prop) (s0 : State) : Out → Prop
  | .done s => p s
  | .jump s _ => p s
  | .trap _ => p s0
  | .hold s => p s
  | .moved s => p s

/-- Ending an instruction writes no memory: whatever holds of memory where the instruction leaves it, and where it
began, holds at the end. -/
theorem finish_mem (p : List Host.Cell → Prop) (s0 t : State) (o : Out) (h0 : p s0.mem)
    (h : o.within (fun s => p s.mem) s0) (ht : finish s0 o = .next t) : p t.mem := by
  unfold finish at ht
  cases ht
  cases o <;> simp only [Out.within] at h <;> simp only []
  · split <;> simp [h0, h]
  · split <;> simp [h0, h]
  · simp [h0]
  · split <;> simp [h0, h]
  · exact h

end Sys2Proof.Machine
end

