-- ==== Sys2Proof/Laws/Ops.lean ====
section
/-! SUPPORT. What ending an instruction, a guard, a privilege check and a release can do (R9, R13, R17, R140, R262). -/

namespace Sys2Proof.Machine

open Sys2Proof

/-- An instruction that is done and has a successor only moves its slot on. -/
theorem finish_done (s0 s : State) (h : s0.me.fallsOut = false) : finish s0 (.done s) = .next (s.advance s.cur s.slot) := by
  simp [finish, h]

/-- An instruction whose successor would be word 4096 traps in the state it began in (R17). -/
theorem finish_done_out (s0 s : State) (h : s0.me.fallsOut = true) :
    finish s0 (.done s) = .next (s0.takeTrap s0.cur s0.slot (addressTrap 4096) s0.me.pc) := by
  simp [finish, h]

/-- A transfer to a word of the store. -/
theorem finish_jump (s0 s : State) (x : Int) (h : 0 ≤ x ∧ x ≤ 4095) :
    finish s0 (.jump s x) = .next (s.setMe { s.me with pc := BitVec.ofInt 12 x }) := by
  simp [finish, h]

/-- A transfer to no word of the store traps and writes nothing (R109). -/
theorem finish_jump_out (s0 s : State) (x : Int) (h : x < 0 ∨ 4095 < x) :
    finish s0 (.jump s x) = .next (s0.takeTrap s0.cur s0.slot (addressTrap x) s0.me.pc) := by
  have : ¬(0 ≤ x ∧ x ≤ 4095) := by omega
  simp [finish, this]

@[simp] theorem finish_trap (s0 : State) (t : Trap) :
    finish s0 (.trap t) = .next (s0.takeTrap s0.cur s0.slot t s0.me.pc) := rfl
@[simp] theorem finish_moved (s0 s : State) : finish s0 (.moved s) = .next s := rfl

/-- Ending an instruction always answers a next state. -/
theorem finish_next (s0 : State) (o : Out) : ∃ t, finish s0 o = .next t := ⟨_, rfl⟩

/-- A guard that holds lets the instruction go on (R9). -/
theorem guarded_true (g : Guard) (s : State) (k : State → Out) (h : s.me.guard g = true) :
    guarded g s k = finish s (k s) := by
  simp [guarded, h]

/-- A false guard only moves the PC (R9). -/
theorem guarded_false (g : Guard) (s : State) (k : State → Out) (h : s.me.guard g = false) :
    guarded g s k = finish s (.done s) := by
  simp [guarded, h]

/-- With TSTAT.SUP a privileged instruction goes on (R13). -/
theorem privileged_sup (i : Instr) (s : State) (k : State → Out) (h : s.me.sup = true) : privileged i s k = k s := by
  simp [privileged, h]

/-- Without TSTAT.SUP a privileged instruction takes the privilege trap with its word (R13, R64). -/
theorem privileged_user (i : Instr) (s : State) (k : State → Out) (w : Code) (h : s.me.sup = false)
    (hw : encode i = some w) : privileged i s k = .trap (trapOf 3 (w.setWidth 64)) := by
  simp [privileged, h, hw]

/-- A release with nothing before it ends the claims and goes on (R262). -/
theorem released_quiet (s : State) (k : State → Out) (h : s.quiet s.cur s.slot = true) :
    released s k = k (s.releaseClaims (s.holderOf s.cur s.slot)) := by
  simp [released, h]

/-- A release with an access before it that is not performed holds its slot (R262). -/
theorem released_busy (s : State) (k : State → Out) (h : s.quiet s.cur s.slot = false) :
    released s k = .moved (s.holdAgain .release) := by
  simp [released, h]

/-- Outside a repeat, advancing adds one to the PC and changes nothing else (R8). -/
theorem advance_plain (sl : Slot) (h : sl.inRep = false) : sl.advance = { sl with pc := sl.pc + 1 } := by
  simp [Slot.advance, h]

/-- In a repeat that goes on, advancing takes one from REPC (R113). -/
theorem advance_repeat (sl : Slot) (h : sl.inRep = true) (hn : 1 < sl.repc.toNat) :
    sl.advance = { sl with repc := sl.repc - 1 } := by
  simp [Slot.advance, h, show ¬sl.repc.toNat ≤ 1 by omega]

/-- The last repeat leaves REPC at zero and the PC past the target (R113). -/
theorem advance_last (sl : Slot) (h : sl.inRep = true) (hn : sl.repc.toNat ≤ 1) :
    sl.advance = { sl with repc := 0, inRep := false, pc := sl.pc + 2 } := by
  simp [Slot.advance, h, hn]

/-- Outside a repeat an instruction falls out of the store exactly at word 4095 (R17). -/
theorem fallsOut_plain (sl : Slot) (h : sl.inRep = false) : sl.fallsOut = decide (sl.pc = 4095#12) := by
  simp [Slot.fallsOut, h]

@[simp] theorem fallsOut_writeG (sl : Slot) (d : BitVec 5) (v : Word) : (sl.writeG d v).fallsOut = sl.fallsOut := by
  simp [Slot.fallsOut]
@[simp] theorem fallsOut_writeA (sl : Slot) (d : BitVec 4) (v : Addr) : (sl.writeA d v).fallsOut = sl.fallsOut := rfl
@[simp] theorem fallsOut_writeP (sl : Slot) (d : BitVec 3) (v : Bool) : (sl.writeP d v).fallsOut = sl.fallsOut := by
  simp [Slot.fallsOut]

end Sys2Proof.Machine
end

