-- ==== Sys2Proof/Tests/Slice0.lean ====
section
/-! SUPPORT. Small tests: words the spec writes out, ill-formed terms, one-step results by hand from the rules, and for
every statement with hypotheses a state that meets them. -/

set_option Elab.async false

namespace Sys2Proof.Tests

open Sys2Proof Sys2Proof.Machine

/-! ## Small states -/

/-- Whether a result goes on to a state that passes a test. -/
def goes (r : Res) (p : State → Bool) : Bool :=
  match r with
  | .next t => p t
  | .fault _ => false
  | .refused _ => false

/-- A window of 8-byte elements at the start of the store, empty, with room for two. -/
def w8 : Win := { Win.init with v := true, esz := 1, cap := 2 }

/-- Slot 0 of core 0, running with supervisor privilege. -/
def sl0 : Slot := { Slot.init with status := .runnable, sup := true }

/-- The package in service, as a bring-up leaves it. -/
def up : State := { State.reset with device := { State.reset.device with dev := .running } }

/-- A state in which slot 0 of core 0 issues. -/
def at0 (sl : Slot) : State := up.setSlot 0 0 sl

/-- The state with window w of core 0 set. -/
def withWin (s : State) (w : Nat) (x : Win) : State := s.setWin 0 w x

/-- A command at the head of a port, issued at PC 0 of slot 0 of core 0. -/
def cmd0 (x : Wide) : Cmd := ⟨x, 0, [0, 0, 0, 0], 0, 0, 0, 0, 0, 0⟩

/-! ## Words written out from the encoding tables (R61 to R76) -/

/-- Words of major 0x01 (R66), written out field by field. -/
theorem test_decode_integer0 :
    decode 0x04A9F100#32 = .ok (.add .z .b 5 9 30 ⟨1, false⟩) ∧
    decode 0x067FA306#32 = .ok (.sub .z .w 19 31 20 ⟨3, false⟩) ∧
    decode 0x04355508#32 = .ok (.mul .z .b 1 21 10 ⟨5, false⟩) ∧
    decode 0x05EB070E#32 = .ok (.mulh .z .w 15 11 0 ⟨7, false⟩) ∧
    decode 0x07A1B112#32 = .ok (.div .z .w 29 1 22 ⟨1, false⟩) ∧
    decode 0x05776316#32 = .ok (.rem .z .w 11 23 12 ⟨3, false⟩) ∧
    decode 0x072D1518#32 = .ok (.and .z .b 25 13 2 ⟨5, false⟩) ∧
    decode 0x04E3C71E#32 = .ok (.or .z .w 7 3 24 ⟨7, false⟩) ∧
    decode 0x06B97120#32 = .ok (.xor .z .b 21 25 14 ⟨1, false⟩) ∧
    decode 0x046F0326#32 = .ok (.not .z .w 3 15 ⟨3, false⟩) ∧
    decode 0x0625D528#32 = .ok (.shl .z .b 17 5 26 ⟨5, false⟩) ∧
    decode 0x07FB872E#32 = .ok (.shr .z .w 31 27 16 ⟨7, false⟩) ∧
    decode 0x05B13130#32 = .ok (.rot .z .b 13 17 6 ⟨1, false⟩) ∧
    decode 0x07670336#32 = .ok (.clz .z .w 27 7 ⟨3, false⟩) ∧
    decode 0x053D0538#32 = .ok (.ctz .z .b 9 29 ⟨5, false⟩) ∧
    decode 0x06F3073E#32 = .ok (.popc .z .w 23 19 ⟨7, false⟩) ∧
    decode 0x04A9F140#32 = .ok (.min .z .b 5 9 30 ⟨1, false⟩) ∧
    decode 0x067FA346#32 = .ok (.max .z .w 19 31 20 ⟨3, false⟩) ∧
    decode 0x04350548#32 = .ok (.brev .z .b 1 21 ⟨5, false⟩) ∧
    decode 0x05EB074D#32 = .ok (.bswp .z .h 15 11 ⟨7, false⟩) ∧
    decode 0x07A10150#32 = .ok (.mov .z .b 29 1 ⟨1, false⟩) := by decide +kernel

/-- Words of major 0x02 (R66), written out field by field. -/
theorem test_decode_integer1 :
    decode 0x0995CB00#32 = .ok (.add .s .b 12 21 25 ⟨3, false⟩) ∧
    decode 0x0B4B7D06#32 = .ok (.sub .s .w 26 11 15 ⟨5, false⟩) ∧
    decode 0x09012F08#32 = .ok (.mul .s .b 8 1 5 ⟨7, false⟩) ∧
    decode 0x0AD7D90E#32 = .ok (.mulh .s .w 22 23 27 ⟨1, false⟩) ∧
    decode 0x088D8B12#32 = .ok (.div .s .w 4 13 17 ⟨3, false⟩) ∧
    decode 0x0A433D16#32 = .ok (.rem .s .w 18 3 7 ⟨5, false⟩) ∧
    decode 0x0819EF18#32 = .ok (.and .s .b 0 25 29 ⟨7, false⟩) ∧
    decode 0x09CF991E#32 = .ok (.or .s .w 14 15 19 ⟨1, false⟩) ∧
    decode 0x0B854B20#32 = .ok (.xor .s .b 28 5 9 ⟨3, false⟩) ∧
    decode 0x095B0526#32 = .ok (.not .s .w 10 27 ⟨5, false⟩) ∧
    decode 0x0B11AF28#32 = .ok (.shl .s .b 24 17 21 ⟨7, false⟩) ∧
    decode 0x08C7592E#32 = .ok (.shr .s .w 6 7 11 ⟨1, false⟩) ∧
    decode 0x0A9D0B30#32 = .ok (.rot .s .b 20 29 1 ⟨3, false⟩) ∧
    decode 0x08530536#32 = .ok (.clz .s .w 2 19 ⟨5, false⟩) ∧
    decode 0x0A090738#32 = .ok (.ctz .s .b 16 9 ⟨7, false⟩) ∧
    decode 0x0BDF013E#32 = .ok (.popc .s .w 30 31 ⟨1, false⟩) ∧
    decode 0x0995CB40#32 = .ok (.min .s .b 12 21 25 ⟨3, false⟩) ∧
    decode 0x0B4B7D46#32 = .ok (.max .s .w 26 11 15 ⟨5, false⟩) ∧
    decode 0x09010748#32 = .ok (.brev .s .b 8 1 ⟨7, false⟩) ∧
    decode 0x0AD7014E#32 = .ok (.bswp .s .w 22 23 ⟨1, false⟩) ∧
    decode 0x088D0350#32 = .ok (.mov .s .b 4 13 ⟨3, false⟩) := by decide +kernel

/-- Words of the immediate forms (R68) and NOP (R53), written out field by field. -/
theorem test_decode_imm :
    decode 0x08000083#32 = .ok .nop ∧
    decode 0x0D978003#32 = .ok (.addImm 12 23 0x8003) ∧
    decode 0x11B88004#32 = .ok (.andImm 13 24 0x8004) ∧
    decode 0x15D98005#32 = .ok (.orImm 14 25 0x8005) ∧
    decode 0x19FA8006#32 = .ok (.xorImm 15 26 0x8006) ∧
    decode 0x1CFB003F#32 = .ok (.shlImm 7 27 63) ∧
    decode 0x211C0030#32 = .ok (.shrZImm 8 28 48) ∧
    decode 0x253D0031#32 = .ok (.shrSImm 9 29 49) ∧
    decode 0x2BC0FFFE#32 = .ok (.movImm 30 0xFFFE) ∧
    decode 0x2FA2ABCD#32 = .ok (.movh 29 2 0xABCD) := by decide +kernel

/-- Words of CMP, ACMP and SEL (R67), written out field by field. -/
theorem test_decode_cmp :
    decode 0x30034F00#32 = .ok (.cmp .eq .b 0 3 9 ⟨7, false⟩) ∧
    decode 0x3024568A#32 = .ok (.cmp .ne .h 1 4 10 ⟨6, true⟩) ∧
    decode 0x30455D14#32 = .ok (.cmp .lt .w 2 5 11 ⟨5, false⟩) ∧
    decode 0x3066649E#32 = .ok (.cmp .le .d 3 6 12 ⟨4, true⟩) ∧
    decode 0x30876B20#32 = .ok (.cmp .gt .b 4 7 13 ⟨3, false⟩) ∧
    decode 0x30A872AA#32 = .ok (.cmp .ge .h 5 8 14 ⟨2, true⟩) ∧
    decode 0x30C97934#32 = .ok (.cmp .lo .w 6 9 15 ⟨1, false⟩) ∧
    decode 0x30EA80BE#32 = .ok (.cmp .ls .d 7 10 16 ⟨0, true⟩) ∧
    decode 0x300B8F40#32 = .ok (.cmp .hi .b 0 11 17 ⟨7, false⟩) ∧
    decode 0x302C96CA#32 = .ok (.cmp .hs .h 1 12 18 ⟨6, true⟩) ∧
    decode 0x4C032880#32 = .ok (.acmp .eq 0 3 5 ⟨0, true⟩) ∧
    decode 0x4C243188#32 = .ok (.acmp .ne 1 4 6 ⟨1, true⟩) ∧
    decode 0x4CC95EB0#32 = .ok (.acmp .lo 6 9 11 ⟨6, true⟩) ∧
    decode 0x4CEA67B8#32 = .ok (.acmp .ls 7 10 12 ⟨7, true⟩) ∧
    decode 0x4C0B68C0#32 = .ok (.acmp .hi 0 11 13 ⟨0, true⟩) ∧
    decode 0x4C2C71C8#32 = .ok (.acmp .hs 1 12 14 ⟨1, true⟩) ∧
    decode 0x34221C80#32 = .ok (.sel 1 2 3 ⟨4, true⟩) := by decide +kernel

/-- Words of bit fields and addresses (R68, R69), written out field by field. -/
theorem test_decode_bits :
    decode 0x3864003F#32 = .ok (.bfxZImm 3 4 0 63) ∧
    decode 0x38641142#32 = .ok (.bfxSImm 3 4 5 2) ∧
    decode 0x3C6407D1#32 = .ok (.bfiImm 3 4 31 17) ∧
    decode 0x40C74300#32 = .ok (.bfxZReg 6 7 8 ⟨3, false⟩) ∧
    decode 0x40E74381#32 = .ok (.bfxSReg 7 7 8 ⟨3, true⟩) ∧
    decode 0x41074302#32 = .ok (.bfiReg 8 7 8 ⟨3, false⟩) ∧
    decode 0x45EEF900#32 = .ok (.aaddReg 15 14 31 ⟨1, false⟩) ∧
    decode 0x45BEEA81#32 = .ok (.aset 13 30 29 ⟨2, true⟩) ∧
    decode 0x478C0282#32 = .ok (.aget 28 12 ⟨2, true⟩) ∧
    decode 0x478C0283#32 = .ok (.agetH 28 12 ⟨2, true⟩) ∧
    decode 0x456ADD04#32 = .ok (.astep 11 10 27 ⟨5, false⟩) ∧
    decode 0x49287FFF#32 = .ok (.aaddImm 9 8 0x7FFF) := by decide +kernel

/-- Words of predicates and control (R68 to R70), written out field by field. -/
theorem test_decode_control :
    decode 0x50221880#32 = .ok (.pand 1 2 3 ⟨0, true⟩) ∧
    decode 0x50221981#32 = .ok (.por 1 2 3 ⟨1, true⟩) ∧
    decode 0x50221A82#32 = .ok (.pxor 1 2 3 ⟨2, true⟩) ∧
    decode 0x50850603#32 = .ok (.pnot 4 5 ⟨6, false⟩) ∧
    decode 0x50E10604#32 = .ok (.pset 7 true ⟨6, false⟩) ∧
    decode 0x56E00001#32 = .ok (.br ⟨5, true⟩ 0x200001) ∧
    decode 0x5BE0FFEC#32 = .ok (.jal 31 0xFFEC) ∧
    decode 0x5C1E0480#32 = .ok (.jr 30 ⟨4, true⟩) ∧
    decode 0x60C0FFFD#32 = .ok (.loop 6 0xFFFD) ∧
    decode 0x6400007F#32 = .ok (.rep 63 true false false) ∧
    decode 0x64000081#32 = .ok (.rep 1 false true false) := by decide +kernel

/-- Words of windows (R71), written out field by field. -/
theorem test_decode_window :
    decode 0x826A0000#32 = .ok (.wfill 9 21) ∧
    decode 0x826A7FFF#32 = .ok (.wrd 21 9 16383) ∧
    decode 0x8228A001#32 = .ok (.wwr 8 8193 20) ∧
    decode 0x81C0D001#32 = .ok (.wshr 7 4097) ∧
    decode 0x83E70002#32 = .ok (.wqry 19 15 2) ∧
    decode 0x83A57401#32 = .ok (.wrdn 18 6 14 1025) ∧
    decode 0x83639800#32 = .ok (.wfilln 13 17 3) ∧
    decode 0x8321C000#32 = .ok (.wdef 12 16) ∧
    decode 0x846001C8#32 = .ok (.wfillReg 9 3 ⟨1, true⟩) ∧
    decode 0x84640151#32 = .ok (.wrdReg 3 10 4 ⟨1, false⟩) ∧
    decode 0x8464025A#32 = .ok (.wwrReg 11 4 3 ⟨2, false⟩) ∧
    decode 0x840402E3#32 = .ok (.wshrReg 12 4 ⟨2, true⟩) ∧
    decode 0x886029C8#32 = .ok (.wfillRm 9 5 3 ⟨1, true⟩) ∧
    decode 0x88642951#32 = .ok (.wrdRm 3 10 5 4 ⟨1, false⟩) ∧
    decode 0x88642A5A#32 = .ok (.wwrRm 11 5 4 3 ⟨2, false⟩) ∧
    decode 0x88042AE3#32 = .ok (.wshrRm 12 5 4 ⟨2, true⟩) ∧
    decode 0x8BE2F2FC#32 = .ok (.wqryRm 31 15 30 2 ⟨2, true⟩) := by decide +kernel

/-- Words of scalar floating point (R72), written out field by field. -/
theorem test_decode_fp :
    decode 0x90853003#32 = .ok (.fadd .f32 .rd 4 5 6 ⟨0, false⟩) ∧
    decode 0x94A53186#32 = .ok (.fsub .bf16x2 .ru 5 5 6 ⟨1, true⟩) ∧
    decode 0x98C53209#32 = .ok (.fmul .f16x2 .rz 6 5 6 ⟨2, false⟩) ∧
    decode 0x90E5338C#32 = .ok (.ffma .f32 .rne 7 5 6 ⟨3, true⟩) ∧
    decode 0x94221C90#32 = .ok (.fmin .bf16x2 1 2 3 ⟨4, true⟩) ∧
    decode 0x98221C14#32 = .ok (.fmax .f16x2 1 2 3 ⟨4, false⟩) ∧
    decode 0x90221C18#32 = .ok (.fsgn .f32 .cp 1 2 3 ⟨4, false⟩) ∧
    decode 0x94221C19#32 = .ok (.fsgn .bf16x2 .neg 1 2 3 ⟨4, false⟩) ∧
    decode 0x98221C1A#32 = .ok (.fsgn .f16x2 .xor 1 2 3 ⟨4, false⟩) ∧
    decode 0x90A6399C#32 = .ok (.fcmp .f32 .eq 5 6 7 ⟨1, true⟩) ∧
    decode 0x94A6399D#32 = .ok (.fcmp .bf16x2 .lt 5 6 7 ⟨1, true⟩) ∧
    decode 0x98A6399E#32 = .ok (.fcmp .f16x2 .le 5 6 7 ⟨1, true⟩) ∧
    decode 0x90A6399F#32 = .ok (.fcmp .f32 .un 5 6 7 ⟨1, true⟩) ∧
    decode 0x91090120#32 = .ok (.frce 8 9 ⟨1, false⟩) ∧
    decode 0x91090124#32 = .ok (.frsqe 8 9 ⟨1, false⟩) ∧
    decode 0x91090128#32 = .ok (.fclass 8 9 ⟨1, false⟩) ∧
    decode 0x9D4B1A90#32 = .ok (.fcvt .bf16x2 .f32 .rd 10 11 ⟨2, true⟩) ∧
    decode 0x9D4B1286#32 = .ok (.fcvt .f32 .e4m3x4 .ru 10 11 ⟨2, true⟩) ∧
    decode 0x9D4B0AC4#32 = .ok (.fcvt .i32 .f16x2 .rz 10 11 ⟨2, true⟩) ∧
    decode 0x9D4B02AA#32 = .ok (.fcvt .f16x2 .n32 .rne 10 11 ⟨2, true⟩) ∧
    decode 0x9D4B0AD2#32 = .ok (.fcvt .n32 .bf16x2 .rz 10 11 ⟨2, true⟩) := by decide +kernel

/-- Words of global memory (R73, R74), written out field by field. -/
theorem test_decode_mem :
    decode 0xA2880C00#32 = .ok (.gldBZ 20 8 (.acq .lane) 0x400) ∧
    decode 0xA6A92C01#32 = .ok (.gldBS 21 9 (.acq .core) 0x401) ∧
    decode 0xAACA4C02#32 = .ok (.gldHZ 22 10 (.acq .quad) 0x402) ∧
    decode 0xAEEB6C03#32 = .ok (.gldHS 23 11 (.acq .clus) 0x403) ∧
    decode 0xB30C8C04#32 = .ok (.gldWZ 24 12 (.acq .die) 0x404) ∧
    decode 0xB72DAC05#32 = .ok (.gldWS 25 13 (.acq .pkg) 0x405) ∧
    decode 0xBB4ECC06#32 = .ok (.gldD 26 14 (.acq .pod) 0x406) ∧
    decode 0xBE88F3F0#32 = .ok (.gstB 20 8 (.rel .sys) 0x3f0) ∧
    decode 0xC2A9D3F1#32 = .ok (.gstH 21 9 (.rel .pod) 0x3f1) ∧
    decode 0xC6CAB3F2#32 = .ok (.gstW 22 10 (.rel .pkg) 0x3f2) ∧
    decode 0xCAEB93F3#32 = .ok (.gstD 23 11 (.rel .die) 0x3f3) ∧
    decode 0xA0220005#32 = .ok (.gldBZ 1 2 .none 5) ∧
    decode 0xCD2A1308#32 = .ok (.red .add false false false (.rel .lane) 9 10 ⟨3, false⟩) ∧
    decode 0xCD2A339E#32 = .ok (.red .min true true false (.rel .core) 9 10 ⟨3, true⟩) ∧
    decode 0xCD2A532A#32 = .ok (.red .max false true false (.rel .quad) 9 10 ⟨3, false⟩) ∧
    decode 0xCD2A73BC#32 = .ok (.red .and true false false (.rel .clus) 9 10 ⟨3, true⟩) ∧
    decode 0xCD2A9348#32 = .ok (.red .or false false false (.rel .die) 9 10 ⟨3, false⟩) ∧
    decode 0xCD2AB3DC#32 = .ok (.red .xor true false false (.rel .pkg) 9 10 ⟨3, true⟩) ∧
    decode 0xCD2AD369#32 = .ok (.red .fadd false false true (.rel .pod) 9 10 ⟨3, false⟩) ∧
    decode 0xD16CD908#32 = .ok (.amo .swap false (.acqRel .pod) 11 12 ⟨1, false⟩) ∧
    decode 0xD18C499C#32 = .ok (.amo .cas true (.acq .quad) 12 12 ⟨1, true⟩) ∧
    decode 0xD1AC002C#32 = .ok (.amo .add true .none 13 12 ⟨0, false⟩) := by decide +kernel

/-- Words of command registers and system registers (R75, R76), written out field by field. -/
theorem test_decode_sys :
    decode 0xE2800ABC#32 = .ok (.kld 5 0x2AF) ∧
    decode 0xE0900000#32 = .ok (.iss 1 .fab) ∧
    decode 0xE1100001#32 = .ok (.iss 2 .mx) ∧
    decode 0xE1900002#32 = .ok (.iss 3 .bte) ∧
    decode 0xE2100003#32 = .ok (.iss 4 .ring) ∧
    decode 0xE2900004#32 = .ok (.iss 5 .pkt) ∧
    decode 0xE3281FC4#32 = .ok (.kins 6 64 63 17) ∧
    decode 0xE3BFE078#32 = .ok (.kext 30 7 127 0) ∧
    decode 0xE2400003#32 = .ok (.kmov 4 3) ∧
    decode 0xFC1A83A5#32 = .ok (.srd 21 0x3A5) ∧
    decode 0xFC2B0043#32 = .ok (.swr 0x043 22) ∧
    decode 0xFC218011#32 = .ok (.fpstatWrite 3) ∧
    decode 0xFC218012#32 = .ok (.repcWrite 3) ∧
    decode 0xFC2180B0#32 = .ok (.wdctlWrite 3) ∧
    decode 0xFC218131#32 = .ok (.trcctlWrite 3) ∧
    decode 0xFC3003FF#32 = .ok (.trap 0x3FF) ∧
    decode 0xFC400155#32 = .ok (.brk 0x155) ∧
    decode 0xFC500000#32 = .ok .eret := by decide +kernel

/-- Words of tasks, barriers and networks (R76), written out field by field. -/
theorem test_decode_sys2 :
    decode 0xFC600000#32 = .ok .tret ∧
    decode 0xFC700000#32 = .ok .yield ∧
    decode 0xFC8F7400#32 = .ok (.spawn 30 29) ∧
    decode 0xFC9E6C00#32 = .ok (.tbind 28 27) ∧
    decode 0xFCAD0000#32 = .ok (.tunb 26) ∧
    decode 0xFCBC8003#32 = .ok (.tprio 25 3) ∧
    decode 0xFCCC000F#32 = .ok (.bara 24 .lane 15) ∧
    decode 0xFCD05C11#32 = .ok (.barw .core 1 23) ∧
    decode 0xFCEB0022#32 = .ok (.barc .quad 2 22) ∧
    decode 0xFCCC003C#32 = .ok (.bara 24 .clus 12) ∧
    decode 0xFCD05C44#32 = .ok (.barw .die 4 23) ∧
    decode 0xFCEB0055#32 = .ok (.barc .pkg 5 22) ∧
    decode 0xFCCC0069#32 = .ok (.bara 24 .pod 9) ∧
    decode 0xFCF0000D#32 = .ok (.cmsk 13) ∧
    decode 0xFD00000E#32 = .ok (.cumsk 14) ∧
    decode 0xFD1A8007#32 = .ok (.tkn 21 7) ∧
    decode 0xFD200006#32 = .ok (.bndrn 6) ∧
    decode 0xFD378005#32 = .ok (.bnsav 5 15) ∧
    decode 0xFD470004#32 = .ok (.bnload 4 14) ∧
    decode 0xFD500003#32 = .ok (.bnclr 3) := by decide +kernel

/-- Words of ordering, save and restore, observation (R76), written out field by field. -/
theorem test_decode_sys3 :
    decode 0xFD600070#32 = .ok (.fence .full .sys) ∧
    decode 0xFD600021#32 = .ok (.fence .acq .quad) ∧
    decode 0xFD600042#32 = .ok (.fence .rel .die) ∧
    decode 0xFD768000#32 = .ok (.tlbinv 13 .page) ∧
    decode 0xFD760001#32 = .ok (.tlbinv 12 .all) ∧
    decode 0xFD85800F#32 = .ok (.wsave 15 11) ∧
    decode 0xFD95000E#32 = .ok (.wrest 14 10) ∧
    decode 0xFDAF800D#32 = .ok (.wpois 13 31) ∧
    decode 0xFDB48000#32 = .ok (.ctxsav 9) ∧
    decode 0xFDC40000#32 = .ok (.ctxrst 8) ∧
    decode 0xFDD38000#32 = .ok (.fscan 7) ∧
    decode 0xFDEF000C#32 = .ok (.cens 12 30) ∧
    decode 0xFDFE8201#32 = .ok (.trcm 0x201 29) ∧
    decode 0xFE030000#32 = .ok (.lsnap 6) ∧
    decode 0xFC2D809E#32 = .ok (.wbkbWrite 15 27) ∧
    decode 0xFC2D0083#32 = .ok (.wbksWrite 1 26) := by decide +kernel

/-! ## Worked words of the spec -/

/-- Worked words of R53, R66 to R76 and their listings. -/
theorem test_decode_worked :
    decode 0x10E6001F#32 = .ok (.andImm 7 6 31) ∧ decode 0x08000083#32 = .ok .nop ∧
    decode 0x04642812#32 = .ok (.div .z .w 3 4 5 ⟨0, false⟩) ∧ decode 0x08424003#32 = .ok (.add .s .d 2 2 8 ⟨0, false⟩) ∧
    decode 0x30670004#32 = .ok (.cmp .eq .w 3 7 0 ⟨0, false⟩) ∧ decode 0x2920CDEF#32 = .ok (.movImm 9 0xCDEF) ∧
    decode 0x2D224567#32 = .ok (.movh 9 2 0x4567) ∧ decode 0x38A611FC#32 = .ok (.bfxSImm 5 6 7 60) ∧
    decode 0x44634804#32 = .ok (.astep 3 3 9 ⟨0, false⟩) ∧ decode 0x5BE00014#32 = .ok (.jal 31 20) ∧
    decode 0x5C1F0000#32 = .ok (.jr 31 ⟨0, false⟩) ∧ decode 0x55BFFFFE#32 = .ok (.br ⟨3, false⟩ 0x3FFFFE) ∧
    decode 0x6100FFFD#32 = .ok (.loop 8 0xFFFD) ∧ decode 0x64000103#32 = .ok (.rep 3 false false true) ∧
    decode 0x80880000#32 = .ok (.wfill 2 4) ∧ decode 0x88A64811#32 = .ok (.wrdRm 5 2 9 6 ⟨0, false⟩) ∧
    decode 0x9CA60030#32 = .ok (.fcvt .e4m3x4 .f32 .rne 5 6 ⟨0, false⟩) ∧
    decode 0xD103001C#32 = .ok (.amo .cas true .none 8 3 ⟨0, false⟩) ∧
    decode 0xFC931C00#32 = .ok (.tbind 6 7) := by decide +kernel

/-- Reserved words (R64): major 0 and 0x1A, a reserved minor, size, condition, q, order, pair, operation, func, a
register field that must be zero, and a field beyond its range. -/
theorem test_decode_reserved :
    decode 0x00000000#32 = .error .major ∧ decode 0x68000000#32 = .error .major ∧ decode 0x04000057#32 = .error .minor ∧
    decode 0x0400000C#32 = .error .value ∧ decode 0x0400004C#32 = .error .value ∧ decode 0x30000050#32 = .error .value ∧
    decode 0x30000001#32 = .error .zeroField ∧ decode 0x4C000010#32 = .error .value ∧ decode 0x80010003#32 = .error .value ∧
    decode 0xA0001000#32 = .error .value ∧ decode 0xBC000800#32 = .error .value ∧ decode 0x9C000000#32 = .error .value ∧
    decode 0xFC000000#32 = .error .minor ∧ decode 0xFE100000#32 = .error .minor ∧ decode 0x28010000#32 = .error .zeroField ∧
    decode 0x44100002#32 = .error .zeroField ∧ decode 0x1C000040#32 = .error .zeroField ∧
    decode 0xE02FFF80#32 = .error .value ∧ decode 0xD0210018#32 = .error .value := by decide +kernel

/-- The decoder of the table's words and the fetch of one of them after reset (R18, R53, R70). -/
theorem test_decodeTableWord :
    decodeTableWord 32 0x08000083 = some .nop ∧ decodeTableWord 32 0 = none ∧
    goes (step (State.reset.withFetchWord 32 0x08000083)) (fun t => t.me.pc == 1) = true ∧
    goes (step (State.reset.withFetchWord 32 0x2920CDEF)) (fun t => t.me.readG 9 == 0xFFFFFFFFFFFFCDEF) = true := by
  decide +kernel

/-! ## Ill-formed terms, one for each check -/

theorem test_wf_words :
    Instr.wf (.add .s .d 0 0 0 ⟨0, true⟩) = false ∧ Instr.wf (.add .s .d 0 0 0 ⟨0, false⟩) = true ∧
    Instr.wf (.mulh .z .b 1 2 3 ⟨0, false⟩) = false ∧ Instr.wf (.div .s .h 1 2 3 ⟨0, false⟩) = false ∧
    Instr.wf (.rem .s .b 1 2 3 ⟨0, false⟩) = false ∧ Instr.wf (.bswp .z .b 1 2 ⟨0, false⟩) = false ∧
    Instr.wf (.acmp .lt 1 2 3 ⟨0, false⟩) = false ∧ Instr.wf (.wqry 1 2 3) = false ∧
    Instr.wf (.wqryRm 1 2 3 3 ⟨0, false⟩) = false ∧ Instr.wf (.fcvt .f32 .f32 .rne 1 2 ⟨0, false⟩) = false ∧
    Instr.wf (.fcvt .e4m3x4 .f32 .rz 1 2 ⟨0, false⟩) = false ∧ Instr.wf (.gldBZ 1 2 (.rel .die) 0) = false ∧
    Instr.wf (.gldD 1 2 (.acqRel .die) 0) = false ∧ Instr.wf (.gstB 1 2 (.acq .die) 0) = false := by decide +kernel

theorem test_wf_more :
    Instr.wf (.red .add true true false .none 1 2 ⟨0, false⟩) = false ∧
    Instr.wf (.red .min true false true .none 1 2 ⟨0, false⟩) = false ∧
    Instr.wf (.red .fadd true false false .none 1 2 ⟨0, false⟩) = false ∧
    Instr.wf (.red .add true false false (.acq .sys) 1 2 ⟨0, false⟩) = false ∧
    Instr.wf (.amo .cas true .none 3 2 ⟨0, false⟩) = false ∧ Instr.wf (.kins 0 127 1 2) = false ∧
    Instr.wf (.kext 0 1 100 28) = false ∧ Instr.wf (.swr 0x011 3) = false ∧ Instr.wf (.swr 0x09F 3) = false ∧
    Instr.wf (.slotKill 0 Config.slots) = false ∧ Instr.wf (.fcfg Config.cores) = false ∧ Instr.wf (.elementFire 0 64) = false ∧
    Instr.wf (.sinkFill 0 8) = false ∧ Instr.wf (.gtw Config.cores) = false ∧ Instr.wf (.bteElementFill 0 4) = false ∧
    Instr.wf (.rowWordMove 0 4) = false ∧ Instr.wf (.beatStart Config.controllers) = false := by decide +kernel

theorem test_wf_units :
    Instr.wf (.balancerPass Config.networks 0) = false ∧ Instr.wf (.remoteAnswer 0 (.engine 4)) = false ∧
    Instr.wf (.pageWalkStart Config.dies) = false ∧ Instr.wf (.walkComplete 0 ⟨64, none⟩) = false ∧
    Instr.wf (.faultAnswer Config.clusters) = false ∧ Instr.wf (.refillLand 0 Config.windows) = false ∧
    Instr.wf (.keptGroupDiscard 0 4) = false ∧ Instr.wf (.brodfortAccess 0 (.sys Config.slots 0) none) = false ∧
    Instr.wf (.traceLoan 0 16) = false ∧ Instr.wf (.hostFill (.core 0 Config.windows) 0) = false ∧
    Instr.wf (.hbmSparing 0 64) = false ∧ Instr.wf (.packageReplacement 64 0) = false ∧
    Instr.wf (.configSpaceWrite (.ptag 32) 0) = false := by decide +kernel

/-! ## The step, traps, guards -/

/-- Slot 0 with general registers set. -/
def gset (l : List (Nat × Word)) : Slot := { sl0 with g := l.foldl (fun v e => v.set! e.1 e.2) sl0.g }

/-- What an instruction leaves of slot 0. -/
def slotGoes (i : Instr) (sl : Slot) (p : Slot → Bool) : Bool := goes (exec i (at0 sl)) fun t => p t.me

theorem witness_StepRuns :
    let s := State.reset.withFetchWord 32 0x2920CDEF
    let bad := State.reset.withFetchWord 32 0xDEAD
    s.nextEvent = none ∧ s.issuers = [0] ∧ s.choose 0 = some 0 ∧ s.losesBank 0 0 = false ∧ (s.slotAt 0 0).inRep = false ∧
    (s.slotAt 0 0).again = false ∧ decode (tget 0 (s.coreAt 0).istore 0) = .ok (.movImm 9 0xCDEF) ∧
    bad.issuers = [0] ∧ decode (tget 0 (bad.coreAt 0).istore 0) = .error .major ∧
    goes (step bad) (fun t => t.me.status == .trapped && t.me.traparg == 0xDEAD && t.me.trapcause == 1) = true := by
  decide +kernel

theorem witness_StepRunsRepeat :
    let s := (State.reset.withFetchWord 32 0x640000C3).setSlot 0 0 { gset [(1, 5)] with inRep := true, repc := 2 }
    let s := s.setCore 0 { s.coreAt 0 with istore := [(0, 0x640000C3), (1, 0x0C210001)] }
    s.nextEvent = none ∧ s.issuers = [0] ∧ s.choose 0 = some 0 ∧ s.losesBank 0 0 = false ∧
    decode (tget 0 (s.coreAt 0).istore 0) = .ok (.rep 3 true true false) ∧
    decode (stepWord (tget 0 (s.coreAt 0).istore 1) true true false 2) = .ok (.addImm 3 3 1) ∧
    goes (step s) (fun t => t.me.repc == 1 && t.me.pc == 0 && t.me.readG 3 == 1) = true := by decide +kernel

theorem witness_StepRunsEvent :
    let s := { State.reset with agenda := [.packetDelivery 0 3], due := 1 }
    let late := { s with due := 0, late := 1 }
    isEvent (.packetDelivery 0 3) = true ∧ goes (step s) (fun t => t.agenda == [] && t.due == 0) = true ∧
    late.issuers = [] ∧ goes (step late) (fun t => t.agenda == [] && t.late == 0) = true := by decide +kernel

theorem witness_TrapEntry :
    let on (x : Slot) : State := (at0 x).setCore 0 { (at0 x).coreAt 0 with tvecEn := true, tvec := 100 }
    let x : Slot := { sl0 with pc := 7, sup := false }
    let tr : Trap := ⟨12, 5, none, some 0x12340000000000000056⟩
    let y : Slot := { x with trapcause := 12, trappc := 7, traparg := 5, trapsite := 0x70000, trapva := 0x56, trapvah := 0x1234 }
    ((on x).takeTrap 0 0 tr 7).me = { y with pc := 100, tv := true, sup := true } ∧
    ((at0 x).takeTrap 0 0 tr 7).me.status = .trapped ∧ (((at0 x).takeTrap 0 0 tr 7).clusterAt 0).held.length = 1 ∧
    ((on { x with tv := true }).takeTrap 0 0 tr 7).me = { x with tv := true, status := .trapped } ∧
    (((on { x with tv := true }).takeTrap 0 0 tr 7).clusterAt 0).held.map (fun r => r.info) = [268] ∧
    ((on { x with tkns := [(7, 6)] }).takeTrap 0 0 tr 7).me = { x with tkns := [(7, 6)], hold := .trapping [(tr, 7)] } ∧
    ((on { x with hold := .trapping [(tr, 7)] }).takeHeldTraps 0 0).me = { y with pc := 100, tv := true, sup := true } := by
  decide +kernel

theorem witness_ProgramTraps :
    let x : Slot := { sl0 with pc := 9, trappc := 33, psup := false, tv := true }
    let dbg := (at0 { x with tv := false }).setCore 0 { (at0 { x with tv := false }).coreAt 0 with dbgctl := 1 }
    slotGoes (.trap 6) { x with tv := false } (fun y => y.trapcause == 4 && y.trappc == 10 && y.traparg == 6) = true ∧
    slotGoes (.trap 6) { x with pc := 4095, tv := false } (fun y => y.trapcause == 2 && y.traparg == 4096) = true ∧
    slotGoes (.brk 6) { x with tv := false } (fun y => y.trapcause == 5 && y.trappc == 9) = true ∧
    slotGoes .eret x (fun y => y.pc == 33 && !y.sup && !y.tv) = true ∧
    slotGoes (.reservedEncoding 0xDEAD) { x with tv := false } (fun y => y.trapcause == 1 && y.traparg == 0xDEAD) = true ∧
    goes (exec (.brk 6) dbg) (fun t => t.me.status == .trapped && t.me.trapcause == 5 && t.msix == [(0, 4)] &&
      (t.coreAt 0).dbgev == 0x8001000000090000) = true := by decide +kernel

theorem witness_PrivilegeTrap :
    supervisorOnly (.lsnap 2) = true ∧ encode (.lsnap 2) = some 0xFE010000 ∧
    slotGoes (.lsnap 2) { sl0 with sup := false } (fun y => y.trapcause == 3 && y.traparg == 0xFE010000) = true ∧
    slotGoes .eret { sl0 with sup := false } (fun y => y.trapcause == 3 && y.traparg == 0xFC500000) = true := by decide +kernel

theorem witness_FalseGuard :
    let x := { gset [(1, 5)] with pc := 4095 }
    slotGoes (.add .s .d 2 1 1 ⟨0, true⟩) (gset [(1, 5)]) (fun y => y.pc == 1 && y.readG 2 == 0) = true ∧
    (at0 (gset [(1, 5)])).me.guard ⟨0, true⟩ = false ∧ x.fallsOut = true ∧
    slotGoes (.add .s .d 2 1 1 ⟨0, false⟩) x (fun y => y.trapcause == 2 && y.traparg == 4096 && y.readG 2 == 0) = true ∧
    ({ x with inRep := true, repc := 1, pc := 4094 } : Slot).fallsOut = true ∧
    ({ x with inRep := true, repc := 2, pc := 4094 } : Slot).fallsOut = false ∧
    ({ x with inRep := true, repc := 1, pc := 4093 } : Slot).fallsOut = false ∧
    (({ x with inRep := true, repc := 1, pc := 4093 } : Slot).advance).pc = 4095 := by decide +kernel

/-! ## Integer and control instructions -/

/-- Register 3 after an instruction with those registers. -/
def g3 (l : List (Nat × Word)) (i : Instr) : Option Word :=
  match exec i (at0 (gset l)) with
  | .next t => some (t.me.readG 3)
  | .fault _ => none
  | .refused _ => none

theorem test_arithmetic :
    let r : List (Nat × Word) := [(1, 0x80000000), (2, 0xFFFFFFFF), (4, 0x1FF)]
    g3 r (.add .z .w 3 1 1 ⟨0, false⟩) = some 0 ∧ g3 r (.sub .s .w 3 1 4 ⟨0, false⟩) = some 0x7FFFFE01 ∧
    g3 r (.mul .s .h 3 2 4 ⟨0, false⟩) = some 0xFFFFFFFFFFFFFE01 ∧ g3 r (.mulh .z .w 3 2 2 ⟨0, false⟩) = some 0xFFFFFFFE ∧
    g3 r (.mulh .s .w 3 2 2 ⟨0, false⟩) = some 0 ∧ g3 r (.mulh .s .w 3 1 2 ⟨0, false⟩) = some 0 ∧
    g3 r (.div .s .w 3 1 2 ⟨0, false⟩) = some 0xFFFFFFFF80000000 ∧ g3 r (.rem .s .w 3 1 2 ⟨0, false⟩) = some 0 ∧
    g3 r (.div .z .w 3 1 0 ⟨0, false⟩) = some 0xFFFFFFFF ∧ g3 r (.rem .z .w 3 1 0 ⟨0, false⟩) = some 0x80000000 ∧
    g3 [(1, 0xFFFFFFF9), (2, 2)] (.div .s .w 3 1 2 ⟨0, false⟩) = some 0xFFFFFFFFFFFFFFFD ∧
    g3 [(1, 0xFFFFFFF9), (2, 2)] (.rem .s .w 3 1 2 ⟨0, false⟩) = some 0xFFFFFFFFFFFFFFFF ∧
    g3 r (.min .s .w 3 1 4 ⟨0, false⟩) = some 0xFFFFFFFF80000000 ∧ g3 r (.min .z .w 3 1 4 ⟨0, false⟩) = some 0x1FF ∧
    g3 r (.max .s .b 3 4 0 ⟨0, false⟩) = some 0 ∧ g3 r (.max .z .b 3 4 0 ⟨0, false⟩) = some 0xFF := by decide +kernel

theorem test_logic :
    let r : List (Nat × Word) := [(1, 0x8421), (2, 0xFF00), (4, 36), (5, 4)]
    g3 r (.and .z .h 3 1 2 ⟨0, false⟩) = some 0x8400 ∧ g3 r (.or .s .h 3 1 2 ⟨0, false⟩) = some 0xFFFFFFFFFFFFFF21 ∧
    g3 r (.xor .z .h 3 1 2 ⟨0, false⟩) = some 0x7B21 ∧ g3 r (.not .z .b 3 1 ⟨0, false⟩) = some 0xDE ∧
    g3 r (.mov .s .b 3 1 ⟨0, false⟩) = some 0x21 ∧ g3 r (.mov .s .h 3 1 ⟨0, false⟩) = some 0xFFFFFFFFFFFF8421 ∧
    g3 r (.shl .z .h 3 1 5 ⟨0, false⟩) = some 0x4210 ∧ g3 r (.shl .z .w 3 1 4 ⟨0, false⟩) = some 0 ∧
    g3 r (.shr .s .h 3 1 4 ⟨0, false⟩) = some 0xFFFFFFFFFFFFFFFF ∧ g3 r (.shr .z .h 3 1 5 ⟨0, false⟩) = some 0x842 ∧
    g3 r (.rot .z .w 3 1 4 ⟨0, false⟩) = some 0x84210 ∧ g3 r (.clz .s .h 3 5 ⟨0, false⟩) = some 13 ∧
    g3 r (.clz .s .w 3 0 ⟨0, false⟩) = some 32 ∧ g3 r (.ctz .z .b 3 2 ⟨0, false⟩) = some 8 ∧
    g3 r (.ctz .z .h 3 2 ⟨0, false⟩) = some 8 ∧ g3 r (.popc .s .h 3 1 ⟨0, false⟩) = some 4 ∧
    g3 r (.brev .z .h 3 2 ⟨0, false⟩) = some 0xFF ∧ g3 r (.bswp .s .h 3 1 ⟨0, false⟩) = some 0x2184 ∧
    g3 r (.bswp .z .w 3 1 ⟨0, false⟩) = some 0x21840000 := by decide +kernel

theorem test_immediates :
    let r : List (Nat × Word) := [(1, 0xFFFFFFFFFFFF8421), (3, 0x1111222233334444)]
    g3 r (.addImm 3 1 0x8000) = some 0xFFFFFFFFFFFF0421 ∧ g3 r (.andImm 3 1 0xFF00) = some 0x8400 ∧
    g3 r (.orImm 3 1 0xF) = some 0xFFFFFFFFFFFF842F ∧ g3 r (.xorImm 3 1 0xFFFF) = some 0xFFFFFFFFFFFF7BDE ∧
    g3 r (.shlImm 3 1 63) = some 0x8000000000000000 ∧ g3 r (.shrZImm 3 1 60) = some 0xF ∧
    g3 r (.shrSImm 3 1 60) = some 0xFFFFFFFFFFFFFFFF ∧ g3 r (.movImm 3 0x8000) = some 0xFFFFFFFFFFFF8000 ∧
    g3 r (.movh 3 2 0xABCD) = some 0x1111ABCD33334444 ∧ g3 r .nop = some 0x1111222233334444 ∧
    g3 r (.bfxZImm 3 1 7 56) = some 0xFF ∧ g3 r (.bfxSImm 3 1 7 60) = some 0xFFFFFFFFFFFFFFFF ∧
    g3 r (.bfxZImm 3 1 7 60) = some 0xF ∧ g3 r (.bfiImm 3 1 7 60) = some 0x1111222233334444 := by decide +kernel

theorem test_bitFields :
    let r : List (Nat × Word) := [(1, 0x8421), (3, 0xFFFF), (4, 0x0408), (5, 0x0000), (6, 0xFF10)]
    g3 r (.bfiImm 3 1 7 60) = some 0x100000000000FFFF ∧ g3 r (.bfxZReg 3 1 4 ⟨0, false⟩) = some 4 ∧
    g3 r (.bfxSReg 3 1 4 ⟨0, false⟩) = some 4 ∧ g3 r (.bfxZReg 3 1 5 ⟨0, false⟩) = some 0 ∧
    g3 r (.bfiReg 3 1 4 ⟨0, false⟩) = some 0xF1FF ∧ g3 r (.bfiReg 3 1 5 ⟨0, false⟩) = some 0xFFFF ∧
    g3 r (.bfxZReg 3 1 6 ⟨0, false⟩) = some 0 ∧ g3 r (.bfiReg 3 1 6 ⟨0, false⟩) = some 0x8421FFFF ∧
    g3 r (.sel 3 1 4 ⟨0, false⟩) = some 0x8421 ∧ g3 r (.sel 3 1 4 ⟨0, true⟩) = some 0x0408 := by decide +kernel

theorem test_compare :
    let x := { gset [(1, 0x80), (2, 1)] with a := (sl0.a.set! 1 (BitVec.ofNat 80 (2 ^ 79))).set! 2 5 }
    let p3 (i : Instr) (b : Bool) : Bool := slotGoes i x (fun y => y.readP 3 == b)
    p3 (.cmp .lt .b 3 1 2 ⟨0, false⟩) true = true ∧ p3 (.cmp .lo .b 3 1 2 ⟨0, false⟩) false = true ∧
    p3 (.cmp .ge .h 3 1 2 ⟨0, false⟩) true = true ∧ p3 (.cmp .eq .b 3 1 1 ⟨0, false⟩) true = true ∧
    p3 (.cmp .ne .b 3 1 2 ⟨0, false⟩) true = true ∧ p3 (.cmp .ls .b 3 1 1 ⟨0, false⟩) true = true ∧
    p3 (.acmp .hi 3 1 2 ⟨0, false⟩) true = true ∧ p3 (.acmp .hs 3 2 1 ⟨0, false⟩) false = true ∧
    p3 (.pand 3 0 0 ⟨0, false⟩) true = true ∧ p3 (.por 3 1 2 ⟨0, false⟩) false = true ∧
    p3 (.pxor 3 0 1 ⟨0, false⟩) true = true ∧ p3 (.pnot 3 0 ⟨0, false⟩) false = true ∧
    p3 (.pset 3 true ⟨0, false⟩) true = true ∧ slotGoes (.pset 0 false ⟨0, false⟩) x (fun y => y.readP 0) = true := by
  decide +kernel

theorem test_addresses :
    let x := { gset [(1, 0x0C00FFFFFFFFFF00), (2, 0x5), (4, 0xFFFFFFFFFFFFFFFE)] with a := (sl0.a.set! 1 (BitVec.ofNat 80 0x12340080)) }
    let a3 (i : Instr) (v : Addr) : Bool := slotGoes i x (fun y => y.readA 3 == v)
    a3 (.aaddImm 3 1 0xFFFF) 0x1234007F = true ∧ a3 (.aaddReg 3 0 4 ⟨0, false⟩) 0xFFFFFFFFFFFFFFFFFFFE = true ∧
    a3 (.aset 3 4 2 ⟨0, false⟩) 0x0005FFFFFFFFFFFFFFFE = true ∧ a3 (.astep 3 1 1 ⟨0, false⟩) 0x12340F80 = true ∧
    slotGoes (.aget 3 1 ⟨0, false⟩) x (fun y => y.readG 3 == 0x12340080) = true ∧
    slotGoes (.agetH 3 3 ⟨0, false⟩) { x with a := x.a.set! 3 (BitVec.ofNat 80 (7 * 2 ^ 64 + 9)) } (fun y => y.readG 3 == 7) = true := by
  decide +kernel

theorem test_transfers :
    let x := { gset [(1, 4095), (2, 4096), (4, 2), (5, 1)] with pc := 10 }
    let pcIs (i : Instr) (n : BitVec 12) : Bool := slotGoes i x (fun y => y.pc == n && y.trapcause == 0)
    let out (i : Instr) (n : Word) : Bool := slotGoes i x (fun y => y.trapcause == 2 && y.traparg == n && y.readG 31 == 0)
    pcIs (.br ⟨0, false⟩ 0x3FFFF6) 0 = true ∧ out (.br ⟨0, false⟩ 0x3FFFF5) 0xFFFFFFFFFFFFFFFF = true ∧
    pcIs (.br ⟨0, true⟩ 5) 11 = true ∧ pcIs (.jr 1 ⟨0, false⟩) 4095 = true ∧ out (.jr 2 ⟨0, false⟩) 4096 = true ∧
    slotGoes (.jal 31 4085) x (fun y => y.pc == 4095 && y.readG 31 == 11) = true ∧ out (.jal 31 4086) 4096 = true ∧
    slotGoes (.loop 4 0xFFFE) x (fun y => y.pc == 8 && y.readG 4 == 1) = true ∧
    slotGoes (.loop 5 0xFFFE) x (fun y => y.pc == 11 && y.readG 5 == 0) = true ∧ out (.loop 4 0xFFF5) 0xFFFFFFFFFFFFFFFF = true := by
  decide +kernel

theorem test_repeat :
    let s (r : Nat) (w : Code) : State := (at0 { sl0 with repc := BitVec.ofNat 7 r }).setCore 0
      { (at0 { sl0 with repc := BitVec.ofNat 7 r }).coreAt 0 with istore := [(0, 0x64000043), (1, w)] }
    repTargetOk 0x0C210001 (.addImm 1 1 1) 4 true false false = true ∧
    goes (exec (.rep 3 true false false) (s 0 0x0C210001)) (fun t => t.me.inRep && t.me.repc == 4 && t.me.pc == 0) = true ∧
    goes (exec (.rep 3 true false false) (s 2 0x0C210001)) (fun t => t.me.inRep && t.me.repc == 2) = true ∧
    goes (exec (.rep 3 true false false) (s 5 0x0C210001)) (fun t => t.me.trapcause == 1 && t.me.traparg == 0x0C21000164000043) = true ∧
    goes (exec (.rep 3 true false false) (s 0 0x0FA10001)) (fun t => t.me.trapcause == 1 && t.me.traparg == 0x0FA1000164000043) = true ∧
    goes (exec (.rep 3 true false false) (s 0 0xDEAD)) (fun t => t.me.trapcause == 1 && t.me.traparg == 0xDEAD) = true := by
  decide +kernel

theorem test_commandRegisters :
    let x := { gset [(1, 0xABCDEF)] with k := sl0.k.set! 2 (BitVec.ofNat 128 (0xF * 2 ^ 124 + 0x55)) }
    let s := (at0 x).setCore 0 { (at0 x).coreAt 0 with istore := [(8, 1), (9, 2), (10, 3), (11, 4)] }
    goes (exec (.kld 3 2) s) (fun t => t.me.readK 3 == 0x00000004000000030000000200000001 && t.me.pc == 1) = true ∧
    goes (exec (.kins 2 4 7 1) s) (fun t => t.me.readK 2 == 0xF0000000000000000000000000000EF5) = true ∧
    goes (exec (.kext 3 2 124 3) s) (fun t => t.me.readG 3 == 0xF) = true ∧
    goes (exec (.kext 3 2 0 63) s) (fun t => t.me.readG 3 == 0x55) = true ∧
    goes (exec (.kmov 7 2) s) (fun t => t.me.readK 7 == 0xF0000000000000000000000000000055) = true := by decide +kernel

/-! ## Scalar floating point -/

/-- Register 3 and FPSTAT after an instruction with those registers. -/
def fp3 (l : List (Nat × Word)) (i : Instr) : Option (Word × Flags) :=
  match exec i (at0 (gset l)) with
  | .next t => some (t.me.readG 3, t.me.fpstat)
  | .fault _ => none
  | .refused _ => none

theorem test_fpArithmetic :
    let r : List (Nat × Word) := [(1, 0x3F800000), (2, 0x33800000), (3, 0x7FC00000), (4, 0x7F000000), (5, 0x40000000), (6, 0x7F800000)]
    let l : List (Nat × Word) := [(1, 0x3F804000), (2, 0x3C004000), (4, 0x3C003C00)]
    fp3 r (.fadd .f32 .rne 3 1 1 ⟨0, false⟩) = some (0x40000000, 0) ∧
    fp3 r (.fadd .f32 .rz 3 1 2 ⟨0, false⟩) = some (0x3F800000, 16) ∧
    fp3 r (.fadd .f32 .rne 3 1 2 ⟨0, false⟩) = some (0x3F800000, 16) ∧
    fp3 r (.fadd .f32 .ru 3 1 2 ⟨0, false⟩) = some (0x3F800001, 16) ∧
    fp3 r (.fmul .f32 .rne 3 4 5 ⟨0, false⟩) = some (0x7F800000, 20) ∧
    fp3 r (.fmul .f32 .rz 3 4 5 ⟨0, false⟩) = some (0x7F7FFFFF, 20) ∧
    fp3 r (.ffma .f32 .rne 3 0 6 ⟨0, false⟩) = some (0x7FC00000, 1) ∧
    fp3 r (.fsub .f32 .rd 3 1 1 ⟨0, false⟩) = some (0x80000000, 0) ∧
    fp3 l (.fadd .bf16x2 .rne 3 1 1 ⟨0, false⟩) = some (0x40004080, 0) ∧
    fp3 l (.fsub .f16x2 .rne 3 2 4 ⟨0, false⟩) = some (0x3C00, 0) ∧
    fp3 [(1, 0x3F800000), (3, 0x40000000)] (.ffma .f32 .rne 3 1 1 ⟨0, false⟩) = some (0x40400000, 0) := by decide +kernel

theorem test_fpOther :
    let r : List (Nat × Word) := [(1, 0x3F800000), (2, 0x80000000), (4, 0x7F800001), (5, 0x40400000), (6, 0x3FC80000), (7, 0x80000001)]
    fp3 r (.fmin .f32 3 0 2 ⟨0, false⟩) = some (0x80000000, 0) ∧ fp3 r (.fmax .f32 3 2 0 ⟨0, false⟩) = some (0, 0) ∧
    fp3 r (.fmax .f32 3 4 1 ⟨0, false⟩) = some (0x3F800000, 1) ∧ fp3 r (.fsgn .f32 .neg 3 1 0 ⟨0, false⟩) = some (0xBF800000, 0) ∧
    fp3 r (.fsgn .f32 .xor 3 2 2 ⟨0, false⟩) = some (0, 0) ∧ fp3 r (.fsgn .f32 .cp 3 1 2 ⟨0, false⟩) = some (0xBF800000, 0) ∧
    fp3 r (.frce 3 5 ⟨0, false⟩) = some (0x3EAAB000, 16) ∧ fp3 r (.frce 3 2 ⟨0, false⟩) = some (0xFF800000, 2) ∧
    fp3 r (.frsqe 3 6 ⟨0, false⟩) = some (0x3F4CD000, 16) ∧ fp3 r (.frsqe 3 7 ⟨0, false⟩) = some (0x7FC00000, 1) ∧
    fp3 r (.fclass 3 7 ⟨0, false⟩) = some (4, 0) ∧ fp3 r (.fclass 3 4 ⟨0, false⟩) = some (256, 0) ∧
    slotGoes (.fcmp .f32 .lt 3 2 1 ⟨0, false⟩) (gset r) (fun y => y.readP 3) = true ∧
    slotGoes (.fcmp .f32 .eq 3 2 0 ⟨0, false⟩) (gset r) (fun y => y.readP 3 && y.fpstat == 0) = true ∧
    slotGoes (.fcmp .f32 .un 3 4 1 ⟨0, false⟩) (gset r) (fun y => y.readP 3 && y.fpstat == 1) = true ∧
    slotGoes (.fcmp .bf16x2 .le 3 1 5 ⟨0, false⟩) (gset r) (fun y => y.readP 3) = true ∧
    slotGoes (.fcmp .bf16x2 .lt 3 1 5 ⟨0, false⟩) (gset r) (fun y => !y.readP 3) = true := by decide +kernel

theorem test_fpConversions :
    let r : List (Nat × Word) := [(1, 0x43E00000), (2, 0x447A0000), (4, 0xBFC00000), (5, 0x7FC00000), (6, 0x3F808000), (7, 2049),
      (8, 0xC0003C00), (9, 0x3838)]
    fp3 r (.fcvt .e4m3x4 .f32 .rne 3 1 ⟨0, false⟩) = some (0x7E, 0) ∧ fp3 r (.fcvt .e4m3x4 .f32 .rne 3 2 ⟨0, false⟩) = some (0x7E, 48) ∧
    fp3 r (.fcvt .i32 .f32 .rz 3 4 ⟨0, false⟩) = some (0xFFFFFFFFFFFFFFFF, 16) ∧
    fp3 r (.fcvt .n32 .f32 .rne 3 4 ⟨0, false⟩) = some (0, 1) ∧ fp3 r (.fcvt .i32 .f32 .rne 3 5 ⟨0, false⟩) = some (0, 1) ∧
    fp3 r (.fcvt .bf16x2 .f32 .rne 3 6 ⟨0, false⟩) = some (0x3F80, 16) ∧ fp3 r (.fcvt .f16x2 .i32 .rne 3 7 ⟨0, false⟩) = some (0x6800, 16) ∧
    fp3 r (.fcvt .f32 .f16x2 .rne 3 8 ⟨0, false⟩) = some (0x3F800000, 0) ∧
    fp3 r (.fcvt .bf16x2 .e4m3x4 .rne 3 9 ⟨0, false⟩) = some (0x3F803F80, 0) ∧
    fp3 r (.fcvt .f32 .n32 .rne 3 7 ⟨0, false⟩) = some (0x45001000, 0) := by decide +kernel

theorem witness_FpSpecialOperands :
    (Fmt.f32.decode 0x7F800001).isSnan = true ∧ (Fmt.f32.decode 0x7FC00000).isNan = true ∧
    Fmt.f32.decode 0x7F800000 = .inf false ∧ Fmt.f32.decode 0xFF800000 = .inf true ∧ (Fmt.f32.decode 0x80000000).isZero = true ∧
    Fmt.f32.decode 0x3F800000 = .num false (2 ^ 23) (-23) ∧ Fmt.f32.decode 0xBF800000 = .num true (2 ^ 23) (-23) := by decide +kernel

theorem witness_RoundingOutOfRange :
    Fmt.f32 ≠ Fmt.e4m3 ∧ Fmt.f32.infMag ≤ (Fmt.f32.roundMag .rne false 1 128).1 ∧ 0x7E < (Fmt.e4m3.roundMag .rne false 1000 0).1 ∧
    Fmt.f32.round .rd false 1 128 = (0x7F7FFFFF, fOF ||| fNX) ∧ Fmt.f32.round .rd true 1 128 = (0xFF800000, fOF ||| fNX) ∧
    toInteger .rne (-2) 5 (.num false 6 0) = (5, fNV) ∧ toInteger .rne (-2) 5 (.num true 3 0) = (-2, fNV) := by decide +kernel

/-! ## Windows -/

/-- Window 1 of core 0 as given, its store holding 8-byte elements 0x1122334455667788 and 2. -/
def winS (x : Win) (sl : Slot) : State :=
  let s := at0 sl
  (s.setCore 0 { s.coreAt 0 with wstore := tputs 0 [] 0 (bytesOf 8 0x1122334455667788 ++ bytesOf 8 2) }).setWin 0 1 x

theorem witness_Windows :
    let x := { w8 with fill := 1 }
    let s := winS x (gset [(5, 0), (6, 0xFFEEDDCCBBAA9988)])
    Usable x .read ∧ Usable x .fill ∧ Usable x .update ∧ Usable x .shrink ∧ Readable x 0 ∧ x.fillsStore = true ∧
    tget none (s.coreAt 0).pend (sourceKey 0 1) = none ∧ s.quiet 0 0 = true ∧
    goes (exec (.wrd 3 1 0) s) (fun t => t.me.readG 3 == 0x1122334455667788 && t.me.pc == 1) = true ∧
    goes (exec (.wrdReg 3 1 5 ⟨0, false⟩) s) (fun t => t.me.readG 3 == 0x1122334455667788) = true ∧
    goes (exec (.wrdn 3 2 1 0) s) (fun t => t.me.readP 2 && t.me.readG 3 == 0x1122334455667788) = true ∧
    goes (exec (.wrdn 3 2 1 1) s) (fun t => !t.me.readP 2 && t.me.readG 3 == 0) = true ∧
    goes (exec (.wqry 3 1 1) s) (fun t => t.me.readG 3 == 0x100000000) = true ∧
    goes (exec (.wfill 1 6) s) (fun t => (t.winAt 0 1).fill == 2 && tgets 0 (t.coreAt 0).wstore 8 8 == bytesOf 8 0xFFEEDDCCBBAA9988) = true ∧
    goes (exec (.wfillReg 1 6 ⟨0, false⟩) s) (fun t => (t.winAt 0 1).fill == 2) = true ∧
    goes (exec (.wfilln 1 6 2) s) (fun t => (t.winAt 0 1).fill == 2 && t.me.readP 2) = true := by
  refine ⟨⟨by decide, by decide, by decide⟩, ⟨by decide, by decide, by decide⟩, ⟨by decide, by decide, by decide⟩,
    ⟨by decide, by decide, by decide⟩, ⟨⟨by decide, by decide, by decide⟩, by decide, by decide, by decide⟩, ?_⟩
  decide +kernel

theorem witness_WindowUpdates :
    let x := { w8 with fill := 2, pv := true, pois := 1 }
    let s := winS { x with pv := false } (gset [(5, 1), (6, 0xFFEEDDCCBBAA9988)])
    goes (exec (.wwr 1 1 6) s) (fun t => tgets 0 (t.coreAt 0).wstore 0 16 == bytesOf 8 0x1122334455667788 ++ bytesOf 8 0xFFEEDDCCBBAA9988) = true ∧
    goes (exec (.wwrReg 1 5 6 ⟨0, false⟩) s) (fun t => tgets 0 (t.coreAt 0).wstore 8 8 == bytesOf 8 0xFFEEDDCCBBAA9988) = true ∧
    goes (exec (.wshr 1 2) s) (fun t => (t.winAt 0 1).head == 2 && (t.winAt 0 1).hslot == 0 && t.me.pc == 1) = true ∧
    goes (exec (.wshrReg 1 5 ⟨0, false⟩) s) (fun t => (t.winAt 0 1).head == 1 && (t.winAt 0 1).hslot == 1) = true ∧
    goes (exec (.wshr 1 1) (winS x sl0)) (fun t => (t.winAt 0 1).pv) = true ∧
    goes (exec (.wshr 1 2) (winS x sl0)) (fun t => !(t.winAt 0 1).pv) = true := by decide +kernel

theorem witness_WindowDefinition :
    let v : Word := BitVec.ofNat 64 (7 * 2 ^ 48 + 3 * 2 ^ 42 + 5 * 2 ^ 39 + 1 * 2 ^ 35 + 100 * 2 ^ 19 + 9 * 2 ^ 7)
    let mk (esz cap base : Nat) : Nat := esz * 2 ^ 35 + cap * 2 ^ 19 + base * 2 ^ 7
    let s (v : Word) : State := winS { w8 with fill := 1 } (gset [(6, v)])
    wdefOk v = true ∧ goes (exec (.wdef 1 6) (s v)) (fun t =>
      t.winAt 0 1 == { Win.init with v := true, ccnt := 7, pcnt := 3, mode := .egress, esz := 1, cap := 100, base := 9 }) = true ∧
    wdefOk (BitVec.ofNat 64 (mk 12 8 0)) = true ∧ wdefOk (BitVec.ofNat 64 (mk 12 8 1)) = false ∧
    wdefOk (BitVec.ofNat 64 (mk 13 1 0)) = false ∧ wdefOk (BitVec.ofNat 64 (mk 1 0 0)) = false ∧
    wdefOk (BitVec.ofNat 64 (mk 1 1 0 + 6 * 2 ^ 39)) = false ∧
    goes (exec (.wdef 1 6) (s 0)) (fun t => t.me.trapcause == 6 && (t.winAt 0 1).fill == 1) = true := by decide +kernel

theorem witness_WindowFaults :
    let a (ext arg why op : Nat) : Word := BitVec.ofNat 64 (ext * 2 ^ 48 + arg * 2 ^ 16 + why * 2 ^ 8 + op * 2 ^ 4 + 1)
    let trapsWith (i : Instr) (x : Win) (v : Word) : Bool := goes (exec i (winS x sl0)) fun t =>
      t.me.status == .trapped && t.me.trapcause == 6 && t.me.traparg == v
    let x := { w8 with fill := 1 }
    goes (exec (.wrd 3 1 1) (winS { x with pv := true, pois := 1, wpsClass := 9, wpd := 5 } sl0)) (fun t =>
      t.me.trapcause == 0x10907 && t.me.traparg == 5) = true ∧
    trapsWith (.wrd 3 1 2) x (a 1 2 4 1) = true ∧ trapsWith (.wwr 1 1 3) x (a 1 1 2 2) = true ∧
    trapsWith (.wshr 1 2) x (a 1 2 3 3) = true ∧ trapsWith (.wfill 1 3) { x with mode := .ingress } (a 1 0 5 0) = true ∧
    trapsWith (.wrd 3 1 0) { x with v := false } (a 0 0 1 1) = true := by decide +kernel

theorem witness_WindowWaits :
    let x := { w8 with fill := 2 }
    let s := winS x (gset [(6, 77)])
    let w (i : Instr) : State := match exec i s with | .next t => t | .fault _ => s | .refused _ => s
    let e := winS { w8 with fill := 0 } sl0
    (s.coreAt 0).fillRoom 1 = false ∧
    goes (exec (.wfill 1 6) s) (fun t => t.me.status == .waiting && t.me.wait == some (.window false 0 1 (.fill 77) 0 0) && t.me.pc == 0) = true ∧
    goes (exec (.wrd 3 1 1) e) (fun t => t.me.status == .waiting && t.me.wait == some (.window false 0 1 (.read 1) 3 0) &&
      t.edges.map (fun y => (y.party, y.kind, y.win)) == [(.task 0 0, .read, 1)]) = true ∧
    goes (exec (.waitingFillProceeds 0 0) ((w (.wfill 1 6)).setWin 0 1 { x with head := 1, hslot := 1 })) (fun t =>
      t.me.status == .runnable && t.me.pc == 1 && (t.winAt 0 1).fill == 3 && t.edges == [] &&
      tgets 0 (t.coreAt 0).wstore 0 8 == bytesOf 8 77) = true := by decide +kernel

/-- WindowFaults: the waits of a held window, and the end of a wait to read or shrink. -/
theorem witness_WindowHeld :
    let s := winS { w8 with fill := 1, held := true } (gset [(6, 77)])
    let waits (i : Instr) (op : WinOp) (d : BitVec 5) : Bool := goes (exec i s) fun t =>
      t.me.status == .waiting && t.me.wait == some (.window false 0 1 op d 0) && t.me.pc == 0 && t.winAt 0 1 == s.winAt 0 1
    let on (op : WinOp) (x : Win) : State := winS x { sl0 with status := .waiting, wait := some (.window false 0 1 op 3 0) }
    waits (.wrd 3 1 0) (.read 0) 3 = true ∧ waits (.wfill 1 6) (.fill 77) 0 = true ∧
    waits (.wwr 1 0 6) (.update 0 77) 0 = true ∧ waits (.wshr 1 1) (.shrink 1) 0 = true ∧
    Readable { w8 with fill := 1 } 0 ∧
    goes (exec (.waitingReadProceeds 0 0) (on (.read 0) { w8 with fill := 1 })) (fun t => t.me.status == .runnable &&
      t.me.pc == 1 && t.me.readG 3 == 0x1122334455667788) = true ∧
    goes (exec (.waitingReadProceeds 0 0) (on (.shrink 1) { w8 with fill := 1 })) (fun t => t.me.status == .runnable &&
      t.me.pc == 1 && (t.winAt 0 1).head == 1) = true := by
  refine ⟨?_, ?_, ?_, ?_, ⟨⟨by decide, by decide, by decide⟩, by decide, by decide, by decide⟩, ?_, ?_⟩ <;> decide +kernel

/-- StepRunsWord: a read of window 1 whose bank an engine has in this tick. -/
theorem witness_StepLosesBank :
    let s := { winS { w8 with fill := 1 } sl0 with issuers := [0] }
    let s := s.setCore 0 { s.coreAt 0 with banks := [(0, true)], istore := [(0, (encode (.wrd 3 1 0)).getD 0)] }
    s.nextEvent = none ∧ s.issuers = [0] ∧ s.choose 0 = some 0 ∧ s.losesBank 0 0 = true ∧
    goes (step s) (fun t => vget 0 (t.coreAt 0).stall 14 == 1 && (t.slotAt 0 0).pc == 0 && (t.slotAt 0 0).banked == 1) = true ∧
    (s.setSlot 0 0 { sl0 with banked := 8 }).losesBank 0 0 = false := by decide +kernel

theorem witness_Remote :
    let s := (at0 (gset [(5, 1), (4, 0), (6, 9)])).setWin 1 2 { w8 with fill := 1 }
    let s := s.setCore 1 { s.coreAt 1 with wstore := [(0, 5)] }
    let r (op : WinOp) (h : Hold) (b : Bool) : State := s.setSlot 0 0 { sl0 with hold := h, remote := some ⟨1, 2, op, 3, 0, b⟩ }
    clusterOf 1 = clusterOf 0 ∧
    goes (exec (.wrdRm 3 2 5 4 ⟨0, false⟩) s) (fun t => t.me.hold == .remote && t.me.remote == some ⟨1, 2, .read 0, 3, 0, false⟩ &&
      t.agenda == [.remoteWindowOperation 0 (.slot 0)]) = true ∧
    goes (exec (.wfillRm 2 5 6 ⟨0, false⟩) s) (fun t => t.me.remote == some ⟨1, 2, .fill 9, 0, 0, false⟩) = true ∧
    goes (exec (.wwrRm 2 5 4 6 ⟨0, false⟩) s) (fun t => t.me.remote == some ⟨1, 2, .update 0 9, 0, 0, false⟩) = true ∧
    goes (exec (.wshrRm 2 5 5 ⟨0, false⟩) s) (fun t => t.me.remote == some ⟨1, 2, .shrink 1, 0, 0, false⟩) = true ∧
    goes (exec (.wqryRm 3 2 5 1 ⟨0, false⟩) s) (fun t => t.me.remote == some ⟨1, 2, .query 1, 3, 0, false⟩) = true ∧
    goes (exec (.remoteWindowOperation 0 (.slot 0)) (r (.read 0) .remote false)) (fun t => t.me.hold == .remoteDone (some 5)) = true ∧
    goes (exec (.remoteWindowOperation 0 (.slot 0)) (r (.fill 7) .remote false)) (fun t => (t.winAt 1 2).fill == 2 &&
      tgets 0 (t.coreAt 1).wstore 8 8 == bytesOf 8 7) = true ∧
    goes (exec (.remoteWindowOperation 0 (.slot 0)) (r (.update 0 9) .remote false)) (fun t => t.me.hold == .remoteDone none &&
      tgets 0 (t.coreAt 1).wstore 0 8 == bytesOf 8 9) = true ∧
    goes (exec (.remoteWindowOperation 0 (.slot 0)) (r (.shrink 1) .remote false)) (fun t => t.me.hold == .remoteDone none &&
      (t.winAt 1 2).head == 1 && (t.winAt 1 2).hslot == 1) = true ∧
    goes (exec (.remoteWindowOperation 0 (.slot 0)) (r (.query 1) .remote false)) (fun t =>
      t.me.hold == .remoteDone (some 0x100000000)) = true ∧
    (256 < 0x1FFD ∧ clusterOf 256 ≠ clusterOf 0) ∧
    goes (exec (.wrdRm 3 2 5 7 ⟨0, false⟩) (at0 (gset [(5, 256), (7, 3)]))) (fun t => t.me.trapcause == 6 &&
      t.me.traparg == 0x30192) = true ∧
    goes (exec (.remoteAnswer 0 (.slot 0)) (r (.read 0) (.remoteDone (some 5)) true)) (fun t => t.me.readG 3 == 5 && t.me.pc == 1 &&
      t.me.hold == .none) = true := by decide +kernel

/-! ## Tasks, barriers, counting networks -/

/-- Core 0 as a function makes it of the core that slot `sl` issues on. -/
def withCore (sl : Slot) (f : Core → Core) : State := (at0 sl).setCore 0 (f ((at0 sl).coreAt 0))

theorem witness_TaskBinding :
    let b : Nat := 2 ^ 25 + 2 ^ 23 + 3 * 2 ^ 16 + 2 * 2 ^ 12 + 77
    let s := at0 (gset [(1, 4), (2, BitVec.ofNat 64 b), (5, 32), (6, 0x4000)])
    let arg (v why fn : Nat) : Word := BitVec.ofNat 64 (v * 2 ^ 32 + why * 256 + fn)
    let traps (i : Instr) (v : Word) : Bool := goes (exec i s) fun t => t.me.trapcause == 9 && t.me.traparg == v
    bindingOk b = true ∧ (s.slotAt 0 4).status = .free ∧ tget none (s.coreAt 0).pend (bindSource (BitVec.ofNat 26 b)) = none ∧
    goes (exec (.tbind 1 2) s) (fun t => t.slotAt 0 4 == { Slot.init with status := .bound, bind := BitVec.ofNat 26 b } && t.me.pc == 1) = true ∧
    goes (exec (.tbind 1 2) (s.setSlot 0 4 { sl0 with lsup := true })) (fun t => t.slotAt 0 4 == { sl0 with bind := BitVec.ofNat 26 b }) = true ∧
    goes (exec (.tbind 0 2) s) (fun t => t.me.bind == BitVec.ofNat 26 b && t.me.status == .runnable) = true ∧
    traps (.tbind 5 2) (arg 32 1 9) = true ∧ traps (.tunb 5) (arg 32 1 10) = true ∧ traps (.tprio 5 2) (arg 32 1 11) = true ∧
    traps (.tbind 5 0) (arg 32 1 9) = true ∧ traps (.tbind 1 0) (arg 0 2 9) = true ∧ traps (.spawn 6 1) (arg 0x4000 2 8) = true := by decide +kernel

theorem witness_BarcOperand :
    let s := at0 (gset [(7, 0x10000)])
    goes (exec (.barc .core 3 7) s) (fun t => t.me.trapcause == 9 && t.me.traparg == 0x000100000000040E) = true ∧
    goes (exec (.barc .core 3 7) (at0 (gset [(7, 0xFFFF)]))) (fun t => t.agenda == [.barcArrival 0 .core 3 0xFFFF]) = true := by
  decide +kernel

theorem witness_SlotControl :
    let s := at0 (gset [(1, 4)])
    let spawnB : BitVec 26 := BitVec.ofNat 26 (3 * 2 ^ 23 + 7 * 2 ^ 12 + 77)
    let at4 (x : Slot) : State := s.setSlot 0 4 x
    goes (exec .yield { s with tick := 9 }) (fun t => t.me.ready == 9 && t.me.issues == 0 && t.me.pc == 1) = true ∧
    goes (exec (.tprio 1 2) (at4 { Slot.init with status := .waiting })) (fun t => (t.slotAt 0 4).prio == 2) = true ∧
    goes (exec (.tprio 1 2) (at4 { Slot.init with status := .bound, bind := spawnB })) (fun t =>
      (t.slotAt 0 4).bind == BitVec.ofNat 26 (2 * 2 ^ 23 + 7 * 2 ^ 12 + 77)) = true ∧
    goes (exec (.tprio 0 2) s) (fun t => t.me.prio == 2) = true ∧
    goes (exec (.tunb 1) (at4 { Slot.init with status := .bound, bind := spawnB })) (fun t => (t.slotAt 0 4) == Slot.init) = true ∧
    goes (exec (.tunb 1) (at4 { sl0 with bind := spawnB })) (fun t => (t.slotAt 0 4) == sl0) = true ∧
    goes (exec .tret (at0 { gset [(1, 4)] with bind := BitVec.ofNat 26 (2 ^ 25 + 7 * 2 ^ 12) })) (fun t => t.me.status == .free && t.me.bind == 0) = true ∧
    goes (exec .tret (at0 { gset [(1, 4)] with bind := spawnB, tv := true })) (fun t => t.me.status == .bound && t.me.bind == spawnB && !t.me.tv &&
      t.me.readG 1 == 4) = true := by decide +kernel

theorem witness_Spawn :
    let s := at0 (gset [(1, 0x204D), (2, 55)])
    let b : BitVec 26 := BitVec.ofNat 26 (3 * 2 ^ 23 + 7 * 2 ^ 12 + 77)
    let full : State := withCore (gset [(1, 0x204D)]) fun k => { k with slots := (List.range 32).map (·, gset [(1, 0x204D)]) }
    (s.coreAt 0).spawnSlot 77 = some 1 ∧ (s.slotAt 0 1).status = .free ∧
    goes (exec (.spawn 1 2) s) (fun t => (t.slotAt 0 1).status == .runnable && (t.slotAt 0 1).pc == 77 && (t.slotAt 0 1).readG 1 == 55 &&
      (t.slotAt 0 1).prio == 2 && !(t.slotAt 0 1).sup && t.me.pc == 1) = true ∧
    goes (exec (.spawn 1 2) (s.setSlot 0 9 { Slot.init with status := .bound, bind := b })) (fun t => (t.slotAt 0 9).status == .runnable &&
      (t.slotAt 0 9).prio == 3 && (t.slotAt 0 1).status == .free) = true ∧
    (full.coreAt 0).spawnSlot 77 = none ∧
    goes (exec (.spawn 1 2) full) (fun t => t.me.status == .waiting && t.me.wait == some .again && t.edges.map Edge.kind == [.spawn]) = true := by
  decide +kernel

theorem witness_Delivery :
    let b : BitVec 26 := BitVec.ofNat 26 (1 * 2 ^ 23 + 3 * 2 ^ 16 + 2 * 2 ^ 12 + 77)
    let s := (withCore sl0 fun k => { k with pend := [(259, some ⟨2, 9⟩)], classq := [(3, [⟨6⟩, ⟨7⟩])] }).setSlot 0 4
      { Slot.init with status := .bound, bind := b, lsup := true }
    tget none (s.coreAt 0).pend (sourceKey 2 3) = some ⟨2, 9⟩ ∧ (s.coreAt 0).boundTo 259 = some 4 ∧ (s.coreAt 0).stop = .none ∧
    (s.deliver 0 259).2 = some 4 ∧ ((s.deliver 0 259).1.slotAt 0 4).readG 1 = 0x0000000900022003 ∧
    ((s.deliver 0 259).1.slotAt 0 4).pc = 77 ∧ ((s.deliver 0 259).1.slotAt 0 4).sup = true ∧
    goes (exec (.cmsk 3) s) (fun t => (t.coreAt 0).cmask == 8) = true ∧
    goes (exec (.cumsk 3) (s.setCore 0 { s.coreAt 0 with cmask := 0xF })) (fun t => (t.coreAt 0).cmask == 7 && t.agenda == [.packetDelivery 0 3]) = true ∧
    goes (exec (.packetDelivery 0 3) s) (fun t => (t.coreAt 0).classQueue 3 == [⟨7⟩] && (t.slotAt 0 4).readG 1 == 0x0000000600012003 &&
      (t.slotAt 0 4).pc == 77) = true := by decide +kernel

/-- Cores 0 and 5 in one group. -/
def barS (sl : Slot) (x : Barrier) : State :=
  let g : Group := ⟨1, false, 0, [0, 5], [], [], true, false, false⟩
  (withCore sl fun k => { k with group := some 0 }).setGroup 0 (g.setBarrier .clus 0 3 x)

theorem witness_Barriers :
    let x : Barrier := ⟨2, 0, 7, false, []⟩
    let held : Slot := { gset [(4, 7)] with hold := .bara 6 }
    (barS sl0 x).coreAt 0 = { (barS sl0 x).coreAt 0 with group := some 0 } ∧
    ((barS sl0 x).groupAt 0).barrierAt .clus 0 3 = x ∧ ((barS sl0 x).groupAt 0).barrierAt .clus 5 3 = x ∧
    goes (exec (.bara 6 .clus 3) (barS sl0 x)) (fun t => t.me.hold == .bara 6 && t.agenda == [.baraTokenCount 0 (some 0) .clus 3]) = true ∧
    goes (exec (.baraTokenCount 0 (some 0) .clus 3) (barS held x)) (fun t => t.me.readG 6 == 7 && t.me.pc == 1 &&
      ((t.groupAt 0).barrierAt .clus 0 3).tokens == 1) = true ∧
    goes (exec (.baraTokenCount 0 (some 0) .clus 3) (barS held { x with tokens := 1 })) (fun t => t.me.readG 6 == 7 &&
      ((t.groupAt 0).barrierAt .clus 0 3).tokens == 0 && ((t.groupAt 0).barrierAt .clus 0 3).gen == 8 &&
      t.agenda == [.barrierReleaseArrival 0 .clus 3 8 false, .barrierReleaseArrival 5 .clus 3 8 false]) = true ∧
    goes (exec (.baraTokenCount 0 (some 0) .clus 3) (barS held { x with arcs := 0 })) (fun t => t.me.trapcause == 9 &&
      t.me.traparg == 0x000000330000030C) = true ∧
    goes (exec (.barw .clus 3 4) (barS (gset [(4, 7)]) x)) (fun t => t.me.pc == 1) = true ∧
    goes (exec (.barw .clus 3 0) (barS sl0 x)) (fun t => t.me.status == .waiting && t.me.wait == some (.barw .clus 3 0)) = true ∧
    goes (exec (.barcArrival 0 .clus 3 1) (barS sl0 { x with tokens := 1 })) (fun t => ((t.groupAt 0).barrierAt .clus 0 3).gen == 8 &&
      ((t.groupAt 0).barrierAt .clus 0 3).arcs == 1) = true ∧
    goes (exec (.barrierReleaseArrival 0 .clus 3 8 false) (barS { sl0 with status := .waiting, wait := some (.barw .clus 3 7) } x)) (fun t =>
      t.me.status == .runnable && t.me.pc == 1 && (t.coreAt 0).genSeen .clus 3 == 8) = true := by decide +kernel

/-- Slot 0 with handle 2 on network 3. -/
def netS (sl : Slot) (n : Net) : State :=
  (withCore sl fun k => { k with bnh := k.bnh.set! 2 0x103 }).setNet 3 n

theorem witness_Networks :
    let n := Net.init
    let shut := { n with state := .closed, toggles := 5, exits := n.exits.set! 4 9, lost := 2 }
    (netS sl0 n).tenantOf 0 = some 0 ∧ ((netS sl0 n).coreAt 0).bnh[2] = 0x103 ∧
    goes (exec (.tkn 6 2) (netS sl0 n)) (fun t => t.me.tkns == [(0, 6)] && t.me.pc == 1 &&
      (t.netAt 3).tokens == [⟨0, 0, 0, 0, 0, 0⟩]) = true ∧
    goes (exec (.tkn 6 2) (netS sl0 { n with state := .draining })) (fun t => t.me.status == .waiting && t.me.wait == some (.tkn 3 2 6)) = true ∧
    goes (exec (.tkn 6 2) (netS sl0 { n with exh := true })) (fun t => t.me.trapcause == 11 && t.me.traparg == 0x20211) = true ∧
    goes (exec (.bndrn 2) (netS sl0 shut)) (fun t => t.me.pc == 1) = true ∧
    goes (exec (.bndrn 2) (netS sl0 { n with tokens := [⟨1, 0, 0, 5, 0, 0⟩] })) (fun t => t.me.hold == .drain 3 && (t.netAt 3).state == .draining) = true ∧
    goes (exec (.bndrn 2) (netS sl0 n)) (fun t => (t.netAt 3).state == .closed && t.me.pc == 1) = true ∧
    goes (exec (.bnclr 2) (netS sl0 shut)) (fun t => (t.netAt 3) == n && t.me.pc == 1) = true := by decide +kernel

/-- Networks: a handle without V, another owner, a network that is not closed, an address off 16 bytes, a reserved bit
of an image. -/
theorem witness_NetworkFaults :
    let shut := { Net.init with state := .closed }
    let sl := { sl0 with a := (sl0.a.set! 3 8192).set! 4 8196 }
    let s (n : Net) : State := { (netS sl n).setCluster 0 { Cluster.init with ptroot := 1, tlb := [⟨0, 0, 2, 0xF⟩] } with
      mem := [(8303, 0xFF)] }
    let traps (i : Instr) (n : Net) (h why fn : Nat) : Bool := goes (exec i (s n)) fun t => t.me.trapcause == 11 &&
      t.me.traparg == BitVec.ofNat 64 (h * 2 ^ 16 + why * 256 + fn)
    ((s shut).quiet 0 0 = true ∧ ((s shut).bulkRead 0 8192 112).toOption.isSome = true) ∧
    traps (.tkn 6 5) shut 5 1 0x11 = true ∧ traps (.bndrn 5) shut 5 1 0x12 = true ∧
    traps (.bnclr 2) { shut with owner := some 4 } 2 3 0x15 = true ∧ traps (.bnsav 2 3) Net.init 2 4 0x13 = true ∧
    traps (.bnclr 2) Net.init 2 4 0x15 = true ∧ traps (.bnload 2 4) shut 2 6 0x14 = true ∧
    traps (.bnsav 2 4) shut 2 6 0x13 = true ∧ traps (.bnload 2 3) shut 2 5 0x14 = true := by decide +kernel

/-- A closed network is saved at a3 = 8192 and loaded again (BNSAV, BNLOAD). -/
theorem witness_NetworkImage :
    let shut := { Net.init with state := .closed, toggles := 5, exits := Net.init.exits.set! 4 9, lost := 2 }
    let sl := { sl0 with a := sl0.a.set! 3 8192 }
    let s := (netS sl shut).setCluster 0 { Cluster.init with ptroot := 1, tlb := [⟨0, 0, 2, 0xF⟩] }
    let saved := s.writeMem 8192 shut.image
    s.bulkFault 0 (.store []) 8192 7 16 = none ∧ s.bulkFault 0 .load 8192 7 16 = none ∧ s.quiet 0 0 = true ∧
    (s.payMore 0 (.store []) 8192 112 64 0).2 = requests 112 ∧ (s.payMore 0 .load 8192 112 16 0).2 = requests 112 ∧
    goes (exec (.bnsav 2 3) s) (fun t => t.me.pc == 1 && t.mem == saved.mem) = true ∧
    (shut.load (saved.readMem 8192 112)).isSome = true ∧
    goes (exec (.bnload 2 3) (saved.setNet 3 { Net.init with state := .closed })) (fun t => t.me.pc == 1 &&
      (t.netAt 3).toggles == 5 && (t.netAt 3).exits[4] == 9 && (t.netAt 3).state == .opened) = true := by decide +kernel

theorem witness_NetworkTokens :
    let tok : NetToken := ⟨7, 4, 0, 0, 0, 0⟩
    let n := { Net.init with tokens := [tok] }
    let out := { Net.init with tokens := [{ tok with layer := 10 }], exits := Net.init.exits.set! 4 3 }
    let now (sl : Slot) (n : Net) : State := { netS sl n with tick := 5 }
    let draining := (now { sl0 with tkns := [(7, 6)] } { out with state := .draining }).setSlot 0 9 { sl0 with hold := .drain 3 }
    balancerOf 0 4 = 2 ∧ layerMask 0 = 1 ∧
    goes (exec (.balancerPass 3 7) (now sl0 n)) (fun t => (t.netAt 3).tokens == [{ tok with layer := 1, since := 5 }] &&
      (t.netAt 3).toggles == 4) = true ∧
    goes (exec (.balancerPass 3 7) (now sl0 { n with toggles := 4 })) (fun t =>
      (t.netAt 3).tokens == [{ tok with wire := 5, layer := 1, since := 5 }] && (t.netAt 3).toggles == 0) = true ∧
    goes (exec (.tknTokenExit 3 7) (now { sl0 with tkns := [(7, 6)] } out)) (fun t => t.me.readG 6 == 52 && t.me.pc == 0 &&
      t.me.tkns == [] && (t.netAt 3).tokens == [] && (t.netAt 3).exits[4] == 4 && (t.netAt 3).state == .opened) = true ∧
    goes (exec (.tknTokenExit 3 7) draining) (fun t => t.me.readG 6 == 52 && (t.netAt 3).state == .closed &&
      (t.slotAt 0 9).hold == .none && (t.slotAt 0 9).pc == 1) = true := by decide +kernel

/-! ## Global memory -/

/-- Cluster 0 with a translation of every address to itself, for tenant 0. -/
def flat : Cluster := { Cluster.init with ptroot := 1, tlb := [⟨0, 0, 2, 0xF⟩] }

/-- Slot 0 of core 0 in cluster 0 so translated, bytes 0x88 to 0x11 at address 4096. -/
def memS (sl : Slot) : State := { (at0 sl).setCluster 0 flat with mem := tputs 0 [] 4096 (bytesOf 8 0x1122334455667788) }

/-- Slot 0 with a1 = 4100 and general registers set. -/
def aset1 (l : List (Nat × Word)) : Slot := { gset l with a := sl0.a.set! 1 4100 }

theorem witness_AccessesStart :
    let s := memS (aset1 [(4, 0xABCD), (5, 9)])
    let starts (i : Instr) (va : Addr) (n : Nat) (code : BitVec 3) (op : AccOp) : Bool := goes (exec i s) fun t =>
      t.accs.map (fun a => (a.va, a.size, a.code, a.op, a.stage)) == [(va, n, code, op, .lookup)] && t.mem == s.mem
    s.belowLimit 0 0 = true ∧ starts (.gldBS 3 1 .none 0x7FF) 4099 1 0 .load = true ∧
    starts (.gldHZ 3 1 (.acq .die) 1) 4102 2 0 .load = true ∧ starts (.gldD 3 1 .none 0) 4100 8 0 .load = false ∧
    starts (.gldWZ 3 1 .none 0x7FF) 4096 4 0 .load = true ∧
    starts (.gstW 4 1 .none 1) 4104 4 1 (.store [0xCD, 0xAB, 0, 0]) = true ∧
    starts (.red .add false false false .none 5 1 ⟨0, false⟩) 4100 4 2 (.red .add false false 9) = true ∧
    starts (.amo .cas false .none 4 1 ⟨0, false⟩) 4100 4 3 (.amo .cas 0xABCD 9) = true ∧
    goes (exec (.gldBS 3 1 .none 0x7FF) s) (fun t => t.me.hold == .access s.nextAcc && t.me.pc == 0) = true ∧
    goes (exec (.gstW 4 1 .none 1) s) (fun t => t.me.hold == .none && t.me.pc == 1) = true ∧
    goes (exec (.gstW 4 1 .none 1) (s.setCluster 0 Cluster.init)) (fun t => t.me.hold == .access s.nextAcc) = true ∧
    goes (exec (.gldBS 3 1 .none 0x7FF) (s.setCore 0 { s.coreAt 0 with utlb := flat.tlb })) (fun t => t.me.pc == 1 &&
      t.me.loads == [⟨0, 3, false⟩] && t.accs.map Acc.stage == [.translated]) = true := by decide +kernel

theorem witness_AccessChecks :
    let s := memS (aset1 [])
    let a := { agentAcc 0 0 .load 64 8 .none with holder := s.holderOf 0 0 }
    let full := { s with accs := List.replicate 16 a }
    goes (exec (.gldD 3 1 .none 0) s) (fun t => t.me.trapcause == 12 && t.me.traparg == 0xE0070000 && t.me.trapva == 4100) = true ∧
    goes (exec (.gstD 3 1 .none 0) s) (fun t => t.me.trapcause == 12 && t.me.traparg == 0xE0070001) = true ∧
    goes (exec (.gstB 3 1 .none 0) ({ s with accs := [{ a with id := 4 }] }.setSlot 0 0 { aset1 [] with fenceRel := some 5 }))
      (fun t => t.me.hold == .rel && t.me.pc == 0) = true ∧
    goes (exec (.gstB 3 1 .none 0) ({ s with accs := [{ a with id := 5 }] }.setSlot 0 0 { aset1 [] with fenceRel := some 5 }))
      (fun t => t.accs.length == 2) = true ∧
    { s with accs := [a] }.quiet 0 0 = false ∧
    goes (exec (.amo .add false (.acqRel .sys) 4 1 ⟨0, false⟩) { s with accs := [a] }) (fun t => t.me.hold == .release &&
      t.me.pc == 0) = true ∧
    full.belowLimit 0 0 = false ∧ { s with accs := List.replicate 15 a }.belowLimit 0 0 = true ∧
    goes (exec (.gldBZ 3 1 .none 0) full) (fun t => t.me.hold == .limit && t.me.pc == 0) = true ∧
    goes (exec (.gldBZ 3 1 .none 0) (s.setSlot 0 0 { aset1 [] with loads := [⟨0, 3, true⟩] })) (fun t =>
      t.me.hold == .acquire && t.me.pc == 0) = true := by decide +kernel

/-- A load of a task of core 0 at an address, with its number. -/
def loadAt (va : Addr) (n : Nat) (st : AccStage) : Acc :=
  { agentAcc 0 0 .load va n (.reg 0 3 true) with id := 7, holder := .task 0 0 0, code := 0, stage := st }

theorem witness_Translation :
    let s := { memS sl0 with accs := [loadAt 4096 1 .lookup] }
    let bare := s.setCluster 0 { Cluster.init with ptroot := 1 }
    let off := s.setCluster 0 Cluster.init
    let noRead := (s.setCluster 0 { Cluster.init with ptroot := 1 }).setCore 0 { s.coreAt 0 with utlb := [⟨0, 0, 2, 0xB⟩] }
    goes (exec (.clusterTlbLookup 7) s) (fun t => t.accs.map (fun a => (a.stage, a.pa)) == [(.translated, 4096)]) = true ∧
    goes (exec (.clusterTlbLookup 7) bare) (fun t => t.accs.map Acc.stage == [.miss] &&
      (t.clusterAt 0).misses == [⟨0, 0, false⟩]) = true ∧
    goes (exec (.clusterTlbLookup 7) off) (fun t => t.accs == [] && t.me.trapcause == 12 && t.me.traparg == 0x80010000 &&
      t.me.trapva == 4096) = true ∧
    goes (exec (.clusterTlbLookup 7) noRead) (fun t => t.me.trapcause == 12 && t.me.traparg == 0x40020000) = true ∧
    leafFault 1 0 0xB 2 .load 4096 1 = some 2 ∧ leafFault 1 0 0x7 2 (.store []) 4096 1 = some 3 ∧
    leafFault 1 0 (0xF ||| 1 <<< 58) 2 .load 4096 1 = some 4 ∧ leafFault 1 0 0xF 3 .load 4096 1 = some 5 ∧
    leafFault 1 0 0xF 2 .load 4096 1 = none ∧ leafFault 1 0 (0x4F ||| 1 <<< 52) 2 (.amo .add 1 0) 4096 4 = some 8 ∧
    leafFault 1 0 0xB 2 (.amo .add 1 0) 4096 4 = some 2 ∧ leafFault 1 0 0x7 2 (.amo .add 1 0) 4096 4 = some 3 ∧
    leafFault 1 0 0x7 2 (.red .add false false 1) 4096 4 = some 3 ∧
    leafFault 1 0 0xB 2 (.red .add false false 1) 4096 4 = none := by decide +kernel

/-- A tree: root node at 2^16, nodes of levels 3 to 1 at 2^17, 2^18 and 2^19, and a level-0 leaf of page 0x8000. -/
def walkS : State :=
  let e (n : Nat) : List Byte := bytesOf 8 n
  let m := tputs 0 (tputs 0 (tputs 0 (tputs 0 (tputs 0 [] 0x10000 (e 0x20001)) 0x20000 (e 0x40001)) 0x40000 (e 0x80001)) 0x80000 (e 0x100001)) 0x100000 (e 0x800F)
  let c : Cluster := { Cluster.init with ptroot := 0x10001, misses := [⟨0, 0, true⟩] }
  let s := ({ (at0 sl0).setCluster 0 c with mem := m, accs := [loadAt 64 8 .miss] }).setDie 0 { (State.reset.dieAt 0) with walks := [⟨0, 0, 0, false⟩] }
  s

theorem witness_WalkCompletes :
    (walkS.walk 0 none 0x10001 0 0).1 = .leaf 0 0x800F ∧ leafFault 0x10001 0 0x800F 0 .load 64 8 = none ∧
    goes (exec (.walkComplete 0 ⟨0, none⟩) walkS) (fun t => t.accs.map (fun a => (a.stage, a.pa)) == [(.translated, 0x8040)] &&
      (t.clusterAt 0).misses == [] && (t.dieAt 0).walks == [] && (t.clusterAt 0).tlb.map TlbEntry.pte == [0x800F]) = true ∧
    (walkS.payAll 0 16 (walkS.walkRequests 0 (walkS.firstNode 0 ⟨0, 0, 0, false⟩) (walkS.walk 0 none 0x10001 0 0).2)).isSome = true ∧
    (walkS.walkWhole none 0x10001 0 0).1 = .leaf 0 0x800F ∧
    goes (exec (.walkComplete 0 ⟨0, none⟩) (walkS.setDie 0 { walkS.dieAt 0 with walks := [⟨0, 0, 0, true⟩], nodes := [] })) (fun t =>
      t.accs.map (fun a => (a.stage, a.pa)) == [(.translated, 0x8040)]) = true := by decide +kernel

/-- Translation: a walk whose root is on another die waits for the bucket of the link. -/
theorem witness_WalkWaits :
    let s := walkS.setCluster 0 { walkS.clusterAt 0 with ptroot := BitVec.ofNat 64 (2 ^ 50 + 0x10001) }
    let none_ := { s with buckets := [(6144 * 32, 131072)] }
    let pays (s : State) : Option State := s.payAll 0 16 (s.walkRequests 0 (s.firstNode 0 ⟨0, 0, 0, false⟩)
      (s.walk 0 none (BitVec.ofNat 64 (2 ^ 50 + 0x10001)) 0 0).2)
    (pays s).isSome = true ∧ pays none_ = none ∧
    goes (exec (.walkComplete 0 ⟨0, none⟩) none_) (fun t => t == none_) = true := by decide +kernel

theorem witness_PageWalkStart :
    let s := (up.setCluster 1 { Cluster.init with misses := [⟨5, 9, false⟩] })
    s.walkTurn 0 = some (1, ⟨5, 9, false⟩) ∧
    goes (exec (.pageWalkStart 0) s) (fun t => (t.dieAt 0).walks == [⟨1, 5, 9, false⟩]) = true ∧
    goes (exec (.faultAnswer 0) (({ memS sl0 with accs := [loadAt 64 8 .faulted] }).setCluster 0 { flat with answers := ⟨0, 1, [0]⟩ })) (fun t =>
      t.accs.map Acc.stage == [.lookup] && (t.clusterAt 0).answers.elems == []) = true := by decide +kernel

theorem witness_HomeSlice :
    let a := { loadAt 4096 4 .translated with pa := 4096 }
    let s (op : AccOp) : State := { memS sl0 with accs := [{ a with op := op }] }
    let leaves (op : AccOp) (n : Nat) : Bool := goes (exec (.homeSliceAccess 7 false) (s op)) fun t =>
      t.readMem 4096 8 == bytesOf 4 n ++ bytesOf 4 0x11223344 &&
      t.accAt 7 == some { a with op := op, stage := .performed, data := bytesOf 4 0x55667788 }
    (s .load).mayPerform a = true ∧ (s .load).claimMet a = none ∧ (s .load).outOfService a = false ∧
    leaves .load 0x55667788 = true ∧ leaves (.store (bytesOf 4 5)) 5 = true ∧ leaves (.amo .swap 6 0) 6 = true ∧
    leaves (.amo .add 0xFFFFFFFF 0) 0x55667787 = true ∧ leaves (.amo .cas 0x55667788 4) 4 = true ∧
    leaves (.amo .cas 1 4) 0x55667788 = true ∧ leaves (.red .add false false 1) 0x55667789 = true ∧
    leaves (.red .min false false 3) 3 = true ∧ leaves (.red .max false false 3) 0x55667788 = true ∧
    leaves (.red .min true false 0xFFFFFFFF) 0xFFFFFFFF = true ∧ leaves (.red .max true false 0xFFFFFFFF) 0x55667788 = true ∧ leaves (.red .and false false 0xFF) 0x88 = true ∧
    leaves (.red .or false false 0xFF) 0x556677FF = true ∧ leaves (.red .xor false false 0x88) 0x55667700 = true := by decide +kernel

/-- HomeSlice: no router merges a load. -/
theorem witness_HomeSlice_alone (s : State) (b : Acc) : s.mergeable { loadAt 4096 4 .translated with pa := 4096 } b = false := rfl

theorem witness_AccessReply :
    let a := { loadAt 4096 1 .performed with data := [0x88] }
    let s := { memS { sl0 with hold := .access 7 } with accs := [a] }
    goes (exec (.accessReply 7) s) (fun t => t.accs == [] && t.me.readG 3 == 0xFFFFFFFFFFFFFF88 && t.me.pc == 1) = true ∧
    goes (exec (.accessReply 7) { s with accs := [{ a with dest := .reg 0 3 false }] }) (fun t => t.me.readG 3 == 0x88) = true ∧
    goes (exec (.accessReply 7) (s.setSlot 0 0 { sl0 with loads := [⟨7, 3, false⟩] })) (fun t => t.me.readG 3 == 0xFFFFFFFFFFFFFF88 &&
      t.me.pc == 0 && t.me.loads == []) = true := by decide +kernel

theorem witness_Fences :
    let s := memS sl0
    let a := loadAt 64 8 .translated
    let busy : State := { s with accs := [a] }
    let rel (h : Hold) (l : List Acc) : State := { memS { sl0 with hold := h } with accs := l }
    busy.quiet 0 0 = false ∧ s.quiet 0 0 = true ∧
    goes (exec (.fence .full .sys) s) (fun t => t.me.pc == 1) = true ∧
    goes (exec (.fence .full .sys) busy) (fun t => t.me.hold == .release && t.me.pc == 0) = true ∧
    goes (exec (.fence .rel .sys) busy) (fun t => t.me.fenceRel == some busy.nextAcc && t.me.pc == 1) = true ∧
    goes (exec (.fence .acq .sys) busy) (fun t => t.me.pc == 1) = true ∧
    goes (exec (.fence .acq .sys) (s.setSlot 0 0 { sl0 with loads := [⟨7, 3, false⟩] })) (fun t => t.me.hold == .acquire &&
      t.me.pc == 0) = true ∧
    goes (exec (.releasePerformed 0 0) (rel .release [])) (fun t => t.me.hold == .none) = true ∧
    goes (exec (.releasePerformed 0 0) (rel .release [a])) (fun t => t.me.hold == .release) = true ∧
    (let behind (n : Nat) : State := (rel .rel [a]).setSlot 0 0 { sl0 with hold := .rel, fenceRel := some n }
     goes (exec (.releasePerformed 0 0) (behind 7)) (fun t => t.me.hold == .none) = true ∧
     goes (exec (.releasePerformed 0 0) (behind 8)) (fun t => t.me.hold == .rel) = true) ∧
    (rel .limit [a]).belowLimit 0 0 = true ∧
    goes (exec (.releasePerformed 0 0) (rel .limit [a])) (fun t => t.me.hold == .none) = true ∧
    goes (exec (.wfill 1 3) busy) (fun t => t.me.hold == .release && t.me.pc == 0) = true ∧
    goes (exec .tret busy) (fun t => t.me.hold == .release) = true := by decide +kernel

theorem witness_Tlbinv :
    let s := (memS (aset1 [])).setCore 5 { Core.init with utlb := [⟨0, 0, 0, 0xF⟩, ⟨1, 0, 0, 0xF⟩] }
    let busy := { s with accs := [loadAt 64 8 .translated] }
    goes (exec (.tlbinv 1 .page) s) (fun t => (t.clusterAt 0).tlb == [] && (t.coreAt 5).utlb == [⟨1, 0, 0, 0xF⟩] && t.me.pc == 1) = true ∧
    goes (exec (.tlbinv 1 .all) (s.setCluster 1 { flat with tlb := [⟨0, 99, 0, 0xF⟩] })) (fun t => (t.clusterAt 1).tlb == []) = true ∧
    busy.quiet 0 0 = false ∧ s.inFlight 0 = [] := by decide +kernel

theorem witness_Backing :
    let x := { w8 with mode := .backed, rlog := 2, rhead := 0, rfill := 1 }
    let s := (memS sl0).setWin 0 1 x
    let land : Acc := { agentAcc 0 0 .load 0 8 (.refill 1 0) with id := 7, stage := .performed, data := bytesOf 8 77 }
    let mirC : Core := { (memS sl0).coreAt 0 with egm := Core.init.egm.set 0 ⟨1, true, false, 1⟩, wstore := [(0, 5)] }
    let mir := ((memS sl0).setCore 0 mirC).setWin 0 1 { w8 with mode := .egress, fill := 1, mirrors := [(0, 9)] }
    let behind := (memS (gset [(6, 77)])).setWin 0 1 x
    let full := { behind with cores := [] }.setWin 0 1 { x with rfill := 0, fill := 2 }
    let spills (s : State) (i : Instr) (f : BitVec 32) (r : BitVec 28) : Bool := goes (exec i s) fun t => (t.winAt 0 1).rfill == r &&
      (t.winAt 0 1).fill == f && t.me.pc == 1 && t.me.status == .runnable &&
      (t.accs.map fun a => (a.op, a.va, a.holder)) == [(.store (bytesOf 8 77), x.ringAddr (r.toNat - 1), .agent 0)]
    0 < x.rc ∧ x.ext < x.cap.toNat ∧ s.spillOpen 0 1 0 = false ∧ x.ringAddr 0 = 0 ∧
    goes (exec (.refillReadStart 0 1) s) (fun t => t.accs.map (fun a => (a.op, a.size, a.dest)) == [(.load, 8, .refill 1 0)] &&
      (t.winAt 0 1).refills == [(0, 0)]) = true ∧
    goes (exec (.refillLand 0 1) ({ s with accs := [land] }.setWin 0 1 { x with refills := [(0, 0)] })) (fun t => (t.winAt 0 1).fill == 1 &&
      (t.winAt 0 1).rhead == 1 && tgets 0 (t.coreAt 0).wstore 0 8 == bytesOf 8 77 && t.accs == []) = true ∧
    (mir.coreAt 0).mirrorOf 1 = some ⟨1, true, false, 1⟩ ∧
    goes (exec (.egressMirrorWrite 0 1) mir) (fun t => t.accs.map (fun a => (a.va, a.op, a.site)) ==
      [(0x10040, .store (bytesOf 8 5), 9), (0x10000, .store (bytesOf 8 1), 9)] && (t.winAt 0 1).mirrors == []) = true ∧
    x.fillsStore = false ∧ x.fillsRing = true ∧ spills behind (.wfill 1 6) 0 2 = true ∧
    spills (full.setSlot 0 0 { sl0 with status := .waiting, wait := some (.window false 0 1 (.fill 77) 0 0) })
      (.waitingFillProceeds 0 0) 2 1 = true := by decide +kernel

/-! ## Commands, system registers, images -/

/-- A PKT of class 0 with payload 9 to core 1. -/
def pktX : Wide := 0x81 ||| (1 <<< 32) ||| (9 <<< 64)

theorem witness_CommandIssue :
    let s (x : Wide) (n : Nat) : State := withCore { sl0 with k := sl0.k.set! 2 x } fun k => { k with pktq := List.replicate n (cmd0 pktX) }
    let fails (x : Wide) (p : Port) (why : Nat) : Bool := goes (exec (.iss 2 p) (s x 0)) fun t => t.me.trapcause == 8 &&
      t.me.traparg == BitVec.ofNat 64 (2 * 2 ^ 40 + p.code * 2 ^ 37 + why * 2 ^ 32 + x.toNat % 2 ^ 32) && (t.coreAt 0).seq == 0
    issueFault Core.init 0 true .pkt pktX = none ∧
    goes (exec (.iss 2 .pkt) (s pktX 7)) (fun t => (t.coreAt 0).pktq.length == 8 && (t.coreAt 0).seq == 1 && t.me.pc == 1) = true ∧
    goes (exec (.iss 2 .pkt) (s pktX 8)) (fun t => (t.coreAt 0).pktq.length == 8 && (t.coreAt 0).seq == 0 && t.me.status == .waiting &&
      t.edges.map (fun e => (e.kind, e.win)) == [(.port, 4)]) = true ∧
    fails (pktX ||| 0xE0) .pkt 1 = true ∧ fails 0x47 .bte 1 = true ∧ fails pktX .ring 2 = true ∧
    fails (pktX ||| 0x80000) .pkt 3 = true := by decide +kernel

theorem witness_SystemReads :
    let x : Slot := { gset [(4, 0xFFFFFFFFFFFFFFFF)] with prio := 2, fpstat := 0x21, trapcause := 77, trappc := 5 }
    let s := { withCore x (fun k => { k with seq := 9, tvecEn := true, tvec := 100 }) with tick := 1234 }
    let reads (n : BitVec 10) (v : Word) : Bool := goes (exec (.srd 3 n) s) fun t => t.me.readG 3 == v && t.me.pc == 1
    reads 0x000 0 = true ∧ reads 0x001 0 = true ∧ reads 0x002 9 = true ∧ reads 0x003 1234 = true ∧ reads 0x010 5 = true ∧
    reads 0x011 0x21 = true ∧ reads 0x018 77 = true ∧ reads 0x019 5 = true ∧ reads 0x040 0x1064 = true ∧
    (sysAccess 0x3FF).isNone = true ∧ goes (exec (.srd 3 0x3FF) s) (fun t => t.me.trapcause == 1) = true := by decide +kernel

theorem witness_SystemWrites :
    let x : Slot := gset [(4, 0xFFFFFFFFFFFFFFFF), (5, 0x107), (6, 0x203)]
    let s := withCore x fun k => { k with wdcnt := 99 }
    let writes (i : Instr) (n : Nat) (v : Word) : Bool := goes (exec i s) fun t => t.sysRead 0 0 n 0 true == some v && t.me.pc == 1
    writes (.swr 0x018 4) 0x018 0xFFFFFFFFFFFFFFFF = true ∧ writes (.swr 0x040 4) 0x040 0x1FFF = true ∧
    writes (.swr 0x010 0) 0x010 0 = true ∧ writes (.fpstatWrite 4) 0x011 0x3F = true ∧ writes (.repcWrite 4) 0x012 0x7F = true ∧
    writes (.wdctlWrite 4) 0x0B0 0xFF0000003F = true ∧ goes (exec (.wdctlWrite 4) s) (fun t => (t.coreAt 0).wdcnt == 0) = true ∧
    writes (.trcctlWrite 4) 0x131 0xFC1F = true ∧ writes (.wbkbWrite 1 4) 0x082 0xFFFFFFFFFFFFFFFF = true ∧
    writes (.wbksWrite 1 4) 0x083 0xF800000000000000 = true ∧ writes (.swr 0x050 4) 0x050 0x11F = true ∧
    goes (exec (.wbkbWrite 1 4) (s.setWin 0 1 { w8 with mode := .backed, rfill := 1 })) (fun t => t.me.trapcause == 6 &&
      t.me.traparg == 0x551) = true ∧
    goes (exec (.swr 0x0B4 5) s) (fun t => t.agenda == [.slotResume 0 7]) = true ∧
    goes (exec (.swr 0x0B4 6) s) (fun t => t.agenda == [.slotKill 0 3] && t.me.pc == 1) = true := by decide +kernel

/-- SystemRegisters: a kill that waits holds its writer, until the slot is free; the traps of SWR. -/
theorem witness_SystemWriteStops :
    let s := (withCore (gset [(6, 0x203)]) id).setSlot 0 3 sl0
    let busy := { s with accs := [{ loadAt 64 8 .translated with holder := s.holderOf 0 3 }] }
    let user := at0 { sl0 with sup := false }
    let held (k : Bool) : State := (at0 { sl0 with hold := .kill 3 }).setSlot 0 3 { sl0 with killing := k }
    busy.quiet 0 3 = false ∧
    goes (exec (.swr 0x0B4 6) busy) (fun t => t.agenda == [.slotKill 0 3] && t.me.hold == .kill 3 && t.me.pc == 0) = true ∧
    goes (exec (.releasePerformed 0 0) (held true)) (fun t => t == held true) = true ∧
    goes (exec (.releasePerformed 0 0) (held false)) (fun t => t.me.hold == .none && t.me.pc == 1) = true ∧
    sysAccess 0x001 = some .ro ∧ sysAccess 0x040 = some .sw ∧
    goes (exec (.swr 0x001 4) (at0 sl0)) (fun t => t.me.trapcause == 1) = true ∧
    goes (exec (.swr 0x040 4) user) (fun t => t.me.trapcause == 3) = true ∧
    goes (exec (.wdctlWrite 4) user) (fun t => t.me.trapcause == 3) = true := by decide +kernel

theorem witness_SlotEvents :
    let s (x : Slot) : State := (at0 sl0).setSlot 5 2 x
    let x := { sl0 with status := .trapped, trappc := 33, psup := false, tv := true }
    goes (exec (.slotResume 5 2) (s x)) (fun t => (t.slotAt 5 2).status == .runnable && (t.slotAt 5 2).pc == 33 && !(t.slotAt 5 2).sup &&
      !(t.slotAt 5 2).tv) = true ∧
    goes (exec (.slotResume 5 2) (s sl0)) (fun t => t == s sl0) = true ∧
    goes (exec (.slotKill 5 2) (s x)) (fun t => (t.slotAt 5 2).status == .free && (t.slotAt 5 2).bind == 0) = true ∧
    goes (exec (.slotKill 5 2) (s Slot.init)) (fun t => t == s Slot.init) = true := by decide +kernel

/-- SlotEvents: a kill waits for the accesses of its slot. -/
theorem witness_SlotKillWaits :
    let s : State := { at0 sl0 with accs := [loadAt 64 8 .translated] }
    s.quiet 0 0 = false ∧ goes (exec (.slotKill 0 0) s) (fun t => t.me.killing && t.me.status == .runnable &&
      t.accs == s.accs) = true := by decide +kernel

theorem witness_WindowImages :
    let x := { w8 with fill := 1, esz := 0, cap := 4 }
    let sl := { gset [(4, 0x8000000000000000), (5, 2)] with a := (sl0.a.set! 1 8192).set! 2 8200 }
    let s := ((memS sl).setCore 0 { (memS sl).coreAt 0 with wstore := tputs 0 [] 0 (bytesOf 4 0xCAFE) }).setWin 0 1 x
    let saved : State := match exec (.wsave 1 1) s with | .next t => t | .fault _ => s | .refused _ => s
    (s.translate 0 (.store []) 8192 64).toOption = some 8192 ∧
    (s.payMore 0 (.store []) 8192 68 64 0).2 = requests 68 ∧ (s.payMore 0 .load 8192 68 16 0).2 = requests 68 ∧
    (saved.winAt 0 1 = { x with held := true } ∧ saved.me.pc = 1 ∧ saved.readMem 8192 68 = s.windowImage 0 1) ∧
    goes (exec (.wrest 1 1) (saved.setWin 0 1 { x with fill := 0, base := 2 })) (fun t => (t.winAt 0 1).fill == 1 && !(t.winAt 0 1).held &&
      (t.winAt 0 1).base == 2 && tgets 0 (t.coreAt 0).wstore 64 4 == bytesOf 4 0xCAFE) = true ∧
    goes (exec (.wsave 1 2) s) (fun t => t.me.trapcause == 12) = true ∧
    goes (exec (.wsave 2 1) s) (fun t => t.me.trapcause == 6) = true ∧
    goes (exec (.wsave 1 1) (s.setWin 0 1 { x with mode := .egress })) (fun t => t.me.trapcause == 6) = true ∧
    goes (exec (.wpois 1 5) s) (fun t => (t.winAt 0 1).pv && (t.winAt 0 1).pois == 2 && (t.winAt 0 1).wpsClass == 8) = true ∧
    goes (exec (.wpois 1 4) (s.setWin 0 1 { x with pv := true })) (fun t => !(t.winAt 0 1).pv) = true := by decide +kernel

theorem witness_Restore :
    let x := { w8 with fill := 3, head := 2, hslot := 1, esz := 0, cap := 4, prod := [(5, 2)] }
    let s := (at0 sl0).setWin 0 1 x
    x.restore 0 (s.windowImage 0 1) = { x with hslot := 0 } ∧ imageOk (s.windowImage 0 1) = true ∧ imageExt (s.windowImage 0 1) = 1 := by
  decide +kernel

/-- An address below 2^36 stands for itself where cluster 0 maps every address to itself. -/
theorem translate_flat (s : State) (h1 : (s.clusterAt 0).ptroot = flat.ptroot ∧ (s.clusterAt 0).tlb = flat.tlb) (h2 : (s.coreAt 0).utlb = []) (h3 : s.pkg = 0)
    (h4 : (s.dieAt 0).fenced = false) (h5 : s.spoiled = []) (op : AccOp)
    (hop : op = .load ∨ op = .store []) (va n : Nat) (h : va + n ≤ 2 ^ 36) : s.translate 0 op va n = .ok va := by
  have hl : s.leafAt 0 va = .ok (0xF, 2) := by
    have hv : va / 2 ^ 41 = 0 := Nat.div_eq_of_lt (by omega)
    have hr : rootV flat.ptroot = true := by decide
    have hf : flat.tlb.find? (fun e => e.covers (rootAsid flat.ptroot) va) = some ⟨0, 0, 2, 0xF⟩ := by
      have he : TlbEntry.covers ⟨0, 0, 2, 0xF⟩ (rootAsid flat.ptroot) va = true := by
        show ((0 : BitVec 12) == rootAsid flat.ptroot && (0 : Nat) == va / 2 ^ 41) = true
        rw [hv]
        decide
      simp [flat] at he ⊢
      exact he
    rw [State.leafAt, show clusterOf 0 = 0 from rfl, h2, List.nil_append]
    simp only [h1.1, h1.2, hr, hf, Bool.not_true, Bool.false_eq_true, if_false]
    rfl
  have hf : leafFault flat.ptroot 0 0xF 2 op va n = none := by
    have hp : paOk (pteTier 0xF) (ptePa 0xF + va % 2 ^ pageBits 2) n = true := by
      have : va % 2 ^ 41 = va := Nat.mod_eq_of_lt (by omega)
      have h0 : ptePa 0xF = 0 := by decide
      rw [show pageBits 2 = 41 from rfl, this, h0, show pteTier 0xF = 0 by decide, paOk]
      have : va % 2 ^ 50 = va := Nat.mod_eq_of_lt (by omega)
      simp only [Nat.zero_add, this]
      simp [tierLimit]
      omega
    have hb : badPte 0 0xF 2 = false := by decide
    have ht : pteTen 0xF = rootTen flat.ptroot := by decide
    have hr : pteR 0xF = true := by decide
    have hw : pteW 0xF = true := by decide
    rcases hop with rfl | rfl <;> simp only [leafFault, hb, ht, hp, hr, hw, opAmo, opReads, opWrites, Bool.false_and,
      Bool.not_true, Bool.false_eq_true, if_false, ne_eq, not_true, Bool.and_false]
  rw [State.translate, hl]
  simp only [show clusterOf 0 = 0 from rfl, h1.1, h3, hf]
  have : va % 2 ^ 41 = va := Nat.mod_eq_of_lt (by omega)
  have hd : va / 1125899906842624 = 0 := Nat.div_eq_of_lt (by omega)
  rw [leafPa, show pageBits 2 = 41 from rfl, this, show ptePa 0xF = 0 by decide, memKey, show pteTier 0xF = 0 by decide]
  simp [State.lostMemory, State.spoils, hd, h4, h5]

/-- A transfer of n bytes from 8192 meets no fault there. -/
theorem bulk_flat (s : State) (h1 : (s.clusterAt 0).ptroot = flat.ptroot ∧ (s.clusterAt 0).tlb = flat.tlb) (h2 : (s.coreAt 0).utlb = []) (h3 : s.pkg = 0)
    (h4 : (s.dieAt 0).fenced = false) (h5 : s.spoiled = []) (op : AccOp)
    (hop : op = .load ∨ op = .store []) (n : Nat) (h : n < 2 ^ 32) :
    s.bulkFault 0 op 8192 (chunks n) (lastChunk n) = none := by
  refine s.bulkFault_none 0 op 8192 _ _ fun i m hi hm => ⟨_, translate_flat s h1 h2 h3 h4 h5 op hop _ _ ?_⟩
  have hm : m ≤ 16 := by
    rcases hm with rfl | rfl
    · omega
    · unfold lastChunk
      split <;> omega
  have hi : i < (n + 15) / 16 := hi
  have : ((8192 : Addr) + BitVec.ofNat 80 (16 * i)).toNat ≤ 8192 + 16 * i := by
    rw [BitVec.toNat_add, BitVec.toNat_ofNat]
    exact le_trans (Nat.mod_le _ _) (Nat.add_le_add_left (Nat.mod_le _ _) _)
  omega

/-- Chunk i from 8192 stands at its own address. -/
theorem run_flat (s : State) (h1 : (s.clusterAt 0).ptroot = flat.ptroot ∧ (s.clusterAt 0).tlb = flat.tlb) (h2 : (s.coreAt 0).utlb = []) (h3 : s.pkg = 0)
    (h4 : (s.dieAt 0).fenced = false) (h5 : s.spoiled = []) (i : Nat)
    (h : i < 2 ^ 20) : s.translate 0 .load ((8192 : Addr) + BitVec.ofNat 80 (16 * i)).toNat 16 = .ok (8192 + 16 * i) := by
  have : ((8192 : Addr) + BitVec.ofNat 80 (16 * i)).toNat = 8192 + 16 * i := by
    rw [BitVec.toNat_add, BitVec.toNat_ofNat]
    show (8192 + _) % _ = _
    omega
  rw [this]
  exact translate_flat s h1 h2 h3 h4 h5 _ (.inl rfl) _ _ (by omega)

/-- A transfer whose requests have all gone takes place. -/
theorem paid_all (s : State) (op : AccOp) (va : Addr) (bytes size : Nat) (h : s.me.paid = requests bytes) :
    Paid s (s.setMe { s.me with paid := 0 }) op va bytes size := by
  simp [Paid, State.payMore, h, State.pay]

/-- Slot 0 with 8192 in a1, in a cluster that maps every address to itself; the core as given, and how many requests of
its transfer have gone. -/
def ctxS (st : CoreStop) (mem : List Host.Cell) (paid : Nat := 0) : State :=
  let s := memS { sl0 with a := sl0.a.set! 1 8192, paid := paid }
  { s.setCore 0 { s.coreAt 0 with stop := st } with mem := mem }

theorem ctxS_flat (st : CoreStop) (m : List Host.Cell) :
    (((ctxS st m).clusterAt 0).ptroot = flat.ptroot ∧ ((ctxS st m).clusterAt 0).tlb = flat.tlb) ∧ ((ctxS st m).coreAt 0).utlb = [] ∧ (ctxS st m).pkg = 0 ∧
      ((ctxS st m).dieAt 0).fenced = false ∧ (ctxS st m).spoiled = [] := by
  cases st <;> exact ⟨⟨by rfl, by rfl⟩, by rfl, by rfl, by rfl, by rfl⟩

theorem witness_ContextSave :
    let s := ctxS .none []
    let t := ctxS (.saved (some 0)) [] 3864
    HasNext s ∧ s.me.sup = true ∧ s.quiet 0 0 = true ∧ (s.me.readA 1).toNat % 64 = 0 ∧ (s.coreAt 0).stop = .none ∧
    s.bulkFault 0 (.store []) (s.me.readA 1) (chunks (s.contextImage 0 (some 0)).length)
      (lastChunk (s.contextImage 0 (some 0)).length) = none ∧
    (t.coreAt 0).stop ≠ .none ∧ t.stopDone 0 (some 0) = true ∧
    (∃ s1 u, Paid t s1 (.store []) (t.me.readA 1) ((t.finishStop 0 (some 0)).contextImage 0 (some 0)).length 64 ∧
      (s1.finishStop 0 (some 0)).bulkWrite 0 (t.me.readA 1) ((s1.finishStop 0 (some 0)).contextImage 0 (some 0)) = .ok u) ∧
    (s.coreAt 0).round = none ∧ s.bulkFault 0 (.store []) (s.me.readA 1) 1024 16 = none ∧
    ∃ s1, Paid (ctxS .none [] 256) s1 (.store []) 8192 16384 64 := by
  have ha : (ctxS .none []).me.readA 1 = 8192 := by decide +kernel
  have hb : (ctxS (.saved (some 0)) [] 3864).me.readA 1 = 8192 := by decide +kernel
  have hf := ctxS_flat .none []
  refine ⟨by unfold HasNext; decide +kernel, by decide +kernel, by decide +kernel, by decide +kernel, by decide +kernel, ?_, by decide +kernel,
    by decide +kernel, ?_, by decide +kernel, ?_⟩
  · rw [State.contextImage_length _ _ _ (by decide +kernel) (by decide +kernel) (by decide +kernel) (by decide +kernel), ha]
    exact bulk_flat _ hf.1 hf.2.1 hf.2.2.1 hf.2.2.2.1 hf.2.2.2.2 _ (.inr rfl) _ (by decide)
  · refine ⟨_, _, paid_all _ _ _ _ _ ?_, State.bulkWrite_ok _ _ _ _ ?_⟩
    · rw [State.contextImage_length _ _ _ (by decide +kernel) (by decide +kernel) (by decide +kernel) (by decide +kernel)]
      decide +kernel
    rw [State.contextImage_length _ _ _ (by decide +kernel) (by decide +kernel) (by decide +kernel) (by decide +kernel), hb]
    exact bulk_flat _ (by decide +kernel) (by decide +kernel) (by decide +kernel) (by decide +kernel) (by decide +kernel) _ (.inr rfl) _ (by decide)
  · refine ⟨?_, _, paid_all _ _ _ _ _ (by decide +kernel)⟩
    rw [ha]
    exact bulk_flat _ hf.1 hf.2.1 hf.2.2.1 hf.2.2.2.1 hf.2.2.2.2 _ (.inr rfl) 16384 (by decide)

/-- CountersAndBuckets: an LSNAP whose requests have gone. -/
theorem witness_Counters_snapshot :
    let s := ctxS .none [] 15443
    HasNext s ∧ s.me.sup = true ∧ s.quiet 0 0 = true ∧ (s.me.readA 1).toNat % 64 = 0 ∧
    s.bulkFault 0 (.store []) (s.me.readA 1) (chunks snapshotBytes) 16 = none ∧
    ∃ s1, Paid s s1 (.store []) (s.me.readA 1) snapshotBytes 64 := by
  have ha : (ctxS .none [] 15443).me.readA 1 = 8192 := by decide +kernel
  refine ⟨by unfold HasNext; decide +kernel, by decide +kernel, by decide +kernel, by decide +kernel, ?_, _,
    paid_all _ _ _ _ _ (by decide +kernel)⟩
  rw [ha]
  exact bulk_flat _ (by decide +kernel) (by decide +kernel) (by decide +kernel) (by decide +kernel) (by decide +kernel) _
    (.inr rfl) snapshotBytes (by decide)

/-- A run of memory that begins with bytes written to empty memory. -/
theorem tgets_tputs_nil (k n : Nat) (bs : List Byte) : tgets 0 (tputs 0 [] k bs) k (bs.length + n) = bs ++ List.replicate n 0 := by
  rw [tgets_add, tgets_tputs]
  congr 1
  have h : ∀ m j, k + bs.length ≤ j → tgets 0 (tputs (0 : Byte) [] k bs) j m = List.replicate m 0 := by
    intro m
    induction m with
    | zero => exact fun _ _ => rfl
    | succ m ih =>
      intro j hj
      rw [tgets, ih (j + 1) (by omega), tget_tputs_out (h := .inr hj)]
      rfl
  exact h n _ (le_refl _)

/-- The two header words of the image of an empty core 0. -/
def ctxHead : List Byte := bytesOf 16 (0x3C600 * 2 ^ 64 + 0x1C8 + 32 * 2 ^ 38)

/-- A read of 16-byte chunks at 8192 of memory that holds that header there. -/
theorem bulkRead_head (s : State) (hm : s.mem = tputs 0 [] 8192 ctxHead)
    (hf : ((s.clusterAt 0).ptroot = flat.ptroot ∧ (s.clusterAt 0).tlb = flat.tlb) ∧ (s.coreAt 0).utlb = [] ∧ s.pkg = 0 ∧
      (s.dieAt 0).fenced = false ∧ s.spoiled = []) (m : Nat) (h : m < 2 ^ 20) :
    s.bulkRead 0 8192 (16 * (m + 1)) = .ok (ctxHead ++ List.replicate (16 * m) 0) := by
  have hc : chunks (16 * (m + 1)) = m + 1 := by simp only [chunks]; omega
  have hl : ctxHead.length = 16 := bytesOf_length _ _
  rw [State.bulkRead_ok _ _ _ _ (bulk_flat _ hf.1 hf.2.1 hf.2.2.1 hf.2.2.2.1 hf.2.2.2.2 _ (.inl rfl) _ (by omega)), hc,
    State.bulkBytes_run _ _ _ _ 8192 fun i hi => run_flat _ hf.1 hf.2.1 hf.2.2.1 hf.2.2.2.1 hf.2.2.2.2 i (by omega),
    List.take_of_length_le (by simp only [State.readMem, tgets_length, le_refl]), State.readMem,
    show 16 * (m + 1) = ctxHead.length + 16 * m by omega, hm]
  exact congrArg Except.ok (tgets_tputs_nil 8192 (16 * m) ctxHead)

/-- A field of an image beyond its first bytes, where all the rest is zero. -/
theorem numAt_zeros (h : List Byte) (m o n : Nat) (ho : h.length ≤ o) : numAt (h ++ List.replicate m 0) o n = 0 := by
  rw [numAt, List.drop_append, List.drop_of_length_le ho, List.nil_append, List.drop_replicate, List.take_replicate]
  generalize min n (m - (o - h.length)) = j
  induction j with
  | zero => rfl
  | succ j ih => rw [List.replicate_succ, ofBytes, ih]; rfl

theorem witness_ContextRestore :
    let s := ctxS .none (tputs 0 [] 8192 ctxHead)
    let bs := ctxHead ++ List.replicate 0x3C5F0 0
    s.me.readA 1 = 8192 ∧ numAt bs 8 4 = 0x3C600 ∧ s.bulkRead 0 8192 64 = .ok (bs.take 64) ∧
    s.bulkRead 0 8192 0x3C600 = .ok bs ∧ contextFault 0 bs = none ∧
    (∃ s1, Paid (ctxS .none (tputs 0 [] 8192 ctxHead) 3864) s1 .load 8192 0x3C600 16) ∧ (s.coreAt 0).busySlot 0 bs = none := by
  refine ⟨by decide +kernel, by decide +kernel, (bulkRead_head _ rfl (ctxS_flat _ _) 3 (by decide)).trans (by decide +kernel),
    bulkRead_head _ rfl (ctxS_flat _ _) 0x3C5F (by decide),
    by decide +kernel, ⟨_, paid_all _ _ _ _ _ (by decide +kernel)⟩, ?_⟩
  have h : ∀ t, imageSlotState (ctxHead ++ List.replicate 0x3C5F0 0) t = 0 := fun t => by
    rw [imageSlotState, numAt_zeros _ _ _ _ (by rw [show ctxHead.length = 16 from bytesOf_length _ _]; omega), Nat.zero_div, Nat.zero_mod]
  simp only [Core.busySlot, h, ne_eq, not_true, decide_false, Bool.false_and]
  decide

/-! ## The fabric -/

/-- A shape record: extents n, 1, 1, stride, and the other fields given (R180). -/
def shapeOf (base n str kind win psel : Nat) : Nat :=
  base + n * 2 ^ 80 + 2 ^ 96 + 2 ^ 112 + str * 2 ^ 128 + kind * 2 ^ 204 + win * 2 ^ 206 + psel * 2 ^ 226

/-- The bytes of image 0 (R84): a header with AGV 1, an element 0,0 that passes its north input south, a shape record of
two tokens from window 2. -/
def img1 : Table Byte :=
  [(0, 228), (1, 1), (2, 128), (3, 5), (4, 16), (64, 1), (65, 16), (67, 16), (1098, 2), (1100, 1), (1102, 1),
   (1104, 1), (1113, 128)]

/-- A core whose fab port holds one command, image 0 as given, its windows 1 and 2 of 32- and 4-byte elements. -/
def fabS (x : Wide) (store : Table Byte) (ready : Bool) (r : Option Round) : State :=
  let s := withCore sl0 fun k => { k with fabq := [cmd0 x], cstore := store, cready := k.cready.set! 0 ready, round := r }
  let s := s.setCore 0 { s.coreAt 0 with wstore := tputs 0 [] 0 (bytesOf 32 (shapeOf 5 3 1 0 2 0)) }
  (s.setWin 0 1 { w8 with esz := 3, fill := 1 }).setWin 0 2 { w8 with esz := 0, fill := 2 }

theorem witness_FabricCommands :
    let m : Image := ⟨img1, 0⟩
    let bad (t : State) (d : Nat) : Bool := (t.clusterAt 0).held.map (fun r => (r.kind, r.info, r.body)) ==
      [(2, 1, [0, BitVec.ofNat 64 d, 0, 0])]
    let r := Round.start 0 m (cmd0 0x02)
    Image.fault m = none ∧ Image.fault ⟨[], 0⟩ = some 0 ∧ ((fabS 0x01 img1 false none).coreAt 0).fabFree = true ∧
    goes (exec (.fcfg 0) (fabS 0x01 img1 false none)) (fun t => (t.coreAt 0).isReady 0 && (t.coreAt 0).fabq == []) = true ∧
    goes (exec (.fcfg 0) (fabS 0x01 [] true none)) (fun t => !(t.coreAt 0).isReady 0 && bad t 0) = true ∧
    goes (exec (.fcfg 0) (fabS (BitVec.ofNat 128 (0x10001 + 4096 * 2 ^ 32)) [] true none)) (fun t => !(t.coreAt 0).isReady 0 &&
      t.accs.map (fun a => a.va) == (List.range 32).map (fun i => BitVec.ofNat 80 (4096 + 64 * i))) = true ∧
    goes (exec (.frun 0) (fabS 0x02 img1 true none)) (fun t => (t.coreAt 0).round == some r) = true ∧
    goes (exec (.frun 0) (fabS 0x02 img1 false none)) (fun t => (t.coreAt 0).round == none && bad t 0xFFF) = true ∧
    goes (exec (.fstop 0) (fabS 0x03 img1 true (some r))) (fun t => (t.coreAt 0).round == none &&
      (t.coreAt 0).fabRun == [cmd0 0x03] && ((t.coreAt 0).ended.any fun e => e.cmd == cmd0 0x02 && e.stop)) = true ∧
    goes (exec (.fmark 0) (fabS 0x06 img1 true none)) (fun t => (t.coreAt 0).round == none && (t.coreAt 0).fabq == []) = true ∧
    goes (exec (.fmark 0) (fabS 0x06 img1 true (some r))) (fun t => (t.coreAt 0).round.any fun q =>
      q.drain == some ⟨0, [cmd0 0x06], [], false⟩) = true := by decide +kernel

theorem witness_FabricShapes :
    let s := fabS 0x104 img1 true none
    (s.coreAt 0).engRead 1 0 (some 3#4) = .ready 0 ∧
    Image.fault (Image.withShape ((s.coreAt 0).image 0) 0 (tgets 0 (s.coreAt 0).wstore 0 32)) = none ∧
    goes (exec (.agset 0) s) (fun t => Image.shape ((t.coreAt 0).image 0) 0 == BitVec.ofNat 256 (shapeOf 5 3 1 0 2 0) &&
      Image.hasGen ((t.coreAt 0).image 0) 0 && (t.winAt 0 1).head == 1) = true ∧
    goes (exec (.agprm 0) (fabS (BitVec.ofNat 128 (0x20005 + 9 * 2 ^ 32)) img1 true none)) (fun t =>
      Image.shape ((t.coreAt 0).image 0) 0 == BitVec.ofNat 256 (shapeOf 0 9 1 0 2 0)) = true := by decide +kernel

/-- The bytes of an image with three generators (windowed, global, with parameter EXT0), elements pass to a lane, pass,
reord, pass of a lane, add, rsum, exp2, a router that steers, one sink, one reord record. -/
def img2 : Table Byte :=
  [(0, 228), (1, 1), (2, 192), (3, 21), (4, 112), (5, 16), (64, 1), (65, 16), (67, 64), (80, 1), (81, 16),
   (83, 16), (96, 42), (97, 16), (99, 16), (192, 1), (193, 80), (195, 16), (200, 2), (201, 16), (202, 4),
   (203, 16), (232, 1), (233, 64), (235, 16), (312, 37), (313, 80), (315, 16), (328, 1), (329, 16), (331, 16),
   (336, 27), (337, 16), (338, 128), (339, 144), (736, 112), (738, 1), (1098, 2), (1100, 1), (1102, 1), (1104, 1),
   (1113, 128), (1121, 16), (1130, 2), (1132, 1), (1134, 1), (1136, 4), (1145, 16), (1162, 2), (1164, 1),
   (1166, 1), (1168, 1), (1177, 128), (1180, 8), (1344, 1), (1408, 4), (1409, 2), (1410, 1), (1412, 1)]

/-- The bytes of an image with one element 2,1 that passes its north input south. -/
def img3 : Table Byte :=
  [(0, 228), (1, 1), (2, 128), (3, 5), (328, 1), (329, 16), (331, 16)]

/-- A round of that image, with what stands in it. -/
def round2 (f : Round → Round) : State := fabS 0 img2 true (some (f (Round.start 0 ⟨img2, 0⟩ (cmd0 0x02))))

/-- What an event leaves of the round. -/
def leaves2 (i : Instr) (f : Round → Round) (p : Round → Bool) : Bool := goes (exec i (round2 f)) fun t => (t.coreAt 0).round.any p

theorem witness_FabricGenerators :
    let w (v : BitVec 32) : Option Tok := some (.w v)
    let m : Image := ⟨img2, 0⟩
    let r := Round.start 0 m (cmd0 0x02)
    ((r.genAt 0).phase = .running ∧ (r.genAt 2).phase = .waitParam ∧ gTotal (r.genAt 0).shape = 2 ∧ gKind (r.genAt 1).shape = 1) ∧
    leaves2 (.generatorPassStart 0 2) (fun r => r.setBuf 2050 (w 7)) (fun r => (r.genAt 2).phase == .running &&
      gTotal (r.genAt 2).shape == 7 && r.bufAt 2050 == none) = true ∧
    leaves2 (.generatorRequest 0 0) id (fun r => (r.genAt 0).queue.length == 1 && (r.genAt 0).pos == 1) = true ∧
    goes (exec (.generatorRequest 0 1) (round2 id)) (fun t => t.accs.map (fun a => (a.va, a.size, a.dest)) == [(4096, 4, .generator 1 0)]) = true ∧
    leaves2 (.generatorReply 0 0) (fun r => r.setGen 0 { r.genAt 0 with queue := [.w 9] }) (fun r => r.bufAt 0 == w 9 &&
      (r.genAt 0).queue == []) = true := by decide +kernel

theorem witness_FabricElements :
    let w (v : BitVec 32) : Option Tok := some (.w v)
    leaves2 (.elementFire 0 17) (fun r => (r.setBuf 544 (w 0x3F800000)).setBuf 545 (w 0x40000000)) (fun r =>
      (r.elemAt 17).q == [.w 0x40400000] && r.bufAt 544 == none && r.bufAt 545 == none) = true ∧
    leaves2 (.tokenHop 0 17 0) (fun r => r.setElem 17 { Elem.init with q := [.w 5] }) (fun r => r.bufAt (33 * 32) == w 5 &&
      (r.elemAt 17).q == []) = true ∧
    leaves2 (.routerOperatorFire 0 20 .steer) (fun r => (r.setBuf 643 (w 8)).setCtl 80 (some ⟨.bit true, [4]⟩)) (fun r =>
      r.bufAt 643 == none && r.ctlAt 80 == none && r.bufAt (21 * 32) == w 8) = true ∧
    leaves2 (.rowWordMove 0 0) (fun r => r.setElem 0 { Elem.init with q := [.w 6] }) (fun r => (r.elemAt 0).q == [] &&
      tget none r.rows 1 == some ⟨.w 0, some 6 :: List.replicate 15 none, Image.rowUsers ⟨img2, 0⟩ 1⟩) = true ∧
    leaves2 (.reducerFire 0 1) (fun r => { r with rows := [(1, some ⟨.w 0, some 0x3F800000 :: some 0x3F800000 :: List.replicate 14 none, [100]⟩)] })
      (fun r => (r.elemAt 31).q == [.w 0x40000000] && tget none r.rows 1 == none) = true ∧
    leaves2 (.reordBlockEmit 0 2) (fun r => r.setReord 2 ⟨[11, 12], some 1⟩) (fun r => (r.elemAt 4).q == [.w 12]) = true ∧
    leaves2 (.unitReply 0 34) (fun r => { r with units := [(34, 0)] }) (fun r => (r.elemAt 34).q == [.w 0x3F800000] && r.units == []) = true ∧
    leaves2 (.elementFire 0 34) (fun r => r.setBuf 1088 (w 0)) (fun r => r.units == [(34, 0)] && r.served == [2] &&
      tget 3 r.unitLast 2 == 2 && r.bufAt 1088 == none) = true ∧
    leaves2 (.elementFire 0 34) (fun r => { r.setBuf 1088 (w 0) with served := [2] }) (fun r => r.units == [] &&
      r.bufAt 1088 == w 0) = true := by
  decide +kernel

/-- A round of the image above whose router 20 has another word, with what stands in it. -/
def roundR (word : List Byte) (f : Round → Round) : State :=
  let m := tputs 0 img2 736 word
  fabS 0 m true (some (f (Round.start 0 ⟨m, 0⟩ (cmd0 0x02))))

theorem witness_FabricOperators :
    let w (v : BitVec 32) : Option Tok := some (.w v)
    let leaves (word : List Byte) (o : RouterOp) (f : Round → Round) (p : Round → Bool) : Bool :=
      goes (exec (.routerOperatorFire 0 20 o) (roundR word f)) fun t => (t.coreAt 0).round.any p
    let merge : List Byte := [0x80, 0, 0x40, 0x08, 0, 0, 0, 0]
    let carry : List Byte := [0x90, 0, 0, 0, 1, 0, 0, 0]
    leaves merge .merge (fun r => (r.setBuf 646 (w 8)).setCtl 80 (some ⟨.bit true, [7]⟩)) (fun r =>
      r.bufAt 646 == none && r.ctlAt 80 == none && r.bufAt (21 * 32) == w 8) = true ∧
    leaves merge .merge (fun r => (r.setBuf 645 (w 9)).setCtl 80 (some ⟨.bit false, [7]⟩)) (fun r =>
      r.bufAt 645 == none && r.bufAt (21 * 32) == w 9) = true ∧
    leaves carry .carry id (fun r => r.bufAt (21 * 32) == some (.c 0 20) && !(r.elemAt 20).armed && (r.elemAt 20).fresh) = true ∧
    leaves carry .carry (fun r => (r.setElem 20 Elem.init).setBuf 648 (w 7)) (fun r => r.bufAt (21 * 32) == w 7 &&
      r.bufAt 648 == none) = true := by decide +kernel

theorem witness_FabricEnds :
    let w (v : BitVec 32) : Option Tok := some (.w v)
    let r := Round.start 0 ⟨img3, 0⟩ (cmd0 0x02)
    let s (r : Round) : State := fabS 0 img3 true (some r)
    let d : Drain := ⟨0, [], [], true⟩
    let mk := { (r.setBuf (33 * 32) (some .m)) with drain := some d }
    let drained := { (r.setElem 33 { Elem.init with mark := true }) with drain := some d }
    (goes (exec (.sinkFill 0 0) ((round2 fun r => r.setBuf 2056 (w 0x55)).setWin 0 1 { w8 with esz := 0 })) (fun t => (t.winAt 0 1).fill == 1 &&
      tgets 0 (t.coreAt 0).wstore 0 4 == bytesOf 4 0x55) = true) ∧
    r.quiet ⟨img3, 0⟩ = true ∧
    goes (exec (.roundEnd 0) (s r)) (fun t => (t.coreAt 0).round == none && (t.coreAt 0).ended.map (fun e => e.cmd) == [cmd0 0x02]) = true ∧
    (r.setBuf (33 * 32) (w 1)).quiet ⟨img3, 0⟩ = false ∧
    goes (exec (.roundEnd 0) (s (r.setBuf (33 * 32) (w 1)))) (fun t => (t.coreAt 0).round.isSome) = true ∧
    goes (exec (.markerAlign 0 33) (s mk)) (fun t => (t.coreAt 0).round.any fun q => (q.elemAt 33).mark && (q.elemAt 33).q == [.m] &&
      q.bufAt (33 * 32) == none) = true ∧
    drained.drained ⟨img3, 0⟩ = true ∧
    goes (exec (.drainComplete 0) (s drained)) (fun t => (t.coreAt 0).round == some { drained with suspended := .drained }) = true ∧
    goes (exec (.drainComplete 0) (s { drained with drain := some { d with save := false } })) (fun t => (t.coreAt 0).round.any fun q =>
      q.suspended == .no && q.drain == none) = true ∧
    goes (exec (.fabricScanOut 0) (s { r with drain := some { d with ticks := 4096 } })) (fun t => (t.coreAt 0).round.any fun q =>
      q.suspended == .scanned) = true ∧
    goes (exec (.fabricScanOut 0) (s { r with drain := some { d with ticks := 4095 } })) (fun t => (t.coreAt 0).round.any fun q =>
      q.suspended == .no) = true := by decide +kernel

/-! ## Block transfers, the matrix unit, rings -/

/-- A command of the bte port with a shape: rows of N0 = 8 bytes, of which L0 are in bounds, one row, one plane. -/
def bteX (op l0 : Nat) : Cmd :=
  let x := cmd0 (BitVec.ofNat 128 (op + 3 * 2 ^ 12 + 2 * 2 ^ 8 + 4096 * 2 ^ 32))
  { x with shape := [BitVec.ofNat 64 (l0 * 2 ^ 40), 0, BitVec.ofNat 64 (8 + 2 ^ 16 + 2 ^ 32 + 2 ^ 48), 1] }

/-- Core 0 with windows 2 (one element, 0x1122334455667788) and 3 of 8-byte elements. -/
def bteS (f : Core → Core) : State :=
  let s := withCore sl0 fun k => f { k with wstore := tputs 0 [] 0 (bytesOf 8 0x1122334455667788) }
  (s.setWin 0 2 { w8 with fill := 1 }).setWin 0 3 { w8 with base := 1 }

/-- A run of a command in engine slot 0. -/
def bteRun (x : Cmd) (f : BteRun → BteRun) : Core → Core := fun k => { k with bte := k.bte.set! 0 (some (f (BteRun.start x 0))) }

theorem witness_BlockStart :
    let s (op : Nat) : State := bteS fun k => { k with bteq := [bteX op 8] }
    let busy : State := bteS fun k => bteRun (bteX 0x41 8) id { k with bteq := [bteX 0x44 8] }
    let starts (i : Instr) (op : Nat) : Bool := goes (exec i (s op)) fun t => (t.coreAt 0).bteAt 0 == some (BteRun.start (bteX op 8) 0) &&
      (t.coreAt 0).bteq == []
    (bteX 0x41 8).total = 8 ∧ ((s 0x41).coreAt 0).bteSlot 0 (bteX 0x41 8).cmd = some 0 ∧ starts (.gtw 0) 0x41 = true ∧
    starts (.wtg 0) 0x42 = true ∧ starts (.wtw 0) 0x43 = true ∧ starts (.gath 0) 0x44 = true ∧ starts (.scat 0) 0x45 = true ∧
    starts (.gredw 0) 0x46 = true ∧ (busy.coreAt 0).bteSlot 0 (bteX 0x44 8).cmd = none ∧
    goes (exec (.gath 0) busy) (fun t => t == busy) = true := by decide +kernel

theorem witness_BlockTransfers :
    let g := bteRun (bteX 0x41 8)
    let full (r : BteRun) : BteRun := { r with issued := 8, got := [(0, bytesOf 8 77)] }
    let ended (r : BteRun) : BteRun := { r with issued := 8, cmd := { r.cmd with doneb := 8 } }
    (BteRun.start (bteX 0x41 8) 0).byteAddr 7 = some 4103 ∧ (BteRun.start (bteX 0x41 0) 0).byteAddr 0 = none ∧
    goes (exec (.bteRequestIssue 0 0) (bteS (g id))) (fun t => t.accs.map (fun a => (a.va, a.size, a.op, a.dest)) ==
      [(4096, 8, .load, .engine 0 0)]) = true ∧
    goes (exec (.bteRequestIssue 0 0) (bteS (bteRun (bteX 0x42 8) id))) (fun t => t.accs.map (fun a => (a.va, a.size, a.op)) ==
      [(4096, 8, .store (bytesOf 8 0x1122334455667788))]) = true ∧
    goes (exec (.bteRequestIssue 0 0) (bteS (bteRun (bteX 0x41 0) id))) (fun t => t.accs == [] && ((t.coreAt 0).bteAt 0).any fun r =>
      r.issued == 8 && r.got == [(0, bytesOf 8 0)]) = true ∧
    goes (exec (.bteElementFill 0 0) (bteS (g full))) (fun t => (t.winAt 0 3).fill == 1 && tgets 0 (t.coreAt 0).wstore 32 8 == bytesOf 8 77 &&
      ((t.coreAt 0).bteAt 0).any fun r => r.cmd.doneb == 8) = true ∧
    goes (exec (.bteCommandComplete 0 0) (bteS (g ended))) (fun t => (t.coreAt 0).bteAt 0 == none) = true ∧
    goes (exec (.bteCommandComplete 0 0) (bteS (bteRun (bteX 0x900041 8) fun r => ended r))) (fun t =>
      (t.coreAt 0).ended.map (fun e => (e.dw, e.fault, e.stop)) == [(some 0, false, false)]) = true ∧
    goes (exec (.bteCommandComplete 0 0) (bteS (g full))) (fun t => t == bteS (g full)) = true := by decide +kernel

theorem witness_BlockSource : ((bteS (bteRun (bteX 0x42 8) id)).coreAt 0).sourceBytes 17 (BteRun.start (bteX 0x42 8) 0) 0 8 =
    .ready (bytesOf 8 0x1122334455667788) := by rfl

/-- An ended command that owes a done element to window 3. -/
def doneE : Ended := ⟨{ cmd0 0x900041 with site := 5 }, .bte, false, none, false, true, 0, false, false, 0, false, false, false, true, false, some 3, false⟩

theorem witness_DoneElements :
    let s := bteS fun k => { k with ended := [doneE] }
    goes (exec (.doneElementFill 0) s) (fun t => (t.coreAt 0).ended == [] && tgets 0 (t.coreAt 0).wstore 32 8 == bytesOf 8 0x8000000000000005) = true ∧
    goes (exec (.doneElementFill 0) (s.setWin 0 3 { w8 with fill := 2 })) (fun t => (t.coreAt 0).ended == [doneE] &&
      t.edges.map (fun e => (e.party, e.kind, e.win)) == [(.cmd 5, .fill, 3)]) = true := by decide +kernel

/-- BlockTransfers and Device: a command that fails while a write of its is in flight, and once it is performed. -/
theorem witness_BlockFails :
    let x := { bteX 0x900041 8 with site := 5 }
    let run (f : Option (Nat × Word × Addr)) : Core → Core := bteRun x fun r => { r with failing := f }
    let mine : Acc := { agentAcc 0 0 (.store [1]) 64 1 .none with holder := .cmd 5, stage := .translated }
    let s (f : Option (Nat × Word × Addr)) (l : List Acc) : State := { bteS (run f) with accs := l }
    let f : Option (Nat × Word × Addr) := some (3, 7, 0)
    goes (exec (.bteRequestIssue 0 0) (s f [mine])) (fun t => t == s f [mine]) = true ∧
    goes (exec (.bteCommandComplete 0 0) (s f [mine])) (fun t => t == s f [mine]) = true ∧
    goes (exec (.bteCommandComplete 0 0) (s f [])) (fun t => (t.coreAt 0).bteAt 0 == none &&
      (t.coreAt 0).ended.map (fun e => (e.cmd, e.dw, e.fault)) == [(x, some 0, true)]) = true ∧
    goes (exec (.linkRetry (.party 0 5)) (s none [mine])) (fun t => ((t.coreAt 0).bteAt 0).any fun r =>
      r.failing == some (3, 0xE0090000, 0) && r.cmd == x) = true ∧
    goes (exec (.linkRetry (.party 0 6)) (at0 sl0)) (fun t => t == at0 sl0) = true := by decide +kernel

/-- Core 0 with tile windows 2 and 3 (element 0,0 of each is E4M3 1.0, and BF16 1.0 at byte 64), a plain window 5. -/
def mxS (f : Core → Core) : State :=
  let s := withCore sl0 fun k => f { k with wstore := [(0, 0x38), (16384, 0x38)] }
  let s := (s.setWin 0 2 { w8 with esz := 12, cap := 1, fill := 1 }).setWin 0 3 { w8 with esz := 12, cap := 1, fill := 1, base := 512 }
  s.setWin 0 5 { w8 with esz := 1, base := 1024 }

theorem witness_MatrixStart :
    let s (x : Wide) : State := mxS fun k => { k with mxq := [cmd0 x] }
    let st (i : Instr) (x : Wide) (p : Mx → Bool) : Bool := mxIssueOk ((s x).coreAt 0) 0 x && goes (exec i (s x)) fun t =>
      (t.coreAt 0).mxq == [] && p (t.coreAt 0).mx
    let m := Mx.init
    st (.mxw 0) 0x221 (fun n => n == { m with load := [MxRun.start (cmd0 0x221) false false none] }) = true ∧
    st (.mxa 0) 0x222 (fun n => n == { m with run := some (MxRun.start (cmd0 0x222) false false none) }) = true ∧
    st (.mxswp 0) 0x23 (fun n => n == { m with cur := true }) = true ∧
    st (.mxtm 0) 0x33224 (fun n => n == { m with run := some (MxRun.start (cmd0 0x33224) false false none) }) = true ∧
    st (.mxz 0) 0x40025 (fun n => n.out == some (MxRun.start (cmd0 0x40025) false true none)) = true ∧
    st (.mxout 0) 0x5026 (fun n => n.out == some (MxRun.start (cmd0 0x5026) false false none)) = true := by decide +kernel

theorem witness_MatrixSteps :
    let r (x : Wide) (n : Nat) : MxRun := { MxRun.start (cmd0 x) false false none with step := n }
    let s (f : Mx → Mx) : State := mxS fun k => { k with mx := f k.mx }
    let one : Bank := ⟨[(0, 0x38)], false, 0⟩
    ((s id).coreAt 0).engRead 2 0 (some 12#4) = .ready 0 ∧
    goes (exec (.mxTileRead 0) (s fun m => { m with load := [r 0x221 0] })) (fun t => (t.coreAt 0).mx.load.map MxRun.step == [1] &&
      tget 0 ((t.coreAt 0).mx.bank false).w 0 == 0x38) = true ∧
    goes (exec (.mxTileRead 0) (s fun m => { m with run := some (r 0x222 0), banks := m.banks.set 0 one })) (fun t =>
      tget 0 (t.coreAt 0).mx.buf 0 == 0x3F800000 && tget 0 (t.coreAt 0).mx.buf 1 == 0) = true ∧
    goes (exec (.mxoutElementFill 0) (s fun m => { m with out := some (r 0x5026 0), slots := m.slots.set 0 [(0, 0x3F800000)] })) (fun t =>
      (t.winAt 0 5).fill == 1 && tgets 0 (t.coreAt 0).wstore 32768 8 == bytesOf 8 0x3F800000) = true ∧
    goes (exec (.mxCommandComplete 0 false) (s fun m => { m with run := some (r 0x33224 148) })) (fun t =>
      (t.coreAt 0).mx.run == some { r 0x33224 148 with ended := true } && (t.coreAt 0).ended.map Ended.census == [true]) = true ∧
    goes (exec (.mxCommandComplete 0 true) (s fun m => { m with out := some (r 0x25 0) })) (fun t =>
      (t.coreAt 0).mx.out == some { r 0x25 0 with ended := true }) = true ∧
    goes (exec (.splitBlockArrival 0) (s fun m => { m with run := some { r 0xB3224 36 with peerWait := true }, peer := [⟨0, [], [], []⟩] })) (fun t =>
      (t.coreAt 0).mx.peer == [] && (t.coreAt 0).mx.run.map (fun q => (q.peerWait, q.step)) == some (false, 37)) = true := by decide +kernel

theorem witness_MatrixProducts :
    let r (x : Wide) (n : Nat) : MxRun := { MxRun.start (cmd0 x) false false none with step := n }
    let s (f : Mx → Mx) : State := mxS fun k => { k with mx := f k.mx }
    let one : Bank := ⟨[(0, 0x3F80)], true, 0⟩
    let pro : Wide := 0x30222
    let tile : State := (s fun m => { m with run := some (r 0x33224 1), banks := m.banks.set 0 one })
    mxPro pro = true ∧ mxAf pro = true ∧ mxRing 0x33224 = false ∧ (tile.coreAt 0).engRead 2 0 (some 12#4) = .ready 0 ∧
    ((s id).coreAt 0).engRead 2 0 (some 12#4) = .ready 0 := by decide +kernel

theorem witness_MatrixPromote :
    let r : MxRun := { MxRun.start (cmd0 0x30222) false false none with step := 0 }
    let s : State := mxS fun k => { k with mx := { k.mx with run := some r, banks := k.mx.banks.set 0 ⟨[(0, 0x3F80)], true, 0⟩ } }
    let s := s.setCore 0 { s.coreAt 0 with wstore := [(0, 0x80), (1, 0x3F)] }
    goes (exec (.mxTileRead 0) s) (fun t => tget 0 ((t.coreAt 0).mx.acc false) 0 == 0x3F800000) = true := by decide +kernel

/-- A core with the windows of a segment: 0 to 3 for tiles and scales, 4 for completions. -/
def ringK : Core := { Core.init with
  wins := [(0, { w8 with esz := 12, mode := .ringEast }), (1, { w8 with esz := 12, mode := .ringWest }),
    (2, { w8 with esz := 7, mode := .ringEast }), (3, { w8 with esz := 7, mode := .ringWest }), (4, w8)] }

/-- The controller of a segment of cores 0 to 3 with those windows. -/
def segX : Ctrl := { Ctrl.init with seg := true, ewin := 0, wwin := 1, eswin := 2, wswin := 3, cwin := 4, rlim := 2 }

/-- Cores 0 to 3 with ring state, core 0 changed, under a controller. -/
def ringS (f : Core → Core) (x : Ctrl) : State :=
  { up with cores := [(0, f ringK), (1, ringK), (2, ringK), (3, ringK)] }.setCtrl 0 x

/-- A match entry: EID 5, WID 6, owner 1, target 3. -/
def entX : BitVec 32 := 0x610605

theorem witness_RingCommands :
    let q (x : Wide) (y : Ctrl) : State := ringS (fun k => { k with ringq := [cmd0 x] }) y
    let cfg : Wide := BitVec.ofNat 128 (0x61 + 2 ^ 40 + 2 * 2 ^ 44 + 3 * 2 ^ 48 + 4 * 2 ^ 52 + 2 * 2 ^ 56)
    let mt : Wide := BitVec.ofNat 128 (0x562 + 7 * 2 ^ 32 + 2 * 2 ^ 42)
    let sm := (q mt segX).setWin 0 5 { w8 with esz := 0, fill := 2, base := 4095 }
    let s5 := sm.setCore 0 { sm.coreAt 0 with wstore := tputs 0 [] 131040 (bytesOf 4 entX.toNat) }
    let run := { segX with run := .sweep (cmd0 0x64), table := [(2, entX)] }
    (q cfg Ctrl.init).overlapping 0 4 = [] ∧ ringK.segmentOk segX = true ∧ Ctrl.init.configure cfg none = segX ∧
    goes (exec (.rgcfg 0) (q cfg Ctrl.init)) (fun t => t.ctrlAt 0 == segX && (t.coreAt 0).ringq == []) = true ∧
    s5.isFirst 0 = true ∧ (s5.coreAt 0).engRead 5 0 (some 0#4) = .ready 131040 ∧
    goes (exec (.rgmt 0) s5) (fun t => tget offEntry (t.ctrlAt 0).table 7 == entX && (t.ringAt 0).run.map Cmd.doneb == some 1) = true ∧
    (q 0x63 segX).segmentOf 0 = some 0 ∧ ringK.ringWindowsOk segX = true ∧
    goes (exec (.rgput 0) (q 0x63 segX)) (fun t => (t.ringAt 0).run == some (cmd0 0x63)) = true ∧
    (q 0x64 segX).sweepOk 0 = true ∧ (q 0x64 segX).slotsHeld 0 = false ∧
    goes (exec (.rggo 0) (q 0x64 segX)) (fun t => (t.ctrlAt 0).run == .sweep (cmd0 0x64) && (t.ctrlAt 0).meet == [0, 1, 2, 3] &&
      (t.ctrlAt 0).swp == 1) = true ∧
    goes (exec (.rgrot 0) (q (BitVec.ofNat 128 (0x65 + 3 * 2 ^ 32)) segX)) (fun t =>
      (t.ctrlAt 0).run == .rotate (cmd0 (BitVec.ofNat 128 (0x65 + 3 * 2 ^ 32))) 3) = true ∧
    goes (exec (.rgdrn 0) (q 0x66 { segX with table := [(2, entX)], targets := sweepTargets [(2, entX)] })) (fun t => (t.ctrlAt 0).targets == [] &&
      (t.ringAt 0).east == none) = true ∧ run.entries = [(2, entX)] ∧
    goes (exec (.rggo 0) (q 0x64 Ctrl.init)) (fun t => (t.clusterAt 0).held.map (fun r => (r.kind, r.info, r.body)) ==
      [(2, 7, [0, 1, 0, 0])]) = true := by decide +kernel

theorem witness_RingSweep :
    let cmd := cmd0 0x64
    let run := { segX with run := .sweep cmd, table := [(2, entX)], targets := sweepTargets [(2, entX)] }
    let tile (e w : Option (BitVec 8)) : State → State := fun s => s.setRing 1 { s.ringAt 1 with east := e, west := w }
    let meet := { run with meet := [1] }
    let full (s : State) : State := (List.range 4).foldl (fun s w => s.setWin 1 w { s.winAt 1 w with fill := 1 }) s
    let s (x : Ctrl) : State := full (tile (some 5) (some 6) (ringS id x))
    let held (x : Ctrl) : State := (s x).setRing 1 { (s x).ringAt 1 with holders := (s x).ringAt 1 |>.holders.set! 0 (some 9) }
    (ringS id run).beatEdges 0 = [] ∧
    goes (exec (.beatStart 0) (ringS id run)) (fun t => (t.ctrlAt 0).moving) = true ∧
    (((s { run with moving := true }).movingTiles 0).all fun m =>
      ((s { run with moving := true }).landingEdges 0 (0, 2) cmd.site m).isEmpty) = true ∧
    (s { run with moving := true }).poisonedMove (0, 2) ((s { run with moving := true }).movingTiles 0) = none ∧
    (ringS id run).windowsOk 0 = true ∧
    goes (exec (.tileLanding 0) (s { run with moving := true })) (fun t => !(t.ctrlAt 0).moving && (t.ctrlAt 0).beat == 1 &&
      (t.ringAt 1).east == none && (t.ringAt 2).east == some 5 && (t.ringAt 1).west == some 6) = true ∧
    (s meet).meets 0 1 = some (2, entX) ∧
    goes (exec (.meeting 1) (s meet)) (fun t => (t.ringAt 1).queue.map (fun z => (z.entry, z.slot)) == [(2, none)] && (t.ringAt 1).enc == 1 &&
      (t.ringAt 1).holders[0] == some 3 && (t.ctrlAt 0).meet == []) = true ∧
    goes (exec (.meeting 1) (held { meet with flow := true })) (fun t => (t.ctrlAt 0).deferral == [2] && (t.ringAt 1).defs == 1) = true ∧
    goes (exec (.meeting 1) (held meet)) (fun t => t == held meet) = true ∧
    goes (exec (.sweepEnd 0) (ringS id { segX with run := .sweep cmd, boundary := true })) (fun t => (t.ctrlAt 0).run == .idle) = true ∧
    goes (exec (.sweepEnd 0) (ringS id { run with boundary := true, deferral := [2] })) (fun t => (t.ctrlAt 0).rev == 1 &&
      (t.ctrlAt 0).recov && (t.ctrlAt 0).meet == [0, 1, 2, 3]) = true := by decide +kernel

/-- Rings: a drain waits for a held window, a beat for a pinned tile or a meeting. -/
theorem witness_RingHeld :
    let x := { segX with table := [(2, entX)] }
    let s := (ringS (fun k => { k with ringq := [cmd0 0x66] }) x).setWin 1 0 { w8 with esz := 12, mode := .ringEast, held := true }
    let run := { x with run := .sweep (cmd0 0x64) }
    let pin := (ringS id run).setRing 1 { (ringS id run).ringAt 1 with queue := [⟨2, 5, 6, false, 0, none, false, false, false, false, false⟩] }
    let unfit (s : State) : State := s.setWin 2 1 { w8 with esz := 12 }
    let rot := ringS (fun k => { k with ringq := [cmd0 0x65] }) x
    (unfit (ringS id run)).windowsOk 0 = false ∧
    goes (exec (.beatStart 0) (unfit (ringS id run))) (fun t => (t.ctrlAt 0).run == .idle && !(t.ctrlAt 0).moving) = true ∧
    goes (exec (.rgrot 0) (unfit rot)) (fun t => (t.coreAt 0).ringq == [] &&
      (t.clusterAt 0).held.map (fun r => (r.kind, r.info, r.body)) == [(2, 7, [0, 3, 0, 0])]) = true ∧
    s.heldRing 0 ≠ none ∧ (ringS id x).heldRing 0 = none ∧
    goes (exec (.rgdrn 0) s) (fun t => (t.ringAt 0).run == some (cmd0 0x66) && t.winAt 1 0 == s.winAt 1 0) = true ∧
    ((pin.ringAt 1).pinned = true ∧ goes (exec (.beatStart 0) pin) (fun t => t.ctrlAt 0 == run) = true) ∧
    goes (exec (.beatStart 0) (ringS id { run with meet := [1] })) (fun t => t.ctrlAt 0 == { run with meet := [1] }) = true := by decide +kernel

theorem witness_RingEncounters :
    let z : Encounter := ⟨2, 5, 6, false, 0, none, false, false, false, false, false⟩
    let run := { segX with run := .sweep (cmd0 0x64), table := [(2, entX)], targets := sweepTargets [(2, entX)] }
    let q (z : Encounter) : State := let s := ringS id run
      (s.setRing 1 { s.ringAt 1 with queue := [z] }).setSlot 1 4 { Slot.init with status := .bound, bind := BitVec.ofNat 26 (3 * 2 ^ 12 + 77) }
    let tok := ringS id { run with tokens := [(1, 0x43, 0)] }
    ((q z).coreAt 1).boundTo (sourceKey 3 0) = some 4 ∧
    goes (exec (.encounterDelivery 1) (q z)) (fun t => (t.ringAt 1).queue == [{ z with slot := some 4 }] && (t.slotAt 1 4).pc == 77 &&
      (t.slotAt 1 4).status == .runnable && (t.slotAt 1 4).readG 1 == eventWord (encounterData z entX) 1 3 2) = true ∧
    goes (exec (.tileUnpin 1) (q { z with retired := true })) (fun t => (t.ringAt 1).queue.map Encounter.unpinned == [true]) = true ∧
    ({ z with retired := true, unpinned := true } : Encounter).finished = true ∧
    goes (exec (.encounterFinish 1) (q { z with retired := true, unpinned := true })) (fun t => (t.ringAt 1).queue == [] &&
      (t.ctrlAt 0).tokens.map (fun e => (e.1, e.2.1.toNat % 64)) == [(1, 3)]) = true ∧
    goes (exec (.completionTokenFill 0) tok) (fun t => (t.ctrlAt 0).tokens == [] && (t.winAt 1 4).fill == 1 &&
      tgets 0 (t.coreAt 1).wstore 0 8 == bytesOf 8 0x43) = true := by decide +kernel

/-! ## Packets, reports, observation -/

theorem witness_Packets_start :
    let s := up.setCore 0 { Core.init with pktq := [cmd0 pktX] }
    (s.coreAt 0).pktq = [cmd0 pktX] ∧ (s.coreAt 0).stuck.contains .pkt = false ∧ cmdOp pktX = 0x81 ∧
    (s.coreAt 0).pktDests pktX = [1] ∧
    goes (exec (.pkt 0) s) (fun t => (t.coreAt 0).pktq == [] && (t.coreAt 0).pktRuns == [⟨cmd0 pktX, [1], none⟩] &&
      t.agenda == [.pktCopyEnqueue 0 0 1]) = true := by decide +kernel

theorem witness_Packets_route :
    let k := { Core.init with pkrt := Core.init.pkrt.set 0 (0x10000 + 0x1100 + 0xFF) }
    cmdMod (0x81 ||| (1 <<< 16)) 0 = true ∧ k.pktDests (0x81 ||| (1 <<< 16)) = [255] ∧
    ({ k with pkrt := Core.init.pkrt.set 0 0x11012 } : Core).pktDests (0x81 ||| (1 <<< 16)) = [33, 34] ∧
    cmdMod 0x81 0 = false := by decide +kernel

theorem witness_Packets_copies :
    let r : PktRun := ⟨cmd0 pktX, [1], none⟩
    let s := up.setCore 0 { Core.init with pktRuns := [r] }
    let full := s.setCore 1 { Core.init with classq := [(0, List.replicate 16 ⟨0⟩)] }
    let far := (up.setCore 0 { Core.init with pktRuns := [⟨cmd0 pktX, [256], none⟩] }).setCluster 1
      { Cluster.init with owner := some 1 }
    pktPeer s.pkg pktX = none ∧ s.tenantOf 1 = s.tenantOf 0 ∧
    goes (exec (.pktCopyEnqueue 0 0 1) s) (fun t => (t.coreAt 1).classQueue 0 == [⟨9⟩] && (t.coreAt 0).pktRuns == []) = true ∧
    goes (exec (.pktCopyEnqueue 0 0 1) full) (fun t => t == full) = true ∧ far.tenantOf 256 ≠ far.tenantOf 0 ∧
    goes (exec (.pktCopyEnqueue 0 0 256) far) (fun t => (t.clusterAt 0).held ==
      [⟨2, 10, [0, BitVec.ofNat 64 (2 ^ 19 + 256), 0, 0], 0, some .pkt⟩] && (t.coreAt 256).classQueue 0 == []) = true := by decide +kernel

theorem witness_Reports_post :
    let r : Report := ⟨1, 4, [7, 8], 0, none⟩
    let s := (up.setCluster 0 { Cluster.init with held := [r] }).setCore 0 { Core.init with rpnot := 0x12 }
    let s := withWin s 2 w8
    let full := up.setCluster 0 { Cluster.init with held := [r], reports := ⟨0, 1022, List.replicate 1022 0⟩ }
    (s.clusterAt 0).held = [r] ∧ (s.winAt 0 2).ext = 0 ∧
    goes (exec (.reportRecordPost 0) s) (fun t => (t.clusterAt 0).held == [] &&
      (t.clusterAt 0).reports == ⟨0, 3, [0x0000010300000004, 7, 8]⟩ && (t.clusterAt 0).rseq == 1 && t.msix == [(0, 0)] &&
      (t.winAt 0 2).fill == 1 && tgets 0 (t.coreAt 0).wstore 0 8 == bytesOf 8 0x0000010300000004) = true ∧
    (full.clusterAt 0).reports.ext = 1022 ∧ goes (exec (.reportRecordPost 0) full) (fun t => t == full) = true := by decide +kernel

/-- Two tasks, of cores 0 and 256, each waiting to read a window whose one producer is the other. -/
def standS : State :=
  let x (p : Nat × Nat) : Win := { w8 with pcnt := 1, prod := [p] }
  let e (c d : Nat) : Edge := ⟨.task c 0, c, .read, c, 0, 0, 0, mkSite d 0 0 0, none, false⟩
  let s := (up.setSlot 0 0 { sl0 with status := .waiting }).setSlot 256 0 { sl0 with status := .waiting }
  { (s.setWin 0 0 (x (256, 0))).setWin 256 0 (x (0, 0)) with edges := [e 0 0, e 256 256] }

theorem witness_Reports_standoff :
    (standS.edges.map standS.sigma = [some [.task 256 0], some [.task 0 0]]) ∧
    goes (exec (.standoffReport 0) standS) (fun t => (t.clusterAt 0).held.map (fun r => (r.kind, r.info, r.body.length)) ==
      [(3, 2, 6)] && t.edges.all Edge.reported) = true ∧
    goes (exec (.standoffReport 1) standS) (fun t => t == standS) = true := by decide +kernel

theorem witness_Reports_twice :
    let s := { standS with edges := standS.edges.map fun e => { e with reported := true } }
    goes (exec (.standoffReport 0) s) (fun t => t == s) = true := by decide +kernel

theorem witness_Reports_orphan :
    let e (k : WaitKind) : Edge := ⟨.task 0 0, 0, k, 0, 1, 0, 5, 9, none, false⟩
    let s (k : WaitKind) : State := { withWin up 1 { w8 with fill := 1 } with edges := [e k] }
    (s .read).touching true 0 1 = [] ∧ (s .read).orphan (e .read) = true ∧ (s .fill).orphan (e .fill) = true ∧
    goes (exec (.orphanWaitReport 0) (s .read)) (fun t => (t.clusterAt 0).held ==
      [⟨4, 1, [9, BitVec.ofNat 64 (2 ^ 60 + 2 ^ 56 + 5), BitVec.ofNat 64 (2 ^ 32 + 1)], 0, none⟩]) = true ∧
    goes (exec (.orphanWaitReport 0) (s .fill)) (fun t => (t.clusterAt 0).held ==
      [⟨4, 1, [9, BitVec.ofNat 64 (2 * 2 ^ 60 + 2 ^ 56), BitVec.ofNat 64 (2 ^ 32 + 1)], 0, none⟩]) = true ∧
    (s .port).orphan (e .port) = false ∧ goes (exec (.orphanWaitReport 0) (s .port)) (fun t => t == s .port) = true := by
  decide +kernel

theorem witness_Reports_watchdog :
    let k (pol : Nat) : Core := { Core.init with
      wdctl := BitVec.ofNat 40 (2 ^ 39 + pol * 2 ^ 37 + 16), wdcnt := 65536, group := some 0,
      slots := [(0, { sl0 with status := .waiting }), (3, sl0)] }
    let g : Group := ⟨1, false, 0, [0], [(0, [0], 0, false, 0)], [], true, false, false⟩
    let s (pol : Nat) : State := (up.setCore 0 (k pol)).setGroup 0 g
    let body : List Word := [0, 65536, BitVec.ofNat 64 (1 + 2 ^ 35), 0]
    twf Slot.init (k 0).slots = true ∧
    goes (exec (.watchdogFire 0) (s 0)) (fun t => (t.coreAt 0).wdcnt == 0 &&
      (t.clusterAt 0).held == [⟨5, 0, body, 0, none⟩]) = true ∧
    goes (exec (.watchdogFire 0) (s 1)) (fun t => t.agenda.contains (.groupPreempt 0)) = true ∧
    goes (exec (.watchdogFire 0) (s 2)) (fun t => t.agenda.contains (.coreGroupCompletion 0) &&
      (t.slotAt 0 3).status == .free && (t.slotAt 0 0).status == .free) = true ∧
    goes (exec (.watchdogFire 0) ((s 0).setCore 0 { k 0 with wdcnt := 65535 })) (fun t => (t.coreAt 0).wdcnt == 65535) =
      true := by decide +kernel

theorem witness_Census_words :
    let s (v : Word) : State := at0 { sl0 with g := sl0.g.set 4 v }
    let sets (v : Word) (p : Cens → Bool) : Bool := goes (exec (.cens 11 4) (s v)) fun t =>
      p (t.coreAt 0).clearTick.cens && (t.coreAt 0).cens == Core.init.cens && (t.slotAt 0 0).pc == 1
    sets 0 (fun x => x.v && x.cwin == 11) = true ∧ sets 1 (fun x => !x.v) = true ∧
    sets 26 (fun x => x.rpv && x.rwin == 11 && x.cseq && x.ccore && !x.rpm) = true ∧
    sets 10 (fun x => x.cseq && !x.ccore) = true ∧ sets 3 (fun x => !x.rpv) = true ∧ sets 4 (fun x => x.cdrop == 0) = true ∧
    (([5, 8, 32, 34] : List Word).all fun v => goes (exec (.cens 11 4) (s v)) fun t =>
      (t.slotAt 0 0).status == .trapped && (t.slotAt 0 0).traparg == BitVec.ofNat 64 (v.toNat * 2 ^ 32 + 0x71E)) = true := by decide +kernel

theorem witness_Census_trcm :
    let x : Win := { w8 with esz := 3 }
    let s := withWin (at0 { sl0 with g := sl0.g.set 4 3 }) 1 x
    let on (y : Win) : State := (s.setCore 0 { s.coreAt 0 with trc := ⟨0xFFFE, 0x20, true, 1⟩ }).setWin 0 1 y
    let flushed (s : State) : State := match exec (.trcm 5 4) s with | .next t => { t with tick := 1 }.flushTrace 0 | .fault _ => s | .refused _ => s
    let ring : State := (flushed ({ (on x).setTraceRing 7 ⟨4096, 2, 3⟩ with clusters := [] }.setCluster 0
      { Cluster.init with traceLoan := some 7 } |>.setCore 0 { (on x).coreAt 0 with trcLent := true }))
    goes (exec (.trcm 5 4) (on x)) (fun t => t.me.pc == 1 && (t.coreAt 0).traced == [(0, false, ⟨6, 0, 3, 0, 5, 0⟩)]) = true ∧
    ((flushed (on x)).winAt 0 1).fill = 1 ∧ tgets 0 ((flushed (on x)).coreAt 0).wstore 0 32 =
      bytesOf 16 0 ++ bytesOf 8 3 ++ [6, 0, 5, 0, 0, 0, 0, 0] ∧
    ((flushed (on { x with fill := 2 })).coreAt 0).trc.drop = 0xFFFF ∧
    tgets 0 ring.mem 4128 32 = bytesOf 16 0 ++ bytesOf 8 3 ++ [6, 0, 5, 0, 0, 0, 0, 0] ∧ (ring.traceRingAt 7).next = 4 ∧
    goes (exec (.trcm 5 4) s) (fun t => (t.slotAt 0 0).pc == 1 && (t.coreAt 0).traced == []) = true := by decide +kernel

/-- An FRUN that has ended with one NaN and owes its census entry and a done element. -/
def end0 : Ended := ⟨{ cmd0 0x02 with site := 77, nan := 1 }, .fab, true, none, false, true, 1, false, false, 0, false, false, false, false, false, some 3, false⟩

theorem witness_Census_entry :
    let x : Win := { w8 with esz := 3 }
    let s (e : Ended) (y : Win) : State := withWin (up.setCore 0 { Core.init with ended := [e] }) 2 y
    let e := { end0 with cens := some 2 }
    goes (exec (.censusEntryFill 0) (s e x)) (fun t => (t.coreAt 0).ended == [{ e with census := false }] &&
      (t.winAt 0 2).fill == 1 && tgets 0 (t.coreAt 0).wstore 0 32 ==
        bytesOf 8 77 ++ bytesOf 4 1 ++ bytesOf 12 0 ++ [2, 0] ++ bytesOf 6 0) = true ∧
    goes (exec (.censusEntryFill 0) (s e { x with fill := 2 })) (fun t => (t.coreAt 0).ended == [e] &&
      t.edges.map (fun z => (z.party, z.kind, z.win)) == [(.cmd 77, .fill, 2)]) = true ∧
    goes (exec (.censusEntryFill 0) (s end0 x)) (fun t => (t.coreAt 0).cens.cdrop == 1 &&
      (t.coreAt 0).ended == [{ end0 with census := false }]) = true := by decide +kernel

theorem witness_Census_replay :
    let e : Ended := { end0 with compared := false, replay := true }
    let y : Win := { w8 with esz := 3, fill := 1 }
    let s (bs : List Byte) : State := (withWin (up.setCore 0
      { Core.init with ended := [e], wstore := tputs 0 [] 0 bs, group := some 0 }) 1 y).setGroup 0
        ⟨1, false, 0, [0, 5], [], [], true, false, false⟩
    let other := bytesOf 8 77 ++ bytesOf 4 2 ++ bytesOf 12 0 ++ [2, 0]
    entryDiff e e.entry e.entry = 0 ∧
    goes (exec (.replayCompare 0) (s e.entry)) (fun t => (t.coreAt 0).stop == .none && (t.winAt 0 1).head == 1 &&
      (t.coreAt 0).ended == [{ e with census := false, compared := true }]) = true ∧
    goes (exec (.replayCompare 0) (s other)) (fun t => (t.coreAt 0).stop == .halted && (t.coreAt 0).cens.rpm &&
      (t.coreAt 0).dbgev == BitVec.ofNat 64 (2 ^ 63 + 3 * 2 ^ 48 + 77) && t.agenda.contains (.memberHalt 5 77) &&
      (t.clusterAt 0).held.map (fun r => (r.kind, r.info, r.body.length)) == [(6, 16, 8)]) = true ∧
    (let e := { e with cmd := { e.cmd with site := 77 }, shrinks := true }
     let s := withWin (up.setCore 0 { Core.init with ended := [e] }) 1 { y with held := true }
     siteCore e.cmd.site = 0 ∧ goes (exec (.replayCompare 0) s) (fun t => (t.coreAt 0).ended == [e] &&
       t.edges.map (fun z => (z.party, z.win)) == [(.cmd 77, 1)]) = true) ∧
    goes (exec (.memberHalt 0 77) up) (fun t => (t.coreAt 0).stop == .halted && (t.coreAt 0).dbgctl == 6 &&
      t.msix == [(0, 4)]) = true := by decide +kernel

theorem witness_Brodfort :
    let s := withWin (at0 sl0) 0 { w8 with base := 1 }
    let halted := s.setCore 0 { s.coreAt 0 with stop := .halted, dbgctl := 2 }
    goes (exec (.coreHalt 0) s) (fun t => (t.coreAt 0).stop == .halted && (t.coreAt 0).dbgctl == 2 &&
      (t.coreAt 0).dbgev == BitVec.ofNat 64 (2 ^ 63 + 4 * 2 ^ 48)) = true ∧
    goes (exec (.brodfortAccess 0 (.sys 0 0x138) (some 3)) s) (fun t => (t.coreAt 0).dbgctl == 3 &&
      (t.coreAt 0).stop == .halted) = true ∧
    goes (exec (.coreResume 0) halted) (fun t => (t.coreAt 0).stop == .none && (t.coreAt 0).dbgctl == 0) = true ∧
    goes (exec (.brodfortAccess 0 (.sys 0 0x13A) (some 5)) s) (fun t => t.sysRead 0 0 0x13A 0 false == some 5) = true ∧
    goes (exec (.brodfortAccess 0 (.sys 0 0x13D) (some 0xFFFFFFFFFFFFFFFF)) s) (fun t =>
      t.sysRead 0 0 0x13D 0 false == some 0xF0003FFFFFFFFFFF) = true ∧
    goes (exec (.brodfortAccess 0 (.sys 0 0x139) (some 0xFFFFFFFFFFFFFFFF)) s) (fun t =>
      t.sysRead 0 0 0x139 0 false == some 0x80FF3FFFFFFFFFFF) = true ∧
    goes (exec (.brodfortAccess 0 (.sys 0 0x018) (some 5)) s) (fun t => (t.slotAt 0 0).trapcause == 5) = true ∧
    goes (exec (.brodfortAccess 0 (.window 0 8) (some 0x0102)) s) (fun t =>
      tgets 0 (t.coreAt 0).wstore 40 2 == [2, 1]) = true ∧
    goes (exec (.brodfortAccess 0 (.desc 0 1) (some 0x500000003)) s) (fun t => (t.winAt 0 0).fill == 5 && (t.winAt 0 0).head == 3) = true ∧
    goes (exec (.brodfortAccess 0 (.desc 0 2) (some 0x300000007)) s) (fun t => (t.winAt 0 0).pv && (t.winAt 0 0).pois == 7 &&
      (t.winAt 0 0).hslot == 1) = true ∧
    goes (exec (.brodfortAccess 0 (.window 0 8) none) { s with device := { s.device with dev := .safe } })
      (fun t => t.hostReply == 0xFFFFFFFFFFFFFFFF) = true ∧
    halted.stopDone 0 none = true ∧ goes (exec (.brodfortDump 0 64) s) (fun t => t == s) = true := by decide +kernel

theorem witness_Counters :
    let s := { up with tick := 1024 }
    let l : LinkUnit := ⟨14, 64, 2, 0, 0, 0, 0⟩
    let a : Acc := { agentAcc 0 0 .load 0 8 .none with stage := .translated }
    let busy := { s with accs := [a], buckets := [(0, 65536)] }
    goes (exec .linkSnapshot { s with links := l }) (fun t => t == { s with links := l }) = true ∧
    (16384 % 2 ^ 14 = 0 ∧ l.began ≠ 16384) ∧ busy.pendingPorts.contains (0, 0) = true ∧
    goes (exec .bucketRefill busy) (fun t => t.bucket 0 0 == 131072) = true ∧
    goes (exec .bucketRefill { busy with tick := 1023 }) (fun t => t.bucket 0 0 == 65536) = true := by decide +kernel

/-! ## Launch -/

/-- An image at address 4096: two words, one binding to the start barrier, no records. -/
def imageMem : List Host.Cell :=
  tputs 0 (tputs 0 (tputs 0 (tputs 0 [] 4096 (bytesOf 4 0x2014B ++ bytesOf 4 0 ++ bytesOf 4 64)) 4124
    (bytesOf 4 128 ++ bytesOf 4 192 ++ bytesOf 2 1)) 4160 (bytesOf 4 0x08000083 ++ bytesOf 4 0xFC600000)) 4224
    (bytesOf 8 (5 * 4096 + 18 * 65536 + 1))

/-- A record of that image: core 0, load base 4, start barrier core.2. -/
def rec0 : List Word := [4096, BitVec.ofNat 64 (2 ^ 19 + 2 * 2 ^ 22), BitVec.ofNat 64 (2 ^ 22 + 2 ^ 36 + 3 * 2 ^ 32),
  BitVec.ofNat 64 (2 ^ 24)] ++ List.replicate 20 0

/-- A state whose launch unit 0 is as given. -/
def unitS (u : LaunchUnit) : State := { up.setCluster 0 { flat with unit := u } with mem := imageMem }

theorem witness_Launch_read :
    let s (n : Nat) : State := unitS { LaunchUnit.init with records := ⟨0, BitVec.ofNat 32 n, rec0.take n⟩, readCount := 7 }
    (s 24).restorable 0 = none ∧ (s 24).fenced 0 = false ∧ ((s 24).unitAt 0).records.ext = 24 ∧
    goes (exec (.launchRecordRead 0) (s 24)) (fun t => (t.unitAt 0).stage == .read && (t.unitAt 0).record == rec0 &&
      (t.unitAt 0).records == ⟨24, 24, []⟩ && (t.unitAt 0).rseq == 7 && (t.unitAt 0).readCount == 8 &&
      t.agenda == [.launchPartLoad ⟨0, false⟩]) = true ∧
    goes (exec (.launchRecordRead 0) (s 23)) (fun t => t == s 23) = true := by decide +kernel

/-- Unit 0 with that record in its hand, the requests of its transfer gone. -/
def handS : State := unitS { LaunchUnit.init with stage := .read, record := rec0, rseq := 5, paid := 100 }

/-- Launch: the buckets let the requests of an image go, or hold them. -/
theorem witness_Launch_pays :
    let s := unitS { LaunchUnit.init with stage := .read, record := rec0, rseq := 5 }
    let low := { s with buckets := [(0, 131072)] }
    (handS.payUnit 0 .load 16 (handS.imageReads 0 rec0)).2 = true ∧ (s.payUnit 0 .load 16 (s.imageReads 0 rec0)).2 = true ∧
    (low.payUnit 0 .load 16 (low.imageReads 0 rec0)).2 = false ∧
    goes (exec (.launchPartLoad ⟨0, false⟩) low) (fun t => (t.unitAt 0).stage == .read && t.mem == low.mem) = true := by
  decide +kernel

theorem witness_Launch_load :
    handS.partsOf 0 = some [(0, rec0)] ∧ handS.failedElsewhere 0 = none ∧ recOk rec0 = true ∧
    goes (exec (.launchPartLoad ⟨0, false⟩) handS) (fun t => (t.unitAt 0).stage == .loaded 0 && (t.coreAt 0).group == some 0 &&
      tgets 0 (t.coreAt 0).istore 4 2 == [0x08000083, 0xFC600000] && t.agenda.contains (.startBarrierFire 0) &&
      (t.unitAt 0).binds == [BitVec.ofNat 26 (2 ^ 25 + 5 * 4096 + 18 * 65536 + 5)]) = true := by decide +kernel

/-- Launch: the read of an image meets data that no check corrects. -/
theorem witness_Launch_uncorrectable :
    recOutside rec0 = none ∧ (handS.imageBytes 0 (recImage rec0) 64).toOption.isSome = true ∧
    goes (exec (.launchPartLoad ⟨0, true⟩) handS) (fun t => (t.unitAt 0).stage == .idle &&
      (t.unitAt 0).posts == [BitVec.ofNat 64 (5 * 2 ^ 32 + 0x984)]) = true := by decide +kernel

theorem witness_Launch_fails :
    let s (r : List Word) : State := unitS { LaunchUnit.init with stage := .read, record := r, rseq := 5 }
    let posts (r : List Word) (v : Nat) : Bool := goes (exec (.launchPartLoad ⟨0, false⟩) (s r)) fun t =>
      (t.unitAt 0).stage == .idle && (t.unitAt 0).posts == [BitVec.ofNat 64 (5 * 2 ^ 32 + v)]
    recOk (rec0.set 23 1) = false ∧ posts (rec0.set 23 1) 0xFF83 = true ∧ posts (rec0.set 0 0) 0x82 = true ∧
    posts (rec0.set 2 0xFF) 0xFF83 = false ∧ posts (rec0.set 2 0x10F) 0x183 = true ∧ posts (rec0.set 2 0xFFC00000) 0x82 = false := by
  decide +kernel

theorem witness_Launch_waits :
    let g (l : BitVec 2) : Group := ⟨9, false, l, [0], [(0, [0], 0, false, 0)], [], true, false, false⟩
    let s (l : BitVec 2) (r : List Word) : State :=
      (unitS { LaunchUnit.init with stage := .read, record := r, paid := 100 }).setCore 0 { Core.init with group := some 4 } |>.setGroup 4 (g l)
    let high := rec0.set 1 (BitVec.ofNat 64 (2 ^ 19 + 2 * 2 ^ 22 + 2 ^ 16))
    let held := rec0.set 1 (BitVec.ofNat 64 (2 ^ 19 + 2 * 2 ^ 22 + 2 ^ 52 + 1 * 2 ^ 32))
    goes (exec (.launchPartLoad ⟨0, false⟩) (s 0 rec0)) (fun t => t == s 0 rec0) = true ∧
    (s 0 high).hasSaveSlot 4 = true ∧
    goes (exec (.launchPartLoad ⟨0, false⟩) (s 0 high)) (fun t => t.agenda == [.groupPreempt 4]) = true ∧
    goes (exec (.launchPartLoad ⟨0, false⟩) (unitS { LaunchUnit.init with stage := .read, record := held })) (fun t =>
      (t.unitAt 0).stage == .read) = true := by decide +kernel

theorem witness_Launch_messages :
    let r := rec0.set 3 (BitVec.ofNat 64 (2 * 2 ^ 24 + 6))
    let u : LaunchUnit := { LaunchUnit.init with stage := .read, record := r, rseq := 5 }
    let s := (unitS u).setCluster 1 { Cluster.init with unit := u }
    goes (exec (.launchPartMessage 0 1) s) (fun t => (t.unitAt 0).heard == [1] && t.agenda == [.launchPartLoad ⟨0, false⟩]) = true ∧
    goes (exec (.launchPartMessage 0 1) { s with gidFails := [(6, 1, 1)] }) (fun t => (t.unitAt 0).stage == .idle &&
      (t.unitAt 0).posts == [BitVec.ofNat 64 (6 * 2 ^ 48 + 5 * 2 ^ 32 + 0x187)]) = true ∧
    goes (exec (.gidCancel 6) s) (fun t => t.gidFails.map (fun e => (e.1, e.2.1)) == [(6, 0xFF)] &&
      t.agenda == [.launchPartMessage 0 0, .launchPartMessage 1 1]) = true ∧
    goes (exec (.gidCancel 7) s) (fun t => t == s) = true := by decide +kernel

theorem witness_Launch_status :
    let s (n : Nat) : State := unitS { LaunchUnit.init with posts := [9], status := ⟨0, BitVec.ofNat 32 n, List.replicate n 0⟩ }
    goes (exec (.launchStatusPost 0) (s 63)) (fun t => (t.unitAt 0).posts == [] && (t.unitAt 0).status.elems.getLast? == some 9 &&
      t.msix == [(0, 1)]) = true ∧
    goes (exec (.launchStatusPost 0) (s 64)) (fun t => (t.unitAt 0).posts == [9]) = true := by decide +kernel

theorem witness_Launch_timeRecords :
    let n (kind pos wid i arg : Nat) : Nat := kind * 2 ^ 60 + i * 2 ^ 48 + pos * 2 ^ 41 + wid * 2 ^ 34 + arg
    let r := rec0.set 6 0x1F
    applyRecord [0xFFFFFFFF, 1] (n 2 4 8 0 2) r [] = some [0xFFFFF1FF, 1] ∧
    applyRecord [0, 1] (n 1 0 32 1 0) r [] = some [0, 5] ∧
    applyRecord [0, 1] (n 2 0 4 1 2) r [] = none ∧ applyRecord [0, 1] (n 2 28 5 1 2) r [] = none ∧
    applyRecord [0, 1] (n 4 0 13 0 1) r [7, 8] = some [8, 1] ∧ applyRecord [0, 1] (n 4 0 13 0 2) r [7, 8] = none ∧
    (let c (n : Nat) : Nat := n + 2 ^ 32
     let r := rec0.set 6 0x800000000
     applyRecord [0, 0, 0, 0] (c (n 3 32 80 0 (2 + 0x100000))) r [] = some [0, 0x1000, 8, 0] ∧
     applyRecord [0, 0, 0, 0] (c (n 3 0 80 0 (2 + 0xFFFFFF00))) r [] = some [0xFFFFFFFF, 7, 0, 0] ∧
     applyRecord [0, 0, 0] (c (n 3 32 80 0 2)) r [] = none ∧
     applyRecord [0, 0, 0, 0, 0] (c (n 3 32 80 1 2)) r [] = none ∧
     applyRecord [0, 0, 0, 0] (c (n 3 64 80 0 2)) r [] = none ∧ applyRecord [0, 0, 0, 0] (c (n 3 0 81 0 2)) r [] = none) ∧
    applyRecord [0, 1] (n 2 0 0 1 2) r [] = none ∧ applyRecord [0, 1] (n 2 0 8 2 2) r [] = none := by decide +kernel

/-- A group of core 0 alone. -/
def grp (started : Bool) : Group := ⟨1, true, 0, [0], [(0, [0], 5, true, 3)], [], started, false, false⟩

theorem witness_Groups_start :
    let u : LaunchUnit := { LaunchUnit.init with stage := .loaded 0, record := rec0, binds := [0x2012005, 0x3] }
    let s := (unitS u).setGroup 0 (grp false)
    goes (exec (.startBarrierFire 0) s) (fun t => (t.groupAt 0).started && (t.unitAt 0).stage == .idle &&
      (t.unitAt 0).posts == [BitVec.ofNat 64 (2 ^ 48 + 5 * 2 ^ 32 + 1)] && (t.slotAt 0 0).bind == 0x2012005 &&
      (t.slotAt 0 1).bind == 0x3 && (t.slotAt 0 1).lsup && (t.slotAt 0 2).status == .free &&
      t.agenda.contains (.barrierReleaseArrival 0 .core 2 1 false)) = true := by decide +kernel

theorem witness_Groups_completes :
    let s := ((unitS LaunchUnit.init).setCore 0 { Core.init with group := some 0, seq := 9, istore := [(0, 5)] }).setGroup 0
      (grp true)
    goes (exec (.coreGroupCompletion 0) s) (fun t => tget none t.groups 0 == none && (t.coreAt 0).group == none &&
      (t.coreAt 0).istore == [] && (t.coreAt 0).seq == 0 && ((t.unitAt 0).cc[3]) == 1 &&
      (t.unitAt 0).posts == [BitVec.ofNat 64 (2 ^ 48 + 5 * 2 ^ 32 + 2)]) = true := by decide +kernel

theorem witness_Groups_preempt :
    let s := ((unitS LaunchUnit.init).setCore 0 { Core.init with group := some 0, slots := [(0, { sl0 with hold := .remote })] }).setGroup 0
      (grp true)
    s.hasSaveSlot 0 = true ∧ goes (exec (.groupPreempt 0) s) (fun t => (t.coreAt 0).stop == .saved none &&
      (t.groupAt 0).saving) = true ∧
    goes (exec (.groupPreempt 0) (s.setGroup 0 (grp false))) (fun t => (t.coreAt 0).stop == .none) = true ∧
    (let two := ((s.setGroup 1 { grp true with saving := true }).setCluster 0 { s.clusterAt 0 with
       unit := { LaunchUnit.init with kept := [some ⟨7, []⟩, some ⟨8, []⟩, some ⟨9, []⟩, none] } })
     two.hasSaveSlot 0 = false ∧ goes (exec (.groupPreempt 0) two) (fun t => t == two) = true) := by decide +kernel

theorem witness_Groups_kept :
    let u : LaunchUnit := { LaunchUnit.init with kept := [none, some ⟨0, []⟩, none, none] }
    let s := (unitS u).setGroup 0 (grp true)
    s.restorable 0 = some (1, ⟨0, []⟩) ∧ s.fenced 0 = false ∧ s.restoreXfer 0 = (.fatal, [(0, [])]) ∧
    goes (exec (.groupRestore 0) s) (fun t => (t.unitAt 0).posts == [BitVec.ofNat 64 (2 ^ 48 + 5 * 2 ^ 32 + 0x88)] &&
      tget none t.groups 0 == none) = true ∧
    goes (exec (.keptGroupDiscard 0 1) s) (fun t => (t.unitAt 0).posts == [BitVec.ofNat 64 (2 ^ 48 + 5 * 2 ^ 32 + 2)] &&
      (t.unitAt 0).kept == [none, none, none, none]) = true ∧
    goes (exec (.keptGroupDiscard 0 0) s) (fun t => t == s) = true := by decide +kernel

/-- Core 0 with a group kept or being saved, its image at 8192, the requests of its transfer gone. -/
def keptS (st : CoreStop) (mem : List Host.Cell) (kept : Option Kept) (g : Option Nat) : State :=
  let s := ctxS st mem
  let u : LaunchUnit := { LaunchUnit.init with kept := [kept, none, none, none], paid := 3864 }
  let s := s.setCluster 0 { flat with saveArea := some 8192, unit := u }
  (s.setCore 0 { s.coreAt 0 with group := g }).setGroup 0 { grp true with saving := g.isSome }

/-- Groups: a group whose one member has stopped is saved. -/
theorem witness_Groups_saved :
    let s := keptS (.saved none) [] none (some 0)
    let done := (s.stopStep 0).finishStop 0 none
    (s.stopStep 0).stopDone 0 none = true ∧ (s.stopStep 0).releaseComing 0 = false ∧ done.saveXfer 0 = .fine ∧
    (done.payParts (.store []) 64 (done.saveList 0)).2 = true := by
  intro s done
  have hl : (done.contextImage 0 none).length = 0x3C600 :=
    State.contextImage_length _ _ _ (by decide +kernel) (by decide +kernel) (by decide +kernel) (by decide +kernel)
  have hp : (done.groupAt 0).parts = [(0, [0], 5, true, 3)] := by decide +kernel
  have ha : (done.clusterAt 0).saveArea = some 8192 := by decide +kernel
  have hv : saveAddr 8192 (done.unitAt 0).freeSlot 0 = 8192 := by decide +kernel
  have hf := bulk_flat done (by decide +kernel) (by decide +kernel) (by decide +kernel) (by decide +kernel) (by decide +kernel)
    (.store []) (.inr rfl) 0x3C600 (by decide)
  refine ⟨by decide +kernel, by decide +kernel, ?_, ?_⟩
  · simp only [State.saveXfer, hp, List.flatMap_cons, List.flatMap_nil, List.append_nil, ha, List.map_cons, List.map_nil, hl,
      hv, hf, show (done.unitAt 0).aborted = false by decide +kernel]
    decide
  · simp only [State.payParts, State.saveList, hp, List.map_cons, List.map_nil, hl, List.foldl_cons, List.foldl_nil,
      State.payUnit, requestsOf]
    rw [if_pos (by decide +kernel)]
    decide

/-- Groups: a kept group whose image is sound is restored. -/
theorem witness_Groups_restored :
    let s := keptS .none (tputs 0 [] 8192 ctxHead) (some ⟨0, []⟩) none
    let bs := ctxHead ++ List.replicate 0x3C5F0 0
    s.restorable 0 = some (0, ⟨0, []⟩) ∧ (s.unitAt 0).posts = [] ∧ s.fenced 0 = false ∧
    s.restoreXfer 0 = (.fine, [(0, bs)]) ∧ (s.payParts .load 16 (s.restoreList 0 [(0, bs)])).2 = true := by
  intro s bs
  have hf : ((s.clusterAt 0).ptroot = flat.ptroot ∧ (s.clusterAt 0).tlb = flat.tlb) ∧ (s.coreAt 0).utlb = [] ∧ s.pkg = 0 ∧
      (s.dieAt 0).fenced = false ∧ s.spoiled = [] :=
    ⟨⟨by rfl, by rfl⟩, by rfl, by rfl, by rfl, by rfl⟩
  have h1 : s.bulkRead 0 8192 64 = .ok (ctxHead ++ List.replicate 48 0) := bulkRead_head s rfl hf 3 (by decide)
  have h2 : s.bulkRead 0 8192 0x3C600 = .ok bs := bulkRead_head s rfl hf 0x3C5F (by decide)
  have hn : min 0x240000 (numAt (ctxHead ++ List.replicate 48 0) 8 4) = 0x3C600 := by decide +kernel
  have hc : contextFault 0 bs = none := by decide +kernel
  have hp : (s.groupAt 0).parts = [(0, [0], 5, true, 3)] := by decide +kernel
  have ha : (s.clusterAt 0).saveArea = some 8192 := by decide +kernel
  have hv : saveAddr (some 8192 |>.getD 0) ((leastBelow (fun j => ((s.unitAt 0).kept.getD j none).any fun x => x.group == 0) 4).getD 0) 0 =
      8192 := by decide +kernel
  have hl : bs.length = 0x3C600 := by
    rw [List.length_append, List.length_replicate, show ctxHead.length = 16 from bytesOf_length _ _]
  refine ⟨by decide +kernel, by decide +kernel, by decide +kernel, ?_, ?_⟩
  · simp only [State.restoreXfer, hp, List.flatMap_cons, List.flatMap_nil, List.append_nil, ha, List.map_cons, List.map_nil,
      hv, h1, hn, h2, hc, show (s.unitAt 0).aborted = false by decide +kernel]
    rfl
  · simp only [State.payParts, State.restoreList, hp, List.map_cons, List.map_nil, List.foldl_cons, List.foldl_nil,
      State.payUnit, requestsOf, List.filter, List.contains, List.elem, beq_self_eq_true, hl]
    rw [if_pos (by decide +kernel)]
    decide

/-! ## Functions, tenants, the host, the device -/

theorem witness_Tenants_ownership :
    let s := (up.setCluster 0 { Cluster.init with ptroot := 0x1C001 }).setCore 300 { Core.init with group := some 0 }
    goes (exec (.clusterOwnerSet 0 (some 3)) s) (fun t => (t.clusterAt 0).owner == some 3 &&
      (t.clusterAt 0).ptroot == BitVec.ofNat 64 (3 * 2 ^ 58 + 0x10001)) = true ∧
    goes (exec (.clusterOwnerSet 1 (some 3)) s) (fun t => t == s) = true ∧
    goes (exec (.networkOwnerSet 9 none) s) (fun t => (t.netAt 9).owner == none) = true ∧
    (let dead := s.setDie 0 { s.dieAt 0 with fenced := true }
     goes (exec (.networkOwnerSet 7 none) dead) (fun t => t == dead) = true ∧
     goes (exec (.clusterOwnerSet 0 (some 3)) dead) (fun t => t == dead) = true) ∧
    goes (exec (.configSpaceWrite (.ptroot 2) 0xFFFFFFFFFFFFFFFF) s) (fun t =>
      (t.clusterAt 2).ptroot == 0x03FFFFFFFFFF3FFF) = true ∧
    goes (exec (.configSpaceWrite (.wdDefault 2) 0xFFFFFFFFFFFFFFFF) s) (fun t =>
      (t.clusterAt 2).wdDefault == 0xFF0000003F) = true ∧
    goes (exec (.configSpaceWrite (.saveArea 2) 0x1FFFFFFFFFFFFFFF) s) (fun t =>
      (t.clusterAt 2).saveArea == some 0x1FFFFFFFFFFFFFFF0000) = true ∧
    goes (exec (.configSpaceWrite (.traceBase 7) 4096) s) (fun t => t.traceRingAt 7 == ⟨4096, 0, 0⟩) = true ∧
    (let safe := { s with device := { s.device with dev := .safe } }
     safe.functionUp 0 = true ∧ safe.functionUp 3 = false ∧
     goes (exec (.configSpaceWrite (.ptag 3) 5) safe) (fun t => t == safe) = true ∧
     goes (exec (.configSpaceWrite (.ptag 0) 5) safe) (fun t => t.ptags == [(0, 5)]) = true) := by decide +kernel

/-- HostAccesses: BAR 2 of function 0, which owns every cluster. -/
theorem witness_Host_bar :
    let s := withWin up 1 { w8 with mode := .ingress, fill := 1 }
    s.clustersOf 0 = List.range 24 ∧
    goes (exec (.hostFill (.bar 0 16 8) 7) s) (fun t => (t.winAt 0 1).fill == 2) = true ∧
    goes (exec (.hostReadPointers (.bar 0 24 8)) s) (fun t => t.hostReply == 0x100000000) = true ∧
    goes (exec (.hostFill (.bar 0 16 4) 7) s) (fun t => t.cores == s.cores && t.hostErrors == [(0, 1)]) = true ∧
    goes (exec (.hostFill (.bar 0 0x30000 8) 7) s) (fun t => (t.unitAt 1).records.elems == [7]) = true ∧
    goes (exec (.hostReadElement (.bar 0 0x10020 8)) s) (fun t => t.hostReply == 0xFFFFFFFFFFFFFFFF && t.hostErrors == [(0, 1)]) = true ∧
    goes (exec (.hostFill (.bar 0 (24 * 0x20000) 8) 7) s) (fun t => t == s) = true := by decide +kernel

theorem witness_Tenants_shares :
    let s := { up with shares := [(0, 100)] }
    goes (exec (.configSpaceWrite (.share 0 1) 156) s) (fun t => t.share 0 1 == 156 && t.bucket 0 1 == 0) = true ∧
    goes (exec (.configSpaceWrite (.share 0 1) 157) s) (fun t => t == s) = true ∧
    goes (exec (.configSpaceWrite (.share 0 0) 50) s) (fun t => t.bucket 0 0 == 25600) = true ∧
    goes (exec (.configSpaceWrite (.share 0 0) 200) s) (fun t => t.bucket 0 0 == 51200) = true := by decide +kernel

theorem witness_Tenants_loans :
    let k : Core := { Core.init with stall := Core.init.stall.set 2 9, trc := ⟨0, 3, true, 4⟩ }
    let s := { (up.setCluster 0 { Cluster.init with owner := some 3 }).setCore 0 k with tick := 100 }
    goes (exec (.stallCounterLoan 0) s) (fun t => t.sysRead 0 0 0x142 100 true == some 9 &&
      t.sysRead 0 0 0x141 100 true == some 100 && t.sysRead 0 0 0x142 100 false == some 0 &&
      t.sysRead 0 0 0x141 100 false == some 0 &&
      goes (exec (.loanReturn 0 false) t) fun u => u.sysRead 0 0 0x142 100 true == some 9 &&
        u.sysRead 0 0 0x141 100 true == some 100 && !(u.coreAt 0).stallLent) = true ∧
    goes (exec (.traceLoan 0 7) s) (fun t => (t.clusterAt 0).traceLoan == some 7 && (t.coreAt 0).trcLent &&
      t.sysRead 0 0 0x131 100 true == s.sysRead 0 0 0x131 100 true) = true ∧
    goes (exec (.traceLoan 1 7) s) (fun t => t == s) = true := by decide +kernel

theorem witness_Tenants_reset :
    let u : LaunchUnit := { LaunchUnit.init with records := ⟨0, 2, [1, 2]⟩, cc := LaunchUnit.init.cc.set 1 4 }
    let s := withWin ((up.setCluster 0 { Cluster.init with owner := some 3, unit := u }).setCore 0
      { Core.init with group := some 0, slots := [(1, sl0)] }) 2 w8
    let busy := s.setNet 4 { Net.init with owner := some 3, tokens := [⟨0, 0, 0, 0, 0, 0⟩] }
    goes (exec (.vfReset 3) s) (fun t => t.resets == [] && (t.coreAt 0).group == none && (t.slotAt 0 1).status == .free &&
      t.winAt 0 2 == Win.init && (t.unitAt 0).records.elems == [] && (t.unitAt 0).cc == u.cc) = true ∧
    goes (exec (.vfReset 3) busy) (fun t => t.resets == [3] && (t.netAt 4).state == .draining) = true ∧
    goes (exec (.vfReset 3) { s with device := { s.device with dev := .safe } }) (fun t => t.resets == [] &&
      (t.coreAt 0).group == some 0) = true ∧
    goes (exec (.vfReset 0) s) (fun t => t == s) = true ∧ goes (exec (.vfReset 24) s) (fun t => t == s) = true := by
  decide +kernel

theorem witness_Host_fill :
    let s := withWin (withWin up 1 { w8 with mode := .ingress, fill := 1 }) 2 { w8 with mode := .egress, fill := 2 }
    s.fenced 0 = false ∧
    goes (exec (.hostFill (.core 0 1) 0x0102) s) (fun t => (t.winAt 0 1).fill == 2 &&
      tgets 0 (t.coreAt 0).wstore 8 3 == [2, 1, 0]) = true ∧
    goes (exec (.hostFill (.core 0 2) 1) s) (fun t => t.hostErrors == [(0, 1)] && t.cores == s.cores) = true ∧
    goes (exec (.hostShrink (.core 0 2) 2) s) (fun t => (t.winAt 0 2).head == 2) = true ∧
    goes (exec (.hostShrink (.core 0 2) 3) s) (fun t => t.hostErrors == [(0, 1)]) = true ∧
    goes (exec (.hostFill (.core 0 1) 1) (s.setCluster 0 { Cluster.init with owner := none })) (fun t =>
      t.cores == s.cores) = true := by decide +kernel

theorem witness_Host_services :
    let u (n : Nat) : LaunchUnit := { LaunchUnit.init with
      records := ⟨0, BitVec.ofNat 32 n, List.replicate n 0⟩, status := ⟨0, 2, [7, 8]⟩ }
    let s (n : Nat) : State := unitS (u n)
    goes (exec (.hostFill (.records 0) 5) (s 767)) (fun t => (t.unitAt 0).records.elems.getLast? == some 5 &&
      t.agenda == [.launchRecordRead 0]) = true ∧
    goes (exec (.hostFill (.records 0) 5) (s 768)) (fun t => t.hostErrors == [(0, 1)]) = true ∧
    goes (exec (.hostFill (.status 0) 5) (s 0)) (fun t => t.hostErrors == [(0, 1)]) = true ∧
    goes (exec (.hostShrink (.status 0) 2) (s 0)) (fun t => (t.unitAt 0).status == ⟨2, 2, []⟩) = true ∧
    goes (exec (.hostReadElement (.status 0)) (s 0)) (fun t => t.hostReply == 7) = true ∧
    goes (exec (.hostReadPointers (.status 0)) (s 0)) (fun t => t.hostReply == 0x0000000200000000) = true := by decide +kernel

theorem witness_Host_reads :
    let s := withWin (up.setCore 0 { Core.init with wstore := [(0, 5), (1, 6)] }) 1 { w8 with fill := 1 }
    let off := { s with device := { s.device with dev := .safe } }
    goes (exec (.hostReadElement (.core 0 1)) s) (fun t => t.hostReply == 0x0605) = true ∧
    goes (exec (.hostReadElement (.core 0 2)) s) (fun t => t.hostReply == 0) = true ∧
    goes (exec (.hostReadPointers (.core 0 1)) s) (fun t => t.hostReply == 0x100000000) = true ∧
    goes (exec (.hostReadPointers (.core 0 1)) off) (fun t => t.hostReply == 0xFFFFFFFFFFFFFFFF &&
      t.hostErrors == [(0, 1)]) = true ∧
    (let dead := s.setDie 0 { s.dieAt 0 with fenced := true }
     goes (exec (.hostMemoryWrite 8 [1, 0, 2]) dead) (fun t => t == dead) = true) ∧
    goes (exec (.hostMemoryWrite 8 [1, 0, 2]) s) (fun t => t.mem == [(8, 1), (10, 2)]) = true := by decide +kernel

/-- A firmware image whose key has modulus 1, so that any signature is one of its digest. -/
def fw1 : Firmware := ⟨[1, 2], 6, ⟨1, 0⟩⟩

/-- The hash of that key. -/
def fw1Key : BitVec 512 := Config.sha512 (bytesOf 512 1)

/-- A bring-up in which every stage passes. -/
def goodBoot : BootResults := ⟨true, fw1, [8], true, true, none⟩

theorem fw1_verified : firmwareVerified fw1 fw1Key = true := by
  have h : fw1.proof.key.toNat = 1 := by decide +kernel
  simp only [firmwareVerified, h, Nat.mod_one, fw1Key, decide_true, Bool.and_self]

theorem goodBoot_passes : bootFailure goodBoot fw1Key = none := by
  simp [bootFailure, goodBoot, fw1_verified]

theorem witness_Device_power :
    let off := { (at0 sl0) with device := { State.reset.device with dev := .off }, mem := [(0, 1), (2 * 2 ^ 58, 3)] }
    let safe := { (at0 sl0) with device := { State.reset.device with dev := .safe } }
    let on := { (at0 sl0) with device := { State.reset.device with dev := .running } }
    goes (exec (.powerApplied { goodBoot with keyStoreOk := false }) off) (fun t => t.device.cause == 1 &&
      t.device.measurements == [] && t.cores == []) = true ∧
    goes (exec (.powerApplied goodBoot) safe) (fun t => t == safe) = true ∧ safe.mailboxTakes = true ∧
    goes (exec (.mailboxRestart { goodBoot with keyStoreOk := false }) safe) (fun t => t.device.dev == .safe &&
      t.device.reply == [0]) = true ∧
    goes (exec .powerRemoved off) (fun t => t.device.dev == .off && t.mem == [(2 * 2 ^ 58, 3)]) = true ∧
    ({ on with device := { on.device with busy := true, pending := some .status } }.alarm .lid).device.pending = some .status ∧
    (on.alarm .lid).device.dev = .safe ∧ (on.alarm .lid).device.alarmLatch = true ∧
    (Core.alarmed (on.coreAt 0) 7).stop = .halted ∧
    goes (exec (.alarmTrip .lid) off) (fun t => t == off) = true := by decide +kernel

/-- Device: a package in reset whose fused hash is that of the key meets the premises of a good bring-up. -/
theorem witness_Device_boot :
    let s := { State.reset with device := { State.reset.device with keyHash := fw1Key } }
    (s.boot goodBoot).device.dev = .running ∧ (s.boot goodBoot).device.fwver = 6 ∧
    (s.boot goodBoot).device.measurements = [Config.sha512 [1, 2]] ∧
    bootFailure { goodBoot with sparesNeeded := [9] } fw1Key = some 3 := by
  have h : bootFailure goodBoot fw1Key = none := goodBoot_passes
  refine ⟨?_, ?_, ?_, ?_⟩
  · simp [State.boot, State.bare, Device.unbooted, h]; rfl
  · simp [State.boot, State.bare, Device.unbooted, h]; rfl
  · simp [State.boot, State.bare, Device.unbooted, h]; rfl
  · simp [bootFailure, goodBoot, fw1_verified]

theorem witness_Device_mailbox :
    let d := { State.reset.device with dev := .running, measurements := [5], spares := 2, fwver := 3 }
    let s := { State.reset with device := d }
    let on (m : MailCmd) : State := { State.reset with device := { d with busy := true, pending := some m } }
    let nets := (List.range 32).foldl (fun s n => s.setNet n { Net.init with state := .closed }) s
    s.mailboxTakes = true ∧ nets.quiescent = true ∧ s.quiescent = false ∧ (on .status).mailboxTakes = false ∧
    goes (exec .mailboxStatus s) (fun t => t == on .status) = true ∧ goes (exec .mailboxDiag s) (fun t => t == on .diag) = true ∧
    goes (exec (.mailboxAttest 9) s) (fun t => t == on (.attest 9)) = true ∧
    goes (exec (.mailboxOther 0) (on .status)) (fun t => t == on .status) = true ∧
    (on .status).mailboxWord = 0x0000000302001001 ∧ (on .status).mailboxTick.device.reply = [0x0000000302000001] ∧
    (on .diag).mailboxTick.device.reply.drop 1 = [5, 0, 0, 0, 0, 0, 0, 0] ∧
    ((on (.attest 9)).mailboxTick.device.reply.take 14 = [0x41343431362D3445, 0, 5, 0, 0, 0, 0, 0, 0, 0, 9, 0, 0, 0] ∧
      (on (.attest 9)).mailboxTick.device.reply.length = 22) ∧
    (on .other).mailboxTick.device.reply.length = 1 ∧
    goes (exec (.firmwareSwitchover [1, 2] 6 ⟨1, 0⟩) s) (fun t => t == s) = true := by decide +kernel

/-- Device: the switchover's premises are met by a quiescent device with the hash of the key, and by one without it. -/
theorem witness_Device_firmware :
    let s (h : BitVec 512) : State := { (List.range 32).foldl (fun (s : State) n => s.setNet n { Net.init with state := .closed })
      State.reset with device := { State.reset.device with dev := .running, keyHash := h } }
    (s fw1Key).quiescent = true ∧ firmwareVerified fw1 (s fw1Key).device.keyHash = true ∧
    firmwareVerified fw1 (~~~fw1Key) = false := by
  refine ⟨rfl, fw1_verified, ?_⟩
  have h : fw1Key ≠ ~~~fw1Key := by
    intro e
    have : fw1Key.getLsbD 0 = (~~~fw1Key).getLsbD 0 := by rw [← e]
    simp at this
  have hk : fw1.proof.key.toNat = 1 := by decide +kernel
  simp only [firmwareVerified, hk]
  rw [show Config.sha512 (bytesOf 512 1) = fw1Key from rfl]
  simp [h]

theorem witness_Device_repairs :
    let s := withWin (up.setCore 0 { Core.init with classq := [(2, [⟨4⟩])] }) 1 w8
    let busy := (s.setCore 0 { Core.init with group := some 0 }).setGroup 0 (grp true)
    goes (exec (.coreSparing 0) s) (fun t => t.device.spares == 1 && (t.coreAt 0).classq == [(2, [⟨4⟩])] &&
      t.winAt 0 1 == Win.init && t.device.sparing == []) = true ∧
    goes (exec (.coreSparing 0) busy) (fun t => t.agenda == [.groupPreempt 0] && t.device.sparing == [0]) = true ∧
    goes (exec (.dieFencing 1) s) (fun t => (t.dieAt 1).fenced && (t.clusterAt 6).owner == none &&
      (t.clusterAt 5).owner == some 0 && (t.netAt 15).owner == none && (t.netAt 16).owner == some 0) = true ∧
    goes (exec (.packageReplacement 0 3) (s.setPod 0 ⟨1, 0, 5, 2⟩)) (fun t => t.domain == 8 && (t.podAt 0).mask == 12) = true ∧
    goes (exec .softErrorCorrected s) (fun t => t.device.softErrors == 1) = true ∧
    goes (exec (.hbmSparing 0 0) s) (fun t => t == s) = true ∧ goes (exec (.laneSparing 0 0) s) (fun t => t == s) = true ∧
    goes (exec (.linkRetry (.memory 64 2)) s) (fun t => t == { s with spoiled := [64, 65] } && t.spoils 65 1 && !t.spoils 66 1) = true ∧
    goes (exec (.linkRetry (.party 0 5)) (up.setCore 0 { Core.init with pktRuns := [⟨{ cmd0 pktX with site := 5 }, [1], none⟩] }))
      (fun t => (t.coreAt 0).pktRuns == [] && (t.clusterAt 0).held.map (fun r => (r.kind, r.info, r.body.head?)) == [(2, 3, some 5)]) = true ∧
    goes (exec (.powerThrottle 0) s) (fun t => t == s) = true ∧ goes (exec (.linkRetry (.link 0)) s) (fun t => t == s) = true := by
  decide +kernel

/-- RegisterFrame, MemoryCanonical and DecodeEncode: an ADD that goes on, a step from a state with memory in canonical
form, a well-formed instruction with a word. -/
theorem witness_Frame :
    destOf (.add .z .d 3 1 2 ⟨0, false⟩) = some (.g 3, false) ∧ HasNext (at0 sl0) ∧
    goes (exec (.add .z .d 3 1 2 ⟨0, false⟩) (at0 sl0)) (fun _ => true) = true ∧
    Memory.wf (State.reset.writeMem 16 [1, 0, 2]).mem = true ∧
    goes (step (State.reset.writeMem 16 [1, 0, 2])) (fun t => decide (t.mem = [(16, 1), (18, 2)])) = true ∧
    (Instr.add .z .d 3 1 2 ⟨0, false⟩).wf = true ∧ (encode (.add .z .d 3 1 2 ⟨0, false⟩)).isSome = true := by
  refine ⟨?_, by unfold HasNext; decide +kernel, ?_, ?_, ?_, ?_, ?_⟩ <;> decide +kernel

end Sys2Proof.Tests
end

section
/-! SUPPORT. Memory is in canonical form along every step (R2, R247): which of the model's operations leave memory
alone, in the order of the model's files, and what those that write it keep. -/

namespace Sys2Proof.Machine

open Sys2Proof

/-! ## Memory where an instruction and a result leave it -/

/-- Memory where an instruction leaves it; a trap leaves the memory it began with. -/
def Out.mem (m : List Host.Cell) (o : Out) : List Host.Cell :=
  match o with
  | .done s | .jump s _ | .hold s | .moved s => s.mem
  | .trap _ => m

/-- Memory where a result leaves it; one that is no next state leaves it as it was. -/
def memOf (m : List Host.Cell) (r : Res) : List Host.Cell :=
  match r with
  | .next s => s.mem
  | .fault _ | .refused _ => m

@[simp] theorem Out.mem_done (m : List Host.Cell) (s : State) : (Out.done s).mem m = s.mem := by
  simp only [Out.mem]

@[simp] theorem Out.mem_jump (m : List Host.Cell) (s : State) (x : Int) : (Out.jump s x).mem m = s.mem := by
  simp only [Out.mem]

@[simp] theorem Out.mem_hold (m : List Host.Cell) (s : State) : (Out.hold s).mem m = s.mem := by
  simp only [Out.mem]

@[simp] theorem Out.mem_moved (m : List Host.Cell) (s : State) : (Out.moved s).mem m = s.mem := by
  simp only [Out.mem]

@[simp] theorem Out.mem_trap (m : List Host.Cell) (t : Trap) : (Out.trap t).mem m = m := by
  simp only [Out.mem]

@[simp] theorem memOf_next (m : List Host.Cell) (s : State) : memOf m (.next s) = s.mem := by
  simp only [memOf]

@[simp] theorem memOf_fault (m : List Host.Cell) (f : Fault) : memOf m (.fault f) = m := by
  simp only [memOf]

theorem within_mem (p : List Host.Cell → Prop) (s0 : State) (o : Out) :
    o.within (fun s => p s.mem) s0 ↔ p (o.mem s0.mem) := by
  cases o <;> rfl

/-! ## Rules: what holds of memory through the shared operations that take a continuation -/

/-- What holds of memory where an instruction began and where it leaves it holds at its end. -/
theorem finish_keeps (p : List Host.Cell → Prop) (s : State) (o : Out) (h0 : p s.mem) (h : p (o.mem s.mem)) :
    p (memOf s.mem (finish s o)) := by
  obtain ⟨t, ht⟩ := finish_next s o
  rw [ht, memOf_next]
  exact finish_mem p s t o h0 ((within_mem p s o).2 h) ht

@[simp] theorem finish_memOf (s : State) (o : Out) (h : o.mem s.mem = s.mem) : memOf s.mem (finish s o) = s.mem :=
  finish_keeps (· = s.mem) s o rfl h

@[simp] theorem guarded_memOf (g : Guard) (s : State) (k : State → Out) (h : (k s).mem s.mem = s.mem) :
    memOf s.mem (guarded g s k) = s.mem := by
  refine finish_memOf s _ ?_
  split
  · exact h
  · simp

@[simp] theorem privileged_mem (i : Instr) (s : State) (k : State → Out) (m : List Host.Cell) :
    (privileged i s k).mem m = if s.me.sup then (k s).mem m else m := by
  unfold privileged
  split <;> simp

@[simp] theorem settled_mem (s : State) (k : State → Out) (m : List Host.Cell) :
    (settled s k).mem m = if s.quiet s.cur s.slot then (k s).mem m else s.mem := by
  unfold settled
  split <;> simp

theorem privileged_keeps (p : List Host.Cell → Prop) (i : Instr) (s : State) (k : State → Out) (h0 : p s.mem)
    (hk : p ((k s).mem s.mem)) : p ((privileged i s k).mem s.mem) := by
  rw [privileged_mem]
  split
  · exact hk
  · exact h0

theorem settled_keeps (p : List Host.Cell → Prop) (s : State) (k : State → Out) (h0 : p s.mem)
    (hk : p ((k s).mem s.mem)) : p ((settled s k).mem s.mem) := by
  rw [settled_mem]
  split
  · exact hk
  · exact h0

/-- A release goes on from a state with the same memory, or holds (R262). -/
theorem released_keeps (p : List Host.Cell → Prop) (s : State) (k : State → Out) (h0 : p s.mem)
    (hk : ∀ u : State, p u.mem → p ((k u).mem u.mem)) : p ((released s k).mem s.mem) := by
  unfold released
  split
  · have h := hk (s.releaseClaims (s.holderOf s.cur s.slot)) (by simpa using h0)
    rwa [releaseClaims_mem] at h
  · simpa using h0

/-- A store behind a release fence goes on from a state with the same memory, or holds (R252). -/
theorem fenced_mem (s : State) (k : State → Out) (h : ∀ u : State, (k u).mem u.mem = u.mem) :
    (fenced s k).mem s.mem = s.mem := by
  unfold fenced
  split
  · exact h s
  · split
    · simpa using h ((s.setMe { s.me with fenceRel := none }).releaseClaims (s.holderOf s.cur s.slot))
    · simp

theorem writable_mem (n : Nat) (s : State) (k : State → Out) (h : (k s).mem s.mem = s.mem) :
    (writable n s k).mem s.mem = s.mem := by
  unfold writable
  simp only []
  split
  · simp
  · simp
  · exact h
  · split
    · exact h
    · simp

theorem imageChecks_keeps (p : List Host.Cell → Prop) (w : Nat) (op : OpKind) (code : BitVec 3) (va : Addr)
    (s : State) (k : Win → Out) (h0 : p s.mem) (hk : p ((k (s.winAt s.cur w)).mem s.mem)) :
    p ((imageChecks w op code va s k).mem s.mem) := by
  unfold imageChecks
  simp only []
  split
  · exact h0
  · split
    · exact h0
    · split
      · exact h0
      · exact hk

theorem withHandle_keeps (p : List Host.Cell → Prop) (h : BitVec 3) (fn : Nat) (s : State) (k : Nat → Net → Out)
    (h0 : p s.mem) (hk : ∀ net n, p ((k net n).mem s.mem)) : p ((withHandle h fn s k).mem s.mem) := by
  unfold withHandle
  simp only []
  split
  · exact h0
  · split
    · exact h0
    · exact hk _ _

theorem onClosed_keeps (p : List Host.Cell → Prop) (h : BitVec 3) (fn : Nat) (s : State) (k : Nat → Net → Out)
    (h0 : p s.mem) (hk : ∀ net n, p ((k net n).mem s.mem)) : p ((onClosed h fn s k).mem s.mem) := by
  refine withHandle_keeps p h fn s _ h0 fun net n => ?_
  split
  · exact hk net n
  · exact h0
  · exact h0

theorem withRound_keeps (p : List Host.Cell → Prop) (c : Nat) (s : State) (k : Image → Round → State) (h0 : p s.mem)
    (hk : ∀ m r, p (k m r).mem) : p (withRound c s k).mem := by
  unfold withRound
  split
  · split
    · exact hk _ _
    · exact h0
  · exact h0

theorem withRound_mem (c : Nat) (s : State) (k : Image → Round → State) (h : ∀ m r, (k m r).mem = s.mem) :
    (withRound c s k).mem = s.mem :=
  withRound_keeps (· = s.mem) c s k rfl h

/-! ## Registers of the issuing slot, traps it holds back -/

@[simp] theorem later_mem (s : State) (e : Instr) : (s.later e).mem = s.mem := by simp [State.later]

@[simp] theorem useRows_mem (s : State) (c a n : Nat) : (s.useRows c a n).mem = s.mem := by simp [State.useRows]

@[simp] theorem edgesOf_mem (s : State) (p : Party) (kind : WaitKind) (es : List Edge) :
    (s.edgesOf p kind es).mem = s.mem := by
  simp [State.edgesOf, foldl_mem_same]

@[simp] theorem takeHeldTraps_mem (s : State) (c t : Nat) : (s.takeHeldTraps c t).mem = s.mem := by
  simp [State.takeHeldTraps, foldl_mem_same, apply_ite State.mem]

@[simp] theorem setG_mem (s : State) (d : BitVec 5) (v : Word) : (s.setG d v).mem = s.mem := rfl

@[simp] theorem setA_mem (s : State) (d : BitVec 4) (v : Addr) : (s.setA d v).mem = s.mem := by simp [State.setA]

@[simp] theorem setP_mem (s : State) (d : BitVec 3) (v : Bool) : (s.setP d v).mem = s.mem := by simp [State.setP]

/-! ## Stream commands: issue, queues, census -/

@[simp] theorem takeHead_mem (s : State) (c : Nat) (p : Port) : (s.takeHead c p).mem = s.mem :=
  foldl_mem_same _ _ (fun u e => by (repeat' split) <;> rfl) _

@[simp] theorem fillDone_mem (s : State) (c : Nat) (e : Ended) : (s.fillDone c e).mem = s.mem := by
  unfold State.fillDone
  simp only []
  (repeat' split) <;> simp

@[simp] theorem doneFills_mem (s : State) (c : Nat) (l : List Ended) : (s.doneFills c l).mem = s.mem := by
  simp [State.doneFills, foldl_mem_same, apply_ite State.mem]

@[simp] theorem enqueue_mem (s : State) (c t : Nat) (p : Port) (x : Wide) : (s.enqueue c t p x).mem = s.mem := by
  unfold State.enqueue
  split <;> simp

@[simp] theorem issOut_mem (r : BitVec 3) (p : Port) (s : State) : (issOut r p s).mem s.mem = s.mem := by
  unfold issOut
  simp only []
  (repeat' split) <;> simp

@[simp] theorem execIss_mem (k : BitVec 3) (p : Port) (s : State) : memOf s.mem (execIss k p s) = s.mem :=
  finish_memOf _ _ (released_keeps (· = s.mem) s _ rfl fun u hu => (issOut_mem k p u).trans hu)

/-! ## What the engines share -/

theorem cmdShrink_mem (s : State) (c w n : Nat) (site : BitVec 46) (retry : Instr) (fail : Word → State)
    (go : State → State) (hf : ∀ d, (fail d).mem = s.mem) (hg : ∀ u : State, (go u).mem = u.mem) :
    (s.cmdShrink c w n site retry fail go).mem = s.mem := by
  unfold State.cmdShrink
  simp only []
  split
  · simp
  · exact hf _
  all_goals exact (hg _).trans (by simp)

/-! ## Block transfers -/

@[simp] theorem bteStart_mem (s : State) (c op : Nat) : (s.bteStart c op).mem = s.mem := by
  unfold State.bteStart
  simp only []
  (repeat' split) <;> simp

@[simp] theorem bteWait_mem (s : State) (c e : Nat) (r : BteRun) (edge : Edge) :
    (s.bteWait c e r edge).mem = s.mem := by
  simp [State.bteWait]

@[simp] theorem bteGo_mem (s : State) (c e : Nat) (retry : Instr) (r : BteRun) :
    (s.bteGo c e retry r).mem = s.mem := by
  simp [State.bteGo]

@[simp] theorem useSource_mem (s : State) (c : Nat) (r : BteRun) (t n : Nat) : (s.useSource c r t n).mem = s.mem := by
  simp [State.useSource, foldl_mem_same]

theorem bteIndex_mem (s : State) (c e : Nat) (r : BteRun) (k : State → BteRun → State)
    (hk : ∀ r, (k s r).mem = s.mem) : (s.bteIndex c e r k).mem = s.mem := by
  unfold State.bteIndex
  simp only []
  split
  · split
    · split
      · simp
      · exact hk r
    · split
      · simp
      · exact hk r
    · simp
  · exact hk r

@[simp] theorem bteReadIssue_mem (s : State) (c e : Nat) (r : BteRun) : (s.bteReadIssue c e r).mem = s.mem := by
  unfold State.bteReadIssue
  simp only []
  split <;> simp

@[simp] theorem gredwWords_mem (s : State) (c e : Nat) (r : BteRun) (t size : Nat) (bs : List Byte) :
    (s.gredwWords c e r t size bs).mem = s.mem := by
  unfold State.gredwWords
  simp only []
  split
  · simp
  · split
    · exact (foldl_mem_same _ _ (fun u w => by split <;> simp) _).trans (bteGo_mem ..)
    · rw [post_mem]
      exact (foldl_mem_same _ _ (fun u w => by split <;> simp) _).trans (bteGo_mem ..)

@[simp] theorem bteWriteIssue_mem (s : State) (c e : Nat) (r : BteRun) : (s.bteWriteIssue c e r).mem = s.mem := by
  unfold State.bteWriteIssue
  simp only []
  (repeat' split) <;> simp

@[simp] theorem wtwSend_mem (s : State) (c e : Nat) (r : BteRun) : (s.wtwSend c e r).mem = s.mem := by
  unfold State.wtwSend
  simp only []
  (repeat' split) <;> simp

@[simp] theorem execBteRequestIssue_mem (c e : Nat) (s : State) :
    memOf s.mem (execBteRequestIssue c e s) = s.mem := by
  unfold execBteRequestIssue
  rw [memOf_next]
  split
  · rfl
  · split
    · rfl
    · split
      · simp
      · exact bteIndex_mem _ _ _ _ _ fun r => by split <;> simp

@[simp] theorem bteData_mem (s : State) (c e t : Nat) (bs : List Byte) : (s.bteData c e t bs).mem = s.mem := by
  unfold State.bteData
  split <;> simp

@[simp] theorem bteAck_mem (s : State) (c e t n : Nat) : (s.bteAck c e t n).mem = s.mem := by
  unfold State.bteAck
  split <;> simp

@[simp] theorem bteShrink_mem (s : State) (c e : Nat) : (s.bteShrink c e).mem = s.mem := by
  unfold State.bteShrink
  split
  · rfl
  · simp only []
    split
    · rfl
    · exact cmdShrink_mem _ _ _ _ _ _ _ _ (fun d => by split <;> simp) fun u => by rfl

@[simp] theorem bteDelivered_mem (s : State) (c e : Nat) (r : BteRun) : (s.bteDelivered c e r).mem = s.mem := by
  unfold State.bteDelivered
  simp only []
  split <;> simp

@[simp] theorem bteFill_mem (s : State) (c e : Nat) (r : BteRun) : (s.bteFill c e r).mem = s.mem := by
  simp [State.bteFill, apply_ite State.mem]

@[simp] theorem execBteElementFill_mem (c e : Nat) (s : State) : memOf s.mem (execBteElementFill c e s) = s.mem := by
  unfold execBteElementFill
  (repeat' split) <;> simp

@[simp] theorem bteLast_mem (s : State) (c e : Nat) (r : BteRun) : (s.bteLast c e r).mem = s.mem := by
  unfold State.bteLast
  simp only []
  split
  · exact cmdShrink_mem _ _ _ _ _ _ _ _ (fun d => by simp) fun u => by simp
  · simp

@[simp] theorem execBteCommandComplete_mem (c e : Nat) (s : State) :
    memOf s.mem (execBteCommandComplete c e s) = s.mem := by
  unfold execBteCommandComplete
  (repeat' split) <;> simp

@[simp] theorem discardReads_mem (s : State) (c : Nat) : (s.discardReads c).mem = s.mem := by
  simp [State.discardReads]

@[simp] theorem wtwArrive_mem (s : State) (c e : Nat) : (s.wtwArrive c e).mem = s.mem := by
  unfold State.wtwArrive
  simp only []
  (repeat' split) <;> simp

@[simp] theorem wtwAnswer_mem (s : State) (c e : Nat) : (s.wtwAnswer c e).mem = s.mem := by
  unfold State.wtwAnswer
  split <;> simp

/-! ## Metered transfers -/

theorem payAll_mem {s t : State} {ten size : Nat} {reqs : List (List Nat)} (h : s.payAll ten size reqs = some t) :
    t.mem = s.mem := by
  induction reqs generalizing s with
  | nil => cases h; rfl
  | cons ports rest ih =>
    unfold State.payAll at h
    split at h
    · exact (ih h).trans (take_mem ..)
    · cases h

@[simp] theorem pay_mem (n : Nat) (s : State) (c : Nat) (op : AccOp) (va : Addr) (size : Nat) :
    (State.pay n s c op va size).1.mem = s.mem := by
  induction n generalizing s va with
  | zero => rfl
  | succ n ih =>
    unfold State.pay
    split
    · next h => exact (ih ..).trans (payAll_mem h)
    · rfl

@[simp] theorem payMore_mem (s : State) (c : Nat) (op : AccOp) (va : Addr) (bytes size gone : Nat) :
    (s.payMore c op va bytes size gone).1.mem = s.mem := pay_mem ..

/-- A transfer goes on from a state with the same memory once its requests have gone, and holds till then (R398). -/

theorem metered_keeps (p : List Host.Cell → Prop) (op : AccOp) (va : Addr) (bytes size : Nat) (s : State)
    (k : State → Out) (h0 : p s.mem) (hk : ∀ u : State, p u.mem → p ((k u).mem s.mem)) :
    p ((metered op va bytes size s k).mem s.mem) := by
  unfold metered
  simp only []
  split
  · exact hk _ (by simpa using h0)
  · simpa using h0

/-! ## Barriers -/

@[simp] theorem setGroup_mem (s : State) (g : Nat) (x : Group) : (s.setGroup g x).mem = s.mem := by
  simp [State.setGroup]

@[simp] theorem fireBarrier_mem (s : State) (gn : Nat) (l : Level) (c : Nat) (b : BitVec 4) (lost : Bool) :
    (s.fireBarrier gn l c b lost).mem = s.mem :=
  foldl_mem_same _ _ (fun _ _ => by rfl) _

@[simp] theorem settleBarrier_mem (s : State) (gn : Nat) (l : Level) (c : Nat) (b : BitVec 4) :
    (s.settleBarrier gn l c b).mem = s.mem := by
  unfold State.settleBarrier
  simp only []
  split <;> simp

@[simp] theorem execBara_mem (d : BitVec 5) (l : Level) (b : BitVec 4) (s : State) :
    memOf s.mem (execBara d l b s) = s.mem :=
  finish_memOf _ _ (released_keeps (· = s.mem) s _ rfl fun _ hu => hu)

@[simp] theorem baraFault_mem (s : State) (c t : Nat) (l : Level) (b : BitVec 4) :
    (s.baraFault c t l b).mem = s.mem := by
  unfold State.baraFault
  simp only []
  split <;> simp

@[simp] theorem baraDone_mem (s : State) (c t : Nat) (gen : BitVec 16) : (s.baraDone c t gen).mem = s.mem := by
  unfold State.baraDone
  simp only []
  split <;> simp

@[simp] theorem execBaraTokenCount_mem (c : Nat) (src : Option Nat) (l : Level) (b : BitVec 4) (s : State) :
    memOf s.mem (execBaraTokenCount c src l b s) = s.mem := by
  unfold execBaraTokenCount
  simp only []
  (repeat' split) <;> simp

@[simp] theorem execBarw_mem (l : Level) (b : BitVec 4) (g : BitVec 5) (s : State) :
    memOf s.mem (execBarw l b g s) = s.mem := by
  unfold execBarw
  simp only []
  split <;> simp

@[simp] theorem execBarc_mem (l : Level) (b : BitVec 4) (c : BitVec 5) (s : State) :
    memOf s.mem (execBarc l b c s) = s.mem := by
  unfold execBarc
  simp only []
  split <;> simp

@[simp] theorem execBarcArrival_mem (c : Nat) (l : Level) (b : BitVec 4) (n : BitVec 16) (s : State) :
    memOf s.mem (execBarcArrival c l b n s) = s.mem := by
  unfold execBarcArrival
  split <;> simp

@[simp] theorem releaseBarws_mem (s : State) (c : Nat) (l : Level) (b : BitVec 4) (gen : BitVec 16) (lost : Bool) :
    (s.releaseBarws c l b gen lost).mem = s.mem := by
  refine foldl_mem_same _ _ (fun u e => ?_) _
  (repeat' split) <;> simp

@[simp] theorem losePod_mem (s : State) (c : Nat) (b : BitVec 4) (gen : BitVec 16) :
    (s.losePod c b gen).mem = s.mem := by
  unfold State.losePod
  split <;> simp

@[simp] theorem releaseArrives_mem (s : State) (c : Nat) (l : Level) (b : BitVec 4) (gen : BitVec 16) (lost : Bool) :
    (s.releaseArrives c l b gen lost).mem = s.mem := by
  simp [State.releaseArrives, apply_ite State.mem]

/-! ## Scalar floating point -/

@[simp] theorem fpOp_mem (t : FpTy) (d : BitVec 5) (g : Guard) (f : Slot → Nat → Nat × Flags) (s : State) :
    memOf s.mem (fpOp t d g f s) = s.mem := by
  simp [fpOp]

/-! ## Fabric rounds -/

@[simp] theorem setRound_mem (s : State) (c : Nat) (r : Round) : (s.setRound c r).mem = s.mem := by
  simp [State.setRound]

@[simp] theorem endsEast_mem (s : State) (c : Nat) (keys : List Nat) : (s.endsEast c keys).mem = s.mem :=
  foldl_mem_same _ _ (fun _ _ => by rfl) _

@[simp] theorem sendCtl_mem (s : State) (c : Nat) (m : Image) (r : Round) (keys : List Nat) (t : CTok) :
    (s.sendCtl c m r keys t).mem = s.mem := by
  unfold State.sendCtl
  split <;> simp

@[simp] theorem lengthFault_mem (s : State) (c e : Nat) (r : Round) : (s.lengthFault c e r).mem = s.mem := by
  simp [State.lengthFault]

@[simp] theorem execElementFire_mem (c e : Nat) (s : State) : memOf s.mem (execElementFire c e s) = s.mem := by
  refine withRound_mem c s _ fun m r => ?_
  simp only []
  (repeat' split) <;> simp

@[simp] theorem forkHop_mem (s : State) (c e : Nat) (m : Image) (r : Round) : (s.forkHop c e m r).mem = s.mem := by
  unfold State.forkHop
  simp only []
  (repeat' split) <;> simp

@[simp] theorem passHop_mem (s : State) (c e o : Nat) (m : Image) (r : Round) :
    (s.passHop c e o m r).mem = s.mem := by
  unfold State.passHop
  simp only []
  (repeat' split) <;> simp

@[simp] theorem ctlHop_mem (s : State) (c e d : Nat) (m : Image) (r : Round) : (s.ctlHop c e d m r).mem = s.mem := by
  unfold State.ctlHop
  simp only []
  (repeat' split) <;> simp

@[simp] theorem execTokenHop_mem (c e src : Nat) (s : State) : memOf s.mem (execTokenHop c e src s) = s.mem := by
  refine withRound_mem c s _ fun m r => ?_
  (repeat' split) <;> simp

@[simp] theorem execRouterOperatorFire_mem (c e : Nat) (o : RouterOp) (s : State) :
    memOf s.mem (execRouterOperatorFire c e o s) = s.mem := by
  refine withRound_mem c s _ fun m r => ?_
  simp only []
  (repeat' split) <;> simp

@[simp] theorem moveRow_mem (s : State) (c x : Nat) (m : Image) (r : Round) (toks : List (Nat × InTok)) (kind : Tok) :
    (s.moveRow c x m r toks kind).mem = s.mem := by
  simp [State.moveRow, apply_ite State.mem]

@[simp] theorem execRowWordMove_mem (c x : Nat) (s : State) : memOf s.mem (execRowWordMove c x s) = s.mem := by
  refine withRound_mem c s _ fun m r => ?_
  simp only []
  (repeat' split) <;> simp

@[simp] theorem execReducerFire_mem (c x : Nat) (s : State) : memOf s.mem (execReducerFire c x s) = s.mem := by
  refine withRound_mem c s _ fun m r => ?_
  simp only []
  (repeat' split) <;> simp

@[simp] theorem execReordBlockEmit_mem (c g : Nat) (s : State) : memOf s.mem (execReordBlockEmit c g s) = s.mem := by
  refine withRound_mem c s _ fun m r => ?_
  simp only []
  (repeat' split) <;> simp

@[simp] theorem execUnitReply_mem (c e : Nat) (s : State) : memOf s.mem (execUnitReply c e s) = s.mem :=
  withRound_mem c s _ fun _ _ => setRound_mem ..

@[simp] theorem genEnd_mem (s : State) (c g : Nat) (r : Round) : (s.genEnd c g r).mem = s.mem := by
  unfold State.genEnd
  simp only []
  split <;> simp

@[simp] theorem genShrink_mem (s : State) (c g : Nat) (r : Round) : (s.genShrink c g r).mem = s.mem := by
  unfold State.genShrink
  simp only []
  split
  · simp
  · exact (cmdShrink_mem _ _ _ _ _ _ _ _ (fun d => by simp) fun u => rfl).trans (setRound_mem ..)

@[simp] theorem execGeneratorPassStart_mem (c g : Nat) (s : State) :
    memOf s.mem (execGeneratorPassStart c g s) = s.mem := by
  refine withRound_mem c s _ fun m r => ?_
  simp only []
  (repeat' split) <;> simp

@[simp] theorem execGeneratorRequest_mem (c g : Nat) (s : State) :
    memOf s.mem (execGeneratorRequest c g s) = s.mem := by
  refine withRound_mem c s _ fun m r => ?_
  simp only []
  (repeat' split) <;> simp

@[simp] theorem genMark_mem (s : State) (c g : Nat) : (s.genMark c g).mem = s.mem := by
  unfold State.genMark
  simp only []
  (repeat' split) <;> simp

@[simp] theorem genData_mem (s : State) (c g tag : Nat) (bs : List Byte) : (s.genData c g tag bs).mem = s.mem := by
  unfold State.genData
  simp only []
  (repeat' split) <;> simp

@[simp] theorem execGeneratorReply_mem (c g : Nat) (s : State) : memOf s.mem (execGeneratorReply c g s) = s.mem := by
  refine withRound_mem c s _ fun m r => ?_
  simp only []
  (repeat' split) <;> simp

@[simp] theorem sinkPut_mem (s : State) (c k : Nat) (m : Image) (r : Round) : (s.sinkPut c k m r).mem = s.mem := by
  simp [State.sinkPut, apply_ite State.mem]

@[simp] theorem execSinkFill_mem (c k : Nat) (s : State) : memOf s.mem (execSinkFill c k s) = s.mem := by
  refine withRound_mem c s _ fun m r => ?_
  extract_lets x word drop need key
  split
  · simp
  · split
    all_goals simp [apply_ite State.mem]

@[simp] theorem execRoundEnd_mem (c : Nat) (s : State) : memOf s.mem (execRoundEnd c s) = s.mem := by
  refine withRound_mem c s _ fun m r => ?_
  simp only []
  (repeat' split) <;> simp

@[simp] theorem laneRelease_mem (s : State) (c n : Nat) : (s.laneRelease c n).mem = s.mem := by
  unfold State.laneRelease
  (repeat' split) <;> simp

@[simp] theorem execBarrierReleaseArrival_mem (c : Nat) (l : Level) (b : BitVec 4) (gen : BitVec 16) (lost : Bool)
    (s : State) :
    memOf s.mem (execBarrierReleaseArrival c l b gen lost s) = s.mem := by
  simp [execBarrierReleaseArrival, apply_ite State.mem]

/-! ## Draining a round, the fab commands -/

@[simp] theorem startDrain_mem (s : State) (c : Nat) (d : Drain) : (s.startDrain c d).mem = s.mem := by
  unfold State.startDrain
  (repeat' split) <;> simp

@[simp] theorem execMarkerAlign_mem (c e : Nat) (s : State) : memOf s.mem (execMarkerAlign c e s) = s.mem := by
  refine withRound_mem c s _ fun m r => ?_
  (repeat' split) <;> simp

@[simp] theorem resumeRound_mem (s : State) (c : Nat) : (s.resumeRound c).mem = s.mem := by
  unfold State.resumeRound
  (repeat' split) <;> simp [foldl_mem_same]

@[simp] theorem configFault_mem (s : State) (c : Nat) (x : Cmd) (detail : Nat) :
    (s.configFault c x detail).mem = s.mem := by
  simp [State.configFault]

@[simp] theorem checkImage_mem (s : State) (c : Nat) (x : Cmd) : (s.checkImage c x).mem = s.mem := by
  unfold State.checkImage
  simp only []
  split <;> simp

@[simp] theorem runFab_mem (s : State) (c : Nat) (x : Cmd) : (s.runFab c x).mem = s.mem := by simp [State.runFab]

@[simp] theorem execFcfg_mem (c : Nat) (s : State) : memOf s.mem (execFcfg c s) = s.mem := by
  unfold execFcfg
  simp only []
  (repeat' split) <;> simp [foldl_mem_same]

@[simp] theorem fcfgData_mem (s : State) (c : Nat) (site : BitVec 46) (tag : Nat) (bs : List Byte) :
    (s.fcfgData c site tag bs).mem = s.mem := by
  unfold State.fcfgData
  simp only []
  (repeat' split) <;> simp

@[simp] theorem execFrun_mem (c : Nat) (s : State) : memOf s.mem (execFrun c s) = s.mem := by
  unfold execFrun
  simp only []
  (repeat' split) <;> simp

@[simp] theorem execFstop_mem (c : Nat) (s : State) : memOf s.mem (execFstop c s) = s.mem := by
  unfold execFstop
  simp only []
  (repeat' split) <;> simp

@[simp] theorem agsetRead_mem (s : State) (c : Nat) (x : Cmd) : (s.agsetRead c x).mem = s.mem := by
  unfold State.agsetRead
  simp only []
  (repeat' split) <;> simp

@[simp] theorem execAgset_mem (c : Nat) (s : State) : memOf s.mem (execAgset c s) = s.mem := by
  unfold execAgset
  simp only []
  (repeat' split) <;> simp [foldl_mem_same]

@[simp] theorem execAgprm_mem (c : Nat) (s : State) : memOf s.mem (execAgprm c s) = s.mem := by
  unfold execAgprm
  simp only []
  (repeat' split) <;> simp

@[simp] theorem execFmark_mem (c : Nat) (s : State) : memOf s.mem (execFmark c s) = s.mem := by
  unfold execFmark
  simp only []
  (repeat' split) <;> simp

/-! ## The global-memory instructions of a task -/

@[simp] theorem access_mem (op : AccOp) (va : Addr) (n : Nat) (code : BitVec 3) (o : Order) (dest : Dest)
    (s : State) :
    (access op va n code o dest s).mem s.mem = s.mem := by
  unfold access
  simp only []
  (repeat' split) <;> simp

@[simp] theorem gld_mem (n : Nat) (signed : Bool) (d : BitVec 5) (a : BitVec 4) (o : Order) (f : BitVec 11)
    (s : State) :
    memOf s.mem (gld n signed d a o f s) = s.mem := by
  simp [gld]

@[simp] theorem gst_mem (n : Nat) (z : BitVec 5) (a : BitVec 4) (o : Order) (f : BitVec 11) (s : State) :
    memOf s.mem (gst n z a o f s) = s.mem :=
  finish_memOf _ _ (fenced_mem s _ fun u => access_mem _ _ _ _ _ _ u)

@[simp] theorem execRed_mem (op : RedOp) (dbl signed fast : Bool) (o : Order) (d : BitVec 5) (a : BitVec 4) (g : Guard)
    (s : State) : memOf s.mem (execRed op dbl signed fast o d a g s) = s.mem :=
  guarded_memOf _ _ _ (fenced_mem s _ fun u => access_mem _ _ _ _ _ _ u)

@[simp] theorem execAmo_mem (op : AmoOp) (dbl : Bool) (o : Order) (d : BitVec 5) (a : BitVec 4) (g : Guard)
    (s : State) : memOf s.mem (execAmo op dbl o d a g s) = s.mem := by
  refine guarded_memOf _ _ _ (fenced_mem s _ fun u => ?_)
  extract_lets n go
  have hgo (v : State) : (go v).mem v.mem = v.mem := access_mem _ _ _ _ _ _ v
  split
  · exact released_keeps (· = u.mem) u go rfl fun v hv => (hgo v).trans hv
  · exact hgo u

@[simp] theorem fenceOut_mem (o : FenceKind) (s : State) : (fenceOut o s).mem s.mem = s.mem := by
  cases o
  case full =>
    exact released_keeps (· = s.mem) s (fun s => .done (s.setMe { s.me with fenceRel := none })) rfl fun _ hu => hu
  all_goals
    unfold fenceOut
    simp only []
    split <;> simp

@[simp] theorem invalidate_mem (s : State) (k : TlbKind) (asid : BitVec 12) (va : Nat) :
    (s.invalidate k asid va).mem = s.mem := by
  refine (foldl_mem_same _ _ (fun _ _ => by rfl) _).trans ?_
  refine (foldl_mem_same _ _ (fun _ _ => by rfl) _).trans ?_
  exact foldl_mem_same _ _ (fun _ _ => by rfl) _

@[simp] theorem execTlbinv_mem (a : BitVec 4) (k : TlbKind) (s : State) : memOf s.mem (execTlbinv a k s) = s.mem := by
  refine finish_memOf _ _ <| privileged_keeps (· = s.mem) _ s _ rfl <|
    released_keeps (· = s.mem) s _ rfl fun u hu => ?_
  simp only []
  split <;> simp [hu]

/-! ## The service windows -/

@[simp] theorem setService_mem (s : State) (cl num w : Nat) (x : Service) :
    (s.setService cl num w x).mem = s.mem := by
  simp [State.setService]

@[simp] theorem serviceFill_mem (s : State) (cl num w : Nat) (v : Word) : (s.serviceFill cl num w v).mem = s.mem := by
  unfold State.serviceFill
  split <;> simp

@[simp] theorem serviceShrink_mem (s : State) (cl num w n : Nat) : (s.serviceShrink cl num w n).mem = s.mem := by
  simp [State.serviceShrink, apply_ite State.mem]

/-! ## Accesses after they start -/

@[simp] theorem taskGoes_mem (s : State) (a : Acc) : (s.taskGoes a).mem = s.mem := by
  unfold State.taskGoes
  (repeat' split) <;> simp

@[simp] theorem applyLeaf_mem (s : State) (a : Acc) (e : TlbEntry) : (s.applyLeaf a e).mem = s.mem := by
  unfold State.applyLeaf
  simp only []
  split <;> simp

@[simp] theorem miss_mem (s : State) (a : Acc) : (s.miss a).mem = s.mem := by
  simp [State.miss, apply_ite State.mem]

@[simp] theorem lookup_mem (s : State) (a : Acc) : (s.lookup a).mem = s.mem := by
  unfold State.lookup
  simp only []
  (repeat' split) <;> simp

@[simp] theorem execClusterTlbLookup_mem (id : Nat) (s : State) :
    memOf s.mem (execClusterTlbLookup id s) = s.mem := by
  unfold execClusterTlbLookup
  (repeat' split) <;> simp

@[simp] theorem execPageWalkStart_mem (die : Nat) (s : State) : memOf s.mem (execPageWalkStart die s) = s.mem := by
  unfold execPageWalkStart
  simp only []
  (repeat' split) <;> simp

@[simp] theorem walkLeaf_mem (s : State) (cl : Nat) (e : TlbEntry) : (s.walkLeaf cl e).mem = s.mem := by
  simp [State.walkLeaf, foldl_mem_same]

@[simp] theorem walkFault_mem (s : State) (cl : Nat) (key : BitVec 12 × Nat) (why level : Nat) :
    (s.walkFault cl key why level).mem = s.mem := by
  simp [State.walkFault, foldl_mem_same]

@[simp] theorem execWalkComplete_mem (die : Nat) (k : WalkRead) (s : State) :
    memOf s.mem (execWalkComplete die k s) = s.mem := by
  unfold execWalkComplete
  rw [memOf_next]
  simp only []
  split
  · rfl
  · split
    · rfl
    · split
      · rfl
      · next h => split <;> simp [payAll_mem h]

@[simp] theorem answer_mem (s : State) (cl : Nat) (v : Word) : (s.answer cl v).mem = s.mem := by
  unfold State.answer
  simp only []
  split
  · refine (foldl_mem_same _ _ (fun u a => ?_) _).trans ?_
    · split <;> simp
    · split <;> rfl
  · refine (foldl_mem_same _ _ (fun u a => ?_) _).trans ?_
    · (repeat' split) <;> simp
    · split <;> rfl

@[simp] theorem execFaultAnswer_mem (cl : Nat) (s : State) : memOf s.mem (execFaultAnswer cl s) = s.mem := by
  simp [execFaultAnswer, foldl_mem_same, apply_ite State.mem]

@[simp] theorem replyTask_mem (s : State) (a : Acc) : (s.replyTask a).mem = s.mem := by
  unfold State.replyTask
  simp only []
  (repeat' split) <;> simp

@[simp] theorem mirrorDone_mem (s : State) (a : Acc) (w : Nat) : (s.mirrorDone a w).mem = s.mem := by
  unfold State.mirrorDone
  (repeat' split) <;> simp

@[simp] theorem execAccessReply_mem (id : Nat) (s : State) : memOf s.mem (execAccessReply id s) = s.mem := by
  unfold execAccessReply
  (repeat' split) <;> simp

@[simp] theorem execRefillReadStart_mem (c w : Nat) (s : State) :
    memOf s.mem (execRefillReadStart c w s) = s.mem := by
  unfold execRefillReadStart
  simp only []
  split <;> simp

@[simp] theorem execRefillLand_mem (c w : Nat) (s : State) : memOf s.mem (execRefillLand c w s) = s.mem := by
  unfold execRefillLand
  simp only []
  (repeat' split) <;> simp

@[simp] theorem pointerWrite_mem (s : State) (c w : Nat) (m : Mirror) (site : BitVec 46) (fill count : BitVec 32)
    (after : List Nat) :
    (s.pointerWrite c w m site fill count after).mem = s.mem := by
  simp [State.pointerWrite]

@[simp] theorem execEgressMirrorWrite_mem (c w : Nat) (s : State) :
    memOf s.mem (execEgressMirrorWrite c w s) = s.mem := by
  unfold execEgressMirrorWrite
  simp only []
  (repeat' split) <;> simp

/-! ## Compare, select, fields, addresses, predicates, control -/

@[simp] theorem execLoop_mem (d : BitVec 5) (i : BitVec 16) (s : State) : memOf s.mem (execLoop d i s) = s.mem := by
  unfold execLoop
  split <;> simp

@[simp] theorem repOut_mem (n : BitVec 6) (sd sa sb : Bool) (s : State) :
    (repOut n sd sa sb s).mem s.mem = s.mem := by
  unfold repOut
  simp only []
  (repeat' split) <;> simp

/-! ## Task slots -/

@[simp] theorem wakeKind_mem (s : State) (c : Nat) (kind : WaitKind) : (s.wakeKind c kind).mem = s.mem :=
  foldl_mem_same _ _ (fun u e => by (repeat' split) <;> rfl) _

@[simp] theorem bindSlot_mem (s : State) (c t : Nat) (b : BitVec 26) : (s.bindSlot c t b).mem = s.mem := by
  simp [State.bindSlot]

@[simp] theorem execTbind_mem (z e : BitVec 5) (s : State) : memOf s.mem (execTbind z e s) = s.mem := by
  unfold execTbind
  simp only []
  (repeat' split) <;> simp

@[simp] theorem unbindSlot_mem (s : State) (c t : Nat) : (s.unbindSlot c t).mem = s.mem := by
  unfold State.unbindSlot
  simp only []
  split <;> simp

@[simp] theorem execTunb_mem (z : BitVec 5) (s : State) : memOf s.mem (execTunb z s) = s.mem := by
  unfold execTunb
  split <;> simp

@[simp] theorem setPrio_mem (s : State) (c t : Nat) (n : BitVec 2) : (s.setPrio c t n).mem = s.mem := by
  simp [State.setPrio]

@[simp] theorem execTprio_mem (z : BitVec 5) (n : BitVec 2) (s : State) : memOf s.mem (execTprio z n s) = s.mem := by
  unfold execTprio
  split <;> simp

@[simp] theorem execSpawn_mem (e a : BitVec 5) (s : State) : memOf s.mem (execSpawn e a s) = s.mem := by
  unfold execSpawn
  simp only []
  (repeat' split) <;> simp

@[simp] theorem retireEncounter_mem (s : State) (c t : Nat) : (s.retireEncounter c t).mem = s.mem := by
  unfold State.retireEncounter
  simp only []
  split <;> simp

@[simp] theorem retireSlot_mem (s : State) (c t : Nat) : (s.retireSlot c t).mem = s.mem := by
  unfold State.retireSlot
  simp only []
  split <;> simp

@[simp] theorem retire_mem (s : State) (c t : Nat) : (s.retire c t).mem = s.mem := by simp [State.retire]

@[simp] theorem execTret_mem (s : State) : memOf s.mem (execTret s) = s.mem :=
  finish_memOf _ _ (released_keeps (· = s.mem) s _ rfl fun u hu => by simpa using hu)

/-! ## System registers, traps and kills -/

@[simp] theorem execSrd_mem (d : BitVec 5) (n : BitVec 10) (s : State) : memOf s.mem (execSrd d n s) = s.mem := by
  unfold execSrd
  split <;> simp

@[simp] theorem slotctl_mem (s : State) (c : Nat) (v : Word) : (s.slotctl c v).mem = s.mem := by
  unfold State.slotctl
  split <;> simp

@[simp] theorem sysWrite_mem (s : State) (c t n : Nat) (v : Word) (tick : Word) (guest : Bool) :
    (s.sysWrite c t n v tick guest).mem = s.mem := by
  unfold State.sysWrite
  split <;> simp

@[simp] theorem swrOut_mem (n : Nat) (v : Word) (s : State) : (swrOut n v s).mem s.mem = s.mem := by
  refine writable_mem n s _ ?_
  simp only []
  split <;> simp

@[simp] theorem backingOut_mem (n w : Nat) (f : Win → Win) (s : State) : (backingOut n w f s).mem s.mem = s.mem := by
  refine writable_mem n s _ ?_
  simp only []
  split <;> simp

@[simp] theorem resumeSlot_mem (s : State) (c t : Nat) : (s.resumeSlot c t).mem = s.mem := by
  unfold State.resumeSlot
  simp only []
  split <;> simp

@[simp] theorem freeSlot_mem (s : State) (c t : Nat) : (s.freeSlot c t).mem = s.mem := by simp [State.freeSlot]

@[simp] theorem killSlot_mem (s : State) (c t : Nat) : (s.killSlot c t).mem = s.mem := by
  simp [State.killSlot, apply_ite State.mem]

@[simp] theorem raise_mem (s : State) (tr : Trap) (ret : BitVec 12) : memOf s.mem (s.raise tr ret) = s.mem := by
  simp [State.raise]

@[simp] theorem execTrap_mem (n : BitVec 10) (s : State) : memOf s.mem (execTrap n s) = s.mem := by
  unfold execTrap
  split <;> simp

@[simp] theorem debugBreak_mem (s : State) (n : BitVec 10) : (s.debugBreak n).mem = s.mem := by
  simp [State.debugBreak]

@[simp] theorem execBrk_mem (n : BitVec 10) (s : State) : memOf s.mem (execBrk n s) = s.mem := by
  unfold execBrk
  split <;> simp

/-! ## The matrix unit -/

@[simp] theorem setMx_mem (s : State) (c : Nat) (m : Mx) : (s.setMx c m).mem = s.mem := by simp [State.setMx]

@[simp] theorem encounterDone_mem (s : State) (c : Nat) (site : Nat) (fault : Bool) :
    (s.encounterDone c site fault).mem = s.mem := by
  simp [State.encounterDone]

@[simp] theorem mxFollow_mem (s : State) (c : Nat) (r : MxRun) : (s.mxFollow c r).mem = s.mem := by
  unfold State.mxFollow
  (repeat' split) <;> simp

@[simp] theorem mxRelease_mem (s : State) (c : Nat) (site : BitVec 46) : (s.mxRelease c site).mem = s.mem := by
  unfold State.mxRelease
  simp only []
  split <;> simp

@[simp] theorem mxEnd_mem (s : State) (c : Nat) (r : MxRun) (slotSide : Bool) :
    (s.mxEnd c r slotSide).mem = s.mem := by
  simp [State.mxEnd]

@[simp] theorem mxFail_mem (s : State) (c : Nat) (r : MxRun) (cls : Nat) (detail : Word) :
    (s.mxFail c r cls detail).mem = s.mem := by
  simp [State.mxFail]

@[simp] theorem mxStart_mem (s : State) (c : Nat) (r : MxRun) (place effect : Mx → Mx) (next : Instr) :
    (s.mxStart c r place effect next).mem = s.mem := by
  unfold State.mxStart
  simp only []
  split <;> simp

@[simp] theorem execMxw_mem (c : Nat) (s : State) : memOf s.mem (execMxw c s) = s.mem := by
  unfold execMxw
  simp only []
  (repeat' split) <;> simp

@[simp] theorem execMxa_mem (c : Nat) (s : State) : memOf s.mem (execMxa c s) = s.mem := by
  unfold execMxa
  simp only []
  (repeat' split) <;> simp

@[simp] theorem execMxswp_mem (c : Nat) (s : State) : memOf s.mem (execMxswp c s) = s.mem := by
  unfold execMxswp
  simp only []
  (repeat' split) <;> simp

@[simp] theorem execMxtm_mem (c : Nat) (s : State) : memOf s.mem (execMxtm c s) = s.mem := by
  unfold execMxtm
  simp only []
  (repeat' split) <;> simp

@[simp] theorem execMxz_mem (c : Nat) (s : State) : memOf s.mem (execMxz c s) = s.mem := by
  unfold execMxz
  simp only []
  (repeat' split) <;> simp

@[simp] theorem execMxout_mem (c : Nat) (s : State) : memOf s.mem (execMxout c s) = s.mem := by
  unfold execMxout
  simp only []
  (repeat' split) <;> simp

@[simp] theorem useRow_mem (s : State) (c base : Nat) (bf : Bool) (i j : Nat) :
    (s.useRow c base bf i j).mem = s.mem := by
  unfold State.useRow
  split <;> simp

@[simp] theorem mxWait_mem (s : State) (c : Nat) (r : MxRun) (p : Operand) (o : Nat) (retry : Instr) :
    (s.mxWait c r p o retry).mem = s.mem := by
  simp [State.mxWait]

@[simp] theorem mxwRead_mem (s : State) (c : Nat) (r : MxRun) : (s.mxwRead c r).mem = s.mem := by
  unfold State.mxwRead
  simp only []
  split <;> simp

@[simp] theorem mxaNext_mem (s : State) (c : Nat) (m : Mx) (r : MxRun) : (s.mxaNext c m r).mem = s.mem := by
  simp [State.mxaNext]

@[simp] theorem mxaPromote_mem (s : State) (c : Nat) (r : MxRun) : (s.mxaPromote c r).mem = s.mem := by
  unfold State.mxaPromote
  simp only []
  split <;> simp

@[simp] theorem mxaRead_mem (s : State) (c : Nat) (r : MxRun) : (s.mxaRead c r).mem = s.mem := by
  unfold State.mxaRead
  simp only []
  (repeat' split) <;> simp

@[simp] theorem execMxTileRead_mem (c : Nat) (s : State) : memOf s.mem (execMxTileRead c s) = s.mem := by
  refine foldl_mem_same _ _ (fun u r => ?_) _
  (repeat' split) <;> simp

theorem mxtmLoad_mem (s : State) (c : Nat) (r : MxRun) (ng kb : Nat) (retry : Instr) (k : State → MxRun → State)
    (hk : ∀ (u : State) (x : MxRun), (k u x).mem = u.mem) : (s.mxtmLoad c r ng kb retry k).mem = s.mem := by
  unfold State.mxtmLoad
  simp only []
  split
  · simp
  · simp
  · split
    · split <;> simp
    · simp
    · simp [hk]

@[simp] theorem mxtmNext_mem (s : State) (c : Nat) (r : MxRun) : (s.mxtmNext c r).mem = s.mem := by
  unfold State.mxtmNext
  split <;> simp

@[simp] theorem mxtmRow_mem (s : State) (c : Nat) (r : MxRun) (ng kb q : Nat) :
    (s.mxtmRow c r ng kb q).mem = s.mem := by
  unfold State.mxtmRow
  simp only []
  (repeat' split) <;> simp

@[simp] theorem peerWait_mem (s : State) (c : Nat) (r : MxRun) : (s.peerWait c r).mem = s.mem := by
  simp [State.peerWait]

@[simp] theorem mxtmPromote_mem (s : State) (c : Nat) (r : MxRun) (ng : Nat) :
    (s.mxtmPromote c r ng).mem = s.mem := by
  unfold State.mxtmPromote
  simp only []
  (repeat' split) <;> simp

@[simp] theorem execMxtmStep_mem (c : Nat) (s : State) : memOf s.mem (execMxtmStep c s) = s.mem := by
  unfold execMxtmStep
  rw [memOf_next]
  split
  · rfl
  · simp only []
    split
    · rfl
    · split
      · rfl
      · split
        · simp
        · split
          · exact mxtmLoad_mem _ _ _ _ _ _ _ fun u x => by simp
          · split
            · exact mxtmLoad_mem _ _ _ _ _ _ _ fun u x => by simp
            · simp

@[simp] theorem execSplitBlockArrival_mem (c : Nat) (s : State) :
    memOf s.mem (execSplitBlockArrival c s) = s.mem := by
  unfold execSplitBlockArrival
  (repeat' split) <;> simp

@[simp] theorem execMxoutElementFill_mem (c : Nat) (s : State) : memOf s.mem (execMxoutElementFill c s) = s.mem := by
  unfold execMxoutElementFill
  simp only []
  (repeat' split) <;> simp

@[simp] theorem execMxCommandComplete_mem (c : Nat) (slotSide : Bool) (s : State) :
    memOf s.mem (execMxCommandComplete c slotSide s) = s.mem := by
  simp [execMxCommandComplete, foldl_mem_same]

/-! ## Encounter rings -/

@[simp] theorem setRing_mem (s : State) (c : Nat) (r : RingCore) : (s.setRing c r).mem = s.mem := by
  simp [State.setRing]

@[simp] theorem ringFail_mem (s : State) (c : Nat) (cmd : Cmd) (cls : Nat) (detail : Word) :
    (s.ringFail c cmd cls detail).mem = s.mem := by
  simp [State.ringFail]

@[simp] theorem ringFault_mem (s : State) (c : Nat) (cmd : Cmd) (why : Nat) :
    (s.ringFault c cmd why).mem = s.mem := by
  simp [State.ringFault]

@[simp] theorem ringEnd_mem (s : State) (c : Nat) (cmd : Cmd) : (s.ringEnd c cmd).mem = s.mem := by
  simp [State.ringEnd]

@[simp] theorem sweepFault_mem (s : State) (k : Nat) (cmd : Cmd) (why : Nat) :
    (s.sweepFault k cmd why).mem = s.mem := by
  simp [State.sweepFault]

@[simp] theorem clearRingCore_mem (s : State) (c : Nat) : (s.clearRingCore c).mem = s.mem := by
  simp [State.clearRingCore]

@[simp] theorem execRgcfg_mem (c : Nat) (s : State) : memOf s.mem (execRgcfg c s) = s.mem := by
  unfold execRgcfg
  rw [memOf_next]
  split
  · rfl
  · simp only []
    split
    · simp
    · split
      · simp
      · split
        · simp
        · rw [ringEnd_mem, setCtrl_mem]
          refine (foldl_mem_same _ _ (fun _ _ => clearRingCore_mem ..) _).trans ?_
          exact (foldl_mem_same _ _ (fun _ _ => by rfl) _).trans (takeHead_mem ..)

theorem firstCommand_mem (s : State) (c op : Nat) (k : State → Cmd → State)
    (hk : ∀ (u : State) (x : Cmd), (k u x).mem = u.mem) : (s.firstCommand c op k).mem = s.mem := by
  unfold State.firstCommand
  split
  · rfl
  · simp only []
    split
    · rw [hk]; simp
    · simp

@[simp] theorem ringWait_mem (s : State) (c w o : Nat) (cmd : Cmd) (retry : Instr) :
    (s.ringWait c w o cmd retry).mem = s.mem := by
  simp [State.ringWait]

@[simp] theorem rgmtRead_mem (s : State) (c : Nat) (cmd : Cmd) : (s.rgmtRead c cmd).mem = s.mem := by
  unfold State.rgmtRead
  simp only []
  split
  · exact cmdShrink_mem _ _ _ _ _ _ _ _ (fun d => by simp) fun u => by simp
  · split <;> simp

@[simp] theorem execRgmt_mem (c : Nat) (s : State) : memOf s.mem (execRgmt c s) = s.mem := by
  unfold execRgmt
  rw [memOf_next]
  split
  · split <;> simp
  · exact firstCommand_mem _ _ _ _ fun u x => by split <;> simp

@[simp] theorem rgputFill_mem (s : State) (c : Nat) (cmd : Cmd) (x : Ctrl) : (s.rgputFill c cmd x).mem = s.mem := by
  unfold State.rgputFill
  simp only []
  split <;> simp

@[simp] theorem rgputRead_mem (s : State) (c : Nat) (cmd : Cmd) : (s.rgputRead c cmd).mem = s.mem := by
  unfold State.rgputRead
  split
  · simp
  · extract_lets r need w k
    split
    · simp
    · split
      · simp
      · split
        · simp
        · split
          · simp
          · split <;> simp
          · exact (cmdShrink_mem _ _ _ _ _ _ _ _ (fun d => by simp) fun u => by simp).trans (by simp)

@[simp] theorem execRgput_mem (c : Nat) (s : State) : memOf s.mem (execRgput c s) = s.mem := by
  unfold execRgput
  simp only []
  (repeat' split) <;> simp

@[simp] theorem startSweep_mem (s : State) (c : Nat) (cmd : Cmd) : (s.startSweep c cmd).mem = s.mem := by
  simp [State.startSweep, foldl_mem_same]

@[simp] theorem rggoTry_mem (s : State) (c : Nat) (cmd : Cmd) : (s.rggoTry c cmd).mem = s.mem := by
  simp [State.rggoTry, apply_ite State.mem]

@[simp] theorem execRggo_mem (c : Nat) (s : State) : memOf s.mem (execRggo c s) = s.mem := by
  unfold execRggo
  rw [memOf_next]
  split
  · split <;> simp
  · exact firstCommand_mem _ _ _ _ fun u x => by simp

@[simp] theorem execRgrot_mem (c : Nat) (s : State) : memOf s.mem (execRgrot c s) = s.mem := by
  refine firstCommand_mem _ _ _ _ fun u x => ?_
  simp only []
  split <;> simp

@[simp] theorem drainRingWindows_mem (s : State) (c : Nat) (x : Ctrl) (cmd : Cmd) :
    (s.drainRingWindows c x cmd).mem = s.mem := by
  simp [State.drainRingWindows, apply_ite State.mem]

@[simp] theorem drainSegment_mem (s : State) (c : Nat) (cmd : Cmd) : (s.drainSegment c cmd).mem = s.mem := by
  unfold State.drainSegment
  simp only []
  (repeat' split) <;> simp [foldl_mem_same]

@[simp] theorem execRgdrn_mem (c : Nat) (s : State) : memOf s.mem (execRgdrn c s) = s.mem := by
  unfold execRgdrn
  rw [memOf_next]
  split
  · split <;> simp
  · exact firstCommand_mem _ _ _ _ fun u x => by simp

@[simp] theorem landTile_mem (s : State) (f : Nat × Nat) (site : BitVec 46) (m : Moving) :
    (s.landTile f site m).mem = s.mem := by
  simp [State.landTile]

@[simp] theorem sweepPoison_mem (s : State) (k : Nat) (f : Nat × Nat) (cmd : Cmd) (m : Moving) (x : Win) :
    (s.sweepPoison k f cmd m x).mem = s.mem := by
  simp [State.sweepPoison]

@[simp] theorem execTileLanding_mem (k : Nat) (s : State) : memOf s.mem (execTileLanding k s) = s.mem := by
  unfold execTileLanding
  rw [memOf_next]
  extract_lets x west f ms cores waits s1 s2 s3 s4 beat s5
  have h1 : s1.mem = s.mem := dropRetry_mem ..
  have h2 : s2.mem = s1.mem := foldl_mem_same _ _ (fun _ _ => landTile_mem ..) _
  have h3 : s3.mem = s2.mem := foldl_mem_same _ _ (fun _ _ => by simp) _
  have h4 : s4.mem = s3.mem := foldl_mem_same _ _ (fun _ _ => by simp) _
  have h : s4.mem = s.mem := by rw [h4, h3, h2, h1]
  split
  · rfl
  · split
    · simp
    · split
      · exact foldl_mem_same _ _ (fun _ _ => addEdge_mem ..) _
      · split
        · simp [h]
        · split <;> simp [s5, h]
        · split
          · simp [h]
          · exact (foldl_mem_same _ _ (fun _ _ => by rfl) _).trans h

@[simp] theorem encounter_mem (s : State) (k c i : Nat) (e : BitVec 32) : (s.encounter k c i e).mem = s.mem := by
  simp [State.encounter]

@[simp] theorem defer_mem (s : State) (k c i : Nat) (e : BitVec 32) : (s.defer k c i e).mem = s.mem := by
  simp [State.defer]

@[simp] theorem execMeeting_mem (c : Nat) (s : State) : memOf s.mem (execMeeting c s) = s.mem := by
  unfold execMeeting
  simp only []
  (repeat' split) <;> simp

@[simp] theorem execEncounterDelivery_mem (c : Nat) (s : State) :
    memOf s.mem (execEncounterDelivery c s) = s.mem := by
  unfold execEncounterDelivery
  simp only []
  (repeat' split) <;> simp

@[simp] theorem finishOne_mem (s : State) (c : Nat) (q : Encounter) : (s.finishOne c q).mem = s.mem := by
  unfold State.finishOne
  simp only []
  (repeat' split) <;> simp

@[simp] theorem execEncounterFinish_mem (c : Nat) (s : State) : memOf s.mem (execEncounterFinish c s) = s.mem := by
  simp [execEncounterFinish, foldl_mem_same]

@[simp] theorem execCompletionTokenFill_mem (k : Nat) (s : State) :
    memOf s.mem (execCompletionTokenFill k s) = s.mem := by
  refine foldl_mem_same _ _ (fun u t => ?_) _
  simp only []
  (repeat' split) <;> simp

@[simp] theorem execSweepEnd_mem (k : Nat) (s : State) : memOf s.mem (execSweepEnd k s) = s.mem := by
  unfold execSweepEnd
  rw [memOf_next]
  extract_lets x cores
  split
  · split
    · rfl
    · split
      · split <;> simp
      · split
        · simp
        · exact foldl_mem_same _ _ (fun _ _ => by rfl) _
  all_goals rfl

@[simp] theorem unconfigure_mem (s : State) (k : Nat) : (s.unconfigure k).mem = s.mem := by
  unfold State.unconfigure
  extract_lets x s1 s2
  have h1 : s1.mem = s.mem := foldl_mem_same _ _ (fun _ _ => by rfl) _
  have h2 : s2.mem = s1.mem := foldl_mem_same _ _ (fun u c => by simp) _
  split
  · simp [h1, h2]
  · rfl

/-! ## Window instructions -/

@[simp] theorem writeBack_mem (s : State) (c t : Nat) (d : BitVec 5) (v : Option Word) :
    (s.writeBack c t d v).mem = s.mem := by
  unfold State.writeBack
  split <;> simp

theorem tryCore_mem {s t : State} {rm : Bool} {core win : Nat} {op : WinOp} {site : BitVec 46} {c u : Nat}
    {v : Option Word} (h : s.tryCore rm core win op site c u = .done t v) : t.mem = s.mem := by
  unfold State.tryCore at h
  simp only [] at h
  (repeat' split at h) <;> cases h <;> simp

@[simp] theorem localOp_mem (w : BitVec 4) (op : WinOp) (d : BitVec 5) (s : State) :
    (localOp w op d s).mem s.mem = s.mem := by
  unfold localOp
  extract_lets go
  have hgo (u : State) : (go u).mem u.mem = u.mem := by
    simp only [go]
    split
    · simp
    · simp
    · next h => simp [tryCore_mem h]
  split
  · exact released_keeps (· = s.mem) s go rfl fun u hu => (hgo u).trans hu
  · exact hgo s

@[simp] theorem wrdnOut_mem (d : BitVec 5) (p : BitVec 3) (w : BitVec 4) (o : BitVec 11) (s : State) :
    (wrdnOut d p w o s).mem s.mem = s.mem := by
  unfold wrdnOut
  simp only []
  (repeat' split) <;> simp

@[simp] theorem wfillnOut_mem (w : BitVec 4) (z : BitVec 5) (p : BitVec 3) (s : State) :
    (wfillnOut w z p s).mem s.mem = s.mem := by
  unfold wfillnOut
  simp only []
  (repeat' split) <;> simp

@[simp] theorem execWfilln_mem (w : BitVec 4) (z : BitVec 5) (p : BitVec 3) (s : State) :
    memOf s.mem (execWfilln w z p s) = s.mem :=
  finish_memOf _ _ (released_keeps (· = s.mem) s _ rfl fun u hu => (wfillnOut_mem w z p u).trans hu)

@[simp] theorem cutBacking_mem (s : State) (c w : Nat) : (s.cutBacking c w).mem = s.mem := by
  simp [State.cutBacking]

@[simp] theorem defineWin_mem (s : State) (c w : Nat) (v : Word) : (s.defineWin c w v).mem = s.mem := by
  unfold State.defineWin
  simp only []
  split <;> simp

@[simp] theorem wdefOut_mem (w : BitVec 4) (v : Word) (s : State) : (wdefOut w v s).mem s.mem = s.mem := by
  unfold wdefOut
  split <;> simp

@[simp] theorem execWdef_mem (w : BitVec 4) (z : BitVec 5) (s : State) : memOf s.mem (execWdef w z s) = s.mem :=
  finish_memOf _ _ (released_keeps (· = s.mem) s _ rfl fun u hu => (wdefOut_mem w _ u).trans hu)

@[simp] theorem remoteOp_mem (w : BitVec 4) (core : Word) (op : WinOp) (d : BitVec 5) (s : State) :
    (remoteOp w core op d s).mem s.mem = s.mem := by
  unfold remoteOp
  split
  · simp
  · split
    · simp
    · extract_lets go
      have hgo (u : State) : (go u).mem u.mem = u.mem := by simp [go]
      split
      · exact released_keeps (· = s.mem) s go rfl fun u hu => (hgo u).trans hu
      · exact hgo s

@[simp] theorem trapAfterWait_mem (s : State) (c t : Nat) (tr : Trap) : (s.trapAfterWait c t tr).mem = s.mem := by
  simp [State.trapAfterWait]

@[simp] theorem remotePerformed_mem (s : State) (c t : Nat) (v : Option Word) :
    (s.remotePerformed c t v).mem = s.mem := by
  simp [State.remotePerformed]

@[simp] theorem remoteRows_mem (s : State) (r : Remote) : (s.remoteRows r).mem = s.mem := by
  unfold State.remoteRows
  simp only []
  (repeat' split) <;> simp

theorem tryService_mem {s t : State} {key win : Nat} {op : WinOp} {v : Option Word}
    (h : s.tryService key win op = .done t v) : t.mem = s.mem := by
  unfold State.tryService at h
  simp only [] at h
  (repeat' split at h) <;> cases h <;> simp

theorem tryOp_mem {s t : State} {rm : Bool} {core win : Nat} {op : WinOp} {site : BitVec 46} {c u : Nat}
    {v : Option Word} (h : s.tryOp rm core win op site c u = .done t v) : t.mem = s.mem := by
  unfold State.tryOp at h
  split at h
  · exact tryCore_mem h
  · exact tryService_mem h

@[simp] theorem remoteArrive_mem (s : State) (c t : Nat) : (s.remoteArrive c t).mem = s.mem := by
  unfold State.remoteArrive
  simp only []
  split
  · rfl
  · split
    · rfl
    · split
      · simp
      · next h => simp [tryOp_mem h]
      · simp

@[simp] theorem remoteAnswered_mem (s : State) (c t : Nat) : (s.remoteAnswered c t).mem = s.mem := by
  unfold State.remoteAnswered
  simp only []
  split <;> simp

@[simp] theorem retryOp_mem (s : State) (c t : Nat) (fill : Bool) : (s.retryOp c t fill).mem = s.mem := by
  unfold State.retryOp
  split
  · split
    · rfl
    · split
      · rfl
      · simp
      · simp only []
        split
        · next h => split <;> simp [tryOp_mem h]
        · rfl
        · rfl
  all_goals rfl

/-! ## Restoring and poisoning a window -/

@[simp] theorem restoreWindow_mem (s : State) (c w : Nat) (x : Win) (hslot : BitVec 16) (bs : List Byte) :
    (s.restoreWindow c w x hslot bs).mem = s.mem := by
  simp [State.restoreWindow]

@[simp] theorem wrestOut_mem (w : Nat) (va : Addr) (x : Win) (s : State) : (wrestOut w va x s).mem s.mem = s.mem := by
  unfold wrestOut
  simp only []
  split
  · simp
  · split
    · split
      · simp
      · split
        · exact metered_keeps (· = s.mem) _ _ _ _ s _ rfl fun u hu => by simp [hu]
        · simp
    · simp

@[simp] theorem execWrest_mem (w : BitVec 4) (a : BitVec 4) (s : State) : memOf s.mem (execWrest w a s) = s.mem :=
  finish_memOf _ _ <| privileged_keeps (· = s.mem) _ s _ rfl <|
    imageChecks_keeps (· = s.mem) _ _ _ _ s _ rfl <| settled_keeps (· = s.mem) s _ rfl (wrestOut_mem ..)

@[simp] theorem clearPoison_mem (s : State) (c w : Nat) : (s.clearPoison c w).mem = s.mem := by
  simp [State.clearPoison]

@[simp] theorem execWpois_mem (w : BitVec 4) (g : BitVec 5) (s : State) : memOf s.mem (execWpois w g s) = s.mem := by
  refine finish_memOf _ _ <| privileged_keeps (· = s.mem) _ s _ rfl ?_
  simp only []
  (repeat' split) <;> simp

/-! ## Stopping a core, loading a context -/

@[simp] theorem unrunFab_mem (s : State) (c : Nat) (p : Cmd → Bool) : (s.unrunFab c p).mem = s.mem := by
  simp [State.unrunFab]

@[simp] theorem drainForSave_mem (s : State) (c : Nat) : (s.drainForSave c).mem = s.mem := by
  unfold State.drainForSave
  (repeat' split) <;> simp

@[simp] theorem releaseCmds_mem (s : State) (c : Nat) : (s.releaseCmds c).mem = s.mem := by
  simp [State.releaseCmds]

@[simp] theorem stopStep_mem (s : State) (c : Nat) : (s.stopStep c).mem = s.mem := by
  unfold State.stopStep
  simp only []
  (repeat' split) <;> simp

@[simp] theorem execBeatStart_mem (k : Nat) (s : State) : memOf s.mem (execBeatStart k s) = s.mem := by
  unfold execBeatStart
  simp only []
  (repeat' split) <;> simp

@[simp] theorem holdWindows_mem (s : State) (c : Nat) : (s.holdWindows c).mem = s.mem := by
  simp [State.holdWindows]

@[simp] theorem releaseCore_mem (s : State) (c : Nat) (excl : Option Nat) : (s.releaseCore c excl).mem = s.mem := by
  simp [State.releaseCore]

@[simp] theorem finishStop_mem (s : State) (c : Nat) (excl : Option Nat) : (s.finishStop c excl).mem = s.mem := by
  simp [State.finishStop]

@[simp] theorem restart_mem (s : State) (c : Nat) : (s.restart c).mem = s.mem := by
  have hf : ((s.coreAt c).slots.foldl (init := s) fun s e => s.setSlot c e.1 (s.slotAt c e.1).resumed).mem = s.mem :=
    foldl_mem_same _ _ (fun _ _ => by rfl) _
  unfold State.restart
  simp only []
  (repeat' split) <;> simp [hf]

@[simp] theorem dropCommands_mem (s : State) (c : Nat) : (s.dropCommands c).mem = s.mem := by
  simp [State.dropCommands]

@[simp] theorem loadSlots_mem (s : State) (c : Nat) (excl : Option Nat) (bs : List Byte) :
    (s.loadSlots c excl bs).mem = s.mem := by
  simp [State.loadSlots, foldl_mem_same, apply_ite State.mem]

@[simp] theorem loadPending_mem (s : State) (c : Nat) (bs : List Byte) : (s.loadPending c bs).mem = s.mem := by
  simp [State.loadPending]

@[simp] theorem loadRing_mem (s : State) (c : Nat) (bs : List Byte) : (s.loadRing c bs).mem = s.mem := by
  unfold State.loadRing
  simp only []
  (repeat' split) <;> simp

@[simp] theorem loadRound_mem (s : State) (c : Nat) (bs : List Byte) : (s.loadRound c bs).mem = s.mem := by
  unfold State.loadRound
  simp only []
  (repeat' split) <;> simp

@[simp] theorem loadWindows_mem (s : State) (c : Nat) (bs : List Byte) : (s.loadWindows c bs).mem = s.mem := by
  unfold State.loadWindows
  extract_lets s1
  have h1 : s1.mem = s.mem := foldl_mem_same _ _ (fun _ _ => by rfl) _
  split
  · exact h1
  · exact (foldl_mem_same _ _ (fun _ _ => restoreWindow_mem ..) _).trans h1

@[simp] theorem loadContext_mem (s : State) (c : Nat) (excl : Option Nat) (bs : List Byte) :
    (s.loadContext c excl bs).mem = s.mem := by
  simp [State.loadContext]

/-! ## Restoring a context -/

@[simp] theorem ctxrstOut_mem (va : Addr) (s : State) : (ctxrstOut va s).mem s.mem = s.mem := by
  unfold ctxrstOut
  simp only []
  split
  · simp
  · split
    · simp
    · split
      · simp
      · split
        · simp
        · simp
        · exact metered_keeps (· = s.mem) _ _ _ _ s _ rfl fun u hu => by simp [hu]

@[simp] theorem execCtxrst_mem (a : BitVec 4) (s : State) : memOf s.mem (execCtxrst a s) = s.mem := by
  refine finish_memOf _ _ <| privileged_keeps (· = s.mem) _ s _ rfl ?_
  simp only []
  split <;> simp

@[simp] theorem unhold_mem (s : State) (c t : Nat) : (s.unhold c t).mem = s.mem := by simp [State.unhold]

/-! ## Census, replay, Brodfort -/

@[simp] theorem execCens_mem (w : BitVec 4) (z : BitVec 5) (s : State) : memOf s.mem (execCens w z s) = s.mem := by
  unfold execCens
  simp only []
  split <;> simp

@[simp] theorem endStops_mem (s : State) (c : Nat) : (s.endStops c).mem = s.mem := by
  simp [State.endStops, foldl_mem_same]

@[simp] theorem completes_mem (s : State) (c : Nat) (e : Ended) : (s.completes c e).mem = s.mem := by
  simp [State.completes, apply_ite State.mem]

@[simp] theorem replayShrink_mem (s : State) (c : Nat) (e : Ended) : (s.replayShrink c e).mem = s.mem := by
  unfold State.replayShrink
  simp only []
  split <;> simp

@[simp] theorem censusDone_mem (s : State) (c : Nat) (e : Ended) : (s.censusDone c e).mem = s.mem := by
  unfold State.censusDone
  split <;> simp

@[simp] theorem fillCensus_mem (s : State) (c : Nat) (e : Ended) : (s.fillCensus c e).mem = s.mem := by
  unfold State.fillCensus
  simp only []
  (repeat' split) <;> simp

@[simp] theorem judged_mem (s : State) (c : Nat) (e : Ended) : (s.judged c e).mem = s.mem := by
  simp [State.judged, apply_ite State.mem]

@[simp] theorem censusFills_mem (s : State) (c : Nat) (l : List Ended) : (s.censusFills c l).mem = s.mem := by
  simp [State.censusFills, foldl_mem_same, apply_ite State.mem]

@[simp] theorem mismatch_mem (s : State) (c : Nat) (e : Ended) (info : Nat) (rec_ : List Byte) :
    (s.mismatch c e info rec_).mem = s.mem := by
  refine (foldl_mem_same _ _ (fun _ _ => by rfl) _).trans ?_
  simp

@[simp] theorem compareEntry_mem (s : State) (c : Nat) (e : Ended) : (s.compareEntry c e).mem = s.mem := by
  unfold State.compareEntry
  simp only []
  (repeat' split) <;> simp

@[simp] theorem compares_mem (s : State) (c : Nat) (l : List Ended) : (s.compares c l).mem = s.mem := by
  simp [State.compares, foldl_mem_same, apply_ite State.mem]

@[simp] theorem coreHalt_mem (s : State) (c : Nat) : (s.coreHalt c).mem = s.mem := by simp [State.coreHalt]

@[simp] theorem coreResume_mem (s : State) (c : Nat) : (s.coreResume c).mem = s.mem := by
  unfold State.coreResume
  simp only []
  split <;> simp

@[simp] theorem execCoreHalt_mem (c : Nat) (s : State) : memOf s.mem (execCoreHalt c s) = s.mem := by
  unfold execCoreHalt
  split <;> simp

@[simp] theorem execCoreResume_mem (c : Nat) (s : State) : memOf s.mem (execCoreResume c s) = s.mem := by
  unfold execCoreResume
  split <;> simp

@[simp] theorem writeDbgctl_mem (s : State) (c : Nat) (v : Word) : (s.writeDbgctl c v).mem = s.mem := by
  simp [State.writeDbgctl, apply_ite State.mem]

@[simp] theorem brodWrite_mem (s : State) (c t n : Nat) (v : Word) : (s.brodWrite c t n v).mem = s.mem := by
  simp [State.brodWrite, apply_ite State.mem]

@[simp] theorem execBrodfortAccess_mem (c : Nat) (r : BrodReg) (write : Option Word) (s : State) :
    memOf s.mem (execBrodfortAccess c r write s) = s.mem := by
  unfold execBrodfortAccess
  rw [memOf_next]
  simp only []
  split
  · split <;> rfl
  · (repeat' split) <;> simp

@[simp] theorem clearSlices_mem (s : State) : (s.clearSlices).mem = s.mem := by simp [State.clearSlices]

/-! ## Reports, the detectors, the watchdog -/

@[simp] theorem notice_mem (s : State) (c : Nat) : (s.notice c).mem = s.mem := by
  unfold State.notice
  simp only []
  (repeat' split) <;> simp

@[simp] theorem noticesOf_mem (s : State) (cl : Nat) : (s.noticesOf cl).mem = s.mem := by
  simp [State.noticesOf, foldl_mem_same]

@[simp] theorem postRecord_mem (s : State) (cl : Nat) : (s.postRecord cl).mem = s.mem := by
  unfold State.postRecord
  simp only []
  (repeat' split) <;> simp

@[simp] theorem execReportRecordPost_mem (cl : Nat) (s : State) :
    memOf s.mem (execReportRecordPost cl s) = s.mem := by
  simp [execReportRecordPost, foldl_mem_same]

@[simp] theorem markReported_mem (s : State) (es : List Edge) : (s.markReported es).mem = s.mem := by
  simp [State.markReported]

@[simp] theorem reportStandoff_mem (s : State) (cl : Nat) (all : Waits) (set : List Party) :
    (s.reportStandoff cl all set).mem = s.mem := by
  unfold State.reportStandoff
  simp only []
  (repeat' split) <;> simp

@[simp] theorem execStandoffReport_mem (cl : Nat) (s : State) : memOf s.mem (execStandoffReport cl s) = s.mem := by
  simp [execStandoffReport, foldl_mem_same]

@[simp] theorem execOrphanWaitReport_mem (cl : Nat) (s : State) :
    memOf s.mem (execOrphanWaitReport cl s) = s.mem := by
  simp [execOrphanWaitReport, foldl_mem_same]

@[simp] theorem endByForce_mem (s : State) (c : Nat) (detail : Word) (p : Port) (x : Cmd) :
    (s.endByForce c detail p x).mem = s.mem := by
  simp [State.endByForce, foldl_mem_same, apply_ite State.mem]

@[simp] theorem settleEnded_mem (s : State) (c : Nat) : (s.settleEnded c).mem = s.mem := by
  simp [State.settleEnded]

@[simp] theorem endCommands_mem (s : State) (c : Nat) (detail : Word) : (s.endCommands c detail).mem = s.mem := by
  unfold State.endCommands
  simp only []
  (repeat' split) <;> simp [foldl_mem_same]

@[simp] theorem killGroup_mem (s : State) (gn : Nat) (detail : Word) (failed : Bool) :
    (s.killGroup gn detail failed).mem = s.mem := by
  simp [State.killGroup, foldl_mem_same]

@[simp] theorem execWatchdogFire_mem (c : Nat) (s : State) : memOf s.mem (execWatchdogFire c s) = s.mem := by
  unfold execWatchdogFire
  simp only []
  (repeat' split) <;> simp

/-! ## Resets -/

@[simp] theorem dropEvents_mem (s : State) (p : Instr → Bool) : (s.dropEvents p).mem = s.mem := by
  simp [State.dropEvents]

@[simp] theorem judgeWaiting_mem (s : State) (c : Nat) : (s.judgeWaiting c).mem = s.mem :=
  foldl_mem_same _ _ (fun u e => by split <;> simp) _

@[simp] theorem resetCore_mem (s : State) (c : Nat) : (s.resetCore c).mem = s.mem := by
  simp [State.resetCore, foldl_mem_same]

@[simp] theorem unconfigureAll_mem (s : State) (cores : List Nat) : (s.unconfigureAll cores).mem = s.mem := by
  simp [State.unconfigureAll, foldl_mem_same]

@[simp] theorem clearMatchRow_mem (s : State) (cl row : Nat) : (s.clearMatchRow cl row).mem = s.mem := by
  simp [State.clearMatchRow]

@[simp] theorem resetCores_mem (s : State) (cores : List Nat) : (s.resetCores cores).mem = s.mem := by
  simp [State.resetCores, foldl_mem_same]

@[simp] theorem setUnit_mem (s : State) (cl : Nat) (u : LaunchUnit) : (s.setUnit cl u).mem = s.mem := by
  simp [State.setUnit]

@[simp] theorem status_mem (s : State) (cl : Nat) (gid rseq : BitVec 16) (code detail : Nat) :
    (s.status cl gid rseq code detail).mem = s.mem := by
  simp [State.status]

@[simp] theorem postStatus_mem (s : State) (cl : Nat) : (s.postStatus cl).mem = s.mem := by
  unfold State.postStatus
  simp only []
  (repeat' split) <;> simp

@[simp] theorem execLaunchStatusPost_mem (cl : Nat) (s : State) :
    memOf s.mem (execLaunchStatusPost cl s) = s.mem := by
  simp [execLaunchStatusPost, foldl_mem_same]

@[simp] theorem groupStatus_mem (s : State) (gn code : Nat) : (s.groupStatus gn code).mem = s.mem := by
  simp [State.groupStatus, foldl_mem_same]

@[simp] theorem countDone_mem (s : State) (gn : Nat) : (s.countDone gn).mem = s.mem := by
  simp [State.countDone, foldl_mem_same]

@[simp] theorem dropGroup_mem (s : State) (gn : Nat) : (s.dropGroup gn).mem = s.mem := by simp [State.dropGroup]

@[simp] theorem endGroup_mem (s : State) (gn code : Nat) : (s.endGroup gn code).mem = s.mem := by
  simp [State.endGroup]

@[simp] theorem execCoreGroupCompletion_mem (k : Nat) (s : State) :
    memOf s.mem (execCoreGroupCompletion k s) = s.mem := by
  unfold execCoreGroupCompletion
  split <;> simp

/-! ## Launch, preemption, restore -/

@[simp] theorem loadCore_mem (s : State) (gn c : Nat) (r : List Word) (ld : Loaded) :
    (s.loadCore gn c r ld).mem = s.mem := by
  simp [State.loadCore, foldl_mem_same]

@[simp] theorem loadMatch_mem (s : State) (cl : Nat) (r : List Word) (t : Option MatchTable) :
    (s.loadMatch cl r t).mem = s.mem := by
  unfold State.loadMatch
  (repeat' split) <;> simp [foldl_mem_same]

@[simp] theorem loadPart_mem (s : State) (cl : Nat) (r : List Word) (parts : List (Nat × List Word)) (ld : Loaded) :
    (s.loadPart cl r parts ld).mem = s.mem := by
  simp [State.loadPart, foldl_mem_same, apply_ite State.mem]

@[simp] theorem execLaunchRecordRead_mem (cl : Nat) (s : State) :
    memOf s.mem (execLaunchRecordRead cl s) = s.mem := by
  simp [execLaunchRecordRead, foldl_mem_same, apply_ite State.mem]

@[simp] theorem noteFail_mem (s : State) (gid : BitVec 16) (detail npart : Nat) :
    (s.noteFail gid detail npart).mem = s.mem := by
  unfold State.noteFail
  (repeat' split) <;> simp

@[simp] theorem failPart_mem (s : State) (cl code detail : Nat) : (s.failPart cl code detail).mem = s.mem := by
  unfold State.failPart
  simp only []
  (repeat' split) <;> simp [foldl_mem_same, apply_ite State.mem]

@[simp] theorem takeMembers_mem (s : State) (cl : Nat) (r : List Word) (parts : List (Nat × List Word))
    (ld : Loaded) :
    (s.takeMembers cl r parts ld).mem = s.mem := by
  simp [State.takeMembers, foldl_mem_same, apply_ite State.mem]

@[simp] theorem payList_mem (s : State) (op : AccOp) (size gone : Nat) (l : List (Nat × Addr × Nat)) :
    (s.payList op size gone l).1.mem = s.mem := by
  induction l generalizing s gone with
  | nil => rfl
  | cons x r ih =>
    unfold State.payList
    simp only []
    split
    · exact ih ..
    · split
      · exact (ih ..).trans (payMore_mem ..)
      · exact payMore_mem ..

@[simp] theorem payUnit_mem (s : State) (cl : Nat) (op : AccOp) (size : Nat) (l : List (Nat × Addr × Nat)) :
    (s.payUnit cl op size l).1.mem = s.mem := by
  unfold State.payUnit
  split <;> simp

@[simp] theorem execLaunchPartLoad_mem (p : PartRead) (s : State) : memOf s.mem (execLaunchPartLoad p s) = s.mem := by
  unfold execLaunchPartLoad
  simp only []
  (repeat' split) <;> simp

@[simp] theorem execLaunchPartMessage_mem (cl other : Nat) (s : State) :
    memOf s.mem (execLaunchPartMessage cl other s) = s.mem := by
  unfold execLaunchPartMessage
  simp only []
  (repeat' split) <;> simp

@[simp] theorem bindMember_mem (s : State) (c : Nat) (sup : Bool) (binds : List (BitVec 26)) :
    (s.bindMember c sup binds).mem = s.mem := by
  refine foldl_mem_same _ _ (fun u b => ?_) _
  simp only []
  split <;> simp

@[simp] theorem execStartBarrierFire_mem (k : Nat) (s : State) : memOf s.mem (execStartBarrierFire k s) = s.mem := by
  simp [execStartBarrierFire, foldl_mem_same, apply_ite State.mem]

@[simp] theorem holdXfer_mem (s : State) (cl : Nat) (f : BulkFault) (code : BitVec 3) :
    (s.holdXfer cl f code).mem = s.mem := by
  unfold State.holdXfer
  simp only []
  split <;> simp

@[simp] theorem endXfer_mem (s : State) (gn : Nat) : (s.endXfer gn).mem = s.mem := by
  simp [State.endXfer, foldl_mem_same]

@[simp] theorem payParts_mem (s : State) (op : AccOp) (size : Nat) (l : List (Nat × List (Nat × Addr × Nat))) :
    (s.payParts op size l).1.mem = s.mem := by
  unfold State.payParts
  generalize true = b
  induction l generalizing s b with
  | nil => rfl
  | cons p r ih => exact (ih ..).trans (payUnit_mem ..)

@[simp] theorem unkeep_mem (s : State) (gn : Nat) : (s.unkeep gn).mem = s.mem := by
  simp [State.unkeep, foldl_mem_same]

@[simp] theorem restoreMember_mem (s : State) (gn c : Nat) (bs : List Byte) (kept : KeptCore) :
    (s.restoreMember gn c bs kept).mem = s.mem := by
  refine (foldl_mem_same _ _ (fun _ _ => by rfl) _).trans ((foldl_mem_same _ _ (fun _ _ => by rfl) _).trans ?_)
  simp

@[simp] theorem execGroupRestore_mem (cl : Nat) (s : State) : memOf s.mem (execGroupRestore cl s) = s.mem := by
  unfold execGroupRestore
  rw [memOf_next]
  simp only []
  split
  · rfl
  · split
    · rfl
    · split
      · simp
      · simp
      · split
        · simp
        · simp [foldl_mem_same]

@[simp] theorem execGidCancel_mem (gid : BitVec 16) (s : State) : memOf s.mem (execGidCancel gid s) = s.mem := by
  unfold execGidCancel
  rw [memOf_next]
  simp only []
  split
  · rfl
  · split
    · rfl
    · exact foldl_mem_same _ _ (fun _ _ => by rfl) _

@[simp] theorem execKeptGroupDiscard_mem (cl j : Nat) (s : State) :
    memOf s.mem (execKeptGroupDiscard cl j s) = s.mem := by
  unfold execKeptGroupDiscard
  (repeat' split) <;> simp

/-! ## Counting networks -/

@[simp] theorem execBalancerPass_mem (net id : Nat) (s : State) :
    memOf s.mem (execBalancerPass net id s) = s.mem := by
  unfold execBalancerPass
  simp only []
  (repeat' split) <;> simp

@[simp] theorem enterToken_mem (s : State) (net c t : Nat) (d : BitVec 5) : (s.enterToken net c t d).mem = s.mem := by
  simp [State.enterToken]

@[simp] theorem execTkn_mem (d : BitVec 5) (h : BitVec 3) (s : State) : memOf s.mem (execTkn d h s) = s.mem := by
  refine finish_memOf _ _ (withHandle_keeps (· = s.mem) h _ s _ rfl fun net n => ?_)
  (repeat' split) <;> simp

@[simp] theorem openNet_mem (s : State) (net : Nat) : (s.openNet net).mem = s.mem := by
  simp [State.openNet, foldl_mem_same]

@[simp] theorem endDrain_mem (s : State) (net : Nat) : (s.endDrain net).mem = s.mem := by
  simp [State.endDrain, foldl_mem_same, apply_ite State.mem]

@[simp] theorem settleNet_mem (s : State) (net : Nat) : (s.settleNet net).mem = s.mem := by
  unfold State.settleNet
  simp only []
  split <;> simp

@[simp] theorem exhaust_mem (s : State) (net : Nat) : (s.exhaust net).mem = s.mem := by
  simp [State.exhaust, foldl_mem_same]

@[simp] theorem tokenValue_mem (s : State) (net : Nat) (t : NetToken) (v : Nat) :
    (s.tokenValue net t v).mem = s.mem := by
  unfold State.tokenValue
  simp only []
  split <;> simp

@[simp] theorem execTknTokenExit_mem (net id : Nat) (s : State) :
    memOf s.mem (execTknTokenExit net id s) = s.mem := by
  unfold execTknTokenExit
  simp only []
  (repeat' split) <;> simp

@[simp] theorem bndrnOut_mem (net : Nat) (n : Net) (s : State) : (bndrnOut net n s).mem s.mem = s.mem := by
  unfold bndrnOut
  simp only []
  (repeat' split) <;> simp

@[simp] theorem execBndrn_mem (h : BitVec 3) (s : State) : memOf s.mem (execBndrn h s) = s.mem :=
  finish_memOf _ _ <| privileged_keeps (· = s.mem) _ s _ rfl <|
    withHandle_keeps (· = s.mem) h _ s _ rfl fun net n => bndrnOut_mem net n s

@[simp] theorem execBnload_mem (h : BitVec 3) (a : BitVec 4) (s : State) : memOf s.mem (execBnload h a s) = s.mem := by
  refine finish_memOf _ _ <| privileged_keeps (· = s.mem) _ s _ rfl <|
    onClosed_keeps (· = s.mem) h _ s _ rfl fun net n => ?_
  extract_lets va
  split
  · simp
  · refine settled_keeps (· = s.mem) s _ rfl ?_
    split
    · simp
    · split
      · simp
      · refine metered_keeps (· = s.mem) _ _ _ _ s _ rfl fun u hu => ?_
        simp only []
        split <;> simp [hu]

@[simp] theorem execBnclr_mem (h : BitVec 3) (s : State) : memOf s.mem (execBnclr h s) = s.mem :=
  finish_memOf _ _ <| privileged_keeps (· = s.mem) _ s _ rfl <|
    onClosed_keeps (· = s.mem) h _ s _ rfl fun net n => by simp

/-! ## Functions, tenants, host accesses -/

@[simp] theorem execClusterOwnerSet_mem (cl : Nat) (ten : Option (BitVec 5)) (s : State) :
    memOf s.mem (execClusterOwnerSet cl ten s) = s.mem := by
  unfold execClusterOwnerSet
  split <;> simp

@[simp] theorem execNetworkOwnerSet_mem (net : Nat) (ten : Option (BitVec 5)) (s : State) :
    memOf s.mem (execNetworkOwnerSet net ten s) = s.mem := by
  unfold execNetworkOwnerSet
  split <;> simp

@[simp] theorem setPod_mem (s : State) (e : Nat) (x : PodEntry) : (s.setPod e x).mem = s.mem := by
  simp [State.setPod]

@[simp] theorem setShare_mem (s : State) (port ten n : Nat) : (s.setShare port ten n).mem = s.mem := by
  unfold State.setShare
  simp only []
  split <;> simp

@[simp] theorem writeCfg_mem (s : State) (r : CfgReg) (v : Word) : (s.writeCfg r v).mem = s.mem := by
  unfold State.writeCfg
  split <;> simp

@[simp] theorem execConfigSpaceWrite_mem (r : CfgReg) (v : Word) (s : State) :
    memOf s.mem (execConfigSpaceWrite r v s) = s.mem := by
  unfold execConfigSpaceWrite
  split <;> simp

@[simp] theorem execBucketRefill_mem (s : State) : memOf s.mem (execBucketRefill s) = s.mem := by
  simp [execBucketRefill, foldl_mem_same, apply_ite State.mem]

@[simp] theorem eachCore_mem (s : State) (cl : Nat) (f : Core → Core) : (s.eachCore cl f).mem = s.mem := by
  simp [State.eachCore]

@[simp] theorem execStallCounterLoan_mem (cl : Nat) (s : State) :
    memOf s.mem (execStallCounterLoan cl s) = s.mem := by
  unfold execStallCounterLoan
  split <;> simp

@[simp] theorem execTraceLoan_mem (cl : Nat) (ring : Nat) (s : State) :
    memOf s.mem (execTraceLoan cl ring s) = s.mem := by
  unfold execTraceLoan
  split <;> simp

@[simp] theorem execLoanReturn_mem (cl : Nat) (traceUnit : Bool) (s : State) :
    memOf s.mem (execLoanReturn cl traceUnit s) = s.mem := by
  unfold execLoanReturn
  split <;> simp

@[simp] theorem closeNet_mem (s : State) (net : Nat) : (s.closeNet net).mem = s.mem := by simp [State.closeNet]

@[simp] theorem poisonBacked_mem (s : State) (c : Nat) : (s.poisonBacked c).mem = s.mem := by
  simp [State.poisonBacked, foldl_mem_same, apply_ite State.mem]

@[simp] theorem losePods_mem (s : State) (gn : Nat) : (s.losePods gn).mem = s.mem := by
  unfold State.losePods
  simp only []
  (repeat' split) <;> simp [foldl_mem_same, apply_ite State.mem]

@[simp] theorem endWork_mem (s : State) (c : Nat) : (s.endWork c).mem = s.mem := by
  simp [State.endWork, foldl_mem_same]

@[simp] theorem finishVfReset_mem (s : State) (ten : BitVec 5) : (s.finishVfReset ten).mem = s.mem := by
  simp [State.finishVfReset, foldl_mem_same]

@[simp] theorem vfResetStep_mem (s : State) (ten : BitVec 5) : (s.vfResetStep ten).mem = s.mem := by
  simp [State.vfResetStep, foldl_mem_same, apply_ite State.mem]

@[simp] theorem execVfReset_mem (ten : BitVec 5) (s : State) : memOf s.mem (execVfReset ten s) = s.mem := by
  unfold execVfReset
  split <;> simp

@[simp] theorem hostError_mem (s : State) (w : HostWin) : (s.hostError w).mem = s.mem := by
  unfold State.hostError
  split <;> simp

@[simp] theorem execHostFill_mem (w : HostWin) (v : Word) (s : State) : memOf s.mem (execHostFill w v s) = s.mem := by
  unfold execHostFill
  simp only []
  (repeat' split) <;> simp

@[simp] theorem repoint_mem (s : State) (c w : Nat) : (s.repoint c w).mem = s.mem := by
  unfold State.repoint
  split <;> simp

@[simp] theorem execHostShrink_mem (w : HostWin) (v : Word) (s : State) :
    memOf s.mem (execHostShrink w v s) = s.mem := by
  unfold execHostShrink
  simp only []
  (repeat' split) <;> simp

@[simp] theorem hostAllOnes_mem (s : State) (w : HostWin) : (s.hostAllOnes w).mem = s.mem := by
  simp [State.hostAllOnes]

@[simp] theorem execHostReadElement_mem (w : HostWin) (s : State) :
    memOf s.mem (execHostReadElement w s) = s.mem := by
  unfold execHostReadElement
  (repeat' split) <;> simp

@[simp] theorem execHostReadPointers_mem (w : HostWin) (s : State) :
    memOf s.mem (execHostReadPointers w s) = s.mem := by
  unfold execHostReadPointers
  (repeat' split) <;> simp

/-! ## The mailbox, firmware, the alarm, repairs -/

@[simp] theorem alarm_mem (s : State) (src : AlarmSource) : (s.alarm src).mem = s.mem := by simp [State.alarm]

@[simp] theorem mailboxReply_mem (s : State) (ws : List Word) : (s.mailboxReply ws).mem = s.mem := by
  simp [State.mailboxReply]

@[simp] theorem mailboxError_mem (s : State) : (s.mailboxError).mem = s.mem := by simp [State.mailboxError]

@[simp] theorem mailboxAccept_mem (s : State) (m : MailCmd) : (s.mailboxAccept m).mem = s.mem := by
  unfold State.mailboxAccept
  split <;> simp

@[simp] theorem mailboxAnswer_mem (s : State) (m : MailCmd) : (s.mailboxAnswer m).mem = s.mem := by
  unfold State.mailboxAnswer
  (repeat' split) <;> simp

@[simp] theorem mailboxTick_mem (s : State) : (s.mailboxTick).mem = s.mem := by
  unfold State.mailboxTick
  split <;> simp

@[simp] theorem execFirmwareSwitchover_mem (image : List Byte) (version : BitVec 32) (proof : Seal) (s : State) :
    memOf s.mem (execFirmwareSwitchover image version proof s) = s.mem := by
  simp [execFirmwareSwitchover, apply_ite State.mem]

@[simp] theorem execAlarmTrip_mem (src : AlarmSource) (s : State) : memOf s.mem (execAlarmTrip src s) = s.mem := by
  unfold execAlarmTrip
  split <;> simp

@[simp] theorem failSite_mem (s : State) (c : Nat) (site : BitVec 46) (cls : Nat) (detail : Word) :
    (s.failSite c site cls detail).mem = s.mem := by
  unfold State.failSite
  simp only []
  (repeat' split) <;> simp

@[simp] theorem spareCore_mem (s : State) (c : Nat) : (s.spareCore c).mem = s.mem := by
  unfold State.spareCore
  simp only []
  split <;> simp

@[simp] theorem goOnSparing_mem (s : State) (c : Nat) : (s.goOnSparing c).mem = s.mem := by
  unfold State.goOnSparing
  (repeat' split) <;> simp

@[simp] theorem execCoreSparing_mem (c : Nat) (s : State) : memOf s.mem (execCoreSparing c s) = s.mem := by
  unfold execCoreSparing
  split <;> simp

@[simp] theorem execDieFencing_mem (die : Nat) (s : State) : memOf s.mem (execDieFencing die s) = s.mem :=
  (foldl_mem_same _ _ (fun _ _ => by rfl) _).trans (foldl_mem_same _ _ (fun _ _ => by rfl) _)

@[simp] theorem execPackageReplacement_mem (old new : Nat) (s : State) :
    memOf s.mem (execPackageReplacement old new s) = s.mem := by
  simp [execPackageReplacement, foldl_mem_same]

@[simp] theorem execLinkRetry_mem (lost : LostData) (s : State) : memOf s.mem (execLinkRetry lost s) = s.mem := by
  unfold execLinkRetry
  split <;> simp

/-! ## Integer instructions -/

@[simp] theorem intOp_mem (e : Ext) (z : Size) (d a b : BitVec 5) (g : Guard) (f : Nat → Nat → Nat → Nat)
    (s : State) :
    memOf s.mem (intOp e z d a b g f s) = s.mem := by
  simp [intOp]

@[simp] theorem immOp_mem (d a : BitVec 5) (f : Word → Word) (s : State) : memOf s.mem (immOp d a f s) = s.mem := by
  simp [immOp]

@[simp] theorem shiftOp_mem (e : Ext) (z : Size) (d a b : BitVec 5) (g : Guard) (f : Nat → Nat → Nat → Nat)
    (s : State) :
    memOf s.mem (shiftOp e z d a b g f s) = s.mem := by
  simp [shiftOp]

@[simp] theorem countOp_mem (z : Size) (d a : BitVec 5) (g : Guard) (f : Nat → Nat → Nat) (s : State) :
    memOf s.mem (countOp z d a g f s) = s.mem := by
  simp [countOp]

/-! ## Packets and remote operations -/

@[simp] theorem pktEnd_mem (s : State) (c : Nat) (r : PktRun) : (s.pktEnd c r).mem = s.mem := by
  unfold State.pktEnd
  (repeat' split) <;> simp

@[simp] theorem execPkt_mem (c : Nat) (s : State) : memOf s.mem (execPkt c s) = s.mem := by
  unfold execPkt
  rw [memOf_next]
  split
  · rfl
  · refine (pktEnd_mem ..).trans ((foldl_mem_same _ _ (fun _ _ => by rfl) _).trans ?_)
    simp

@[simp] theorem copyFate_mem (s : State) (c d : Nat) (x : Wide) : (s.copyFate c d x).2.mem = s.mem := by
  unfold State.copyFate
  (repeat' split) <;> simp

@[simp] theorem copyArrives_mem (s : State) (c d : Nat) (r : PktRun) : (s.copyArrives c d r).mem = s.mem := by
  unfold State.copyArrives
  simp only []
  (repeat' split) <;> simp

@[simp] theorem execPktCopyEnqueue_mem (c : Nat) (seq : BitVec 16) (dst : Nat) (s : State) :
    memOf s.mem (execPktCopyEnqueue c seq dst s) = s.mem := by
  unfold execPktCopyEnqueue
  simp only []
  (repeat' split) <;> simp

@[simp] theorem execPacketDelivery_mem (c : Nat) (cls : BitVec 4) (s : State) :
    memOf s.mem (execPacketDelivery c cls s) = s.mem := by
  unfold execPacketDelivery
  simp only []
  (repeat' split) <;> simp

@[simp] theorem execRemoteWindowOperation_mem (c : Nat) (src : RemSrc) (s : State) :
    memOf s.mem (execRemoteWindowOperation c src s) = s.mem := by
  unfold execRemoteWindowOperation
  split <;> simp

@[simp] theorem execRemoteAnswer_mem (c : Nat) (src : RemSrc) (s : State) :
    memOf s.mem (execRemoteAnswer c src s) = s.mem := by
  unfold execRemoteAnswer
  split <;> simp

/-! ## Which slot issues -/

@[simp] theorem chargeStall_mem (s : State) (c : Nat) : (s.chargeStall c).mem = s.mem := by
  unfold State.chargeStall
  simp only []
  (repeat' split) <;> simp

@[simp] theorem beginIssue_mem (s : State) (c t : Nat) : (s.beginIssue c t).mem = s.mem := by
  simp [State.beginIssue]

@[simp] theorem beginAgain_mem (s : State) (c t : Nat) : (s.beginAgain c t).mem = s.mem := by
  simp [State.beginAgain]

@[simp] theorem bankLoss_mem (s : State) (c t n : Nat) : (s.bankLoss c t n).mem = s.mem := by simp [State.bankLoss]

/-! ## The agenda and the end of a tick -/

@[simp] theorem popEvent_mem (s : State) : (s.popEvent).mem = s.mem := by simp [State.popEvent]

@[simp] theorem popIssuer_mem (s : State) : (s.popIssuer).mem = s.mem := by simp [State.popIssuer]

@[simp] theorem countTick_mem (s : State) (c : Nat) : (s.countTick c).mem = s.mem := by simp [State.countTick]

@[simp] theorem clearTick_mem (s : State) : (s.clearTick).mem = s.mem := by simp [State.clearTick]

@[simp] theorem goOn_mem (s : State) : (s.goOn).mem = s.mem := by simp [State.goOn, foldl_mem_same]

@[simp] theorem schedule_mem (s : State) : (s.schedule).mem = s.mem := by simp [State.schedule]

@[simp] theorem endTick_mem (s : State) : (s.endTick).mem = s.mem := by
  unfold State.endTick
  simp only []
  split <;> simp

/-! ## Instructions that write memory -/

/-- A CTXSAV stops its core first, then writes the image or traps (R368, R381). -/

theorem ctxsavOut_wf (va : Addr) (s : State) (h : Memory.wf s.mem = true) :
    Memory.wf ((ctxsavOut va s).mem s.mem) = true := by
  unfold ctxsavOut
  simp only []
  split
  · split <;> simpa using h
  all_goals
    split
    · simpa using h
    · refine metered_keeps (Memory.wf · = true) _ _ _ _ s _ h fun u hu => ?_
      split
      · next ht => exact bulkWrite_wf _ _ _ _ _ (by simpa using hu) ht
      · simpa using hu

theorem execCtxsav_wf (a : BitVec 4) (s : State) (h : Memory.wf s.mem = true) :
    Memory.wf (memOf s.mem (execCtxsav a s)) = true := by
  refine finish_keeps (Memory.wf · = true) _ _ h <| privileged_keeps (Memory.wf · = true) _ s _ h ?_
  simp only []
  split
  · exact h
  · exact settled_keeps (Memory.wf · = true) s _ h (ctxsavOut_wf _ s h)

/-- The images of a part go into the save slot of its unit (R164). -/

theorem savePart_wf (s : State) (gn cl : Nat) (members : List Nat) (h : Memory.wf s.mem = true) :
    Memory.wf (s.savePart gn cl members).mem = true := by
  unfold State.savePart
  simp only [setUnit_mem]
  exact foldl_wf _ _ (fun u c hu => by rw [dropEvents_mem]; exact bulkPut_wf _ _ _ _ _ hu) _ h

/-- A preempted group's parts are saved, or nothing is written yet (R398). -/

theorem saveGroup_wf (s : State) (gn : Nat) (h : Memory.wf s.mem = true) : Memory.wf (s.saveGroup gn).mem = true := by
  have hheld : ((s.groupAt gn).members.foldl (init := s) fun s c => s.finishStop c none).mem = s.mem :=
    foldl_mem_same _ _ (fun _ _ => finishStop_mem ..) _
  unfold State.saveGroup
  simp only []
  split
  · simpa using h
  · simpa using h
  · split
    · rwa [payParts_mem, hheld]
    · rw [groupStatus_mem, setGroup_mem, foldl_mem_same _ _ (fun _ _ => by rfl), unconfigureAll_mem]
      refine foldl_wf _ _ (fun u p hu => savePart_wf u gn _ _ hu) _ ?_
      rwa [endXfer_mem, payParts_mem, hheld]

theorem execGroupPreempt_wf (k : Nat) (s : State) (h : Memory.wf s.mem = true) :
    Memory.wf (memOf s.mem (execGroupPreempt k s)) = true := by
  unfold execGroupPreempt
  rw [memOf_next]
  extract_lets g begun stopping stopped
  split
  · exact h
  · have hstopping : stopping.mem = s.mem := by
      simp only [stopping]
      split
      · rfl
      · exact foldl_mem_same _ _ (fun _ _ => by rfl) begun
    have hstopped : stopped.mem = s.mem := (foldl_mem_same _ _ (fun _ _ => stopStep_mem ..) stopping).trans hstopping
    split
    · exact saveGroup_wf stopped k (by rwa [hstopped])
    · rwa [hstopped]

/-- An FSCAN of a slot writes its section, meets a fault, or waits for the buckets (R381, R398). -/

theorem scanOut_wf (s : State) (c t : Nat) (a : Addr) (h : Memory.wf s.mem = true) :
    Memory.wf (s.scanOut c t a).1.mem = true := by
  unfold State.scanOut
  simp only []
  split
  · exact h
  · split
    · simpa using h
    · split
      · rw [advance_mem, setSlot_mem]
        exact bulkPut_wf _ _ _ _ _ (by simpa using h)
      · simpa using h

/-- The FSCANs that wait for a round write one after another (R371). -/

theorem scanRest_wf (s : State) (c : Nat) (h : Memory.wf s.mem = true) : Memory.wf (s.scanRest c).mem = true := by
  unfold State.scanRest
  split
  · exact h
  · next d _ =>
    have hscan (l : List (Nat × Addr)) (x : State × List (Nat × Addr)) (hx : Memory.wf x.1.mem = true) :
        Memory.wf (l.foldl (init := x) fun x f =>
          let y := x.1.scanOut c f.1 f.2
          (y.1, if y.2 then x.2 else x.2 ++ [f])).1.mem = true := by
      induction l generalizing x with
      | nil => exact hx
      | cons f r ih => exact ih _ (scanOut_wf x.1 c f.1 f.2 hx)
    have := hscan d.fscan (s, []) h
    simp only []
    split <;> split <;> simpa using this

theorem suspendRound_wf (s : State) (c : Nat) (r : Round) (how : Suspended) (h : Memory.wf s.mem = true) :
    Memory.wf (s.suspendRound c r how).mem = true := by
  unfold State.suspendRound
  split
  · exact h
  · exact scanRest_wf _ c h

theorem execDrainComplete_wf (c : Nat) (s : State) (h : Memory.wf s.mem = true) :
    Memory.wf (memOf s.mem (execDrainComplete c s)) = true := by
  unfold execDrainComplete
  rw [memOf_next]
  split
  · exact scanRest_wf s c h
  · refine withRound_keeps (Memory.wf · = true) c s _ h fun m r => ?_
    split
    · exact suspendRound_wf s c r _ h
    · exact h

theorem execFabricScanOut_wf (c : Nat) (s : State) (h : Memory.wf s.mem = true) :
    Memory.wf (memOf s.mem (execFabricScanOut c s)) = true := by
  refine withRound_keeps (Memory.wf · = true) c s _ h fun m r => ?_
  split
  · split
    · exact suspendRound_wf s c _ _ h
    · exact h
  · exact h

theorem fscanNow_wf (s : State) (va : Addr) (h : Memory.wf s.mem = true) : Memory.wf (s.fscanNow va).mem = true := by
  unfold State.fscanNow
  exact bulkPut_wf _ s _ _ _ h

theorem execFscan_wf (a : BitVec 4) (s : State) (h : Memory.wf s.mem = true) :
    Memory.wf (memOf s.mem (execFscan a s)) = true := by
  have scan (va : Addr) :
      Memory.wf ((metered (.store []) va 16384 64 s fun s => .done (s.fscanNow va)).mem s.mem) = true :=
    metered_keeps (Memory.wf · = true) _ _ _ _ s _ h fun u hu => by
      rw [Out.mem_done]
      exact fscanNow_wf u va hu
  refine finish_keeps (Memory.wf · = true) _ _ h <| privileged_keeps (Memory.wf · = true) _ s _ h ?_
  simp only []
  split
  · exact h
  · refine settled_keeps (Memory.wf · = true) s _ h ?_
    split
    · exact h
    · split
      · split
        · simpa using h
        · exact scan _
      · exact scan _

theorem execHostMemoryWrite_wf (addr : Nat) (bytes : List Byte) (s : State) (h : Memory.wf s.mem = true) :
    Memory.wf (memOf s.mem (execHostMemoryWrite addr bytes s)) = true := by
  unfold execHostMemoryWrite
  rw [memOf_next]
  split
  · exact writeServed_wf s addr bytes h
  · exact h

/-- A snapshot of the link counters, which then clears them. -/

theorem servedSnapshot_wf (s : State) (key : Nat) (bs : List Byte) (x : LinkUnit) (h : Memory.wf s.mem = true) :
    Memory.wf ({ (s.writeServed key bs).clearSlices with links := x } : State).mem = true := by
  have h2 : Memory.wf (s.writeServed key bs).clearSlices.mem = true := by
    rw [clearSlices_mem]
    exact writeServed_wf s key bs h
  generalize (s.writeServed key bs).clearSlices = t at h2
  exact h2

theorem execLinkSnapshot_wf (s : State) (h : Memory.wf s.mem = true) :
    Memory.wf (memOf s.mem (execLinkSnapshot s)) = true := by
  unfold execLinkSnapshot
  rw [memOf_next]
  simp only []
  split
  · exact h
  · exact servedSnapshot_wf s _ _ _ h

theorem execHomeSliceAccess_wf (id : Nat) (uncorrectable : Bool) (s : State) (h : Memory.wf s.mem = true) :
    Memory.wf (memOf s.mem (execHomeSliceAccess id uncorrectable s)) = true := by
  unfold execHomeSliceAccess
  rw [memOf_next]
  split
  · split
    · exact performAcc_wf s _ _ h
    · exact h
  · exact h

theorem execLsnap_wf (a : BitVec 4) (s : State) (h : Memory.wf s.mem = true) :
    Memory.wf (memOf s.mem (execLsnap a s)) = true := by
  refine finish_keeps (Memory.wf · = true) _ _ h <| privileged_keeps (Memory.wf · = true) _ s _ h ?_
  simp only []
  split
  · exact h
  · refine settled_keeps (Memory.wf · = true) s _ h ?_
    split
    · exact h
    · refine metered_keeps (Memory.wf · = true) _ _ _ _ s _ h fun u hu => ?_
      rw [Out.mem_done]
      exact bulkPut_wf _ u _ _ _ hu

theorem execBnsav_wf (r : BitVec 3) (a : BitVec 4) (s : State) (h : Memory.wf s.mem = true) :
    Memory.wf (memOf s.mem (execBnsav r a s)) = true := by
  refine finish_keeps (Memory.wf · = true) _ _ h <| privileged_keeps (Memory.wf · = true) _ s _ h <|
    onClosed_keeps (Memory.wf · = true) r _ s _ h fun net n => ?_
  simp only []
  split
  · exact h
  · refine settled_keeps (Memory.wf · = true) s _ h ?_
    split
    · exact h
    · exact metered_keeps (Memory.wf · = true) _ _ _ _ s _ h fun u hu => bulkPut_wf _ u _ _ _ hu

/-- A WSAVE that waited for refills writes the image or traps (R364). -/

theorem wsaveGoes_wf (s : State) (c t w : Nat) (held : Bool) (va : Addr) (h : Memory.wf s.mem = true) :
    Memory.wf (s.wsaveGoes c t w held va).mem = true := by
  unfold State.wsaveGoes
  simp only []
  split
  · next ht =>
    rw [advance_mem]
    exact bulkWrite_wf _ _ _ _ _ (by simpa using h) ht
  · split <;> simpa using h

theorem execWsave_wf (w a : BitVec 4) (s : State) (h : Memory.wf s.mem = true) :
    Memory.wf (memOf s.mem (execWsave w a s)) = true := by
  refine finish_keeps (Memory.wf · = true) _ _ h <| privileged_keeps (Memory.wf · = true) _ s _ h <|
    imageChecks_keeps (Memory.wf · = true) _ _ _ _ s _ h <| settled_keeps (Memory.wf · = true) s _ h ?_
  extract_lets bs
  split
  · exact h
  · refine metered_keeps (Memory.wf · = true) _ _ _ _ s _ h fun u hu => ?_
    extract_lets held
    have hheld : Memory.wf held.mem = true := hu
    split
    · simpa using hheld
    · split
      · next ht => exact bulkWrite_wf _ _ _ _ _ hheld ht
      · exact h

theorem execReleasePerformed_wf (c t : Nat) (s : State) (h : Memory.wf s.mem = true) :
    Memory.wf (memOf s.mem (execReleasePerformed c t s)) = true := by
  unfold execReleasePerformed
  rw [memOf_next]
  cases hhold : (s.slotAt c t).hold
  case refills w held va =>
    simp only [hhold]
    split
    · exact wsaveGoes_wf s c t w held va h
    · exact h
  all_goals
    simp only [hhold]
    (repeat' split) <;> simpa using h

theorem execBrodfortDump_wf (c addr : Nat) (s : State) (h : Memory.wf s.mem = true) :
    Memory.wf (memOf s.mem (execBrodfortDump c addr s)) = true := by
  unfold execBrodfortDump
  rw [memOf_next]
  simp only []
  split
  · exact h
  · exact writeServed_wf s _ _ h

/-- A boot begins on a bare package (R419). -/

theorem boot_wf (s : State) (r : BootResults) (h : Memory.wf s.mem = true) : Memory.wf (s.boot r).mem = true := by
  have hb := bare_wf s (s.device.unbooted .booting) h
  unfold State.boot
  simp only []
  split
  · exact hb
  · split
    · simpa using hb
    · exact hb

theorem execPowerApplied_wf (r : BootResults) (s : State) (h : Memory.wf s.mem = true) :
    Memory.wf (memOf s.mem (execPowerApplied r s)) = true := by
  unfold execPowerApplied
  rw [memOf_next]
  split
  · exact boot_wf s r h
  · exact h

theorem execPowerRemoved_wf (s : State) (h : Memory.wf s.mem = true) :
    Memory.wf (memOf s.mem (execPowerRemoved s)) = true := bare_wf s _ h

theorem execMailboxRestart_wf (r : BootResults) (s : State) (h : Memory.wf s.mem = true) :
    Memory.wf (memOf s.mem (execMailboxRestart r s)) = true := by
  unfold execMailboxRestart
  rw [memOf_next]
  split
  · exact boot_wf _ r (by simpa using h)
  · exact h

/-! ## One instruction -/

/-- The instructions and events that can write memory, or lose it with the package's power. -/
def writesMem (i : Instr) : Bool :=
  match i with
  | .ctxsav _ | .groupPreempt _ | .drainComplete _ | .fabricScanOut _ | .fscan _ | .hostMemoryWrite _ _ => true
  | .linkSnapshot | .homeSliceAccess _ _ | .lsnap _ | .bnsav _ _ | .wsave _ _ | .releasePerformed _ _ => true
  | .brodfortDump _ _ | .powerApplied _ | .powerRemoved | .mailboxRestart _ => true
  | _ => false

/-- Every other instruction leaves memory alone. The names after `exec` are the meanings that only call a shared
operation. -/
theorem exec_mem (i : Instr) (s : State) (h : writesMem i = false) : memOf s.mem (exec i s) = s.mem := by
  cases i
  case ctxsav | groupPreempt | drainComplete | fabricScanOut | fscan | hostMemoryWrite | linkSnapshot |
    homeSliceAccess | lsnap | bnsav | wsave | releasePerformed | brodfortDump | powerApplied | powerRemoved |
    mailboxRestart => cases h
  all_goals simp [exec, execDoneElementFill, execKld, execKins, execKext, execKmov, execGtw, execWtg, execWtw,
    execGath, execScat, execGredw, execFadd, execFsub, execFmul, execFfma, execFmin, execFmax, execFsgn,
    execFcmp, execFrce, execFrsqe, execFclass, execFcvt, execGldBZ, execGldBS, execGldHZ, execGldHS, execGldWZ,
    execGldWS, execGldD, execGstB, execGstH, execGstW, execGstD, execFence, execCmp, execSel, execBfxZImm,
    execBfxSImm, execBfiImm, execBfxZReg, execBfxSReg, execBfiReg, execAaddReg, execAset, execAget, execAgetH,
    execAstep, execAaddImm, execAcmp, execPand, execPor, execPxor, execPnot, execPset, execBr, execJal, execJr,
    execRep, execReservedEncoding, execYield, execCmsk, execCumsk, execSwr, execFpstatWrite, execRepcWrite,
    execWdctlWrite, execTrcctlWrite, execWbkbWrite, execWbksWrite, execSlotResume, execSlotKill, execEret,
    execTileUnpin, execWfill, execWrd, execWwr, execWshr, execWqry, execWrdn, execWfillReg, execWrdReg,
    execWwrReg, execWshrReg, execWfillRm, execWrdRm, execWwrRm, execWshrRm, execWqryRm, execWaitingReadProceeds,
    execWaitingFillProceeds, execTrcm, execCensusEntryFill, execReplayCompare, execMemberHalt,
    execMailboxStatus, execMailboxDiag, execMailboxAttest, execMailboxOther, execSoftErrorCorrected,
    execHbmSparing, execLaneSparing, execPowerThrottle, execAdd, execSub, execMul, execMulh, execDiv, execRem,
    execAnd, execOr, execXor, execNot, execShl, execShr, execRot, execClz, execCtz, execPopc, execMin, execMax,
    execBrev, execBswp, execMov, execNop, execAddImm, execAndImm, execOrImm, execXorImm, execShlImm,
    execShrZImm, execShrSImm, execMovImm, execMovh]

/-- Every instruction and every event keeps the canonical form. -/
theorem exec_wf (i : Instr) (s : State) (h : Memory.wf s.mem = true) : Memory.wf (memOf s.mem (exec i s)) = true := by
  cases hw : writesMem i
  case false => rwa [exec_mem i s hw]
  case true =>
    cases i
    case ctxsav a => exact execCtxsav_wf a s h
    case groupPreempt k => exact execGroupPreempt_wf k s h
    case drainComplete c => exact execDrainComplete_wf c s h
    case fabricScanOut c => exact execFabricScanOut_wf c s h
    case fscan a => exact execFscan_wf a s h
    case hostMemoryWrite a bs => exact execHostMemoryWrite_wf a bs s h
    case linkSnapshot => exact execLinkSnapshot_wf s h
    case homeSliceAccess id u => exact execHomeSliceAccess_wf id u s h
    case lsnap a => exact execLsnap_wf a s h
    case bnsav r a => exact execBnsav_wf r a s h
    case wsave w a => exact execWsave_wf w a s h
    case releasePerformed c t => exact execReleasePerformed_wf c t s h
    case brodfortDump c a => exact execBrodfortDump_wf c a s h
    case powerApplied r => exact execPowerApplied_wf r s h
    case powerRemoved => exact execPowerRemoved_wf s h
    case mailboxRestart r => exact execMailboxRestart_wf r s h
    all_goals cases hw

/-! ## One step -/

theorem runAt_wf (s begun : State) (c t : Nat) (h : Memory.wf begun.mem = true) :
    Memory.wf (memOf begun.mem (s.runAt begun c t)) = true := by
  unfold State.runAt
  split
  · simpa using h
  · exact exec_wf _ begun h

theorem issueAt_wf (s : State) (c : Nat) (h : Memory.wf s.mem = true) :
    Memory.wf (memOf s.mem (s.issueAt c)) = true := by
  unfold State.issueAt
  split
  · exact runAt_wf s _ c _ h
  · simpa using h

/-- A step flushes trace records, runs an event or an instruction, or ends the tick: each keeps the canonical form. -/
theorem step_wf (s : State) (h : Memory.wf s.mem = true) : Memory.wf (memOf s.mem (step s)) = true := by
  unfold step
  split
  · exact flushTraces_wf s h
  · split
    · split
      · exact exec_wf _ s.popEvent h
      · exact h
    · split
      · split
        · exact runAt_wf s _ _ _ h
        · exact issueAt_wf s.popIssuer _ h
      · simpa using h

/-! ## The obligations -/

/-- Settles O60: the next state of a step is what `step_wf` speaks of. -/
theorem memoryCanonical : Obligations.MemoryCanonical := by
  unfold Obligations.MemoryCanonical
  intro s t h ht
  have hs := step_wf s h
  rwa [ht] at hs

/-- Settles O37, by the laws of tables: memory is a table of bytes whose unlisted keys read as 0. -/
theorem memoryLaws : Obligations.MemoryLaws := by
  unfold Obligations.MemoryLaws
  intro s key bs
  exact ⟨tgets_tputs 0 s.mem key bs, fun k hk => tget_tputs_out 0 s.mem key k bs hk, writeMem_wf s key bs, reset_wf⟩

end Sys2Proof.Machine
end

section
/-! SUPPORT. Instructions that only write registers, supervisor words and false guards (R8, R9, R13, R17). -/

namespace Sys2Proof.Machine

open Sys2Proof

/-! ## Supervisor words -/

/-- A word that checks its privilege first takes the privilege trap without TSTAT.SUP (R13, R64). -/
theorem finish_privileged_user (i : Instr) (s : State) (k : State → Out) (w : Code) (hw : encode i = some w)
    (h : s.me.sup = false) :
    finish s (privileged i s k) = .next (s.takeTrap s.cur s.slot ⟨3, w.setWidth 64, none, none⟩ s.me.pc) := by
  rw [privileged_user i s k w h hw]
  rfl

/-- Settles O8: each of the words runs under the check of `privileged`. -/
theorem privilegeTrap : Obligations.PrivilegeTrap := by
  unfold Obligations.PrivilegeTrap Traps
  intro s i w hi hw h
  cases i <;> cases hi
  case eret | bndrn | bnsav | bnload | bnclr | tlbinv | wsave | wrest | wpois | ctxsav | ctxrst | fscan | lsnap =>
    exact finish_privileged_user _ s _ w hw h

/-! ## Ends of register-only instructions -/

/-- An instruction that is done with its slot changed to x ends there (R8). -/
theorem finish_done_setMe (s : State) (x : Slot) (h : HasNext s) :
    finish s (.done (s.setMe x)) = .next (s.setMe x.advance) := by
  rw [finish_done s _ h]
  show (.next ((s.setMe x).setMe (s.setMe x).me.advance) : Res) = _
  rw [me_setMe, setMe_setMe]

/-- An instruction that is done and has changed nothing ends with its own slot (R8). -/
theorem finish_done_same (s : State) (h : HasNext s) : finish s (.done s) = .next (s.setMe s.me.advance) := by
  rw [finish_done s s h, advance_me]

/-- An instruction that is done and has no successor takes the instruction-address trap (R17). -/
theorem finish_done_last (s t : State) (h : ¬HasNext s) :
    finish s (.done t) = .next (s.takeTrap s.cur s.slot ⟨2, 4096, none, none⟩ s.me.pc) := by
  rw [finish_done_out s t (by simpa [HasNext] using h)]
  rfl

/-- Moving past an instruction changes the PC and what counts the repeats, and nothing else (R8, R113). -/
theorem Slot.advance_only (x : Slot) :
    ∃ pc repc inRep, x.advance = { x with pc := pc, repc := repc, inRep := inRep } := by
  unfold Slot.advance
  split
  · split
    · exact ⟨_, _, _, rfl⟩
    · exact ⟨_, _, _, rfl⟩
  · exact ⟨_, _, _, rfl⟩

/-- What agrees in all but one register still does once the slot has moved past its instruction. -/
theorem sameBut_advance {d : Dst} {fp : Bool} {x y : Slot} (h : SameBut d fp x y) : SameBut d fp x y.advance := by
  obtain ⟨pc, repc, inRep, e⟩ := y.advance_only
  rw [e]
  exact ⟨h.g, h.a, h.p, h.k, h.fpstat, h.mode, h.trap, h.life⟩

/-! ## The register an instruction writes -/

theorem sameBut_self (d : Dst) (fp : Bool) (x : Slot) : SameBut d fp x x :=
  ⟨fun _ _ => rfl, fun _ _ => rfl, fun _ _ => rfl, fun _ _ => rfl, fun _ => rfl, rfl, rfl, rfl⟩

theorem sameBut_writeG (fp : Bool) (x : Slot) (d : BitVec 5) (v : Word) : SameBut (.g d) fp x (x.writeG d v) where
  g r h := by rw [Slot.readG_writeG, if_neg fun e => h (by rw [e.1])]
  a _ _ := by simp
  p _ _ := by simp
  k _ _ := by simp
  fpstat _ := by simp
  mode := by simp
  trap := by simp
  life := by simp

theorem sameBut_writeA (fp : Bool) (x : Slot) (d : BitVec 4) (v : Addr) : SameBut (.a d) fp x (x.writeA d v) where
  g _ _ := by simp
  a r h := by rw [Slot.readA_writeA, if_neg fun e => h (by rw [e])]
  p _ _ := by simp
  k _ _ := by simp
  fpstat _ := by simp
  mode := by simp
  trap := by simp
  life := by simp

theorem sameBut_writeP (fp : Bool) (x : Slot) (d : BitVec 3) (v : Bool) : SameBut (.p d) fp x (x.writeP d v) where
  g _ _ := by simp
  a _ _ := by simp
  p r h := by rw [Slot.readP_writeP, if_neg fun e => h (by rw [e.1])]
  k _ _ := by simp
  fpstat _ := by simp
  mode := by simp
  trap := by simp
  life := by simp

theorem sameBut_writeK (fp : Bool) (x : Slot) (d : BitVec 3) (v : Wide) : SameBut (.k d) fp x (x.writeK d v) where
  g _ _ := by simp
  a _ _ := by simp
  p _ _ := by simp
  k r h := by rw [Slot.readK_writeK, if_neg fun e => h (by rw [e])]
  fpstat _ := by simp
  mode := by simp
  trap := by simp
  life := by simp

/-- Raising flags changes FPSTAT alone. -/
theorem sameBut_raiseFlags {d : Dst} {fp : Bool} {x y : Slot} (h : SameBut d fp x y) (f : Flags) :
    SameBut d true x (y.raiseFlags f) :=
  ⟨h.g, h.a, h.p, h.k, fun e => (by cases e), h.mode, h.trap, h.life⟩

/-! ## What a register-only instruction comes to -/

/-- A result that is done with one register written, or the trap past the end of the store (R8, R17). -/
def WritesOne (d : Dst) (fp : Bool) (s : State) (r : Res) : Prop :=
  ∃ t x, r = finish s (.done t) ∧ t.advance t.cur t.slot = s.setMe x.advance ∧ SameBut d fp s.me x

theorem writesOne_setMe {d : Dst} {fp : Bool} (s : State) (x : Slot) (h : SameBut d fp s.me x) :
    WritesOne d fp s (finish s (.done (s.setMe x))) := by
  refine ⟨s.setMe x, x, rfl, ?_, h⟩
  show (s.setMe x).setMe (s.setMe x).me.advance = _
  rw [me_setMe, setMe_setMe]

/-- Nothing is written: a NOP, or a false guard (R9, R53). -/
theorem writesOne_same (d : Dst) (fp : Bool) (s : State) : WritesOne d fp s (finish s (.done s)) :=
  ⟨s, s.me, rfl, rfl, sameBut_self ..⟩

theorem writesOne_guarded {d : Dst} {fp : Bool} (g : Guard) (s : State) (k : State → Out) (x : Slot)
    (hk : k s = .done (s.setMe x)) (h : SameBut d fp s.me x) : WritesOne d fp s (guarded g s k) := by
  cases hg : s.me.guard g with
  | true => rw [guarded_true g s k hg, hk]; exact writesOne_setMe s x h
  | false => rw [guarded_false g s k hg]; exact writesOne_same d fp s

theorem immOp_writesOne (fp : Bool) (d a : BitVec 5) (f : Word → Word) (s : State) :
    WritesOne (.g d) fp s (immOp d a f s) :=
  writesOne_setMe s _ (sameBut_writeG ..)

theorem intOp_writesOne (fp : Bool) (e : Ext) (z : Size) (d a b : BitVec 5) (g : Guard) (f : Nat → Nat → Nat → Nat)
    (s : State) : WritesOne (.g d) fp s (intOp e z d a b g f s) :=
  writesOne_guarded g s _ _ rfl (sameBut_writeG ..)

theorem shiftOp_writesOne (fp : Bool) (e : Ext) (z : Size) (d a b : BitVec 5) (g : Guard) (f : Nat → Nat → Nat → Nat)
    (s : State) : WritesOne (.g d) fp s (shiftOp e z d a b g f s) :=
  writesOne_guarded g s _ _ rfl (sameBut_writeG ..)

theorem countOp_writesOne (fp : Bool) (z : Size) (d a : BitVec 5) (g : Guard) (f : Nat → Nat → Nat) (s : State) :
    WritesOne (.g d) fp s (countOp z d a g f s) :=
  writesOne_guarded g s _ _ rfl (sameBut_writeG ..)

theorem fpOp_writesOne (t : FpTy) (d : BitVec 5) (g : Guard) (f : Slot → Nat → Nat × Flags) (s : State) :
    WritesOne (.g d) true s (fpOp t d g f s) :=
  writesOne_guarded g s _ _ rfl (sameBut_raiseFlags (sameBut_writeG false ..) _)

/-- Every register-only instruction writes one register and is done. -/
theorem exec_writesOne (s : State) (i : Instr) (d : Dst) (fp : Bool) (h : destOf i = some (d, fp)) :
    WritesOne d fp s (exec i s) := by
  cases i <;> cases h
  all_goals simp only [exec]
  case nop => exact writesOne_same ..
  case addImm | andImm | orImm | xorImm | shlImm | shrZImm | shrSImm | movImm | movh => exact immOp_writesOne ..
  case add | sub | mul | mulh | div | rem | and | or | xor | not | min | max | brev | bswp | mov =>
    exact intOp_writesOne ..
  case shl | shr | rot => exact shiftOp_writesOne ..
  case clz | ctz | popc => exact countOp_writesOne ..
  case fadd | fsub | fmul | ffma | fmin | fmax | fsgn | frce | frsqe | fclass => exact fpOp_writesOne ..
  case fcvt => exact writesOne_guarded _ s _ _ rfl (sameBut_raiseFlags (sameBut_writeG false ..) _)
  case fcmp => exact writesOne_guarded _ s _ _ rfl (sameBut_raiseFlags (sameBut_writeP false ..) _)
  case sel | bfxZImm | bfxSImm | bfiImm | kext => exact writesOne_setMe s _ (sameBut_writeG ..)
  case aaddImm => exact writesOne_setMe s _ (sameBut_writeA ..)
  case kld | kins | kmov => exact writesOne_setMe s _ (sameBut_writeK ..)
  case cmp | acmp | pand | por | pxor | pnot | pset => exact writesOne_guarded _ s _ _ rfl (sameBut_writeP ..)
  case aaddReg | aset | astep => exact writesOne_guarded _ s _ _ rfl (sameBut_writeA ..)
  case bfxZReg | bfxSReg | bfiReg | aget | agetH => exact writesOne_guarded _ s _ _ rfl (sameBut_writeG ..)

/-! ## Frames -/

/-- Replacing the issuing slot leaves everything outside it as it was. -/
theorem othersSame_setMe (s : State) (x : Slot) : OthersSame s (s.setMe x) where
  mem _ := rfl
  slots c u h := by rw [slotAt_setMe, if_neg h]
  wins c w := by
    unfold State.winAt
    rw [coreAt_setMe]
    split
    · subst c; rfl
    · rfl
  core c := by
    rw [coreAt_setMe]
    split
    · subst c; rfl
    · rfl
  rest := rfl

/-- Settles O10: such an instruction only replaces its own slot, by one that agrees in all but the destination. -/
theorem registerFrame : Obligations.RegisterFrame := by
  unfold Obligations.RegisterFrame
  intro s t i d fp hd hn ht
  obtain ⟨u, x, hr, hu, hx⟩ := exec_writesOne s i d fp hd
  rw [hr, finish_done s u hn, hu] at ht
  cases ht
  rw [me_setMe]
  exact ⟨sameBut_advance hx, othersSame_setMe s _⟩

/-! ## False guards -/

/-- Under a false guard every guarded form runs as `guarded` says (R9). -/
theorem exec_guardOf_false (s : State) (i : Instr) (g : Guard) (h : guardOf i = some g) (hg : s.me.guard g = false) :
    exec i s = finish s (.done s) := by
  cases i <;> cases h
  all_goals
    simp only [exec, execAdd, execSub, execMul, execMulh, execDiv, execRem, execAnd, execOr, execXor, execNot, execShl,
      execShr, execRot, execClz, execCtz, execPopc, execMin, execMax, execBrev, execBswp, execMov, intOp, shiftOp,
      countOp, execCmp, execBfxZReg, execBfxSReg, execBfiReg, execAaddReg, execAset, execAget, execAgetH, execAstep,
      execAcmp, execPand, execPor, execPxor, execPnot, execPset, execBr, execJr, execWfillReg, execWrdReg, execWwrReg,
      execWshrReg, execWfillRm, execWrdRm, execWwrRm, execWshrRm, execWqryRm, execFadd, execFsub, execFmul, execFfma,
      execFmin, execFmax, execFsgn, execFcmp, execFrce, execFrsqe, execFclass, execFcvt, fpOp, execRed, execAmo,
      guarded_false _ s _ hg]

theorem fallsOut_repeat (x : Slot) (h : x.inRep = true) :
    x.fallsOut = decide (x.repc.toNat ≤ 1 ∧ 4095 < x.pc.toNat + 2) := by
  simp [Slot.fallsOut, h]

/-- Settles O9, by the equations of `guarded`, `finish`, `Slot.advance` and `Slot.fallsOut`. -/
theorem falseGuard : Obligations.FalseGuard := by
  unfold Obligations.FalseGuard
  refine ⟨fun s i g hi hg hn => ?_, fun s i d hd hn => ?_, fun x => ⟨fun h => ?_, fun h hc => ?_, fun h hc => ?_⟩⟩
  · unfold Ends
    rw [exec_guardOf_false s i g hi hg, finish_done_same s hn]
  · obtain ⟨u, x, hr, -, -⟩ := exec_writesOne s i d.1 d.2 hd
    unfold Traps
    rw [hr, finish_done_last s u hn]
  · exact ⟨advance_plain x h, by rw [fallsOut_plain x h]; simp⟩
  · refine ⟨advance_repeat x h hc, ?_⟩
    rw [fallsOut_repeat x h]
    simp
    omega
  · refine ⟨advance_last x h hc, ?_⟩
    rw [fallsOut_repeat x h]
    simp
    omega

end Sys2Proof.Machine
end

section
/-! SUPPORT. Numbers and their bytes; the command registers (R2, R10, R75). -/

namespace Sys2Proof.Machine

open Sys2Proof

/-! ## Numbers and their bytes (R2) -/

theorem ofBytes_append (bs cs : List Byte) : ofBytes (bs ++ cs) = ofBytes bs + 256 ^ bs.length * ofBytes cs := by
  induction bs with
  | nil => simp [ofBytes]
  | cons b bs ih => simp only [List.cons_append, ofBytes, ih, List.length_cons, pow_succ]; ring

theorem ofBytes_lt (bs : List Byte) : ofBytes bs < 256 ^ bs.length := by
  induction bs with
  | nil => simp [ofBytes]
  | cons b bs ih => have := b.isLt; simp only [ofBytes, List.length_cons, pow_succ]; omega

/-- The bytes of a number give it back, up to their count. -/
theorem ofBytes_bytesOf (n v : Nat) : ofBytes (bytesOf n v) = v % 256 ^ n := by
  induction n generalizing v with
  | zero => simp [bytesOf, ofBytes, Nat.mod_one]
  | succ n ih =>
    rw [bytesOf, ofBytes, ih, BitVec.toNat_ofNat, show 256 ^ (n + 1) = 256 * 256 ^ n from pow_succ' .., Nat.mod_mul]

theorem bytesOf_getElem (n v i : Nat) (h : i < (bytesOf n v).length) :
    (bytesOf n v)[i] = BitVec.ofNat 8 (v / 256 ^ i) := by
  induction n generalizing v i with
  | zero => simp [bytesOf] at h
  | succ n ih =>
    cases i with
    | zero => simp [bytesOf]
    | succ i =>
      have hi : i < (bytesOf n (v / 256)).length := by simpa [bytesOf] using h
      have := ih (v / 256) i hi
      simp only [bytesOf, List.getElem_cons_succ, this, Nat.div_div_eq_div_mul, pow_succ']

/-- Byte j of the number of some bytes; zero beyond them. -/
theorem ofBytes_byte (bs : List Byte) (j : Nat) : BitVec.ofNat 8 (ofBytes bs / 256 ^ j) = bs.getD j 0 := by
  induction bs generalizing j with
  | nil => simp [ofBytes]
  | cons b bs ih =>
    have hb := b.isLt
    cases j with
    | zero => apply BitVec.eq_of_toNat_eq; simp [ofBytes]; omega
    | succ j =>
      rw [List.getD_cons_succ, ← ih, ofBytes, pow_succ', ← Nat.div_div_eq_div_mul]
      congr 2
      omega

/-! ## The command registers (R75) -/

/-- Four words in a row, least significant first, as one number. -/
theorem wide_of_words (a b c d : Code) :
    BitVec.ofNat 128 (ofBytes ([a, b, c, d].flatMap fun w => bytesOf 4 w.toNat)) = d ++ c ++ b ++ a := by
  have ha := a.isLt; have hb := b.isLt; have hc := c.isLt; have hd := d.isLt
  apply BitVec.eq_of_toNat_eq
  simp only [List.flatMap_cons, List.flatMap_nil, ofBytes_append, ofBytes_bytesOf, bytesOf_length, BitVec.toNat_append,
    BitVec.toNat_ofNat, ofBytes]
  rw [← Nat.shiftLeft_add_eq_or_of_lt hc, ← Nat.shiftLeft_add_eq_or_of_lt hb, ← Nat.shiftLeft_add_eq_or_of_lt ha]
  simp only [Nat.shiftLeft_eq]
  omega

/-- The value KINS leaves in a command register. -/
def kinsVal (x : Wide) (p n : Nat) (v : Word) : Wide :=
  (x &&& ~~~BitVec.ofNat 128 ((2 ^ n - 1) * 2 ^ p)) ||| BitVec.ofNat 128 (v.toNat % 2 ^ n * 2 ^ p)

/-- KINS replaces the bits of its field, those below bit 128. -/
theorem kinsVal_getLsbD (x : Wide) (p n j : Nat) (v : Word) (hj : j < 128) :
    (kinsVal x p n v).getLsbD j = if p ≤ j ∧ j < p + n then v.getLsbD (j - p) else x.getLsbD j := by
  have hmask : ((2 ^ n - 1) * 2 ^ p).testBit j = decide (p ≤ j ∧ j < p + n) := by
    rw [Nat.testBit_mul_two_pow, Nat.testBit_two_pow_sub_one]
    by_cases h : p ≤ j <;> simp [h]
    omega
  have hval : (v.toNat % 2 ^ n * 2 ^ p).testBit j = (decide (p ≤ j ∧ j < p + n) && v.getLsbD (j - p)) := by
    rw [Nat.testBit_mul_two_pow, Nat.testBit_mod_two_pow, BitVec.getLsbD]
    by_cases h : p ≤ j
    · simp [h, show j - p < n ↔ j < p + n by omega]
    · simp [h]
  simp only [kinsVal, BitVec.getLsbD_or, BitVec.getLsbD_and, BitVec.getLsbD_not, BitVec.getLsbD_ofNat, hj, hmask, hval]
  by_cases h : p ≤ j ∧ j < p + n <;> simp [h]

/-- KEXT reads the bits of its field, zeros beyond bit 127. -/
theorem cf_getLsbD (x : Wide) (p n j : Nat) (hj : j < 64) :
    (BitVec.ofNat 64 (cf x p n)).getLsbD j = (decide (j < n) && x.getLsbD (p + j)) := by
  rw [BitVec.getLsbD_ofNat, cf, Nat.testBit_mod_two_pow, Nat.testBit_div_two_pow, BitVec.getLsbD, Nat.add_comm j p]
  simp [hj]

/-- Settles O18, by the bits of each value and the laws of the register file. -/
theorem commandRegisters : Obligations.CommandRegisters := by
  unfold Obligations.CommandRegisters Ends
  refine ⟨fun s k m i p w d z hn => ⟨?_, ?_, ?_, ?_⟩, fun x d e a b p q v va t w => ⟨?_, ?_, ?_, ?_, ?_, ?_, ?_, ?_⟩⟩
  · rw [← wide_of_words, ← finish_done_setMe s _ hn]
    rfl
  · exact ⟨kinsVal (s.me.readK k) p.toNat (w.toNat + 1) (s.me.readG z), fun j hj => kinsVal_getLsbD _ _ _ j _ hj,
      finish_done_setMe s _ hn⟩
  · exact ⟨BitVec.ofNat 64 (cf (s.me.readK k) p.toNat (w.toNat + 1)), fun j hj => cf_getLsbD _ _ _ j hj,
      finish_done_setMe s _ hn⟩
  · exact finish_done_setMe s _ hn
  · rw [Slot.readG_writeG]
    by_cases he : e = 0
    · rw [if_neg fun h => h.2 he, if_pos he, he, Slot.readG_zero]
    · simp only [ne_eq, he, not_false_eq_true, and_true, if_false]
  · exact Slot.readA_writeA ..
  · rw [Slot.readP_writeP]
    by_cases hq : q = 0
    · rw [if_neg fun h => h.2 hq, if_pos hq, hq, Slot.readP_zero]
    · simp only [ne_eq, hq, not_false_eq_true, and_true, if_false]
  · exact Slot.readK_writeK ..
  all_goals intro r
  · exact Slot.readA_writeG ..
  · exact Slot.readP_writeG ..
  · exact Slot.readG_writeA ..
  · exact Slot.readG_writeP ..

end Sys2Proof.Machine
end

section
/-! SUPPORT. What reset leaves, and which instruction or event a step runs (R14, R30, R64, R113, R125, R147, R155). -/

namespace Sys2Proof.Machine

open Sys2Proof

/-! ## Reset: every table lists nothing (R14, R30) -/

@[simp] theorem reset_coreAt (c : Nat) : State.reset.coreAt c = Core.init := rfl
@[simp] theorem reset_slotAt (c t : Nat) : State.reset.slotAt c t = Slot.init := rfl
@[simp] theorem reset_winAt (c w : Nat) : State.reset.winAt c w = Win.init := rfl
@[simp] theorem reset_netAt (n : Nat) : State.reset.netAt n = Net.init := rfl
@[simp] theorem reset_clusterAt (cl : Nat) : State.reset.clusterAt cl = Cluster.init := rfl

@[simp] theorem Slot.init_readG (r : BitVec 5) : Slot.init.readG r = 0 := by simp [Slot.readG, Slot.init]
@[simp] theorem Slot.init_readA (r : BitVec 4) : Slot.init.readA r = 0 := by simp [Slot.readA, Slot.init]
@[simp] theorem Slot.init_readK (r : BitVec 3) : Slot.init.readK r = 0 := by simp [Slot.readK, Slot.init]
@[simp] theorem Slot.init_readP (r : BitVec 3) : Slot.init.readP r = decide (r = 0) := by
  by_cases h : r = 0#3 <;> simp [Slot.readP, Slot.init, h]

theorem Win.init_word (q : Nat) : Win.init.word q = 0 := by
  match q with
  | 0 | 1 | _ + 2 => rfl

/-- Settles O5: an unlisted core, cluster or network is one that reset has left. -/
theorem resetState : Obligations.ResetState := by
  unfold Obligations.ResetState
  refine ⟨fun c t => ?_, fun c w => ⟨rfl, fun q => Win.init_word q⟩, fun c n => ⟨rfl, rfl, rfl, rfl, rfl⟩,
    fun n => ⟨rfl, rfl, rfl, rfl, rfl⟩, fun cl => rfl, rfl, rfl, fun k => rfl⟩
  rw [reset_slotAt]
  exact ⟨rfl, rfl, Slot.init_readG, Slot.init_readA, Slot.init_readP, Slot.init_readK, rfl, rfl, rfl⟩

/-! ## The word a slot executes (R64, R113) -/

theorem instrOf_ok {w : Code} {i : Instr} (h : decode w = .ok i) : instrOf w = i := by
  simp [instrOf, h]

theorem instrOf_error {w : Code} {e} (h : decode w = .error e) : instrOf w = .reservedEncoding w := by
  simp [instrOf, h]

theorem Core.fetch_plain (k : Core) (sl : Slot) (h : sl.inRep = false) :
    k.fetch sl = tget 0 k.istore sl.pc.toNat := by
  simp [Core.fetch, h]

/-- Repeat k of a REP fetches its target with each stepped field raised (R113). -/
theorem Core.fetch_repeat (k : Core) (sl : Slot) {n : BitVec 6} {sd sa sb : Bool} (h : sl.inRep = true)
    (hd : decode (tget 0 k.istore sl.pc.toNat) = .ok (.rep n sd sa sb)) :
    k.fetch sl = stepWord (tget 0 k.istore (sl.pc.toNat + 1)) sd sa sb (n.toNat + 1 - sl.repc.toNat) := by
  rw [Core.fetch, if_pos h, instrOf_ok hd]

/-! ## What a step runs -/

/-- A slot that keeps its bank runs what its word decodes to. -/
theorem runAt_keeps (s b : State) (c t : Nat) (h : s.losesBank c t = false) :
    s.runAt b c t = exec (instrOf ((s.coreAt c).fetch (s.slotAt c t))) b := by
  simp [State.runAt, h]

/-- A slot that loses its bank repeats in the next tick (R125). -/
theorem runAt_loses (s b : State) (c t : Nat) (h : s.losesBank c t = true) :
    s.runAt b c t = .next (b.bankLoss c t (s.slotAt c t).banked) := by
  simp [State.runAt, h]

/-- Once no event is due, the first core of the list issues from the slot it chooses (R156). -/
theorem step_issue (s : State) (c t : Nat) (rest : List Nat) (ht : s.tracesDue = false) (he : s.nextEvent = none)
    (hi : s.issuers = c :: rest) (hr : (s.coreAt c).rerun = none) (hc : s.choose c = some t) :
    step s = s.popIssuer.runAt (s.popIssuer.beginIssue c t) c t := by
  have hc' : s.popIssuer.choose c = some t := hc
  simp [step, ht, he, hi, hr, State.issueAt, hc']

/-- A slot that has issued and runs again goes before the issue of its core (log 15). -/
theorem step_rerun (s : State) (c t : Nat) (rest : List Nat) (ht : s.tracesDue = false) (he : s.nextEvent = none)
    (hi : s.issuers = c :: rest) (hr : (s.coreAt c).rerun = some t) : step s = s.runAt (s.beginAgain c t) c t := by
  simp [step, ht, he, hi, hr]

/-- The next event goes before any core issues (R147). -/
theorem step_event (s : State) (e : Instr) (ht : s.tracesDue = false) (he : s.nextEvent = some e)
    (hv : isEvent e = true) : step s = exec e s.popEvent := by
  simp [step, ht, he, hv]

/-! ## Around an instruction -/

/-- Counting an issue sets the stamp and the count of issues, and nothing else (R155). -/
theorem countIssue_only (sl : Slot) (tick : BitVec 64) :
    ∃ ready issues, sl.countIssue tick = { sl with ready := ready, issues := issues } := by
  unfold Slot.countIssue
  split
  · exact ⟨_, _, rfl⟩
  · exact ⟨_, _, rfl⟩

theorem sameBut_countIssue (sl : Slot) (tick : BitVec 64) : SameBut .none false sl (sl.countIssue tick) := by
  obtain ⟨ready, issues, e⟩ := countIssue_only sl tick
  rw [e]
  exact ⟨fun _ _ => rfl, fun _ _ => rfl, fun _ _ => rfl, fun _ _ => rfl, fun _ => rfl, rfl, rfl, rfl⟩

@[simp] theorem beginIssue_slotAt_self (s : State) (c t : Nat) :
    (s.beginIssue c t).slotAt c t = (s.slotAt c t).countIssue s.tick := by
  show (s.setCore c _).slotAt c t = _
  simp [State.slotAt]

theorem beginIssue_slotAt_other (s : State) (c t d u : Nat) (h : ¬(d = c ∧ u = t)) :
    (s.beginIssue c t).slotAt d u = s.slotAt d u := by
  show (s.setCore c _).slotAt d u = _
  unfold State.slotAt
  rw [coreAt_setCore]
  split
  case isTrue hd =>
    subst hd
    rw [Core.slotAt_setSlot, if_neg fun e => h ⟨rfl, e⟩]
    rfl
  case isFalse => rfl

theorem beginIssue_winAt (s : State) (c t w : Nat) : (s.beginIssue c t).winAt c w = s.winAt c w := by
  show (s.setCore c _).winAt c w = _
  rw [State.winAt, coreAt_setCore_self]
  rfl

theorem beginIssue_stall (s : State) (c t : Nat) :
    ((s.beginIssue c t).coreAt c).stall = ((s.coreAt c).charge 0).stall := by
  show ((s.setCore c _).coreAt c).stall = _
  rw [coreAt_setCore_self]
  rfl

/-- A tick is charged to the counter it is charged to (R413). -/
theorem vget_set_self {α : Type} {n : Nat} (d : α) (v : Vector α n) (i : Nat) (h : i < n) (x : α) :
    vget d (v.set i x h) i = x := by
  simp [vget, h]

theorem vget_set_ne {α : Type} {n : Nat} (d : α) (v : Vector α n) (i j : Nat) (h : i < n) (x : α) (hj : i ≠ j) :
    vget d (v.set i x h) j = vget d v j := by
  simp [vget, hj]

theorem vget_eq {α : Type} {n : Nat} (d : α) (v : Vector α n) (i : Nat) (h : i < n) : vget d v i = v[i] := by
  simp [vget, h]

theorem coreAt_stallAdd (s : State) (c : Nat) (n : Fin 16) : (s.stallAdd c n).coreAt c =
    { s.coreAt c with
      stall := (s.coreAt c).stall.set n.val ((s.coreAt c).stall[n.val]'n.isLt + 1) n.isLt } :=
  coreAt_setCore_self ..

@[simp] theorem stallAdd_slotAt (s : State) (c t : Nat) (n : Fin 16) : (s.stallAdd c n).slotAt c t = s.slotAt c t := by
  rw [State.slotAt, coreAt_stallAdd]
  rfl

@[simp] theorem stallAdd_winAt (s : State) (c w : Nat) (n : Fin 16) : (s.stallAdd c n).winAt c w = s.winAt c w := by
  rw [State.winAt, coreAt_stallAdd]
  rfl

theorem stallAdd_stall (s : State) (c : Nat) (n : Fin 16) (m : Nat) (h : n.val = m) :
    vget 0 ((s.stallAdd c n).coreAt c).stall m = vget 0 (s.coreAt c).stall m + 1 := by
  subst h
  rw [coreAt_stallAdd, vget_eq 0 (s.coreAt c).stall n.val n.isLt]
  exact vget_set_self 0 _ n.val n.isLt _

/-- The tick of an issue counts in ISSUE (R413). -/
theorem charge_issue (k : Core) : vget 0 (k.charge 0).stall 0 = vget 0 k.stall 0 + 1 := by
  refine (vget_set_ne 0 _ 1 0 (by omega) _ (by omega)).trans ?_
  rw [vget_eq 0 k.stall 0 (by omega)]
  exact vget_set_self 0 _ 0 (by omega) _

/-- The tick of an issue leaves BANK as it was (R414). -/
theorem charge_issue_bank (k : Core) : vget 0 (k.charge 0).stall 14 = vget 0 k.stall 14 :=
  (vget_set_ne 0 _ 1 14 (by omega) _ (by omega)).trans (vget_set_ne 0 _ 0 14 (by omega) _ (by omega))

theorem setSlot_coreAt_self (s : State) (c t : Nat) (sl : Slot) :
    (s.setSlot c t sl).coreAt c = (s.coreAt c).setSlot t sl := coreAt_setCore_self ..

@[simp] theorem setSlot_winAt (s : State) (c t d w : Nat) (sl : Slot) :
    (s.setSlot c t sl).winAt d w = s.winAt d w := by
  unfold State.winAt State.setSlot
  rw [coreAt_setCore]
  split
  case isTrue h => subst h; rfl
  case isFalse => rfl

/-- A loss of a bank changes the slot's hold and its count of losses (R125). -/
theorem bankLoss_slotAt (s : State) (c t n : Nat) :
    (s.bankLoss c t n).slotAt c t = { s.slotAt c t with hold := .bank, again := true, banked := n + 1 } := by
  rw [State.bankLoss, stallAdd_slotAt, slotAt_setSlot_self]

/-- A loss of a bank counts in BANK (R414). -/
theorem bankLoss_stall (s : State) (c t n : Nat) :
    vget 0 ((s.bankLoss c t n).coreAt c).stall 14 = vget 0 (s.coreAt c).stall 14 + 1 := by
  rw [State.bankLoss, stallAdd_stall _ c 14 14 rfl, setSlot_coreAt_self]
  rfl

theorem bankLoss_winAt (s : State) (c t n w : Nat) : (s.bankLoss c t n).winAt c w = s.winAt c w := by
  rw [State.bankLoss, stallAdd_winAt, setSlot_winAt]

/-- Settles O3, by the equation of `step` for each kind of turn. -/
theorem stepRunsWord : Obligations.StepRunsWord := by
  unfold Obligations.StepRunsWord
  refine ⟨fun s c t rest ht he hi hr hc hb hp => ?_, fun s c t => ?_, fun s c t rest ht he hi hr hc hb => ?_,
    fun s c t rest i ht he hi hr hb hp hd => ?_, fun s c t rest n sd sa sb ht he hi hr hc hb hp hd i hw => ?_,
    fun s ht => ?_, fun s e rest ht ha hd hv => ?_, fun s e rest ht ha hd hi hl hv => ?_⟩
  · rw [step_issue s c t rest ht he hi hr hc, runAt_keeps s.popIssuer _ c t hb,
      show s.popIssuer.coreAt c = s.coreAt c from rfl,
      show s.popIssuer.slotAt c t = s.slotAt c t from rfl, Core.fetch_plain _ _ hp]
    exact ⟨fun i hd => by rw [instrOf_ok hd], fun e hd => by rw [instrOf_error hd]⟩
  · have hme : (s.popIssuer.beginIssue c t).me = (s.slotAt c t).countIssue s.tick :=
      beginIssue_slotAt_self s.popIssuer c t
    obtain ⟨ready, issues, e⟩ := countIssue_only (s.slotAt c t) s.tick
    refine ⟨rfl, rfl, ?_, ?_, ?_, ?_, fun d u h => beginIssue_slotAt_other s.popIssuer c t d u h, rfl⟩
    · rw [beginIssue_stall]
      exact charge_issue ..
    · rw [hme]; exact sameBut_countIssue ..
    · rw [hme, e]
    · rw [hme, e]
  · rw [step_issue s c t rest ht he hi hr hc, runAt_loses s.popIssuer _ c t hb]
    refine ⟨_, rfl, ?_, ?_, fun w => ?_, bankLoss_mem ..⟩
    · rw [bankLoss_stall, beginIssue_stall, charge_issue_bank]
      rfl
    · rw [bankLoss_slotAt, beginIssue_slotAt_self]
      rfl
    · rw [bankLoss_winAt, beginIssue_winAt]
      rfl
  · rw [step_rerun s c t rest ht he hi hr, runAt_keeps s _ c t hb, Core.fetch_plain _ _ hp, instrOf_ok hd]
    rfl
  · rw [step_issue s c t rest ht he hi hr hc, runAt_keeps s.popIssuer _ c t hb,
      show s.popIssuer.coreAt c = s.coreAt c from rfl,
      show s.popIssuer.slotAt c t = s.slotAt c t from rfl, Core.fetch_repeat _ _ hp hd, instrOf_ok hw]
  · simp [step, ht]
  · have he : s.nextEvent = some e := by simp [State.nextEvent, ha, show s.due ≠ 0 by omega]
    rw [step_event s e ht he hv]
    simp [State.popEvent, ha, show s.due ≠ 0 by omega]
  · have he : s.nextEvent = some e := by simp [State.nextEvent, ha, hi, show s.late ≠ 0 by omega]
    rw [step_event s e ht he hv]
    simp [State.popEvent, ha, hd]

end Sys2Proof.Machine
end

section
/-! SUPPORT. Reading cores, slots and windows after the operations that the window instructions are built from (R20 to
R27, R262). -/

namespace Sys2Proof.Machine

open Sys2Proof

/-! ## Cores, slots and windows -/

theorem coreAt_of_cores {s t : State} (h : s.cores = t.cores) (c : Nat) : s.coreAt c = t.coreAt c := by
  rw [State.coreAt, State.coreAt, h]

theorem slotAt_of_cores {s t : State} (h : s.cores = t.cores) (c u : Nat) : s.slotAt c u = t.slotAt c u := by
  rw [State.slotAt, State.slotAt, coreAt_of_cores h]

theorem winAt_of_cores {s t : State} (h : s.cores = t.cores) (c w : Nat) : s.winAt c w = t.winAt c w := by
  rw [State.winAt, State.winAt, coreAt_of_cores h]

theorem coreAt_setSlot (s : State) (c t d : Nat) (sl : Slot) :
    (s.setSlot c t sl).coreAt d = if d = c then (s.coreAt c).setSlot t sl else s.coreAt d := coreAt_setCore ..

theorem coreAt_setWin (s : State) (c w d : Nat) (x : Win) :
    (s.setWin c w x).coreAt d = if d = c then (s.coreAt c).setWin w x else s.coreAt d := coreAt_setCore ..

@[simp] theorem coreAt_setWin_self (s : State) (c w : Nat) (x : Win) :
    (s.setWin c w x).coreAt c = (s.coreAt c).setWin w x := coreAt_setCore_self ..

/-- A window of the package after one was replaced. -/
theorem winAt_setWin (s : State) (c w d u : Nat) (x : Win) :
    (s.setWin c w x).winAt d u = if d = c ∧ u = w then x else s.winAt d u := by
  simp only [State.winAt, coreAt_setWin]
  split
  · subst d; simp [Core.winAt_setWin]
  · simp [*]

@[simp] theorem winAt_setWin_self (s : State) (c w : Nat) (x : Win) : (s.setWin c w x).winAt c w = x := by
  simp [winAt_setWin]

@[simp] theorem slotAt_setWin (s : State) (c w d t : Nat) (x : Win) : (s.setWin c w x).slotAt d t = s.slotAt d t := by
  simp only [State.slotAt, coreAt_setWin]
  split
  · subst d; rfl
  · rfl

@[simp] theorem setMe_winAt (s : State) (d w : Nat) (sl : Slot) : (s.setMe sl).winAt d w = s.winAt d w :=
  setSlot_winAt ..

/-- Putting a core back as it stands changes no core. -/
@[simp] theorem coreAt_setCore_same (s : State) (c d : Nat) : (s.setCore c (s.coreAt c)).coreAt d = s.coreAt d := by
  rw [coreAt_setCore]
  split
  · subst d; rfl
  · rfl

/-! ## Releases (R262, R268) -/

/-- The state with other claim tables, walks and caches of its dies. -/
def State.setDies (s : State) (ds : Table Die) : State := { s with dies := ds }

@[simp] theorem setDies_cores (s : State) (ds : Table Die) : (s.setDies ds).cores = s.cores := rfl
@[simp] theorem setDies_mem (s : State) (ds : Table Die) : (s.setDies ds).mem = s.mem := rfl
@[simp] theorem setDies_edges (s : State) (ds : Table Die) : (s.setDies ds).edges = s.edges := rfl
@[simp] theorem setDies_cur (s : State) (ds : Table Die) : (s.setDies ds).cur = s.cur := rfl
@[simp] theorem setDies_slot (s : State) (ds : Table Die) : (s.setDies ds).slot = s.slot := rfl
@[simp] theorem setDies_coreAt (s : State) (ds : Table Die) (c : Nat) : (s.setDies ds).coreAt c = s.coreAt c := rfl
@[simp] theorem setDies_slotAt (s : State) (ds : Table Die) (c t : Nat) :
    (s.setDies ds).slotAt c t = s.slotAt c t := rfl
@[simp] theorem setDies_winAt (s : State) (ds : Table Die) (c w : Nat) : (s.setDies ds).winAt c w = s.winAt c w := rfl
@[simp] theorem setDies_siteOf (s : State) (ds : Table Die) (c t : Nat) :
    (s.setDies ds).siteOf c t = s.siteOf c t := rfl
@[simp] theorem setDies_me (s : State) (ds : Table Die) : (s.setDies ds).me = s.me := rfl

/-- Ending claims changes the claim tables of the dies alone. -/
theorem releaseClaims_only (s : State) (h : Holder) : ∃ ds, s.releaseClaims h = s.setDies ds := by
  unfold State.releaseClaims State.filterClaims
  generalize s.dies = l
  induction l generalizing s with
  | nil => exact ⟨s.dies, rfl⟩
  | cons e r ih =>
    rw [List.foldl_cons]
    obtain ⟨ds, hd⟩ := ih (s.setDie e.1 _)
    exact ⟨ds, hd⟩

/-- A release with nothing before it goes on from a state that differs in the dies alone. -/
theorem released_only (s : State) (k : State → Out) (h : s.quiet s.cur s.slot = true) :
    ∃ ds, released s k = k (s.setDies ds) := by
  obtain ⟨ds, hd⟩ := releaseClaims_only s (s.holderOf s.cur s.slot)
  exact ⟨ds, by rw [released_quiet s k h, hd]⟩

/-! ## Progress and retries (R26, R361) -/

/-- An advance of FILL can only clear WDCNT of its core. -/
theorem progressFill_coreAt (s : State) (c w d : Nat) :
    ∃ n, (s.progressFill c w).coreAt d = { s.coreAt d with wdcnt := n } := by
  unfold State.progressFill
  simp only []
  split
  · rw [coreAt_setCore]
    split
    · subst d; exact ⟨0, rfl⟩
    · exact ⟨_, rfl⟩
  · exact ⟨_, rfl⟩

theorem progressFill_coreAt_other (s : State) (c w d : Nat) (h : d ≠ c) :
    (s.progressFill c w).coreAt d = s.coreAt d := by
  unfold State.progressFill
  simp only []
  split
  · rw [coreAt_setCore, if_neg h]
  · rfl

/-- A progress event can only clear WDCNT of its core. -/
theorem progress_coreAt (s : State) (c d : Nat) : ∃ n, (s.progress c).coreAt d = { s.coreAt d with wdcnt := n } := by
  unfold State.progress
  simp only []
  split
  · rw [coreAt_setCore]
    split
    · subst d; exact ⟨0, rfl⟩
    · exact ⟨_, rfl⟩
  · exact ⟨_, rfl⟩

theorem progress_coreAt_other (s : State) (c d : Nat) (h : d ≠ c) : (s.progress c).coreAt d = s.coreAt d := by
  unfold State.progress
  simp only []
  split
  · rw [coreAt_setCore, if_neg h]
  · rfl

@[simp] theorem progress_cur (s : State) (c : Nat) : (s.progress c).cur = s.cur := by
  unfold State.progress; simp only []; split <;> rfl
@[simp] theorem progress_slot (s : State) (c : Nat) : (s.progress c).slot = s.slot := by
  unfold State.progress; simp only []; split <;> rfl
@[simp] theorem progress_edges (s : State) (c : Nat) : (s.progress c).edges = s.edges := by
  unfold State.progress; simp only []; split <;> rfl
@[simp] theorem progressFill_cur (s : State) (c w : Nat) : (s.progressFill c w).cur = s.cur := by
  unfold State.progressFill; simp only []; split <;> rfl
@[simp] theorem progressFill_slot (s : State) (c w : Nat) : (s.progressFill c w).slot = s.slot := by
  unfold State.progressFill; simp only []; split <;> rfl

@[simp] theorem retryWin_coreAt (s : State) (c w d : Nat) : (s.retryWin c w).coreAt d = s.coreAt d := rfl
@[simp] theorem retryWin_cur (s : State) (c w : Nat) : (s.retryWin c w).cur = s.cur := rfl
@[simp] theorem retryWin_slot (s : State) (c w : Nat) : (s.retryWin c w).slot = s.slot := rfl
@[simp] theorem retryWin_edges (s : State) (c w : Nat) : (s.retryWin c w).edges = s.edges := rfl
@[simp] theorem post_coreAt (s : State) (e : Instr) (d : Nat) : (s.post e).coreAt d = s.coreAt d := rfl

/-! ## Waking and wait edges (R27, R146) -/

/-- A slot that stops waiting has no edge. -/
theorem wake_edges (s : State) (c t : Nat) : ∀ e ∈ (s.wake c t).edges, e.party ≠ .task c t := by
  intro e he
  have : e ∈ s.edges.filter fun e => e.party != .task c t := he
  simpa using (List.mem_filter.mp this).2

@[simp] theorem wake_winAt (s : State) (c t d w : Nat) : (s.wake c t).winAt d w = s.winAt d w := setSlot_winAt ..

theorem wake_slotAt (s : State) (c t : Nat) : (s.wake c t).slotAt c t =
    { s.slotAt c t with status := .runnable, wait := none, ready := s.tick, issues := 0 } :=
  slotAt_setSlot_self ..

/-- Only the slots of a core change when one of them wakes. -/
theorem wake_coreAt (s : State) (c t d : Nat) : (s.wake c t).coreAt d =
    if d = c then (s.coreAt c).setSlot t
      { s.slotAt c t with status := .runnable, wait := none, ready := s.tick, issues := 0 } else s.coreAt d :=
  coreAt_setSlot ..

/-- An edge that was added stands among the edges, unless its party's core is halted (R412). -/
theorem addEdge_party (s : State) (e : Edge) (h : (s.coreAt e.party.core).stop ≠ .halted) :
    ∃ x ∈ (s.addEdge e).edges, x.party = e.party := by
  have hb : ((s.coreAt e.party.core).stop == .halted) = false := by simpa using h
  unfold State.addEdge
  rw [hb, Bool.or_false]
  by_cases ha : s.edges.any (·.same e) = true
  · rw [if_pos ha]
    obtain ⟨x, hx, hs⟩ := List.any_eq_true.mp ha
    simp only [Edge.same, Bool.and_eq_true, beq_iff_eq] at hs
    obtain ⟨⟨⟨⟨⟨hp, -⟩, -⟩, -⟩, -⟩, -⟩ := hs
    exact ⟨x, hx, hp⟩
  · rw [if_neg ha]
    exact ⟨e, by simp, rfl⟩

end Sys2Proof.Machine
end

section
/-! SUPPORT. Operations on the issuing core's windows (R20 to R29, R115 to R118, R433): what the checks come to, and
what a read, an update, a shrink and a fill leave. -/

namespace Sys2Proof.Machine

open Sys2Proof

/-! ## The checks (R29, R363, R433) -/

theorem judge_held (x : Win) (op : OpKind) (n : Nat) (h : x.held = true) : x.judge op n = .wait := by
  simp [Win.judge, h]

theorem judge_undefined (x : Win) (op : OpKind) (n : Nat) (hh : x.held = false) (h : x.v = false) :
    x.judge op n = .fault 1 := by
  simp [Win.judge, hh, h]

theorem judge_mode (x : Win) (op : OpKind) (n : Nat) (hh : x.held = false) (hv : x.v = true)
    (h : x.mode.allows op = false) : x.judge op n = .fault 5 := by
  simp [Win.judge, hh, hv, h]

/-- Every mode allows a read (R121). -/
@[simp] theorem allows_read (m : WinMode) : m.allows .read = true := by cases m <;> rfl

/-- The checks of a read on a window it may use, in their order. -/
theorem judge_read (x : Win) (n : Nat) (hh : x.held = false) (hv : x.v = true) : x.judge .read n =
    if x.cap.toNat ≤ n then .fault 4
    else if x.poisonedAt n then .poison
    else if n < x.ext then .proceed else .wait := by
  simp [Win.judge, hh, hv]

theorem judge_readable {x : Win} {n : Nat} (h : Readable x n) : x.judge .read n = .proceed := by
  obtain ⟨⟨hv, hh, -⟩, hc, hp, he⟩ := h
  rw [judge_read x n hh hv, if_neg (by omega), hp, if_neg (by simp), if_pos he]

theorem judge_update (x : Win) (n : Nat) (h : Usable x .update) :
    x.judge .update n = if x.ext ≤ n then .fault 2 else .proceed := by
  obtain ⟨hv, hh, hm⟩ := h
  simp [Win.judge, hh, hv, hm]

theorem judge_shrink (x : Win) (n : Nat) (h : Usable x .shrink) :
    x.judge .shrink n = if x.ext < n then .fault 3 else .proceed := by
  obtain ⟨hv, hh, hm⟩ := h
  simp [Win.judge, hh, hv, hm]

theorem judge_fill (x : Win) (n : Nat) (h : Usable x .fill) : x.judge .fill n = .proceed := by
  obtain ⟨hv, hh, hm⟩ := h
  simp [Win.judge, hh, hv, hm]

/-! ## Trying an operation (R23) -/

section
variable (s : State) (rm : Bool) (core win : Nat) (site : BitVec 46) (c t : Nat)

/-- An operation that a check faults traps. -/
theorem tryCore_fault (op : WinOp) (why : Nat) (hq : op.kind ≠ .query)
    (h : (s.winAt core win).judge op.kind op.arg.toNat = .fault why) :
    s.tryCore rm core win op site c t = .trap (winTrap (s.winAt core win) win op.kind rm op.arg why) := by
  cases op with
  | query q => exact absurd rfl hq
  | fill v => rw [State.tryCore, show (s.winAt core win).judge .fill 0 = .fault why from h]; rfl
  | read o => rw [State.tryCore, show (s.winAt core win).judge .read o.toNat = .fault why from h]; rfl
  | update o v => rw [State.tryCore, show (s.winAt core win).judge .update o.toNat = .fault why from h]; rfl
  | shrink n => rw [State.tryCore, show (s.winAt core win).judge .shrink n.toNat = .fault why from h]; rfl

/-- An operation that a check makes wait waits. -/
theorem tryCore_wait (op : WinOp) (hq : op.kind ≠ .query)
    (h : (s.winAt core win).judge op.kind op.arg.toNat = .wait) : s.tryCore rm core win op site c t = .wait := by
  cases op with
  | query q => exact absurd rfl hq
  | fill v => simp [State.tryCore, show (s.winAt core win).judge .fill 0 = .wait from h]
  | read o => simp [State.tryCore, show (s.winAt core win).judge .read o.toNat = .wait from h]
  | update o v => simp [State.tryCore, show (s.winAt core win).judge .update o.toNat = .wait from h]
  | shrink n => simp [State.tryCore, show (s.winAt core win).judge .shrink n.toNat = .wait from h]

/-- A read at or beyond the poison traps (R29). -/
theorem tryCore_poison (o : BitVec 32) (h : (s.winAt core win).judge .read o.toNat = .poison) :
    s.tryCore rm core win (.read o) site c t = .trap (poisonTrap (s.winAt core win) win rm) := by
  simp [State.tryCore, h]

theorem tryCore_read (o : BitVec 32) (h : (s.winAt core win).judge .read o.toNat = .proceed) :
    s.tryCore rm core win (.read o) site c t =
      .done s (some ((s.coreAt core).readScalar (s.winAt core win) o.toNat)) := by
  simp [State.tryCore, h]

theorem tryCore_update (o : BitVec 32) (v : Word) (h : (s.winAt core win).judge .update o.toNat = .proceed) :
    s.tryCore rm core win (.update o v) site c t =
      .done (s.setCore core ((s.coreAt core).updateScalar (s.winAt core win) o.toNat v)) none := by
  simp [State.tryCore, h]

theorem tryCore_shrink (n : BitVec 32) (h : (s.winAt core win).judge .shrink n.toNat = .proceed) :
    s.tryCore rm core win (.shrink n) site c t = .done (s.shrinkWin core win n.toNat site (some (c, t))) none := by
  simp [State.tryCore, h]

theorem tryCore_fill (v : Word) (h : (s.winAt core win).judge .fill 0 = .proceed) :
    s.tryCore rm core win (.fill v) site c t =
      if (s.coreAt core).fillRoom win then
        .done (s.fillWin core win (scalarBytes (s.winAt core win) v) site (some (c, t))) none
      else .wait := by
  simp [State.tryCore, h]

end

/-! ## A window instruction of the issuing core (R117) -/

/-- A window instruction once its release, if it has one, is performed. -/
def localGo (w : BitVec 4) (op : WinOp) (d : BitVec 5) (s : State) : Out :=
  match s.tryCore false s.cur w.toNat op (s.siteOf s.cur s.slot) s.cur s.slot with
  | .wait => .hold (s.waitMe (.window false s.cur w.toNat op d (s.siteOf s.cur s.slot))
      (winEdge s.cur w.toNat op (s.siteOf s.cur s.slot) s.cur s.slot))
  | .trap t => .trap t
  | .done s' v => .done (s'.writeBack s.cur s.slot d v)

/-- With nothing to wait for, an instruction goes on from a state that differs in the claim tables alone (R262). -/
theorem localOp_quiet (w : BitVec 4) (op : WinOp) (d : BitVec 5) (s : State) (h : s.quiet s.cur s.slot = true) :
    ∃ ds, localOp w op d s = localGo w op d (s.setDies ds) := by
  unfold localOp
  split
  · exact released_only s _ h
  · exact ⟨s.dies, rfl⟩

/-- A read is no release and goes on from its own state. -/
theorem localOp_read (w : BitVec 4) (o : BitVec 32) (d : BitVec 5) (s : State) :
    localOp w (.read o) d s = localGo w (.read o) d s := rfl

theorem localGo_trap (w : BitVec 4) (op : WinOp) (d : BitVec 5) (s : State) (tr : Trap)
    (h : s.tryCore false s.cur w.toNat op (s.siteOf s.cur s.slot) s.cur s.slot = .trap tr) :
    localGo w op d s = .trap tr := by
  rw [localGo, h]

theorem localGo_done (w : BitVec 4) (op : WinOp) (d : BitVec 5) (s s' : State) (v : Option Word)
    (h : s.tryCore false s.cur w.toNat op (s.siteOf s.cur s.slot) s.cur s.slot = .done s' v) :
    localGo w op d s = .done (s'.writeBack s.cur s.slot d v) := by
  rw [localGo, h]

theorem localGo_wait (w : BitVec 4) (op : WinOp) (d : BitVec 5) (s : State)
    (h : s.tryCore false s.cur w.toNat op (s.siteOf s.cur s.slot) s.cur s.slot = .wait) :
    localGo w op d s = .hold (s.waitMe (.window false s.cur w.toNat op d (s.siteOf s.cur s.slot))
      (winEdge s.cur w.toNat op (s.siteOf s.cur s.slot) s.cur s.slot)) := by
  rw [localGo, h]

/-- A window instruction that a check faults traps (R28). -/
theorem localOp_fault (w : BitVec 4) (op : WinOp) (d : BitVec 5) (s : State) (why : Nat)
    (hs : s.quiet s.cur s.slot = true) (hq : op.kind ≠ .query)
    (h : (s.winAt s.cur w.toNat).judge op.kind op.arg.toNat = .fault why) :
    localOp w op d s = .trap (winTrap (s.winAt s.cur w.toNat) w.toNat op.kind false op.arg why) := by
  obtain ⟨ds, hd⟩ := localOp_quiet w op d s hs
  rw [hd]
  exact localGo_trap w op d _ _ (tryCore_fault (s.setDies ds) false _ _ _ _ _ op why hq h)

/-- The wait of a window instruction has its edge, and changes neither windows nor memory (R27, R145). -/
theorem waitsFor_waitMe (i : Instr) (s : State) (ds : Table Die) (p : Pend) (e : Edge)
    (he : e.party = .task s.cur s.slot) (hn : HasNext s)
    (h : exec i s = finish s (.hold ((s.setDies ds).waitMe p e))) : WaitsFor i s p := by
  have hn' : s.me.fallsOut = false := hn
  let u : State := (s.setDies ds).setMe { s.me with status := .waiting, wait := some p }
  have hme : (u.addEdge e).me = { s.me with status := .waiting, wait := some p } := by
    rw [State.me, addEdge_cur, addEdge_slot, slotAt_of_cores (addEdge_cores u e)]
    exact slotAt_setSlot_self ..
  refine ⟨u.addEdge e, by rw [h, finish]; simp only [hn']; rfl, ?_, ?_, ?_, fun hs => ?_, fun d w => ?_, ?_⟩
  · rw [hme]
  · rw [hme]
  · rw [hme]
  · have hstop : (u.coreAt e.party.core).stop = (s.coreAt s.cur).stop := by
      rw [he]
      show (u.coreAt s.cur).stop = _
      rw [show u.coreAt s.cur = _ from coreAt_setCore_self ..]
      rfl
    rw [← he]
    exact addEdge_party u e (by rwa [hstop])
  · rw [winAt_of_cores (addEdge_cores u e)]
    exact setMe_winAt ..
  · rw [addEdge_mem]
    rfl

/-- A window instruction that may not proceed yet waits for its operation. -/
theorem waitsFor_localOp (i : Instr) (w : BitVec 4) (op : WinOp) (d : BitVec 5) (s : State)
    (hi : exec i s = finish s (localOp w op d s)) (hs : s.quiet s.cur s.slot = true) (hn : HasNext s)
    (h : ∀ u : State, u.cores = s.cores →
      u.tryCore false s.cur w.toNat op (s.siteOf s.cur s.slot) s.cur s.slot = .wait) :
    WaitsFor i s (.window false s.cur w.toNat op d (s.siteOf s.cur s.slot)) := by
  obtain ⟨ds, hd⟩ := localOp_quiet w op d s hs
  have hw := localGo_wait w op d (s.setDies ds) (h _ rfl)
  exact waitsFor_waitMe i s ds _ _ rfl hn (by rw [hi, hd, hw]; rfl)

end Sys2Proof.Machine
end

section
/-! SUPPORT. What a read returns and what an update, a shrink and a fill leave of a window's core (R22, R23, R25, R115,
R351). -/

namespace Sys2Proof.Machine

open Sys2Proof

/-! ## Elements (R22, R115) -/

theorem Win.addr_eq_elemAddr (x : Win) (o : Nat) : x.addr o = elemAddr x o := rfl

theorem tgets_getElem {α : Type} (d : α) (m : Table α) (k n i : Nat) (h : i < (tgets d m k n).length) :
    (tgets d m k n)[i] = tget d m (k + i) := by
  induction n generalizing k i with
  | zero => simp at h
  | succ n ih =>
    cases i with
    | zero => rfl
    | succ i =>
      have hi : i < (tgets d m (k + 1) n).length := by simpa using h
      simp only [tgets, List.getElem_cons_succ, ih (k + 1) i hi]
      congr 1
      omega

theorem tgets_getD {α : Type} (d : α) (m : Table α) (k n i : Nat) :
    (tgets d m k n).getD i d = if i < n then tget d m (k + i) else d := by
  by_cases h : i < n
  · have hi : i < (tgets d m k n).length := by simpa using h
    rw [if_pos h, List.getD_eq_getElem _ _ hi, tgets_getElem]
  · rw [if_neg h, List.getD_eq_default _ _ (by simpa using h)]

/-- Byte j of a word whose value is the number of some bytes. -/
theorem word_byte (bs : List Byte) (j : Nat) (hj : j < 8) :
    ((BitVec.ofNat 64 (ofBytes bs)) >>> (8 * j)).setWidth 8 = bs.getD j 0 := by
  rw [← ofBytes_byte]
  apply BitVec.eq_of_toNat_eq
  simp only [BitVec.toNat_setWidth, BitVec.toNat_ushiftRight, BitVec.toNat_ofNat, Nat.shiftRight_eq_div_pow]
  rw [show (2 : Nat) ^ (8 * j) = 256 ^ j by rw [pow_mul]; norm_num]
  have h : (2 : Nat) ^ 64 = 256 ^ j * 256 ^ (8 - j) := by rw [← pow_add, show j + (8 - j) = 8 by omega]; norm_num
  rw [h, Nat.mod_mul_right_div_self]
  refine Nat.mod_mod_of_dvd _ (Dvd.intro_left (256 ^ (7 - j)) ?_)
  rw [show 8 - j = 7 - j + 1 by omega, pow_succ 256]

/-- Byte j of a word, as the byte lists of updates and fills hold it. -/
theorem byte_of_word (v : Word) (j : Nat) : BitVec.ofNat 8 (v.toNat / 256 ^ j) = (v >>> (8 * j)).setWidth 8 := by
  apply BitVec.eq_of_toNat_eq
  simp only [BitVec.toNat_setWidth, BitVec.toNat_ushiftRight, BitVec.toNat_ofNat, Nat.shiftRight_eq_div_pow]
  rw [show (2 : Nat) ^ (8 * j) = 256 ^ j by rw [pow_mul]; norm_num]

/-- A scalar read returns bytes [7:0] of the element, zeros beyond a narrower one (R115). -/
theorem isElement_readScalar (k : Core) (x : Win) (o : Nat) : IsElement k x o (k.readScalar x o) := by
  intro j hj
  rw [Core.readScalar, word_byte _ j hj, tgets_getD]
  by_cases h : j < 2 ^ (x.esz.toNat + 2)
  · rw [if_pos (by rw [Win.esize]; omega), if_pos h]
    rfl
  · rw [if_neg (by rw [Win.esize]; omega), if_neg h]
    rfl

/-! ## Updates (R115) -/

/-- An update writes bytes [7:0] of the element. -/
theorem updateScalar_in (k : Core) (x : Win) (o : Nat) (v : Word) (j : Nat) (hj : j < min 8 (2 ^ (x.esz.toNat + 2))) :
    tget 0 (k.updateScalar x o v).wstore (elemAddr x o + j) = (v >>> (8 * j)).setWidth 8 := by
  have h : j < (bytesOf (min 8 x.esize) v.toNat).length := by simpa [Win.esize] using hj
  show tget 0 (tputs 0 k.wstore (elemAddr x o) (bytesOf (min 8 x.esize) v.toNat)) (elemAddr x o + j) = _
  rw [tget_tputs_in 0 _ _ _ _ h, bytesOf_getElem, byte_of_word]

/-- An update writes no other byte of the store. -/
theorem updateScalar_out (k : Core) (x : Win) (o : Nat) (v : Word) (e : Nat)
    (h : e < elemAddr x o ∨ elemAddr x o + min 8 (2 ^ (x.esz.toNat + 2)) ≤ e) :
    tget 0 (k.updateScalar x o v).wstore e = tget 0 k.wstore e :=
  tget_tputs_out 0 _ _ _ _ (by rw [bytesOf_length]; exact h)

/-! ## Shrinks (R23, R351) -/

/-- Entering a slot into the roles of a window changes the roles alone (R355). -/
theorem enterProd_only (x : Win) (who : Option (Nat × Nat)) :
    ∃ l o, x.enterProd who = { x with prod := l, prodOver := o } := by
  cases who with
  | none => exact ⟨_, _, rfl⟩
  | some w => exact ⟨_, _, rfl⟩

theorem enterCons_only (x : Win) (who : Option (Nat × Nat)) :
    ∃ l o, x.enterCons who = { x with cons := l, consOver := o } := by
  cases who with
  | none => exact ⟨_, _, rfl⟩
  | some w => exact ⟨_, _, rfl⟩

/-- A core after a shrink of a window: HEAD, HSLOT and the poison have moved, and no byte of the store, no slot and no
other window has changed. -/
structure Shrunk (s t : State) (c w n : Nat) : Prop where
  head : (t.winAt c w).head = (s.winAt c w).head + BitVec.ofNat 32 n
  fill : (t.winAt c w).fill = (s.winAt c w).fill
  hslot : 0 < n → (t.winAt c w).hslot =
    BitVec.ofNat 16 (((s.winAt c w).hslot.toNat + n) % (s.winAt c w).cap.toNat)
  pv : 0 < n → (t.winAt c w).pv = ((s.winAt c w).pv && decide (n ≤ ((s.winAt c w).pois - (s.winAt c w).head).toNat))
  wins : ∀ d u, ¬(d = c ∧ u = w) → t.winAt d u = s.winAt d u
  slots : (t.coreAt c).slots = (s.coreAt c).slots
  wstore : (t.coreAt c).wstore = (s.coreAt c).wstore
  cores : ∀ d, d ≠ c → t.coreAt d = s.coreAt d
  mem : t.mem = s.mem
  edges : t.edges = s.edges
  cur : t.cur = s.cur
  slot : t.slot = s.slot

/-- A shrink of nothing changes nothing. -/
theorem shrunk_zero (s : State) (c w : Nat) : Shrunk s s c w 0 where
  head := by simp
  fill := rfl
  hslot h := absurd h (by omega)
  pv h := absurd h (by omega)
  wins _ _ _ := rfl
  slots := rfl
  wstore := rfl
  cores _ _ := rfl
  mem := rfl
  edges := rfl
  cur := rfl
  slot := rfl

/-- A shrink after claims were ended is a shrink. -/
theorem shrunk_setDies {s t : State} {ds : Table Die} {c w n : Nat} (h : Shrunk (s.setDies ds) t c w n) :
    Shrunk s t c w n :=
  ⟨h.head, h.fill, h.hslot, h.pv, h.wins, h.slots, h.wstore, h.cores, h.mem, h.edges, h.cur, h.slot⟩

/-- Posting an event changes no core. -/
theorem shrunk_post {s t : State} {c w n : Nat} (h : Shrunk s t c w n) (e : Instr) : Shrunk s (t.post e) c w n :=
  ⟨h.head, h.fill, h.hslot, h.pv, h.wins, h.slots, h.wstore, h.cores, h.mem, h.edges, h.cur, h.slot⟩

/-- Replacing the window by a shrunk one, with the progress and the retries that follow. -/
theorem shrunk_setWin (s : State) (c w n : Nat) (l : List (Nat × Nat)) (o : Bool) (causes : List (Nat × BitVec 46))
    (site : BitVec 46) :
    Shrunk s (((s.setWin c w { ({ s.winAt c w with cons := l, consOver := o } : Win).shrinkBy n with
      causes := causes, refillSite := site }).progress c).retryWin c w) c w n := by
  generalize hy : ({ ({ s.winAt c w with cons := l, consOver := o } : Win).shrinkBy n with
    causes := causes, refillSite := site } : Win) = y
  obtain ⟨m, hm⟩ := progress_coreAt (s.setWin c w y) c c
  have hcore : (((s.setWin c w y).progress c).retryWin c w).coreAt c = { (s.coreAt c).setWin w y with wdcnt := m } := by
    rw [retryWin_coreAt, hm, coreAt_setWin_self]
  have hother : ∀ d, d ≠ c → (((s.setWin c w y).progress c).retryWin c w).coreAt d = s.coreAt d := fun d hd => by
    rw [retryWin_coreAt, progress_coreAt_other _ _ _ hd, coreAt_setWin, if_neg hd]
  have hwin : (((s.setWin c w y).progress c).retryWin c w).winAt c w = y := by
    rw [State.winAt, hcore]
    exact Core.winAt_setWin_self ..
  refine ⟨?_, ?_, fun _ => ?_, fun _ => ?_, fun d u h => ?_, ?_, ?_, hother, ?_, ?_, ?_, ?_⟩
  · rw [hwin, ← hy]; rfl
  · rw [hwin, ← hy]; rfl
  · rw [hwin, ← hy]; rfl
  · rw [hwin, ← hy]; rfl
  · by_cases hd : d = c
    · subst hd
      rw [State.winAt, hcore]
      show ((s.coreAt d).setWin w y).winAt u = _
      rw [Core.winAt_setWin, if_neg fun e => h ⟨rfl, e⟩]
      rfl
    · rw [State.winAt, hother d hd]
      rfl
  · rw [hcore]; rfl
  · rw [hcore]; rfl
  · simp
  · simp [State.setWin]
  · simp [State.setWin]
  · simp [State.setWin]

theorem shrinkWin_shrunk (s : State) (c w n : Nat) (site : BitVec 46) (who : Option (Nat × Nat)) :
    Shrunk s (s.shrinkWin c w n site who) c w n := by
  unfold State.shrinkWin
  by_cases hn : n = 0
  · rw [if_pos hn, hn]
    exact shrunk_zero s c w
  · rw [if_neg hn]
    obtain ⟨l, o, he⟩ := enterCons_only (s.winAt c w) who
    rw [he]
    simp only []
    split
    · exact shrunk_post (shrunk_setWin ..) _
    · exact shrunk_setWin ..

/-! ## Fills (R23, R25, R150) -/

/-- A core after a window took an element into its store: the tail slot was written and FILL went up by one. -/
structure Took (k k' : Core) (w : Nat) (bs : List Byte) : Prop where
  slots : k'.slots = k.slots
  pend : k'.pend = k.pend
  win : ∃ l o m, k'.winAt w = { k.winAt w with fill := (k.winAt w).fill + 1, prod := l, prodOver := o, mirrors := m }
  wins : ∀ u, u ≠ w → k'.winAt u = k.winAt u
  wstore : k'.wstore = (k.writeElem (k.winAt w) (k.winAt w).ext bs).wstore

/-- A fill that took an element changes one core, and no byte of memory. -/
structure Takes (s t : State) (c w : Nat) (bs : List Byte) : Prop where
  core : Took (s.coreAt c) (t.coreAt c) w bs
  cores : ∀ d, d ≠ c → t.coreAt d = s.coreAt d
  mem : t.mem = s.mem
  cur : t.cur = s.cur
  slot : t.slot = s.slot

/-- A source without a count delivers nothing (R150). -/
theorem deliver_unnamed (s : State) (c key : Nat) (h : tget none (s.coreAt c).pend key = none) :
    s.deliver c key = (s, none) := by
  simp [State.deliver, h]

theorem deliverTraced_unnamed (s : State) (c key : Nat) (h : tget none (s.coreAt c).pend key = none) :
    s.deliverTraced c key = s := by
  simp [State.deliverTraced, deliver_unnamed s c key h]

theorem count_unnamed (k : Core) (key : Nat) (d : BitVec 32) (h : tget none k.pend key = none) : k.count key d = k := by
  simp [Core.count, h]

/-- Without a binding that names the window, what follows a fill is the retries alone. -/
theorem afterFill_unwatched (s : State) (c w : Nat) (h : Unwatched (s.coreAt c) w) :
    s.afterFill c w = (s.setCore c (s.coreAt c)).retryWin c w := by
  have hd : ∀ kind (u : State), u.coreAt c = s.coreAt c → u.deliverTraced c (sourceKey kind w) = u :=
    fun kind u hu => deliverTraced_unnamed u c _ (by rw [hu]; exact h kind)
  have hu : ((s.setCore c (s.coreAt c)).retryWin c w).coreAt c = s.coreAt c := by simp
  unfold State.afterFill
  simp only [count_unnamed _ _ _ (h 1), count_unnamed _ _ _ (h 4), count_unnamed _ _ _ (h 6), List.foldl_cons,
    List.foldl_nil, hd _ _ hu]

theorem fillHeldBack_unwatched (k : Core) (w : Nat) (h : Unwatched k w) : k.fillHeldBack w = false := by
  simp [Core.fillHeldBack, Core.countFull, h 1, h 4, h 6]

/-- A fill of an unwatched window with room in the store finds room (R23). -/
theorem fillRoom_unwatched (k : Core) (w : Nat) (hx : (k.winAt w).fillsStore = true) (h : Unwatched k w) :
    k.fillRoom w = true := by
  simp [Core.fillRoom, hx, fillHeldBack_unwatched k w h]

/-- Writing an element at the tail of a window whose roles and mirrors may have changed. -/
theorem landRaw_takes (s : State) (c w : Nat) (bs : List Byte) (l : List (Nat × Nat)) (o : Bool)
    (m : List (BitVec 32 × BitVec 46)) :
    Takes s ((s.setWin c w { s.winAt c w with prod := l, prodOver := o, mirrors := m }).landRaw c w bs) c w bs := by
  generalize hy : ({ s.winAt c w with prod := l, prodOver := o, mirrors := m } : Win) = y
  have hext : y.ext = (s.winAt c w).ext := by rw [← hy]; rfl
  have haddr : y.addr = (s.winAt c w).addr := by rw [← hy]; rfl
  have hesize : y.esize = (s.winAt c w).esize := by rw [← hy]; rfl
  unfold State.landRaw
  simp only [coreAt_setWin_self, Core.winAt_setWin_self]
  generalize hk : ((((s.coreAt c).setWin w y).writeElem y y.ext bs).useRows true (y.addr y.ext) y.esize).setWin w
    { y with fill := y.fill + 1 } = k
  obtain ⟨n, hn⟩ := progressFill_coreAt ((s.setWin c w y).setCore c k) c w c
  rw [coreAt_setCore_self] at hn
  have hkw : ∀ u, k.winAt u = if u = w then { y with fill := y.fill + 1 } else (s.coreAt c).winAt u := fun u => by
    rw [← hk, Core.winAt_setWin]
    split
    · rfl
    · show ((s.coreAt c).setWin w y).winAt u = _
      rw [Core.winAt_setWin, if_neg ‹_›]
  refine ⟨⟨?_, ?_, ⟨l, o, m, ?_⟩, fun u hu => ?_, ?_⟩, fun d hd => ?_, by simp,
    by simp [State.setWin], by simp [State.setWin]⟩
  · rw [hn, ← hk]; rfl
  · rw [hn, ← hk]; rfl
  · rw [hn]
    show k.winAt w = _
    rw [hkw, if_pos rfl, ← hy]
    rfl
  · rw [hn]
    show k.winAt u = _
    rw [hkw, if_neg hu]
  · rw [hn, ← hk]
    show tputs 0 (tclear (s.coreAt c).wstore (y.addr y.ext) y.esize) (y.addr y.ext) (bs.take y.esize) = _
    rw [hext, haddr, hesize]
    rfl
  · rw [progressFill_coreAt_other _ _ _ _ hd, coreAt_setCore, if_neg hd, coreAt_setWin, if_neg hd]

/-- What follows a fill of an unwatched window changes no core. -/
theorem takes_afterFill {s t : State} {c w : Nat} {bs : List Byte} (h : Takes s t c w bs)
    (hu : Unwatched (s.coreAt c) w) : Takes s (t.afterFill c w) c w bs := by
  rw [afterFill_unwatched t c w fun kind => by rw [h.core.pend]; exact hu kind]
  refine ⟨?_, fun d hd => ?_, h.mem, h.cur, h.slot⟩
  · rw [retryWin_coreAt, coreAt_setCore_same]
    exact h.core
  · rw [retryWin_coreAt, coreAt_setCore_same]
    exact h.cores d hd

/-- A fill after claims were ended is a fill. -/
theorem takes_setDies {s t : State} {ds : Table Die} {c w : Nat} {bs : List Byte} (h : Takes (s.setDies ds) t c w bs) :
    Takes s t c w bs :=
  ⟨h.core, h.cores, h.mem, h.cur, h.slot⟩

theorem takes_post {s t : State} {c w : Nat} {bs : List Byte} (h : Takes s t c w bs) (e : Instr) :
    Takes s (t.post e) c w bs :=
  ⟨h.core, h.cores, h.mem, h.cur, h.slot⟩

/-- A fill of a window whose mirrors may have changed, with room in the store. -/
theorem fillNow_takes (s : State) (c w : Nat) (bs : List Byte) (site : BitVec 46) (who : Option (Nat × Nat))
    (m : List (BitVec 32 × BitVec 46)) (hx : (s.winAt c w).fillsStore = true) (hu : Unwatched (s.coreAt c) w) :
    Takes s ((s.setWin c w { s.winAt c w with mirrors := m }).fillNow c w bs site who) c w bs := by
  obtain ⟨l, o, he⟩ := enterProd_only { s.winAt c w with mirrors := m } who
  have hset : (s.setWin c w { s.winAt c w with mirrors := m }).setWin c w
      (({ s.winAt c w with mirrors := m } : Win).enterProd who) =
        s.setWin c w { s.winAt c w with prod := l, prodOver := o, mirrors := m } := by
    rw [he]
    simp [State.setWin]
  unfold State.fillNow
  simp only [winAt_setWin_self, hset]
  rw [if_pos (by exact hx)]
  exact takes_afterFill (landRaw_takes s c w bs l o m) hu

/-- Putting a window back as it stands and going on is going on. -/
theorem fillNow_same (s : State) (c w : Nat) (bs : List Byte) (site : BitVec 46) (who : Option (Nat × Nat)) :
    (s.setWin c w (s.winAt c w)).fillNow c w bs site who = s.fillNow c w bs site who := by
  unfold State.fillNow
  simp only [winAt_setWin_self]
  rw [show (s.setWin c w (s.winAt c w)).setWin c w ((s.winAt c w).enterProd who) =
    s.setWin c w ((s.winAt c w).enterProd who) by simp [State.setWin]]

/-- A fill of an unwatched window with room in the store takes the element (R23, R25). -/
theorem fillWin_takes (s : State) (c w : Nat) (bs : List Byte) (site : BitVec 46) (who : Option (Nat × Nat))
    (hx : (s.winAt c w).fillsStore = true) (hu : Unwatched (s.coreAt c) w) :
    Takes s (s.fillWin c w bs site who) c w bs := by
  unfold State.fillWin
  simp only []
  split
  · exact takes_post (fillNow_takes s c w bs site who _ hx hu) _
  · rw [← fillNow_same]
    exact fillNow_takes s c w bs site who (s.winAt c w).mirrors hx hu

/-- The tail slot after a scalar fill: bytes [7:0] of the word, zeros above (R25, R115). -/
theorem writeElem_scalar_in (k : Core) (x : Win) (o : Nat) (v : Word) (j : Nat) (hj : j < 2 ^ (x.esz.toNat + 2)) :
    tget 0 (k.writeElem x o (scalarBytes x v)).wstore (elemAddr x o + j) =
      if j < 8 then (v >>> (8 * j)).setWidth 8 else 0#8 := by
  have hlen : ((scalarBytes x v).take x.esize).length = min 8 x.esize := by simp [scalarBytes]
  have hj' : j < x.esize := hj
  show tget 0 (tputs 0 (tclear k.wstore (x.addr o) x.esize) (x.addr o) ((scalarBytes x v).take x.esize))
    (x.addr o + j) = _
  by_cases h : j < 8
  · rw [if_pos h, tget_tputs_in 0 _ _ j _ (by omega), List.getElem_take, ← byte_of_word]
    exact bytesOf_getElem ..
  · rw [if_neg h, tget_tputs_out 0 _ _ _ _ (by omega), tget_tclear, if_pos (by omega)]
    rfl

/-- A fill writes no byte outside its tail slot. -/
theorem writeElem_out (k : Core) (x : Win) (o : Nat) (bs : List Byte) (b : Nat)
    (h : b < elemAddr x o ∨ elemAddr x o + 2 ^ (x.esz.toNat + 2) ≤ b) :
    tget 0 (k.writeElem x o bs).wstore b = tget 0 k.wstore b := by
  have hlen : (bs.take x.esize).length ≤ x.esize := by simp
  have h' : b < x.addr o ∨ x.addr o + x.esize ≤ b := h
  show tget 0 (tputs 0 (tclear k.wstore (x.addr o) x.esize) (x.addr o) (bs.take x.esize)) b = _
  rw [tget_tputs_out 0 _ _ _ _ (by omega), tget_tclear, if_neg (by omega)]

/-- A scalar fill that took its element is what the statements call a filled window. -/
theorem filled_of_takes {s t : State} {c w : Nat} {v : Word} (h : Takes s t c w (scalarBytes (s.winAt c w) v)) :
    Filled s t c w v := by
  obtain ⟨l, o, m, hw⟩ := h.core.win
  have hw' : t.winAt c w =
      { s.winAt c w with fill := (s.winAt c w).fill + 1, prod := l, prodOver := o, mirrors := m } := hw
  refine ⟨by rw [hw'], by rw [hw']; rfl, fun j hj => ?_, fun b hb => ?_, fun d u hd => ?_, h.cores, h.mem⟩
  · rw [h.core.wstore]
    exact writeElem_scalar_in (s.coreAt c) (s.winAt c w) _ v j hj
  · rw [h.core.wstore]
    exact writeElem_out (s.coreAt c) (s.winAt c w) _ _ b hb
  · by_cases hc : d = c
    · subst hc
      exact h.core.wins u fun e => hd ⟨rfl, e⟩
    · rw [State.winAt, h.cores d hc]
      rfl

/-- Replacing a slot of the core changes nothing of what was filled. -/
theorem filled_setSlot {s t : State} {c w u : Nat} {v : Word} (h : Filled s t c w v) (sl : Slot) :
    Filled s (t.setSlot c u sl) c w v := by
  have hw : ∀ d x, (t.setSlot c u sl).winAt d x = t.winAt d x := fun d x => setSlot_winAt ..
  have hs : ((t.setSlot c u sl).coreAt c).wstore = (t.coreAt c).wstore := by rw [setSlot_coreAt_self]; rfl
  refine ⟨by rw [hw]; exact h.fill, by rw [hw]; exact h.stands, fun j hj => by rw [hs]; exact h.element j hj,
    fun b hb => by rw [hs]; exact h.bytes b hb, fun d x hd => by rw [hw]; exact h.wins d x hd, fun d hd => ?_, h.mem⟩
  rw [coreAt_setSlot, if_neg hd]
  exact h.cores d hd

end Sys2Proof.Machine
end

section
/-! SUPPORT. The statements about fills, updates, shrinks, faults and waits of windows (R23 to R29, R115 to R118). -/

namespace Sys2Proof.Machine

open Sys2Proof

/-! ## Ends of window instructions -/

/-- An instruction that is done in a state ends there with its slot moved past it. -/
theorem finish_done_me (s t : State) (hn : HasNext s) : finish s (.done t) = .next (t.setMe t.me.advance) := by
  rw [finish_done s t hn, advance_me]

theorem me_of_slots {s t : State} (hc : t.cur = s.cur) (hs : t.slot = s.slot)
    (h : (t.coreAt s.cur).slots = (s.coreAt s.cur).slots) : t.me = s.me := by
  rw [State.me, State.me, hc, hs, State.slotAt, State.slotAt, Core.slotAt, Core.slotAt, h]

/-- A guarded instruction runs as its unguarded form where the guard holds (R9). -/
theorem guarded_finish {g : Guard} {s : State} {k : State → Out} {o : Out} (h : s.me.guard g = true) (hk : k s = o) :
    guarded g s k = finish s o := by
  rw [guarded_true g s k h, hk]

/-! ## Fills (R23, R25, R117, R118) -/

/-- A fill by the issuing core of an unwatched window with room is done, and only takes its element. -/
theorem localOp_fill (s : State) (w : BitVec 4) (v : Word) (hq : s.quiet s.cur s.slot = true)
    (hx : Usable (s.winAt s.cur w.toNat) .fill) (hf : (s.winAt s.cur w.toNat).fillsStore = true)
    (hu : Unwatched (s.coreAt s.cur) w.toNat) :
    ∃ t, localOp w (.fill v) 0 s = .done t ∧ Takes s t s.cur w.toNat (scalarBytes (s.winAt s.cur w.toNat) v) := by
  obtain ⟨ds, hd⟩ := localOp_quiet w (.fill v) 0 s hq
  have ht := tryCore_fill (s.setDies ds) false s.cur w.toNat (s.siteOf s.cur s.slot) s.cur s.slot v
    (judge_fill _ 0 (by exact hx))
  rw [setDies_coreAt, setDies_winAt, if_pos (fillRoom_unwatched _ _ hf hu)] at ht
  exact ⟨_, by rw [hd]; exact localGo_done w (.fill v) 0 (s.setDies ds) _ none ht,
    takes_setDies (fillWin_takes (s.setDies ds) s.cur w.toNat _ _ _ hf hu)⟩

/-- The probe of a window it may fill, with room in the store, fills it (R118). -/
theorem wfillnOut_fill (s : State) (w : BitVec 4) (z : BitVec 5) (p : BitVec 3)
    (hx : Usable (s.winAt s.cur w.toNat) .fill) (hf : (s.winAt s.cur w.toNat).fillsStore = true)
    (hu : Unwatched (s.coreAt s.cur) w.toNat) :
    ∃ t, wfillnOut w z p s = .done (t.setSlot s.cur s.slot ((t.slotAt s.cur s.slot).writeP p true)) ∧
      Takes s t s.cur w.toNat (scalarBytes (s.winAt s.cur w.toNat) (s.me.readG z)) := by
  obtain ⟨hv, hh, hm⟩ := hx
  have hj : ({ s.winAt s.cur w.toNat with held := false } : Win).judge .fill 0 = .proceed :=
    judge_fill _ 0 ⟨hv, rfl, hm⟩
  have hext : decide ((s.winAt s.cur w.toNat).ext < (s.winAt s.cur w.toNat).cap.toNat) = true := by
    simp only [Win.fillsStore, Bool.and_eq_true] at hf
    exact hf.1
  have hroom : (s.coreAt s.cur).fillRoom w.toNat = true := fillRoom_unwatched _ _ hf hu
  refine ⟨_, ?_, fillWin_takes s s.cur w.toNat _ (s.siteOf s.cur s.slot) (some (s.cur, s.slot)) hf hu⟩
  unfold wfillnOut
  simp only [hj, hh, hext, hroom, Bool.not_false, Bool.and_self, if_true]

/-- An instruction that is done with an element taken ends with the window filled. -/
theorem ends_filled {i : Instr} {s t : State} {w : Nat} {v : Word} (hn : HasNext s)
    (hi : exec i s = finish s (.done t)) (ht : Takes s t s.cur w (scalarBytes (s.winAt s.cur w) v)) :
    ∃ t, exec i s = .next t ∧ Filled s t s.cur w v ∧ t.me = s.me.advance := by
  refine ⟨t.setMe t.me.advance, by rw [hi, finish_done_me s t hn], ?_, ?_⟩
  · rw [State.setMe, ht.cur]
    exact filled_setSlot (filled_of_takes ht) _
  · rw [me_setMe, me_of_slots ht.cur ht.slot ht.core.slots]

/-- Settles O23, by what a fill of an unwatched window with room takes. -/
theorem windowFills : Obligations.WindowFills := by
  unfold Obligations.WindowFills
  intro s w z p g hn hq x hx hf hu
  obtain ⟨t, ht, hk⟩ := localOp_fill s w (s.me.readG z) hq hx hf hu
  refine ⟨ends_filled hn (congrArg (finish s) ht) hk,
    fun hg => ends_filled hn (guarded_finish (k := fun s => localOp w (.fill (s.me.readG z)) 0 s) hg ht) hk, ?_⟩
  obtain ⟨ds, hd⟩ := released_only s (fun s => wfillnOut w z p s) hq
  obtain ⟨u, hu', hk'⟩ := wfillnOut_fill (s.setDies ds) w z p hx hf hu
  have hk := takes_setDies hk'
  have hme := me_of_slots hk.cur hk.slot hk.core.slots
  rw [State.me, hk.cur, hk.slot] at hme
  have hi : exec (.wfilln w z p) s = finish s (.done (u.setSlot s.cur s.slot (s.me.writeP p true))) := by
    show finish s (released s fun s => wfillnOut w z p s) = _
    rw [hd, hu', ← hme]
    rfl
  refine ⟨_, by rw [hi, finish_done_me s _ hn], ?_, ?_⟩
  · rw [State.setMe, setSlot_cur, setSlot_slot, hk.cur, hk.slot]
    exact filled_setSlot (filled_setSlot (filled_of_takes hk) _) _
  · rw [me_setMe, State.me, setSlot_cur, setSlot_slot, hk.cur, hk.slot, slotAt_setSlot_self]

/-! ## Updates and shrinks (R23, R117, R351) -/

/-- A core after an update of an element: bytes [7:0] of the element are the word's, and nothing else has changed. -/
structure Updated (s t : State) (c w o : Nat) (v : Word) : Prop where
  element : ∀ j, j < min 8 (2 ^ ((s.winAt c w).esz.toNat + 2)) →
    tget 0 (t.coreAt c).wstore (elemAddr (s.winAt c w) o + j) = (v >>> (8 * j)).setWidth 8
  bytes : ∀ e, e < elemAddr (s.winAt c w) o ∨
    elemAddr (s.winAt c w) o + min 8 (2 ^ ((s.winAt c w).esz.toNat + 2)) ≤ e →
      tget 0 (t.coreAt c).wstore e = tget 0 (s.coreAt c).wstore e
  wins : ∀ d u, t.winAt d u = s.winAt d u
  slots : (t.coreAt c).slots = (s.coreAt c).slots
  cores : ∀ d, d ≠ c → t.coreAt d = s.coreAt d
  mem : t.mem = s.mem
  cur : t.cur = s.cur
  slot : t.slot = s.slot

/-- Putting the updated core back updates the element. -/
theorem updated_setCore (s : State) (ds : Table Die) (c w o : Nat) (v : Word) :
    Updated s ((s.setDies ds).setCore c ((s.coreAt c).updateScalar (s.winAt c w) o v)) c w o v := by
  generalize ht : (s.setDies ds).setCore c ((s.coreAt c).updateScalar (s.winAt c w) o v) = t
  have hcore : t.coreAt c = (s.coreAt c).updateScalar (s.winAt c w) o v := by rw [← ht, coreAt_setCore_self]
  have hother : ∀ d, d ≠ c → t.coreAt d = s.coreAt d := fun d hd => by
    rw [← ht, coreAt_setCore, if_neg hd, setDies_coreAt]
  refine ⟨fun j hj => ?_, fun e he => ?_, fun d u => ?_, by rw [hcore]; rfl, hother, by rw [← ht]; rfl,
    by rw [← ht]; rfl, by rw [← ht]; rfl⟩
  · rw [hcore]
    exact updateScalar_in _ _ _ _ j hj
  · rw [hcore]
    exact updateScalar_out _ _ _ _ e he
  · by_cases hd : d = c
    · subst hd
      rw [State.winAt, hcore]
      rfl
    · rw [State.winAt, hother d hd]
      rfl

/-- An update of a filled element by the issuing core is done, and writes its bytes. -/
theorem localOp_update (s : State) (w : BitVec 4) (o : BitVec 32) (v : Word) (hq : s.quiet s.cur s.slot = true)
    (hx : Usable (s.winAt s.cur w.toNat) .update) (ho : o.toNat < (s.winAt s.cur w.toNat).ext) :
    ∃ t, localOp w (.update o v) 0 s = .done t ∧ Updated s t s.cur w.toNat o.toNat v := by
  obtain ⟨ds, hd⟩ := localOp_quiet w (.update o v) 0 s hq
  have hj : (s.winAt s.cur w.toNat).judge .update o.toNat = .proceed := by
    rw [judge_update _ _ hx, if_neg (by omega)]
  have ht := tryCore_update (s.setDies ds) false s.cur w.toNat (s.siteOf s.cur s.slot) s.cur s.slot o v hj
  exact ⟨_, by rw [hd]; exact localGo_done w (.update o v) 0 (s.setDies ds) _ none ht, updated_setCore s ds ..⟩

/-- A shrink of filled elements by the issuing core is done, and moves HEAD and HSLOT. -/
theorem localOp_shrink (s : State) (w : BitVec 4) (n : BitVec 32) (hq : s.quiet s.cur s.slot = true)
    (hx : Usable (s.winAt s.cur w.toNat) .shrink) (ho : n.toNat ≤ (s.winAt s.cur w.toNat).ext) :
    ∃ t, localOp w (.shrink n) 0 s = .done t ∧ Shrunk s t s.cur w.toNat n.toNat := by
  obtain ⟨ds, hd⟩ := localOp_quiet w (.shrink n) 0 s hq
  have hj : (s.winAt s.cur w.toNat).judge .shrink n.toNat = .proceed := by
    rw [judge_shrink _ _ hx, if_neg (by omega)]
  have ht := tryCore_shrink (s.setDies ds) false s.cur w.toNat (s.siteOf s.cur s.slot) s.cur s.slot n hj
  exact ⟨_, by rw [hd]; exact localGo_done w (.shrink n) 0 (s.setDies ds) _ none ht,
    shrunk_setDies (shrinkWin_shrunk (s.setDies ds) s.cur w.toNat n.toNat _ _)⟩

/-- A 14-bit offset or count on 32 bits. -/
theorem toNat_setWidth_14 (o : BitVec 14) : (o.setWidth 32).toNat = o.toNat := by
  have := o.isLt
  rw [BitVec.toNat_setWidth]
  omega

/-- Settles O24, by what an update writes and what a shrink moves. -/
theorem windowUpdates : Obligations.WindowUpdates := by
  unfold Obligations.WindowUpdates
  intro s w o n a z g hn hq x b updated shrunk
  have hupd : ∀ (i : Instr) (o : BitVec 32), exec i s = finish s (localOp w (.update o (s.me.readG z)) 0 s) →
      Usable x .update → o.toNat < x.ext → updated i o.toNat := by
    intro i o hi hx ho
    obtain ⟨u, hd, hk⟩ := localOp_update s w o (s.me.readG z) hq hx ho
    have hme : u.me = s.me := me_of_slots hk.cur hk.slot hk.slots
    refine ⟨u.setMe u.me.advance, by rw [hi, hd, finish_done_me s u hn], by rw [me_setMe, hme], fun j hj => ?_,
      fun e he => ?_, fun d q => by rw [setMe_winAt, hk.wins], fun d hd' => ?_, hk.mem⟩
    · rw [coreAt_setMe, hk.cur, if_pos rfl, Core.setSlot_wstore]
      exact hk.element j hj
    · rw [coreAt_setMe, hk.cur, if_pos rfl, Core.setSlot_wstore]
      exact hk.bytes e he
    · rw [coreAt_setMe, hk.cur, if_neg hd', hk.cores d hd']
  have hshr : ∀ (i : Instr) (n : BitVec 32), exec i s = finish s (localOp w (.shrink n) 0 s) →
      Usable x .shrink → n.toNat ≤ x.ext → shrunk i n.toNat := by
    intro i n hi hx ho
    obtain ⟨u, hd, hk⟩ := localOp_shrink s w n hq hx ho
    have hme : u.me = s.me := me_of_slots hk.cur hk.slot hk.slots
    refine ⟨u.setMe u.me.advance, by rw [hi, hd, finish_done_me s u hn], by rw [me_setMe, hme],
      by rw [setMe_winAt, hk.head], by rw [setMe_winAt, hk.fill], fun h => ⟨by rw [setMe_winAt, hk.hslot h], ?_⟩, ?_,
      fun d q h => by rw [setMe_winAt, hk.wins d q h], fun d hd' => ?_, hk.mem⟩
    · rw [setMe_winAt, hk.pv h, Bool.and_eq_true, decide_eq_true_eq]
    · rw [coreAt_setMe, hk.cur, if_pos rfl, Core.setSlot_wstore, hk.wstore]
    · rw [coreAt_setMe, hk.cur, if_neg hd', hk.cores d hd']
  refine ⟨fun hx ho => ?_, fun hx ho hg => ?_, fun hx ho => ?_, fun hx ho hg => ?_⟩
  · rw [← toNat_setWidth_14 o] at ho ⊢
    exact hupd _ _ rfl hx ho
  · exact hupd _ b (by rw [exec, execWwrReg, guarded_true g s _ hg]) hx ho
  · rw [← toNat_setWidth_14 n] at ho ⊢
    exact hshr _ _ rfl hx ho
  · exact hshr _ b (by rw [exec, execWshrReg, guarded_true g s _ hg]) hx ho

end Sys2Proof.Machine
end

section
/-! SUPPORT. Faults and waits of window operations, and waits that proceed (R23 to R29, R121, R146, R363). -/

namespace Sys2Proof.Machine

open Sys2Proof

/-! ## Traps -/

/-- A window instruction that a check faults takes the window operand fault (R28). -/
theorem traps_localOp (i : Instr) (w : BitVec 4) (op : WinOp) (d : BitVec 5) (s : State) (why : Nat)
    (hi : exec i s = finish s (localOp w op d s)) (hs : s.quiet s.cur s.slot = true)
    (h : (s.winAt s.cur w.toNat).judge op.kind op.arg.toNat = .fault why)
    (hq : op.kind ≠ .query := by simp [WinOp.kind]) :
    Traps i s (winTrap (s.winAt s.cur w.toNat) w.toNat op.kind false op.arg why) := by
  rw [Traps, hi, localOp_fault w op d s why hs hq h]
  rfl

/-- A fill that a check faults takes the window operand fault, with no offset. -/
theorem traps_wfill (w : BitVec 4) (z : BitVec 5) (s : State) (why : Nat) (hs : s.quiet s.cur s.slot = true)
    (h : (s.winAt s.cur w.toNat).judge .fill 0 = .fault why) :
    Traps (.wfill w z) s (winTrap (s.winAt s.cur w.toNat) w.toNat .fill false ((0 : BitVec 14).setWidth 32) why) := by
  have h0 : (0 : BitVec 14).setWidth 32 = 0 := by decide
  rw [h0]
  exact traps_localOp (.wfill w z) w (.fill (s.me.readG z)) 0 s why rfl hs h

/-- A read at or beyond the poison takes the poison trap (R29). -/
theorem traps_poison (d : BitVec 5) (w : BitVec 4) (o : BitVec 14) (s : State)
    (h : (s.winAt s.cur w.toNat).judge .read (o.setWidth 32).toNat = .poison) :
    Traps (.wrd d w o) s (poisonTrap (s.winAt s.cur w.toNat) w.toNat false) := by
  have hi : exec (.wrd d w o) s = finish s (localGo w (.read (o.setWidth 32)) d s) := rfl
  rw [Traps, hi, localGo_trap w _ d s _ (tryCore_poison s false s.cur w.toNat _ s.cur s.slot _ h)]
  rfl

/-! ## Waits -/

/-- A window instruction whose checks make it wait, or whose fill finds no room, waits. -/
theorem waitsFor_judge (i : Instr) (w : BitVec 4) (op : WinOp) (d : BitVec 5) (s : State)
    (hi : exec i s = finish s (localOp w op d s)) (hs : s.quiet s.cur s.slot = true) (hn : HasNext s)
    (h : (s.winAt s.cur w.toNat).judge op.kind op.arg.toNat = .wait) (hq : op.kind ≠ .query := by simp [WinOp.kind]) :
    WaitsFor i s (.window false s.cur w.toNat op d (s.siteOf s.cur s.slot)) :=
  waitsFor_localOp i w op d s hi hs hn fun u hu =>
    tryCore_wait u false s.cur w.toNat _ s.cur s.slot op hq (by rw [winAt_of_cores hu]; exact h)

theorem waitsFor_fill (w : BitVec 4) (z : BitVec 5) (s : State) (hs : s.quiet s.cur s.slot = true) (hn : HasNext s)
    (hx : Usable (s.winAt s.cur w.toNat) .fill) (hr : (s.coreAt s.cur).fillRoom w.toNat = false) :
    WaitsFor (.wfill w z) s (.window false s.cur w.toNat (.fill (s.me.readG z)) 0 (s.siteOf s.cur s.slot)) := by
  refine waitsFor_localOp _ w _ 0 s rfl hs hn fun u hu => ?_
  have hj : (u.winAt s.cur w.toNat).judge .fill 0 = .proceed := by
    rw [winAt_of_cores hu]
    exact judge_fill _ 0 hx
  rw [tryCore_fill u false s.cur w.toNat _ s.cur s.slot _ hj, coreAt_of_cores hu, hr]
  exact if_neg Bool.false_ne_true

/-! ## Waits that proceed (R24, R26, R146) -/

/-- The slot of a task that stops waiting. -/
def Slot.woken (sl : Slot) (tick : BitVec 64) : Slot :=
  { sl with status := .runnable, wait := none, ready := tick, issues := 0 }

/-- A waiting operation that is done when tried, and once more when its task has woken, ends with the task past its
instruction. -/
theorem retryOp_done {s s' u : State} {c t core w : Nat} {op : WinOp} {d : BitVec 5} {site : BitVec 46}
    {v v' : Option Word} (hw : (s.slotAt c t).wait = some (.window false core w op d site)) (hc : core < Config.cores)
    (h : s.tryCore false core w op site c t = .done u v')
    (h' : (s.wake c t).tryCore false core w op site c t = .done s' v) :
    s.retryOp c t op.isFill = (s'.writeBack c t d v).advance c t := by
  have hb : (op.isFill != op.isFill) = false := bne_self_eq_false _
  rw [State.retryOp, hw]
  simp only [hb, State.tryOp, if_pos hc, h, h']
  rfl

theorem exec_waitingReadProceeds {c t : Nat} {s : State} :
    exec (.waitingReadProceeds c t) s = .next (s.retryOp c t false) := rfl

theorem exec_waitingFillProceeds {c t : Nat} {s : State} :
    exec (.waitingFillProceeds c t) s = .next (s.retryOp c t true) := rfl

/-- The woken task's slot, where the operation left the slots of its core alone. -/
theorem slotAt_retried {s s' : State} {c t : Nat} {d : BitVec 5}
    (h : (s'.coreAt c).slots = ((s.wake c t).coreAt c).slots)
    (v : Option Word) :
    ((s'.writeBack c t d v).advance c t).slotAt c t = (match v with
      | some u => ((s.slotAt c t).woken s.tick).writeG d u
      | none => (s.slotAt c t).woken s.tick).advance := by
  have hs : s'.slotAt c t = (s.slotAt c t).woken s.tick := by
    rw [State.slotAt, Core.slotAt, h]
    exact wake_slotAt s c t
  rw [State.advance, slotAt_setSlot_self]
  cases v with
  | none => exact congrArg Slot.advance hs
  | some u => rw [State.writeBack, slotAt_setSlot_self, hs]

/-- Waking a task changes no window and no byte of the store: what is filled then is filled from the state before. -/
theorem filled_of_wake {s t : State} {c u w : Nat} {v : Word} (h : Filled (s.wake c u) t c w v) : Filled s t c w v := by
  have hs : ((s.wake c u).coreAt c).wstore = (s.coreAt c).wstore := by
    rw [wake_coreAt, if_pos rfl]
    rfl
  have hf := h.fill
  have hst := h.stands
  have hel := h.element
  have hby := h.bytes
  simp only [wake_winAt] at hf hst hel hby
  refine ⟨hf, hst, hel, fun b hb => by rw [hby b hb, hs], fun d x hd => by rw [h.wins d x hd, wake_winAt],
    fun d hd => by rw [h.cores d hd, wake_coreAt, if_neg hd], h.mem⟩

/-- A waiting read of an element that has been filled proceeds. -/
theorem waitingRead_proceeds (s : State) (c t w : Nat) (o : BitVec 32) (d : BitVec 5) (site : BitVec 46)
    (hc : c < Config.cores) (hw : (s.slotAt c t).wait = some (.window false c w (.read o) d site))
    (hx : Readable (s.winAt c w) o.toNat) : ∃ s' u, IsElement (s.coreAt c) (s.winAt c w) o.toNat u ∧
      exec (.waitingReadProceeds c t) s = .next s' ∧
      s'.slotAt c t = (((s.slotAt c t).woken s.tick).writeG d u).advance ∧
      (∀ e ∈ s'.edges, e.party ≠ .task c t) ∧ (∀ e u, s'.winAt e u = s.winAt e u) ∧ s'.mem = s.mem := by
  have h := tryCore_read s false c w site c t o (judge_readable hx)
  have h' := tryCore_read (s.wake c t) false c w site c t o (by rw [wake_winAt]; exact judge_readable hx)
  rw [wake_winAt] at h'
  have hu : IsElement (s.coreAt c) (s.winAt c w) o.toNat
      (((s.wake c t).coreAt c).readScalar (s.winAt c w) o.toNat) := by
    rw [wake_coreAt, if_pos rfl]
    exact isElement_readScalar (s.coreAt c) (s.winAt c w) o.toNat
  have hr := exec_waitingReadProceeds.trans (congrArg _ (retryOp_done hw hc h h'))
  refine ⟨_, _, hu, hr, slotAt_retried rfl (some _), wake_edges s c t,
    fun e x => ?_, ?_⟩
  · rw [State.advance, setSlot_winAt, State.writeBack, setSlot_winAt, wake_winAt]
  · rw [advance_mem, State.writeBack, setSlot_mem, wake_mem]

/-- A waiting shrink of filled elements proceeds. -/
theorem waitingShrink_proceeds (s : State) (c t w : Nat) (o : BitVec 32) (d : BitVec 5) (site : BitVec 46)
    (hc : c < Config.cores) (hw : (s.slotAt c t).wait = some (.window false c w (.shrink o) d site))
    (hx : Usable (s.winAt c w) .shrink) (ho : o.toNat ≤ (s.winAt c w).ext) : ∃ s',
      exec (.waitingReadProceeds c t) s = .next s' ∧ (s'.winAt c w).head = (s.winAt c w).head + o ∧
      (s'.winAt c w).fill = (s.winAt c w).fill ∧
      s'.slotAt c t = ((s.slotAt c t).woken s.tick).advance ∧
      (∀ e ∈ s'.edges, e.party ≠ .task c t) ∧ s'.mem = s.mem := by
  have hj : (s.winAt c w).judge .shrink o.toNat = .proceed := by
    rw [judge_shrink _ _ hx, if_neg (by omega)]
  have h := tryCore_shrink s false c w site c t o hj
  have h' := tryCore_shrink (s.wake c t) false c w site c t o (by rw [wake_winAt]; exact hj)
  have hk := shrinkWin_shrunk (s.wake c t) c w o.toNat site (some (c, t))
  have hr := exec_waitingReadProceeds.trans (congrArg _ (retryOp_done hw hc h h'))
  refine ⟨_, hr, ?_, ?_, slotAt_retried hk.slots none, ?_, hk.mem⟩
  · rw [State.advance, setSlot_winAt, State.writeBack, hk.head, wake_winAt]
    simp
  · rw [State.advance, setSlot_winAt, State.writeBack, hk.fill, wake_winAt]
  · have he := wake_edges s c t
    rw [← hk.edges] at he
    exact he

/-- A waiting fill that finds room proceeds. -/
theorem waitingFill_proceeds (s : State) (c t w : Nat) (v : Word) (d : BitVec 5) (site : BitVec 46)
    (hc : c < Config.cores) (hw : (s.slotAt c t).wait = some (.window false c w (.fill v) d site))
    (hx : Usable (s.winAt c w) .fill) (hf : (s.winAt c w).fillsStore = true) (hu : Unwatched (s.coreAt c) w) : ∃ s',
      exec (.waitingFillProceeds c t) s = .next s' ∧ Filled s s' c w v ∧
      s'.slotAt c t = ((s.slotAt c t).woken s.tick).advance := by
  have hf' : ((s.wake c t).winAt c w).fillsStore = true := by rw [wake_winAt]; exact hf
  have hu' : Unwatched ((s.wake c t).coreAt c) w := by
    rw [wake_coreAt, if_pos rfl]
    exact hu
  have h := tryCore_fill s false c w site c t v (judge_fill _ 0 hx)
  have h' := tryCore_fill (s.wake c t) false c w site c t v (by rw [wake_winAt]; exact judge_fill _ 0 hx)
  rw [if_pos (fillRoom_unwatched _ _ hf hu)] at h
  rw [if_pos (fillRoom_unwatched _ _ hf' hu')] at h'
  have hk := fillWin_takes (s.wake c t) c w (scalarBytes ((s.wake c t).winAt c w) v) site (some (c, t)) hf' hu'
  have hr := exec_waitingFillProceeds.trans (congrArg _ (retryOp_done hw hc h h'))
  refine ⟨_, hr, ?_, slotAt_retried hk.core.slots none⟩
  exact filled_setSlot (filled_of_wake (filled_of_takes hk)) _

/-- Settles O26, by the order of the checks, by what an operation leaves, and by trying a waiting operation again. -/
theorem windowFaults : Obligations.WindowFaults := by
  unfold Obligations.WindowFaults
  refine ⟨fun s d z w o n hs => ⟨fun hh hn => ?_, fun hh hv => ?_, fun hh hv => ?_⟩, fun s d z w o hn hs => ⟨?_, ?_⟩,
    fun s c t w o v d site hc => ⟨?_, ?_, ?_⟩⟩
  · exact ⟨waitsFor_judge _ w (.read (o.setWidth 32)) d s rfl hs hn (judge_held _ _ _ hh),
      waitsFor_judge _ w (.fill (s.me.readG z)) 0 s rfl hs hn (judge_held _ _ _ hh),
      waitsFor_judge _ w (.update (o.setWidth 32) (s.me.readG z)) 0 s rfl hs hn (judge_held _ _ _ hh),
      waitsFor_judge _ w (.shrink (n.setWidth 32)) 0 s rfl hs hn (judge_held _ _ _ hh)⟩
  · exact ⟨traps_localOp _ w (.read (o.setWidth 32)) d s 1 rfl hs (judge_undefined _ _ _ hh hv),
      traps_wfill w z s 1 hs (judge_undefined _ _ _ hh hv),
      traps_localOp _ w (.update (o.setWidth 32) (s.me.readG z)) 0 s 1 rfl hs (judge_undefined _ _ _ hh hv),
      traps_localOp _ w (.shrink (n.setWidth 32)) 0 s 1 rfl hs (judge_undefined _ _ _ hh hv)⟩
  · refine ⟨fun hc => traps_localOp _ w (.read (o.setWidth 32)) d s 4 rfl hs ?_,
      fun hc hp => traps_poison d w o s ?_,
      fun hm => traps_wfill w z s 5 hs (judge_mode _ _ _ hh hv hm),
      fun hm => traps_localOp _ w (.update (o.setWidth 32) (s.me.readG z)) 0 s 5 rfl hs (judge_mode _ _ _ hh hv hm),
      fun hm he => traps_localOp _ w (.update (o.setWidth 32) (s.me.readG z)) 0 s 2 rfl hs ?_,
      fun hm => traps_localOp _ w (.shrink (n.setWidth 32)) 0 s 5 rfl hs (judge_mode _ _ _ hh hv hm),
      fun hm he => traps_localOp _ w (.shrink (n.setWidth 32)) 0 s 3 rfl hs ?_⟩
    · simp only [WinOp.kind, WinOp.arg, toNat_setWidth_14]
      rw [judge_read _ _ hh hv, if_pos hc]
    · rw [toNat_setWidth_14, judge_read _ _ hh hv, if_neg (by omega), if_pos hp]
    · simp only [WinOp.kind, WinOp.arg, toNat_setWidth_14]
      rw [judge_update _ _ ⟨hv, hh, hm⟩, if_pos he]
    · simp only [WinOp.kind, WinOp.arg, toNat_setWidth_14]
      rw [judge_shrink _ _ ⟨hv, hh, hm⟩, if_pos he]
  · intro hx hc hp he
    refine waitsFor_judge _ w (.read (o.setWidth 32)) d s rfl hs hn ?_
    obtain ⟨hv, hh, -⟩ := hx
    simp only [WinOp.kind, WinOp.arg, toNat_setWidth_14]
    rw [judge_read _ _ hh hv, if_neg (by omega), if_neg (by simpa using hp), if_neg (by omega)]
  · exact fun hx hr => waitsFor_fill w z s hs hn hx hr
  · exact fun hw hx => waitingRead_proceeds s c t w o d site hc hw hx
  · exact fun hw hx ho => waitingShrink_proceeds s c t w o d site hc hw hx ho
  · exact fun hw hx hf hu => waitingFill_proceeds s c t w v d site hc hw hx hf hu

end Sys2Proof.Machine
end

section
/-! SUPPORT. The bits that the system registers keep of a word written to them (R139, R225, R254, R346, R350, R360,
R396, R407). -/

namespace Sys2Proof.Machine

open Sys2Proof

/-- A conjunction with a mask in two parts, part by part. -/
theorem and_two_parts (x a b k : Nat) (hb : b < 2 ^ k) :
    x &&& (2 ^ k * a + b) = 2 ^ k * (x / 2 ^ k &&& a) + (x % 2 ^ k &&& b) := by
  have hr : x % 2 ^ k &&& b < 2 ^ k := lt_of_le_of_lt Nat.and_le_right hb
  refine Nat.eq_of_testBit_eq fun i => ?_
  rw [Nat.testBit_and, Nat.testBit_two_pow_mul_add _ hb, Nat.testBit_two_pow_mul_add _ hr]
  split
  · rw [Nat.testBit_and, Nat.testBit_mod_two_pow]
    simp [*]
  · rw [Nat.testBit_and, Nat.testBit_div_two_pow]
    congr 2
    omega

/-- A conjunction with a mask of m ones above n ones. -/
theorem and_two_fields (x k m n : Nat) (hn : n ≤ k) :
    x &&& (2 ^ k * (2 ^ m - 1) + (2 ^ n - 1)) = 2 ^ k * (x / 2 ^ k % 2 ^ m) + x % 2 ^ n := by
  have hk : 2 ^ n ≤ 2 ^ k := Nat.pow_le_pow_right (by omega) hn
  have h1 : 0 < 2 ^ n := by positivity
  rw [and_two_parts _ _ _ _ (by omega), Nat.and_two_pow_sub_one_eq_mod, Nat.and_two_pow_sub_one_eq_mod,
    Nat.mod_mod_of_dvd _ (pow_dvd_pow 2 hn)]

/-- The value of a word under a mask of m ones above n ones. -/
theorem toNat_and_fields (v : Word) (mask : Word) (k m n : Nat) (hn : n ≤ k)
    (h : mask.toNat = 2 ^ k * (2 ^ m - 1) + (2 ^ n - 1)) :
    (v &&& mask).toNat = 2 ^ k * (v.toNat / 2 ^ k % 2 ^ m) + v.toNat % 2 ^ n := by
  rw [BitVec.toNat_and, h, and_two_fields _ _ _ _ hn]

/-- The low w bits of a word, read back on 64 bits. -/
theorem low_bits (v mask : Word) (w : Nat) (hw : w ≤ 64) (h : mask.toNat = 2 ^ w - 1) :
    (v.setWidth w).setWidth 64 = v &&& mask := by
  have hv : v.toNat % 2 ^ w < 2 ^ 64 :=
    lt_of_lt_of_le (Nat.mod_lt _ (by positivity)) (Nat.pow_le_pow_right (by omega) hw)
  apply BitVec.eq_of_toNat_eq
  rw [BitVec.toNat_setWidth, BitVec.toNat_setWidth, BitVec.toNat_and, h, Nat.and_two_pow_sub_one_eq_mod,
    Nat.mod_eq_of_lt hv]

/-- The low w bits of a word under a mask of w bits, read back on 64 bits. -/
theorem low_bits_masked (v mask : Word) (w : Nat) (m : BitVec w) (hw : w ≤ 64) (h : mask.toNat = m.toNat) :
    (v.setWidth w &&& m).setWidth 64 = v &&& mask := by
  have hm : m.toNat < 2 ^ w := m.isLt
  have hmask : m.setWidth 64 = mask := by
    apply BitVec.eq_of_toNat_eq
    rw [BitVec.toNat_setWidth, h, Nat.mod_eq_of_lt (lt_of_lt_of_le hm (Nat.pow_le_pow_right (by omega) hw))]
  have hlow : (BitVec.allOnes w).setWidth 64 &&& mask = mask := by
    rw [← hmask, ← BitVec.setWidth_and, BitVec.allOnes_and]
  have hv : (v.setWidth w).setWidth 64 = v &&& (BitVec.allOnes w).setWidth 64 :=
    low_bits v _ w hw (by
      have : 2 ^ w ≤ 2 ^ 64 := Nat.pow_le_pow_right (by omega) hw
      have : 0 < 2 ^ w := by positivity
      rw [BitVec.toNat_setWidth, BitVec.toNat_allOnes, Nat.mod_eq_of_lt (by omega)])
  rw [BitVec.setWidth_and, hmask, hv, BitVec.and_assoc, hlow]

/-- A bit of a word as a number. -/
theorem bit_toNat (v : Word) (i : Nat) (k : Nat) : (if v.getLsbD i then k else 0) = k * (v.toNat / 2 ^ i % 2) := by
  rw [BitVec.getLsbD, Nat.testBit_eq_decide_div_mod_eq]
  rcases Nat.mod_two_eq_zero_or_one (v.toNat / 2 ^ i) with h | h <;> simp [h]

/-- TSTAT after a write: SUP from the word, the priority as it was (R15, R139). -/
theorem tstat_bits (v : Word) (p : BitVec 2) :
    BitVec.ofNat 64 (p.toNat * 2 + if v.getLsbD 0 then 1 else 0) = (v &&& 1) ||| BitVec.ofNat 64 (2 * p.toNat) := by
  have hp := p.isLt
  have h1 : (v &&& 1).toNat = v.toNat % 2 := by
    rw [BitVec.toNat_and, show (1 : Word).toNat = 2 ^ 1 - 1 from rfl, Nat.and_two_pow_sub_one_eq_mod]
  apply BitVec.eq_of_toNat_eq
  rw [bit_toNat, BitVec.toNat_or, h1, BitVec.toNat_ofNat, BitVec.toNat_ofNat, 
    Nat.mod_eq_of_lt (a := 2 * p.toNat) (by omega), Nat.or_comm, show 2 * p.toNat = 2 ^ 1 * p.toNat by ring,
    ← Nat.two_pow_add_eq_or_of_lt (by omega)]
  omega

/-- The trap vector (R139). -/
theorem tvec_bits (v : Word) :
    BitVec.ofNat 64 ((if v.getLsbD 12 then 4096 else 0) + (v.setWidth 12).toNat) = v &&& 0x1FFF := by
  apply BitVec.eq_of_toNat_eq
  rw [bit_toNat, BitVec.toNat_ofNat, BitVec.toNat_setWidth, toNat_and_fields v _ 12 1 12 (by omega) (by decide)]
  omega

/-- The trap state TRAPST (R139). -/
theorem trapst_bits (v : Word) :
    BitVec.ofNat 64 ((if v.getLsbD 1 then 2 else 0) + if v.getLsbD 0 then 1 else 0) = v &&& 0x3 := by
  apply BitVec.eq_of_toNat_eq
  rw [bit_toNat, bit_toNat, BitVec.toNat_ofNat, toNat_and_fields v _ 1 1 1 (by omega) (by decide)]
  omega

/-- The control register of a mirror (R396). -/
theorem mirror_bits (v : Word) :
    BitVec.ofNat 64 ((if v.getLsbD 63 then 2 ^ 63 else 0) + (if v.getLsbD 62 then 2 ^ 62 else 0) +
      (v.setWidth 4).toNat) = v &&& 0xC00000000000000F := by
  apply BitVec.eq_of_toNat_eq
  rw [bit_toNat, bit_toNat, BitVec.toNat_ofNat, BitVec.toNat_setWidth,
    toNat_and_fields v _ 62 2 4 (by omega) (by decide)]
  omega

/-- WPS of a window (R350). -/
theorem wps_bits (v : Word) :
    BitVec.ofNat 64 ((bits v.toNat 46 8).toNat * 2 ^ 46 + (v.setWidth 46).toNat) = v &&& 0x3FFFFFFFFFFFFF := by
  apply BitVec.eq_of_toNat_eq
  rw [bits, BitVec.toNat_ofNat, BitVec.toNat_ofNat, BitVec.toNat_setWidth,
    toNat_and_fields v _ 46 8 46 (by omega) (by decide)]
  omega

/-- TRCCTL after a write: DROP is cleared (R407). -/
theorem trc_bits (v : Word) : (⟨0, bits v.toNat 10 6, v.getLsbD 4, v.setWidth 4⟩ : Trc).word = v &&& 0xFC1F := by
  apply BitVec.eq_of_toNat_eq
  simp only [Trc.word, bits]
  rw [bit_toNat, BitVec.toNat_ofNat, BitVec.toNat_ofNat, BitVec.toNat_setWidth,
    toNat_and_fields v _ 10 6 5 (by omega) (by decide), show (0 : BitVec 16).toNat = 0 from rfl]
  omega

/-- WBKS after a write: RLOG is stored and the counts are cleared (R254). -/
theorem wbks_bits (v : Word) (x : Win) :
    ({ x with rlog := bits v.toNat 59 5, rhead := 0, rfill := 0 } : Win).wbks = v &&& 0xF800000000000000 := by
  have hv := v.isLt
  apply BitVec.eq_of_toNat_eq
  simp only [Win.wbks, bits]
  rw [BitVec.toNat_ofNat, BitVec.toNat_ofNat, toNat_and_fields v _ 59 5 0 (by omega) (by decide),
    show (0 : BitVec 28).toNat = 0 from rfl]
  omega

end Sys2Proof.Machine
end

section
/-! SUPPORT. Reading system registers: what a read depends on, and the values of the registers (R13, R137, R139). -/

namespace Sys2Proof.Machine

open Sys2Proof

/-! ## What a read depends on (R137) -/

/-- Two slots hold the same in system register o. -/
structure SlotSame (o : Nat) (x y : Slot) : Prop where
  tstat : o = 0x010 → y.tstat = x.tstat := by intros; rfl
  fpstat : o = 0x011 → y.fpstat = x.fpstat := by intros; rfl
  repc : o = 0x012 → y.repc = x.repc := by intros; rfl
  trapcause : o = 0x018 → y.trapcause = x.trapcause := by intros; rfl
  trappc : o = 0x019 → y.trappc = x.trappc := by intros; rfl
  trapsite : o = 0x01A → y.trapsite = x.trapsite := by intros; rfl
  traparg : o = 0x01B → y.traparg = x.traparg := by intros; rfl
  trapst : o = 0x041 → (y.tv, y.psup) = (x.tv, x.psup) := by intros; rfl
  trapva : o = 0x042 → y.trapva = x.trapva := by intros; rfl
  trapvah : o = 0x043 → y.trapvah = x.trapvah := by intros; rfl
  tscr : 0x044 ≤ o → o ≤ 0x047 → vget 0 y.tscr (o - 0x044) = vget 0 x.tscr (o - 0x044) := by intros; rfl

/-- Two cores hold the same in system register o, their slots left aside. -/
structure CoreSame (o : Nat) (k l : Core) : Prop where
  seq : l.seq = k.seq := by rfl
  mx : l.mx = k.mx := by rfl
  tvec : o = 0x040 → (l.tvecEn, l.tvec) = (k.tvecEn, k.tvec) := by intros; rfl
  bnh : 0x050 ≤ o → o ≤ 0x057 → vget 0 l.bnh (o - 0x050) = vget 0 k.bnh (o - 0x050) := by intros; rfl
  bte : l.bte = k.bte := by rfl
  wbkb : 0x080 ≤ o → o ≤ 0x09F → o % 2 = 0 → (l.winAt ((o - 0x080) / 2)).wbkb = (k.winAt ((o - 0x080) / 2)).wbkb := by
    intros; rfl
  wbks : 0x080 ≤ o → o ≤ 0x09F → o % 2 = 1 → (l.winAt ((o - 0x080) / 2)).wbks = (k.winAt ((o - 0x080) / 2)).wbks := by
    intros; rfl
  ring : l.ring = k.ring := by rfl
  wdctl : o = 0x0B0 → l.wdctl = k.wdctl := by intros; rfl
  wdcnt : o = 0x0B1 → l.wdcnt = k.wdcnt := by intros; rfl
  whold : l.whold = k.whold := by rfl
  rpnot : o = 0x0B3 → l.rpnot = k.rpnot := by intros; rfl
  bxsh : 0x0C0 ≤ o → o ≤ 0x0DF → vget 0 l.bxsh (o - 0x0C0) = vget 0 k.bxsh (o - 0x0C0) := by intros; rfl
  pkrt : 0x0E0 ≤ o → o ≤ 0x0EF → vget 0 l.pkrt (o - 0x0E0) = vget 0 k.pkrt (o - 0x0E0) := by intros; rfl
  egmBase : 0x0F0 ≤ o → o ≤ 0x0F3 → o % 2 = 0 → (vget ⟨0, false, false, 0⟩ l.egm ((o - 0x0F0) / 2)).base =
    (vget ⟨0, false, false, 0⟩ k.egm ((o - 0x0F0) / 2)).base := by intros; rfl
  egmControl : 0x0F0 ≤ o → o ≤ 0x0F3 → o % 2 = 1 → (vget ⟨0, false, false, 0⟩ l.egm ((o - 0x0F0) / 2)).control =
    (vget ⟨0, false, false, 0⟩ k.egm ((o - 0x0F0) / 2)).control := by intros; rfl
  wps : 0x100 ≤ o → o ≤ 0x11F → o % 2 = 0 →
    ((l.winAt ((o - 0x100) / 2)).wpsClass, (l.winAt ((o - 0x100) / 2)).wpsSite) =
    ((k.winAt ((o - 0x100) / 2)).wpsClass, (k.winAt ((o - 0x100) / 2)).wpsSite) := by intros; rfl
  wpd : 0x100 ≤ o → o ≤ 0x11F → o % 2 = 1 → (l.winAt ((o - 0x100) / 2)).wpd = (k.winAt ((o - 0x100) / 2)).wpd := by
    intros; rfl
  cens : l.cens = k.cens := by rfl
  trcctl : o = 0x131 → (l.trcLent, l.trcShadow, l.trc) = (k.trcLent, k.trcShadow, k.trc) := by intros; rfl
  dbg : (l.dbgctl, l.dbgev, l.bks) = (k.dbgctl, k.dbgev, k.bks) := by rfl
  lent : (l.stallLent, l.trcLent) = (k.stallLent, k.trcLent) := by rfl
  stallShadow : 0x140 ≤ o → o ≤ 0x14F → vget 0 l.stallShadow (o - 0x140) = vget 0 k.stallShadow (o - 0x140) := by
    intros; rfl
  stall : 0x140 ≤ o → o ≤ 0x14F → vget 0 l.stall (o - 0x140) = vget 0 k.stall (o - 0x140) := by intros; rfl

/-- A number that a table assigns lies in one of the ranges of the map (R13, R137). -/
theorem sysAccess_range {n : Nat} (h : sysAccess n ≠ none) :
    n ≤ 0x003 ∨ (0x010 ≤ n ∧ n ≤ 0x012) ∨ (0x018 ≤ n ∧ n ≤ 0x01B) ∨ n = 0x020 ∨ (0x040 ≤ n ∧ n ≤ 0x047) ∨
    (0x050 ≤ n ∧ n ≤ 0x057) ∨ n = 0x060 ∨ (0x070 ≤ n ∧ n ≤ 0x073) ∨ (0x080 ≤ n ∧ n ≤ 0x09F) ∨ n = 0x0A0 ∨ n = 0x0A1 ∨
    (0x0B0 ≤ n ∧ n ≤ 0x0B4) ∨ (0x0C0 ≤ n ∧ n ≤ 0x0DF) ∨ (0x0E0 ≤ n ∧ n ≤ 0x0F3) ∨ (0x100 ≤ n ∧ n ≤ 0x11F) ∨
    n = 0x130 ∨ n = 0x131 ∨ (0x138 ≤ n ∧ n ≤ 0x13D) ∨ n = 0x13F ∨ (0x140 ≤ n ∧ n ≤ 0x14F) := by
  by_contra hn
  refine h ?_
  unfold sysAccess
  rw [if_neg (by omega), if_neg (by omega), if_neg (by omega), if_neg (by omega), if_neg (by omega), if_neg (by omega),
    if_neg (by omega), if_neg (by omega), if_neg (by omega), if_neg (by omega), if_neg (by omega), if_neg (by omega)]

theorem rgstat_of_ctrls {s t : State} (h : t.ctrls = s.ctrls) (c : Nat) : t.rgstat c = s.rgstat c := by
  have hc : t.ctrlAt = s.ctrlAt := funext fun x => by rw [State.ctrlAt, State.ctrlAt, h]
  have hseg : t.segmentOf c = s.segmentOf c := by
    unfold State.segmentOf
    rw [hc]
  unfold State.rgstat
  rw [hseg, hc]

/-- A read depends on its register alone: on the slot, the core, the cluster, the ring controllers, the edges and
TICK. -/
theorem sysRead_congr {s t : State} {c u o : Nat} (tick : Word) (htick : t.tick = s.tick)
    (hcl : t.clusters = s.clusters) (hctrl : t.ctrls = s.ctrls) (he : t.edges = s.edges)
    (hs : SlotSame o (s.slotAt c u) (t.slotAt c u))
    (hk : CoreSame o (s.coreAt c) (t.coreAt c)) : t.sysRead c u o tick true = s.sysRead c u o tick true := by
  by_cases ha : sysAccess o = none
  · simp only [State.sysRead, ha]
  have hr := sysAccess_range ha
  obtain ⟨a, ha⟩ := Option.ne_none_iff_exists'.mp ha
  have hs' : SlotSame o ((s.coreAt c).slotAt u) ((t.coreAt c).slotAt u) := hs
  have hdbg := hk.dbg
  have hlent := hk.lent
  simp only [Prod.mk.injEq] at hdbg hlent
  obtain ⟨hctl, hev, hbks⟩ := hdbg
  obtain ⟨hsl, htl⟩ := hlent
  simp only [State.sysRead, ha]
  refine congrArg some ?_
  refine ite_congr rfl (fun _ => rfl) fun _ => ?_
  refine ite_congr rfl (fun _ => rfl) fun _ => ?_
  refine ite_congr rfl (fun _ => by rw [hk.seq]) fun _ => ?_
  refine ite_congr rfl (fun _ => htick) fun _ => ?_
  refine ite_congr rfl (fun h => hs'.tstat h) fun _ => ?_
  refine ite_congr rfl (fun h => by rw [hs'.fpstat h]) fun _ => ?_
  refine ite_congr rfl (fun h => by rw [hs'.repc h]) fun _ => ?_
  refine ite_congr rfl (fun h => hs'.trapcause h) fun _ => ?_
  refine ite_congr rfl (fun h => by rw [hs'.trappc h]) fun _ => ?_
  refine ite_congr rfl (fun h => by rw [hs'.trapsite h]) fun _ => ?_
  refine ite_congr rfl (fun h => hs'.traparg h) fun _ => ?_
  refine ite_congr rfl (fun _ => by rw [hk.mx]) fun _ => ?_
  refine ite_congr rfl (fun h => ?_) fun _ => ?_
  · have := hk.tvec h
    simp only [Prod.mk.injEq] at this
    rw [this.1, this.2]
  refine ite_congr rfl (fun h => ?_) fun _ => ?_
  · have := hs'.trapst h
    simp only [Prod.mk.injEq] at this
    rw [this.1, this.2]
  refine ite_congr rfl (fun h => hs'.trapva h) fun _ => ?_
  refine ite_congr rfl (fun h => by rw [hs'.trapvah h]) fun _ => ?_
  refine ite_congr rfl (fun h => hs'.tscr (by omega) h) fun _ => ?_
  refine ite_congr rfl (fun h => by rw [hk.bnh (by omega) h]) fun _ => ?_
  refine ite_congr rfl (fun h => by rw [State.clusterAt, State.clusterAt, hcl]) fun _ => ?_
  refine ite_congr rfl (fun h => by rw [State.bteWaits, State.bteWaits, he, hk.bte]) fun _ => ?_
  refine ite_congr rfl (fun h => ite_congr rfl (fun h' => hk.wbkb (by omega) h h')
    fun h' => hk.wbks (by omega) h (by omega)) fun _ => ?_
  refine ite_congr rfl (fun _ => rgstat_of_ctrls hctrl c) fun _ => ?_
  refine ite_congr rfl (fun _ => by rw [hk.ring]) fun _ => ?_
  refine ite_congr rfl (fun h => by rw [hk.wdctl h]) fun _ => ?_
  refine ite_congr rfl (fun h => hk.wdcnt h) fun _ => ?_
  refine ite_congr rfl (fun h => hk.whold) fun _ => ?_
  refine ite_congr rfl (fun h => by rw [hk.rpnot h]) fun _ => ?_
  refine ite_congr rfl (fun _ => rfl) fun _ => ?_
  refine ite_congr rfl (fun h => hk.bxsh (by omega) h) fun _ => ?_
  refine ite_congr rfl (fun h => by rw [hk.pkrt (by omega) h]) fun _ => ?_
  refine ite_congr rfl (fun h => ite_congr rfl (fun h' => hk.egmBase (by omega) h h')
    fun h' => hk.egmControl (by omega) h (by omega)) fun _ => ?_
  refine ite_congr rfl (fun h => ite_congr rfl (fun h' => ?_) fun h' => hk.wpd (by omega) h (by omega)) fun _ => ?_
  · have := hk.wps (by omega) h h'
    simp only [Prod.mk.injEq] at this
    rw [this.1, this.2]
  refine ite_congr rfl (fun _ => by rw [hk.cens]) fun _ => ?_
  refine ite_congr rfl (fun h => ?_) fun _ => ?_
  · have := hk.trcctl h
    simp only [Prod.mk.injEq] at this
    rw [this.1, this.2.1, this.2.2]
  refine ite_congr rfl (fun _ => by rw [hctl]) fun _ => ?_
  refine ite_congr rfl (fun _ => hev) fun _ => ?_
  refine ite_congr rfl (fun _ => by rw [hbks]) fun _ => ?_
  refine ite_congr rfl (fun _ => by rw [hsl, htl]) fun _ => ?_
  rw [hsl]
  refine ite_congr rfl (fun _ => hk.stallShadow (by omega) (by omega)) fun _ => ?_
  rw [Core.stallLive, Core.stallLive, hk.stall (by omega) (by omega)]
  by_cases h1 : o - 0x140 = 1
  · rw [if_pos h1, if_pos h1, ← h1, hk.stall (by omega) (by omega)]
  · rw [if_neg h1, if_neg h1]

end Sys2Proof.Machine
end

section
/-! SUPPORT. The values of the system registers that stand in ranges of numbers (R13, R137). -/

namespace Sys2Proof.Machine

open Sys2Proof

section
variable {n : Nat}

theorem sysAccess_trap (hl : 0x040 ≤ n) (hu : n ≤ 0x047) : sysAccess n = some .sw := by
  rw [sysAccess, if_neg (by omega), if_neg (by omega), if_neg (by omega), if_pos (by omega)]

theorem sysAccess_bnh (hl : 0x050 ≤ n) (hu : n ≤ 0x057) : sysAccess n = some .sw := by
  rw [sysAccess, if_neg (by omega), if_neg (by omega), if_neg (by omega), if_pos (by omega)]

theorem sysAccess_backing (hl : 0x080 ≤ n) (hu : n ≤ 0x09F) : sysAccess n = some .sw := by
  rw [sysAccess]
  repeat rw [if_neg (by omega)]
  rw [if_pos (by omega)]

theorem sysAccess_bxsh (hl : 0x0C0 ≤ n) (hu : n ≤ 0x0DF) : sysAccess n = some .rw := by
  rw [sysAccess]
  repeat rw [if_neg (by omega)]
  rw [if_pos (by omega)]

theorem sysAccess_pkrt (hl : 0x0E0 ≤ n) (hu : n ≤ 0x0F3) : sysAccess n = some .sw := by
  rw [sysAccess]
  repeat rw [if_neg (by omega)]
  rw [if_pos (by omega)]

theorem sysAccess_poison (hl : 0x100 ≤ n) (hu : n ≤ 0x11F) : sysAccess n = some .sw := by
  rw [sysAccess]
  repeat rw [if_neg (by omega)]
  rw [if_pos (by omega)]

theorem sysAccess_stall (hl : 0x140 ≤ n) (hu : n ≤ 0x14F) : sysAccess n = some .sw := by
  rw [sysAccess]
  repeat rw [if_neg (by omega)]
  rw [if_pos (by omega)]

end

section
variable (s : State) (c u : Nat) {n : Nat} (tick : Word) (guest : Bool)

theorem sysRead_tscr (hl : 0x044 ≤ n) (hu : n ≤ 0x047) :
    s.sysRead c u n tick guest = some (vget 0 (s.slotAt c u).tscr (n - 0x044)) := by
  simp only [State.sysRead, sysAccess_trap (show 0x040 ≤ n by omega) hu]
  repeat rw [if_neg (by omega)]
  rw [if_pos (by omega)]
  rfl

theorem sysRead_bnh (hl : 0x050 ≤ n) (hu : n ≤ 0x057) :
    s.sysRead c u n tick guest = some ((vget 0 (s.coreAt c).bnh (n - 0x050)).setWidth 64) := by
  simp only [State.sysRead, sysAccess_bnh hl hu]
  repeat rw [if_neg (by omega)]
  rw [if_pos (by omega)]

theorem sysRead_backing (hl : 0x080 ≤ n) (hu : n ≤ 0x09F) : s.sysRead c u n tick guest = some
    (if n % 2 = 0 then (s.winAt c ((n - 0x080) / 2)).wbkb else (s.winAt c ((n - 0x080) / 2)).wbks) := by
  simp only [State.sysRead, sysAccess_backing hl hu]
  repeat rw [if_neg (by omega)]
  rw [if_pos (by omega)]
  rfl

theorem sysRead_bxsh (hl : 0x0C0 ≤ n) (hu : n ≤ 0x0DF) :
    s.sysRead c u n tick guest = some (vget 0 (s.coreAt c).bxsh (n - 0x0C0)) := by
  simp only [State.sysRead, sysAccess_bxsh hl hu]
  repeat rw [if_neg (by omega)]
  rw [if_pos (by omega)]

theorem sysRead_pkrt (hl : 0x0E0 ≤ n) (hu : n ≤ 0x0EF) :
    s.sysRead c u n tick guest = some ((vget 0 (s.coreAt c).pkrt (n - 0x0E0)).setWidth 64) := by
  simp only [State.sysRead, sysAccess_pkrt hl (show n ≤ 0x0F3 by omega)]
  repeat rw [if_neg (by omega)]
  rw [if_pos (by omega)]

theorem sysRead_mirror (hl : 0x0F0 ≤ n) (hu : n ≤ 0x0F3) : s.sysRead c u n tick guest = some
    (if n % 2 = 0 then (vget ⟨0, false, false, 0⟩ (s.coreAt c).egm ((n - 0x0F0) / 2)).base
      else (vget ⟨0, false, false, 0⟩ (s.coreAt c).egm ((n - 0x0F0) / 2)).control) := by
  simp only [State.sysRead, sysAccess_pkrt (show 0x0E0 ≤ n by omega) hu]
  repeat rw [if_neg (by omega)]
  rw [if_pos (by omega)]

theorem sysRead_poison (hl : 0x100 ≤ n) (hu : n ≤ 0x11F) : s.sysRead c u n tick guest = some
    (if n % 2 = 0 then (s.winAt c ((n - 0x100) / 2)).wps else (s.winAt c ((n - 0x100) / 2)).wpd) := by
  simp only [State.sysRead, sysAccess_poison hl hu]
  repeat rw [if_neg (by omega)]
  rw [if_pos (by omega)]
  rfl

theorem sysRead_stall (hl : 0x140 ≤ n) (hu : n ≤ 0x14F) : s.sysRead c u n tick guest = some
    (if guest && (s.coreAt c).stallLent then vget 0 (s.coreAt c).stallShadow (n - 0x140)
      else (s.coreAt c).stallLive (n - 0x140) tick) := by
  simp only [State.sysRead, sysAccess_stall hl hu]
  repeat rw [if_neg (by omega)]

end

end Sys2Proof.Machine
end

section
/-! SUPPORT. What an SWR leaves: the register it wrote, and every other as before (R137, R139). -/

namespace Sys2Proof.Machine

open Sys2Proof

/-! ## The state that an SWR leaves -/

/-- The state after an instruction that leaves its core as `k` and its slot as `sl`, moved past it. -/
def State.wrote (s : State) (k : Core) (sl : Slot) : State :=
  s.setCore s.cur (k.setSlot s.slot { sl with pc := sl.pc + 1 })

@[simp] theorem wrote_coreAt (s : State) (k : Core) (sl : Slot) :
    (s.wrote k sl).coreAt s.cur = k.setSlot s.slot { sl with pc := sl.pc + 1 } := coreAt_setCore_self ..

@[simp] theorem wrote_slotAt (s : State) (k : Core) (sl : Slot) :
    (s.wrote k sl).slotAt s.cur s.slot = { sl with pc := sl.pc + 1 } := by
  rw [State.slotAt, wrote_coreAt, Core.slotAt_setSlot_self]

/-- Only the issuing slot changes where the core's slots are those it had. -/
theorem wrote_slotAt_other (s : State) (k : Core) (sl : Slot) (hk : k.slots = (s.coreAt s.cur).slots) (c u : Nat)
    (h : ¬(c = s.cur ∧ u = s.slot)) : (s.wrote k sl).slotAt c u = s.slotAt c u := by
  by_cases hc : c = s.cur
  · subst hc
    have hu : u ≠ s.slot := fun e => h ⟨rfl, e⟩
    rw [State.slotAt, wrote_coreAt, Core.slotAt_setSlot, if_neg hu, Core.slotAt, hk]
    rfl
  · rw [State.slotAt, State.wrote, coreAt_setCore, if_neg hc]
    rfl

theorem slot_advance_plain (sl : Slot) (h : sl.inRep = false) : sl.advance = { sl with pc := sl.pc + 1 } := by
  simp [Slot.advance, h]

/-- An instruction outside a repeat that stores a core and a slot ends in the state with both. -/
theorem finish_wrote (s : State) (k : Core) (sl : Slot) (hn : HasNext s) (hr : sl.inRep = false) :
    finish s (.done (s.setCore s.cur (k.setSlot s.slot sl))) = .next (s.wrote k sl) := by
  rw [finish_done_me s _ hn]
  have hme : (s.setCore s.cur (k.setSlot s.slot sl)).me = sl := by
    rw [State.me, setCore_cur, setCore_slot, State.slotAt, coreAt_setCore_self, Core.slotAt_setSlot_self]
  rw [hme, slot_advance_plain sl hr, State.setMe, State.setSlot, setCore_cur, setCore_slot, coreAt_setCore_self,
    setCore_setCore, Core.setSlot_setSlot]
  rfl

/-- An instruction outside a repeat that stores a core, its slots left alone, ends in the state with it. -/
theorem finish_wrote_core (s : State) (k : Core) (hn : HasNext s) (hr : s.me.inRep = false)
    (hk : k.slots = (s.coreAt s.cur).slots) : finish s (.done (s.setCore s.cur k)) = .next (s.wrote k s.me) := by
  have hme : (s.setCore s.cur k).me = s.me := by
    rw [State.me, setCore_cur, setCore_slot, State.slotAt, coreAt_setCore_self, Core.slotAt, hk]
    rfl
  rw [finish_done_me s _ hn, hme, slot_advance_plain _ hr, State.setMe, State.setSlot, setCore_cur, setCore_slot,
    coreAt_setCore_self, setCore_setCore]
  rfl

/-! ## The register written and the others -/

/-- An instruction that ends past itself with register m reading `new`, no other register and no other slot changed, but
that WDCTL clears WDCNT (R137, R360). -/
def Stores (s : State) (i : Instr) (m : Nat) (new : Word) : Prop :=
  ∃ t, exec i s = .next t ∧ t.me.pc = s.me.pc + 1 ∧ (∀ r, t.me.readG r = s.me.readG r) ∧ t.mem = s.mem ∧
    t.sysRead s.cur s.slot m (s.tick + 1) true = some new ∧
    (∀ o, o ≠ m → (m = 0x0B0 → o ≠ 0x0B1) →
      t.sysRead s.cur s.slot o (s.tick + 1) true = s.sysRead s.cur s.slot o (s.tick + 1) true) ∧
    (∀ e w, ¬(e = s.cur ∧ w = s.slot) → t.slotAt e w = s.slotAt e w)

/-- The slot's PC is no system register. -/
theorem slotSame_pc {o : Nat} {x y : Slot} (h : SlotSame o x y) (p : BitVec 12) : SlotSame o x { y with pc := p } :=
  ⟨h.tstat, h.fpstat, h.repc, h.trapcause, h.trappc, h.trapsite, h.traparg, h.trapst, h.trapva, h.trapvah, h.tscr⟩

/-- A core's slots hold none of the core's registers. -/
theorem coreSame_setSlot {o : Nat} {k l : Core} (h : CoreSame o k l) (u : Nat) (sl : Slot) :
    CoreSame o k (l.setSlot u sl) :=
  ⟨h.seq, h.mx, h.tvec, h.bnh, h.bte, h.wbkb, h.wbks, h.ring, h.wdctl, h.wdcnt, h.whold, h.rpnot, h.bxsh, h.pkrt,
    h.egmBase, h.egmControl, h.wps, h.wpd, h.cens, h.trcctl, h.dbg, h.lent, h.stallShadow, h.stall⟩

/-- A store that ends in a core and a slot which differ from the old ones in register m alone. -/
theorem stores_of {s : State} {i : Instr} {m : Nat} {new : Word} {k : Core} {sl : Slot}
    (hi : exec i s = .next (s.wrote k sl)) (hslots : k.slots = (s.coreAt s.cur).slots)
    (hg : ∀ r, sl.readG r = s.me.readG r) (hpc : sl.pc = s.me.pc)
    (hread : (s.wrote k sl).sysRead s.cur s.slot m (s.tick + 1) true = some new)
    (hk : ∀ o, o ≠ m → (m = 0x0B0 → o ≠ 0x0B1) → CoreSame o (s.coreAt s.cur) k)
    (hs : ∀ o, o ≠ m → SlotSame o s.me sl) : Stores s i m new := by
  have hme : (s.wrote k sl).me = { sl with pc := sl.pc + 1 } := wrote_slotAt s k sl
  refine ⟨_, hi, by rw [hme, hpc], fun r => by rw [hme]; exact hg r, rfl, hread, fun o ho hb => ?_,
    fun c u h => wrote_slotAt_other s k sl hslots c u h⟩
  refine sysRead_congr _ rfl rfl rfl rfl ?_ ?_
  · rw [wrote_slotAt]
    exact slotSame_pc (hs o ho) _
  · rw [wrote_coreAt]
    exact coreSame_setSlot (hk o ho hb) _ _

/-! ## SWR (R13, R137) -/

theorem writable_allowed (m : Nat) (s : State) (k : State → Out)
    (ha : sysAccess m = some .sw ∨ sysAccess m = some .rw) (hp : s.me.sup = true ∨ sysAccess m = some .rw) :
    writable m s k = k s := by
  rw [writable]
  rcases hp with hp | hp
  · rcases ha with ha | ha <;> simp [ha, hp]
  · simp [hp]

/-- A write to a slot's register changes no general register, and neither its PC nor its repeat. -/
theorem sysStore_slot_keeps (sl : Slot) (m : Nat) (v : Word) :
    (∀ r, (sl.sysStore m v).readG r = sl.readG r) ∧ (sl.sysStore m v).pc = sl.pc ∧
      (sl.sysStore m v).inRep = sl.inRep := by
  unfold Slot.sysStore
  split <;> exact ⟨fun _ => rfl, rfl, rfl⟩

theorem sysStore_slots (k : Core) (m : Nat) (v tick : Word) (guest : Bool) :
    (k.sysStore m v tick guest).slots = k.slots := by
  simp only [Core.sysStore, apply_ite Core.slots, Core.setWin, ite_self]

theorem finish_swr {s : State} {m : Nat} (v : Word) (hn : HasNext s) (hr : s.me.inRep = false) (hm : m ≠ 0x0B4)
    (ha : sysAccess m = some .sw ∨ sysAccess m = some .rw) (hp : s.me.sup = true ∨ sysAccess m = some .rw) :
    finish s (swrOut m v s) =
      .next (s.wrote ((s.coreAt s.cur).sysStore m v (s.tick + 1) true) (s.me.sysStore m v)) := by
  obtain ⟨-, -, hrep⟩ := sysStore_slot_keeps s.me m v
  rw [← finish_wrote s _ _ hn (hrep.trans hr), swrOut, writable_allowed m s _ ha hp]
  simp only [hm, false_and, if_false, State.sysWrite]
  have hsl : ((s.coreAt s.cur).sysStore m v (s.tick + 1) true).slotAt s.slot = s.me := by
    rw [Core.slotAt, sysStore_slots]
    rfl
  rw [hsl]

section
variable {s : State} {i : Instr} {m : Nat} {v new : Word}

/-- An SWR of a register of the slot: `f` reads it of the slot. -/
theorem stores_slot (f : Slot → Word) (hi : exec i s = finish s (swrOut m v s)) (hn : HasNext s)
    (hr : s.me.inRep = false) (hm : m ≠ 0x0B4) (ha : sysAccess m = some .sw ∨ sysAccess m = some .rw)
    (hp : s.me.sup = true ∨ sysAccess m = some .rw)
    (hread : ∀ x : State, x.sysRead s.cur s.slot m (s.tick + 1) true = some (f (x.slotAt s.cur s.slot)))
    (hnew : f { s.me.sysStore m v with pc := (s.me.sysStore m v).pc + 1 } = new)
    (hcore : ∀ k : Core, k.sysStore m v (s.tick + 1) true = k)
    (hs : ∀ o, o ≠ m → SlotSame o s.me (s.me.sysStore m v)) : Stores s i m new := by
  obtain ⟨hg, hpc, -⟩ := sysStore_slot_keeps s.me m v
  have hi' := hi.trans (finish_swr v hn hr hm ha hp)
  refine stores_of hi' (sysStore_slots ..) hg hpc ?_ (fun o _ _ => ?_) hs
  · rw [hread, wrote_slotAt, hnew]
  · rw [hcore]
    exact {}

/-- An SWR of a register of the core: `f` reads it of the core. -/
theorem stores_core (f : Core → Word) (hi : exec i s = finish s (swrOut m v s)) (hn : HasNext s)
    (hr : s.me.inRep = false) (hm : m ≠ 0x0B4) (ha : sysAccess m = some .sw ∨ sysAccess m = some .rw)
    (hp : s.me.sup = true ∨ sysAccess m = some .rw)
    (hread : ∀ x : State, x.sysRead s.cur s.slot m (s.tick + 1) true = some (f (x.coreAt s.cur)))
    (hnew : ∀ sl, f (((s.coreAt s.cur).sysStore m v (s.tick + 1) true).setSlot s.slot sl) = new)
    (hslot : s.me.sysStore m v = s.me)
    (hk : ∀ o, o ≠ m → (m = 0x0B0 → o ≠ 0x0B1) →
      CoreSame o (s.coreAt s.cur) ((s.coreAt s.cur).sysStore m v (s.tick + 1) true)) : Stores s i m new := by
  obtain ⟨hg, hpc, -⟩ := sysStore_slot_keeps s.me m v
  have hi' := hi.trans (finish_swr v hn hr hm ha hp)
  refine stores_of hi' (sysStore_slots ..) hg hpc ?_ hk fun o _ => ?_
  · rw [hread, wrote_coreAt, hnew]
  · rw [hslot]
    exact {}

end

end Sys2Proof.Machine
end

section
/-! SUPPORT. An SWR of each register: the bits it keeps, and that it changes no other register (R137, R139, R225, R282,
R346, R350, R360, R385, R396, R407, R413). -/

namespace Sys2Proof.Machine

open Sys2Proof

/-! ## Registers of the slot -/

theorem all_bits (v mask : Word) (h : mask = BitVec.allOnes 64) : v = v &&& mask := by
  rw [h, BitVec.and_allOnes]

section
variable {s : State} {i : Instr} {m : Nat} {v : Word}

/-- An SWR of a register of the slot other than TSTAT keeps the bits the register has. -/
theorem stores_slot_register (hi : exec i s = finish s (swrOut m v s)) (hn : HasNext s) (hr : s.me.inRep = false)
    (hp : s.me.sup = true ∨ sysAccess m = some .rw)
    (hm : m = 0x011 ∨ m = 0x012 ∨ m = 0x018 ∨ m = 0x019 ∨ m = 0x01A ∨ m = 0x01B ∨ m = 0x041 ∨ m = 0x042 ∨ m = 0x043 ∨
      (0x044 ≤ m ∧ m ≤ 0x047)) : Stores s i m (v &&& sysBits m) := by
  rcases hm with rfl | rfl | rfl | rfl | rfl | rfl | rfl | rfl | rfl | ⟨hl, hu⟩
  · exact stores_slot (fun x => x.fpstat.setWidth 64) hi hn hr (by decide) (.inr rfl) hp (fun _ => rfl)
      (low_bits v _ 6 (by decide) (by decide)) (fun _ => rfl) fun o h => { fpstat := fun e => absurd e h }
  · exact stores_slot (fun x => x.repc.setWidth 64) hi hn hr (by decide) (.inl rfl) hp (fun _ => rfl)
      (low_bits v _ 7 (by decide) (by decide)) (fun _ => rfl) fun o h => { repc := fun e => absurd e h }
  · exact stores_slot (fun x => x.trapcause) hi hn hr (by decide) (.inl rfl) hp (fun _ => rfl)
      (all_bits v _ (by decide)) (fun _ => rfl) fun o h => { trapcause := fun e => absurd e h }
  · exact stores_slot (fun x => x.trappc.setWidth 64) hi hn hr (by decide) (.inl rfl) hp (fun _ => rfl)
      (low_bits v _ 12 (by decide) (by decide)) (fun _ => rfl) fun o h => { trappc := fun e => absurd e h }
  · exact stores_slot (fun x => x.trapsite.setWidth 64) hi hn hr (by decide) (.inl rfl) hp (fun _ => rfl)
      (low_bits v _ 46 (by decide) (by decide)) (fun _ => rfl) fun o h => { trapsite := fun e => absurd e h }
  · exact stores_slot (fun x => x.traparg) hi hn hr (by decide) (.inl rfl) hp (fun _ => rfl)
      (all_bits v _ (by decide)) (fun _ => rfl) fun o h => { traparg := fun e => absurd e h }
  · exact stores_slot (fun x => BitVec.ofNat 64 ((if x.tv then 2 else 0) + (if x.psup then 1 else 0))) hi hn hr
      (by decide) (.inl rfl) hp (fun _ => rfl) (trapst_bits v) (fun _ => rfl)
      fun o h => { trapst := fun e => absurd e h }
  · exact stores_slot (fun x => x.trapva) hi hn hr (by decide) (.inl rfl) hp (fun _ => rfl)
      (all_bits v _ (by decide)) (fun _ => rfl) fun o h => { trapva := fun e => absurd e h }
  · exact stores_slot (fun x => x.trapvah.setWidth 64) hi hn hr (by decide) (.inl rfl) hp (fun _ => rfl)
      (low_bits v _ 16 (by decide) (by decide)) (fun _ => rfl) fun o h => { trapvah := fun e => absurd e h }
  · have hw : ∃ h : m - 0x044 < 4, s.me.sysStore m v = { s.me with tscr := s.me.tscr.set (m - 0x044) v h } := by
      obtain rfl | rfl | rfl | rfl : m = 0x044 ∨ m = 0x045 ∨ m = 0x046 ∨ m = 0x047 := by omega
      all_goals exact ⟨by omega, rfl⟩
    obtain ⟨hj, hw⟩ := hw
    have hb : sysBits m = BitVec.allOnes 64 := by
      rw [sysBits]
      repeat rw [if_neg (by omega)]
      decide
    refine stores_slot (fun x => vget 0 x.tscr (m - 0x044)) hi hn hr (by omega) (.inl (sysAccess_trap (by omega) hu)) hp
      (fun x => sysRead_tscr x _ _ _ _ hl hu) ?_ (fun k => ?_) fun o h => ?_
    · rw [hw, ← all_bits v _ hb]
      exact vget_set_self 0 s.me.tscr _ hj v
    · rw [Core.sysStore]
      repeat rw [if_neg (by omega)]
    · rw [hw]
      exact { tscr := fun ho _ => vget_set_ne 0 s.me.tscr _ _ hj v (by omega) }

/-- An SWR of TSTAT writes SUP and leaves the priority (R139). -/
theorem stores_tstat (hi : exec i s = finish s (swrOut 0x010 v s)) (hn : HasNext s) (hr : s.me.inRep = false)
    (hp : s.me.sup = true ∨ sysAccess 0x010 = some .rw) :
    Stores s i 0x010 ((v &&& 1) ||| BitVec.ofNat 64 (2 * s.me.prio.toNat)) :=
  stores_slot (fun x => x.tstat) hi hn hr (by decide) (.inl rfl) hp (fun _ => rfl) (tstat_bits v s.me.prio)
    (fun _ => rfl) fun o h => { tstat := fun e => absurd e h }

/-! ## Registers of the core -/

theorem vget_setIfInBounds_self {α : Type} {n : Nat} (d : α) (x : Vector α n) (j : Nat) (h : j < n) (a : α) :
    vget d (x.setIfInBounds j a) j = a := by
  simp [vget, h]

theorem vget_setIfInBounds_ne {α : Type} {n : Nat} (d : α) (x : Vector α n) (j e : Nat) (a : α) (h : j ≠ e) :
    vget d (x.setIfInBounds j a) e = vget d x e := by
  simp [vget, h]

/-- A number above the slot's registers stores nothing in the slot. -/
theorem sysStore_slot_none (sl : Slot) (h : 0x050 ≤ m) : sl.sysStore m v = sl := by
  unfold Slot.sysStore
  split
  case h_15 => rfl
  all_goals omega

/-- An SWR of a core register with a number of its own keeps the bits the register has. -/
theorem stores_core_register (hi : exec i s = finish s (swrOut m v s)) (hn : HasNext s) (hr : s.me.inRep = false)
    (hp : s.me.sup = true ∨ sysAccess m = some .rw) (hm : m = 0x040 ∨ m = 0x0B0 ∨ m = 0x0B3) :
    Stores s i m (v &&& sysBits m) := by
  rcases hm with rfl | rfl | rfl
  · exact stores_core (fun k => BitVec.ofNat 64 ((if k.tvecEn then 4096 else 0) + k.tvec.toNat)) hi hn hr (by decide)
      (.inl rfl) hp (fun _ => rfl) (fun _ => tvec_bits v) rfl fun o h _ => { tvec := fun e => absurd e h }
  · exact stores_core (fun k => k.wdctl.setWidth 64) hi hn hr (by decide) (.inl rfl) hp (fun _ => rfl)
      (fun _ => low_bits_masked v _ 40 _ (by decide) (by decide)) rfl
      fun o h hb => { wdctl := fun e => absurd e h, wdcnt := fun e => absurd e (hb rfl) }
  · exact stores_core (fun k => k.rpnot.setWidth 64) hi hn hr (by decide) (.inl rfl) hp (fun _ => rfl)
      (fun _ => low_bits v _ 5 (by decide) (by decide)) rfl fun o h _ => { rpnot := fun e => absurd e h }

/-- An SWR of TRCCTL keeps KMASK, V and WIN; under a loan of the trace unit it writes the shadow (R407, R415). -/
theorem stores_trcctl (hi : exec i s = finish s (swrOut 0x131 v s)) (hn : HasNext s) (hr : s.me.inRep = false)
    (hp : s.me.sup = true ∨ sysAccess 0x131 = some .rw) : Stores s i 0x131 (v &&& 0xFC1F) := by
  have hw : (s.coreAt s.cur).sysStore 0x131 v (s.tick + 1) true =
      if (s.coreAt s.cur).trcLent then
        { s.coreAt s.cur with trcShadow := ⟨0, bits v.toNat 10 6, v.getLsbD 4, v.setWidth 4⟩ }
      else { s.coreAt s.cur with trc := ⟨0, bits v.toNat 10 6, v.getLsbD 4, v.setWidth 4⟩ } := rfl
  refine stores_core (fun k => (if k.trcLent then k.trcShadow else k.trc).word) hi hn hr (by decide) (.inl rfl) hp
    (fun _ => rfl) (fun sl => ?_) rfl fun o h _ => ?_
  · rw [hw, ← trc_bits v]
    by_cases hl : (s.coreAt s.cur).trcLent = true
    · rw [if_pos hl]
      exact congrArg Trc.word (if_pos hl)
    · rw [if_neg hl]
      exact congrArg Trc.word (if_neg hl)
  · rw [hw]
    split
    · exact { trcctl := fun e => absurd e h }
    · exact { trcctl := fun e => absurd e h }

end

/-! ## Registers of the core that stand in ranges -/

section
variable {s : State} {i : Instr} {m : Nat} {v : Word}

/-- Past the registers whose bits are fewer than 64, SWR keeps a whole word. -/
theorem sysBits_all {m : Nat} (h : (0x0C0 ≤ m ∧ m ≤ 0x0DF) ∨ m = 0x0F0 ∨ m = 0x0F2 ∨
    (0x100 ≤ m ∧ m ≤ 0x11F ∧ m % 2 = 1) ∨ 0x140 ≤ m) : sysBits m = BitVec.allOnes 64 := by
  rw [sysBits]
  repeat rw [if_neg (by omega)]
  decide

/-- An SWR of a register of BNH, the exit thresholds (R282). -/
theorem stores_bnh (hi : exec i s = finish s (swrOut m v s)) (hn : HasNext s) (hr : s.me.inRep = false)
    (hp : s.me.sup = true ∨ sysAccess m = some .rw) (hl : 0x050 ≤ m) (hu : m ≤ 0x057) :
    Stores s i m (v &&& sysBits m) := by
  have hw : (s.coreAt s.cur).sysStore m v (s.tick + 1) true = { s.coreAt s.cur with
      bnh := (s.coreAt s.cur).bnh.setIfInBounds (m - 0x050) (v.setWidth 9 &&& 0x11F#9) } := by
    rw [Core.sysStore, if_neg (by omega), if_pos (by omega)]
  have hb : sysBits m = 0x11F := by
    rw [sysBits]
    repeat rw [if_neg (by omega)]
    rw [if_pos (by omega)]
  refine stores_core (fun k => (vget 0 k.bnh (m - 0x050)).setWidth 64) hi hn hr (by omega)
    (.inl (sysAccess_bnh hl hu)) hp (fun x => sysRead_bnh x _ _ _ _ hl hu) (fun sl => ?_) (sysStore_slot_none _ hl)
    fun o h _ => ?_
  · rw [hw, hb, ← low_bits_masked v 0x11F 9 0x11F#9 (by decide) (by decide)]
    exact congrArg (BitVec.setWidth 64) (vget_setIfInBounds_self 0 _ _ (by omega) _)
  · rw [hw]
    exact { bnh := fun ho _ => vget_setIfInBounds_ne 0 _ _ _ _ (by omega) }

/-- An SWR of an exit shadow (R282). -/
theorem stores_bxsh (hi : exec i s = finish s (swrOut m v s)) (hn : HasNext s) (hr : s.me.inRep = false)
    (hp : s.me.sup = true ∨ sysAccess m = some .rw) (hl : 0x0C0 ≤ m) (hu : m ≤ 0x0DF) :
    Stores s i m (v &&& sysBits m) := by
  have hw : (s.coreAt s.cur).sysStore m v (s.tick + 1) true = { s.coreAt s.cur with
      bxsh := (s.coreAt s.cur).bxsh.setIfInBounds (m - 0x0C0) v } := by
    rw [Core.sysStore]
    repeat rw [if_neg (by omega)]
    rw [if_pos (by omega)]
  refine stores_core (fun k => vget 0 k.bxsh (m - 0x0C0)) hi hn hr (by omega) (.inr (sysAccess_bxsh hl hu)) hp
    (fun x => sysRead_bxsh x _ _ _ _ hl hu) (fun sl => ?_) (sysStore_slot_none _ (by omega)) fun o h _ => ?_
  · rw [hw, ← all_bits v _ (sysBits_all (by omega))]
    exact vget_setIfInBounds_self 0 _ _ (by omega) _
  · rw [hw]
    exact { bxsh := fun ho _ => vget_setIfInBounds_ne 0 _ _ _ _ (by omega) }

/-- An SWR of a route of the packet unit (R346). -/
theorem stores_pkrt (hi : exec i s = finish s (swrOut m v s)) (hn : HasNext s) (hr : s.me.inRep = false)
    (hp : s.me.sup = true ∨ sysAccess m = some .rw) (hl : 0x0E0 ≤ m) (hu : m ≤ 0x0EF) :
    Stores s i m (v &&& sysBits m) := by
  have hw : (s.coreAt s.cur).sysStore m v (s.tick + 1) true = { s.coreAt s.cur with
      pkrt := (s.coreAt s.cur).pkrt.setIfInBounds (m - 0x0E0) (v.setWidth 41) } := by
    rw [Core.sysStore]
    repeat rw [if_neg (by omega)]
    rw [if_pos (by omega)]
  have hb : (sysBits m).toNat = 2 ^ 41 - 1 := by
    rw [sysBits]
    repeat rw [if_neg (by omega)]
    rw [if_pos (by omega)]
    decide
  refine stores_core (fun k => (vget 0 k.pkrt (m - 0x0E0)).setWidth 64) hi hn hr (by omega)
    (.inl (sysAccess_pkrt hl (by omega))) hp (fun x => sysRead_pkrt x _ _ _ _ hl hu) (fun sl => ?_)
    (sysStore_slot_none _ (by omega)) fun o h _ => ?_
  · rw [hw, ← low_bits v _ 41 (by decide) hb]
    exact congrArg (BitVec.setWidth 64) (vget_setIfInBounds_self 0 _ _ (by omega) _)
  · rw [hw]
    exact { pkrt := fun ho _ => vget_setIfInBounds_ne 0 _ _ _ _ (by omega) }

/-- A mirror after a write to its base or to its control register (R396). -/
def Mirror.stored (x : Mirror) (control : Bool) (v : Word) : Mirror :=
  if control then { x with v := v.getLsbD 63, irq := v.getLsbD 62, win := v.setWidth 4 } else { x with base := v }

/-- Writing one half of a mirror leaves the other. -/
theorem stored_mirror (x : Mirror) (v : Word) : (x.stored false v).base = v ∧ (x.stored false v).control = x.control ∧
    (x.stored true v).base = x.base ∧ (x.stored true v).control = v &&& 0xC00000000000000F :=
  ⟨rfl, rfl, rfl, mirror_bits v⟩

/-- An SWR of an egress mirror's base or control register (R396). -/
theorem stores_mirror (hi : exec i s = finish s (swrOut m v s)) (hn : HasNext s) (hr : s.me.inRep = false)
    (hp : s.me.sup = true ∨ sysAccess m = some .rw) (hl : 0x0F0 ≤ m) (hu : m ≤ 0x0F3) :
    Stores s i m (v &&& sysBits m) := by
  generalize hx : vget ⟨0, false, false, 0⟩ (s.coreAt s.cur).egm ((m - 0x0F0) / 2) = x
  obtain ⟨hbb, hbc, hcb, hcc⟩ := stored_mirror x v
  have hw : (s.coreAt s.cur).sysStore m v (s.tick + 1) true = { s.coreAt s.cur with
      egm := (s.coreAt s.cur).egm.setIfInBounds ((m - 0x0F0) / 2) (x.stored (decide (m % 2 = 1)) v) } := by
    obtain rfl | rfl | rfl | rfl : m = 0x0F0 ∨ m = 0x0F1 ∨ m = 0x0F2 ∨ m = 0x0F3 := by omega
    all_goals
      rw [← hx]
      rfl
  generalize hy : x.stored (decide (m % 2 = 1)) v = y at hw
  have hself : vget ⟨0, false, false, 0⟩ ((s.coreAt s.cur).egm.setIfInBounds ((m - 0x0F0) / 2) y)
      ((m - 0x0F0) / 2) = y := vget_setIfInBounds_self _ _ _ (by omega) _
  have hne : ∀ e, e ≠ (m - 0x0F0) / 2 → vget ⟨0, false, false, 0⟩
      ((s.coreAt s.cur).egm.setIfInBounds ((m - 0x0F0) / 2) y) e = vget ⟨0, false, false, 0⟩ (s.coreAt s.cur).egm e :=
    fun e he => vget_setIfInBounds_ne _ _ _ _ _ (Ne.symm he)
  refine stores_core (fun k => if m % 2 = 0 then (vget ⟨0, false, false, 0⟩ k.egm ((m - 0x0F0) / 2)).base
      else (vget ⟨0, false, false, 0⟩ k.egm ((m - 0x0F0) / 2)).control) hi hn hr (by omega)
    (.inl (sysAccess_pkrt (by omega) hu)) hp (fun a => sysRead_mirror a _ _ _ _ hl hu) (fun sl => ?_)
    (sysStore_slot_none _ (by omega)) fun o h _ => ?_
  · rw [hw]
    simp only [Core.setSlot_egm, hself]
    rw [← hy]
    by_cases hm : m % 2 = 0
    · rw [if_pos hm, decide_eq_false (by omega), hbb]
      exact all_bits v _ (sysBits_all (by omega))
    · have hb : sysBits m = 0xC00000000000000F := by
        rw [sysBits]
        repeat rw [if_neg (by omega)]
        rw [if_pos (by omega)]
      rw [if_neg hm, decide_eq_true (by omega), hcc, hb]
  · rw [hw]
    refine { egmBase := fun h1 h2 h3 => ?_, egmControl := fun h1 h2 h3 => ?_ }
    · by_cases he : (o - 0x0F0) / 2 = (m - 0x0F0) / 2
      · simp only [he, hself, hx]
        rw [← hy, decide_eq_true (by omega), hcb]
      · simp only [hne _ he]
    · by_cases he : (o - 0x0F0) / 2 = (m - 0x0F0) / 2
      · simp only [he, hself, hx]
        rw [← hy, decide_eq_false (by omega), hbc]
      · simp only [hne _ he]

/-- An SWR of a stall counter; under a loan of the counters it writes the shadow (R413, R415). -/
theorem stores_stall (hi : exec i s = finish s (swrOut m v s)) (hn : HasNext s) (hr : s.me.inRep = false)
    (hp : s.me.sup = true ∨ sysAccess m = some .rw) (hl : 0x140 ≤ m) (hu : m ≤ 0x14F) :
    Stores s i m (v &&& sysBits m) := by
  have hw : (s.coreAt s.cur).sysStore m v (s.tick + 1) true =
      if (s.coreAt s.cur).stallLent then
        { s.coreAt s.cur with stallShadow := (s.coreAt s.cur).stallShadow.setIfInBounds (m - 0x140) v }
      else { s.coreAt s.cur with
        stall := (s.coreAt s.cur).stall.setIfInBounds (m - 0x140) (if m = 0x141 then v - (s.tick + 1) else v) } := by
    rw [Core.sysStore]
    repeat rw [if_neg (by omega)]
    rw [if_pos (by omega)]
    rfl
  refine stores_core (fun k => if k.stallLent then vget 0 k.stallShadow (m - 0x140)
      else k.stallLive (m - 0x140) (s.tick + 1)) hi hn hr (by omega) (.inl (sysAccess_stall hl hu)) hp
    (fun a => sysRead_stall a _ _ _ true hl hu) (fun sl => ?_) (sysStore_slot_none _ (by omega)) fun o h _ => ?_
  · rw [hw, ← all_bits v _ (sysBits_all (by omega))]
    by_cases hlent : (s.coreAt s.cur).stallLent = true
    · rw [if_pos hlent]
      exact (if_pos hlent).trans (vget_setIfInBounds_self 0 _ _ (by omega) _)
    · rw [if_neg hlent]
      refine (if_neg hlent).trans ?_
      by_cases h1 : m = 0x141
      · subst h1
        exact (congrArg (· + (s.tick + 1)) (vget_setIfInBounds_self 0 _ 1 (by omega) (v - (s.tick + 1)))).trans
          (BitVec.sub_add_cancel ..)
      · rw [if_neg h1, Core.stallLive, if_neg (by omega)]
        exact vget_setIfInBounds_self 0 _ _ (by omega) _
  · rw [hw]
    split
    · exact { stallShadow := fun ho _ => vget_setIfInBounds_ne 0 _ _ _ _ (by omega) }
    · exact { stall := fun ho _ => vget_setIfInBounds_ne 0 _ _ _ _ (by omega) }

end

end Sys2Proof.Machine
end

section
/-! SUPPORT. The system registers of the windows (R254, R350), and the numbers that an SWR writes (R137). -/

namespace Sys2Proof.Machine

open Sys2Proof

/-! ## Registers of the windows -/

/-- A field that a replaced window keeps reads the same of every window of the core. -/
theorem setWin_keeps {β : Type} (f : Win → β) (k : Core) (j e : Nat) (x : Win) (h : e = j → f x = f (k.winAt j)) :
    f ((k.setWin j x).winAt e) = f (k.winAt e) := by
  rw [Core.winAt_setWin]
  split
  · rename_i he
    rw [h he, he]
  · rfl

theorem whold_setWin (k : Core) (j : Nat) (x : Win) (h : x.held = (k.winAt j).held) :
    (k.setWin j x).whold = k.whold := by
  simp only [Core.whold, fun e => setWin_keeps Win.held k j e x fun _ => h]

/-- A window replaced by one that reads the same in register o leaves the core the same in it. -/
theorem coreSame_setWin {o j : Nat} {k : Core} {x : Win} (hheld : x.held = (k.winAt j).held)
    (hb : o = 0x080 + 2 * j → x.wbkb = (k.winAt j).wbkb) (hs : o = 0x081 + 2 * j → x.wbks = (k.winAt j).wbks)
    (hp : o = 0x100 + 2 * j → (x.wpsClass, x.wpsSite) = ((k.winAt j).wpsClass, (k.winAt j).wpsSite))
    (hd : o = 0x101 + 2 * j → x.wpd = (k.winAt j).wpd) : CoreSame o k (k.setWin j x) where
  whold := whold_setWin k j x hheld
  wbkb h1 _ h3 := setWin_keeps Win.wbkb k j _ x fun _ => hb (by omega)
  wbks h1 _ h3 := setWin_keeps Win.wbks k j _ x fun _ => hs (by omega)
  wps h1 _ h3 := setWin_keeps (fun w => (w.wpsClass, w.wpsSite)) k j _ x fun _ => hp (by omega)
  wpd h1 _ h3 := setWin_keeps Win.wpd k j _ x fun _ => hd (by omega)

section
variable {s : State} {i : Instr} {m : Nat} {v : Word}

/-- An SWR of WPSn or WPDn (R350). -/
theorem stores_poison (hi : exec i s = finish s (swrOut m v s)) (hn : HasNext s) (hr : s.me.inRep = false)
    (hp : s.me.sup = true ∨ sysAccess m = some .rw) (hl : 0x100 ≤ m) (hu : m ≤ 0x11F) :
    Stores s i m (v &&& sysBits m) := by
  have hw : (s.coreAt s.cur).sysStore m v (s.tick + 1) true = (s.coreAt s.cur).setWin ((m - 0x100) / 2)
      (if m % 2 = 0 then
        { (s.coreAt s.cur).winAt ((m - 0x100) / 2) with wpsClass := bits v.toNat 46 8, wpsSite := v.setWidth 46 }
      else { (s.coreAt s.cur).winAt ((m - 0x100) / 2) with wpd := v }) := by
    rw [Core.sysStore]
    repeat rw [if_neg (by omega)]
    rw [if_pos (by omega)]
  refine stores_core (fun k => if m % 2 = 0 then (k.winAt ((m - 0x100) / 2)).wps else (k.winAt ((m - 0x100) / 2)).wpd)
    hi hn hr (by omega) (.inl (sysAccess_poison hl hu)) hp (fun a => sysRead_poison a _ _ _ _ hl hu) (fun sl => ?_)
    (sysStore_slot_none _ (by omega)) fun o h _ => ?_
  · rw [hw, Core.winAt_setSlot, Core.winAt_setWin_self]
    by_cases hm : m % 2 = 0
    · have hb : sysBits m = 0x3FFFFFFFFFFFFF := by
        rw [sysBits]
        repeat rw [if_neg (by omega)]
        rw [if_pos (by omega)]
      rw [if_pos hm, if_pos hm, hb]
      exact wps_bits v
    · rw [if_neg hm, if_neg hm]
      exact all_bits v _ (sysBits_all (by omega))
  · rw [hw]
    by_cases hm : m % 2 = 0
    · rw [if_pos hm]
      exact coreSame_setWin rfl (fun _ => rfl) (fun _ => rfl) (fun e => absurd e (by omega)) fun _ => rfl
    · rw [if_neg hm]
      exact coreSame_setWin rfl (fun _ => rfl) (fun _ => rfl) (fun _ => rfl) fun e => absurd e (by omega)

/-- The numbers of the registers that are read only (R13). -/
theorem sysAccess_readOnly {n : Nat} (h : (n ≤ 0x003 ∨ n = 0x020 ∨ n = 0x060) ∨ (0x070 ≤ n ∧ n ≤ 0x073) ∨
    (n = 0x0A0 ∨ n = 0x0A1 ∨ n = 0x0B1 ∨ n = 0x0B2) ∨ n = 0x130 ∨ (0x138 ≤ n ∧ n ≤ 0x13D) ∨ n = 0x13F) :
    sysAccess n = some .ro := by
  rw [sysAccess]
  rcases h with h | h | h | h
  · rw [if_pos h]
  all_goals
    repeat rw [if_neg (by omega)]
    rw [if_pos (by omega)]

/-- The numbers that an SWR writes with no behaviour of their own (R137). -/
theorem sysAccess_written {n : Nat} (ha : sysAccess n = some .sw ∨ sysAccess n = some .rw) (h1 : n ≠ 0x010)
    (h2 : n ≠ 0x0B4) (h3 : n ≠ 0x131) (h4 : ¬(0x080 ≤ n ∧ n ≤ 0x09F)) :
    (n = 0x011 ∨ n = 0x012 ∨ n = 0x018 ∨ n = 0x019 ∨ n = 0x01A ∨ n = 0x01B ∨ n = 0x041 ∨ n = 0x042 ∨ n = 0x043 ∨
      (0x044 ≤ n ∧ n ≤ 0x047)) ∨ (n = 0x040 ∨ n = 0x0B0 ∨ n = 0x0B3) ∨ (0x050 ≤ n ∧ n ≤ 0x057) ∨
      (0x0C0 ≤ n ∧ n ≤ 0x0DF) ∨ (0x0E0 ≤ n ∧ n ≤ 0x0EF) ∨ (0x0F0 ≤ n ∧ n ≤ 0x0F3) ∨ (0x100 ≤ n ∧ n ≤ 0x11F) ∨
      (0x140 ≤ n ∧ n ≤ 0x14F) := by
  have hr := sysAccess_range (n := n) (by rcases ha with h | h <;> simp [h])
  by_contra hn
  have hro : sysAccess n = some .ro := sysAccess_readOnly (by omega)
  rcases ha with h | h <;> simp [h] at hro

/-- An SWR by which one register alone is stored, of any number that stands in the general case (R137). -/
theorem stores_swr (hi : exec i s = finish s (swrOut m v s)) (hn : HasNext s) (hr : s.me.inRep = false)
    (hp : s.me.sup = true ∨ sysAccess m = some .rw) (ha : sysAccess m = some .sw ∨ sysAccess m = some .rw)
    (h1 : m ≠ 0x010) (h2 : m ≠ 0x0B4) (h3 : m ≠ 0x131) (h4 : ¬(0x080 ≤ m ∧ m ≤ 0x09F)) :
    Stores s i m (v &&& sysBits m) := by
  have hm := sysAccess_written ha h1 h2 h3 h4
  rcases hm with h | h | ⟨hl, hu⟩ | ⟨hl, hu⟩ | ⟨hl, hu⟩ | ⟨hl, hu⟩ | ⟨hl, hu⟩ | ⟨hl, hu⟩
  · exact stores_slot_register hi hn hr hp h
  · exact stores_core_register hi hn hr hp h
  · exact stores_bnh hi hn hr hp hl hu
  · exact stores_bxsh hi hn hr hp hl hu
  · exact stores_pkrt hi hn hr hp hl hu
  · exact stores_mirror hi hn hr hp hl hu
  · exact stores_poison hi hn hr hp hl hu
  · exact stores_stall hi hn hr hp hl hu

/-- An SWR of a backing register of a window whose ring is empty (R254). -/
theorem stores_backing {j : Nat} {f : Win → Win} {new : Word} (hi : exec i s = finish s (backingOut m j f s))
    (hn : HasNext s) (hr : s.me.inRep = false) (hp : s.me.sup = true ∨ sysAccess m = some .rw)
    (hl : 0x080 ≤ m) (hu : m ≤ 0x09F) (hj : (m - 0x080) / 2 = j)
    (hstill : ((s.winAt s.cur j).mode = .backed → (s.winAt s.cur j).rc = 0) ∧ (s.winAt s.cur j).refills = [])
    (hnew : (if m % 2 = 0 then (f (s.winAt s.cur j)).wbkb else (f (s.winAt s.cur j)).wbks) = new)
    (hk : ∀ o, o ≠ m → CoreSame o (s.coreAt s.cur) ((s.coreAt s.cur).setWin j (f (s.winAt s.cur j)))) :
    Stores s i m new := by
  obtain ⟨hrc, href⟩ := hstill
  have hc : ((s.winAt s.cur j).mode == .backed && decide ((s.winAt s.cur j).rc ≠ 0) ||
      !(s.winAt s.cur j).refills.isEmpty) = false := by
    by_cases hb : (s.winAt s.cur j).mode = .backed
    · simp [href, hrc hb]
    · simp [href, hb]
  have hout : finish s (backingOut m j f s) =
      .next (s.wrote ((s.coreAt s.cur).setWin j (f (s.winAt s.cur j))) s.me) := by
    rw [← finish_wrote_core s _ hn hr (by rfl), backingOut,
      writable_allowed m s _ (.inl (sysAccess_backing hl hu)) hp]
    simp only [hc]
    rfl
  refine stores_of (hi.trans hout) rfl (fun _ => rfl) rfl ?_ (fun o h _ => hk o h) fun _ _ => {}
  rw [sysRead_backing _ _ _ _ _ hl hu, State.winAt, wrote_coreAt, Core.winAt_setSlot, hj, Core.winAt_setWin_self, hnew]

end

end Sys2Proof.Machine
end

section
/-! SUPPORT. SLOTCTL (R344), the reads of SRD, and the statement about system registers (R13, R137). -/

namespace Sys2Proof.Machine

open Sys2Proof

/-! ## SLOTCTL (R262, R344) -/

/-- SLOTCTL schedules what it asks for before everything else, and changes nothing more (R344). -/
theorem slotctl_only (s : State) (c : Nat) (v : Word) :
    (s.slotctl c v).cores = s.cores ∧ (s.slotctl c v).mem = s.mem ∧ (s.slotctl c v).cur = s.cur ∧
      (s.slotctl c v).slot = s.slot ∧ (s.slotctl c v).agenda =
        (if v.toNat / 256 % 4 = 1 then [.slotResume c (v.toNat % 32)]
        else if v.toNat / 256 % 4 = 2 then [.slotKill c (v.toNat % 32)] else []) ++ s.agenda := by
  unfold State.slotctl
  by_cases h1 : v.toNat / 256 % 4 = 1
  · simp only [h1, if_true]
    exact ⟨rfl, rfl, rfl, rfl, rfl⟩
  · by_cases h2 : v.toNat / 256 % 4 = 2
    · simp only [h2]
      exact ⟨rfl, rfl, rfl, rfl, rfl⟩
    · simp only [if_neg h1, if_neg h2]
      exact ⟨trivial, trivial, trivial, trivial, rfl⟩

/-- An SWR to SLOTCTL: where a kill must wait, the writer holds; else it is done (R262, R344). -/
theorem swr_slotctl (s : State) (v : Word) (hn : HasNext s) (hp : s.me.sup = true) :
    ∃ t, finish s (swrOut 0x0B4 v s) = .next t ∧ t.mem = s.mem ∧
      (s.killWaits s.cur s.slot v = false → t.me = s.me.advance) ∧
      (s.killWaits s.cur s.slot v = true → t.me = { s.me with hold := .kill (v.toNat % 32) }) ∧
      t.agenda = (s.slotctl s.cur v).agenda := by
  obtain ⟨hcores, hmem, hcur, hslot, -⟩ := slotctl_only s s.cur v
  have hme : (s.slotctl s.cur v).me = s.me := me_of_slots hcur hslot (by rw [coreAt_of_cores hcores])
  have hout : swrOut 0x0B4 v s = if s.killWaits s.cur s.slot v = true then
      .hold ((s.slotctl s.cur v).holdMe (.kill (v.toNat % 32))) else .done (s.slotctl s.cur v) := by
    rw [swrOut, writable_allowed 0x0B4 s _ (.inl rfl) (.inl hp)]
    simp only [true_and, State.sysWrite, if_true]
  rw [hout]
  by_cases hk : s.killWaits s.cur s.slot v = true
  · have hn' : s.me.fallsOut = false := hn
    rw [if_pos hk]
    refine ⟨(s.slotctl s.cur v).holdMe (.kill (v.toNat % 32)), by rw [finish]; simp only [hn']; rfl, hmem,
      fun h => by simp [h] at hk, fun _ => ?_, rfl⟩
    rw [State.holdMe, me_setMe, hme]
  · rw [if_neg hk, finish_done_me s _ hn]
    exact ⟨_, rfl, hmem, fun _ => by rw [me_setMe, hme], fun h => absurd h hk, rfl⟩

theorem killWaits_iff (s : State) (c t : Nat) (v : Word) : s.killWaits c t v = true ↔
    v.toNat / 256 % 4 = 2 ∧ v.toNat % 32 ≠ t ∧ (s.slotAt c (v.toNat % 32)).status ≠ .free ∧
      s.quiet c (v.toNat % 32) = false := by
  simp [State.killWaits, and_assoc]

/-- Waking what waits for a kind of thing changes nothing where nothing waits for it. -/
theorem wakeKind_none (s : State) (c : Nat) (kind : WaitKind) (h : ∀ e ∈ s.edges, e.kind ≠ kind) :
    s.wakeKind c kind = s := by
  have hf : (s.edges.filter fun e => e.at_ == c && e.kind == kind) = [] := by
    rw [List.filter_eq_nil_iff]
    intro e he
    simp [h e he]
  rw [State.wakeKind, hf]
  rfl

theorem dropEdges_party (s : State) (p : Party) : ∀ e ∈ (s.dropEdges p).edges, e.party ≠ p := by
  intro e he
  have : e ∈ s.edges.filter fun e => e.party != p := he
  simpa using (List.mem_filter.mp this).2

/-- A slot as a kill leaves it free. -/
def Slot.freed (sl : Slot) : Slot := { sl with
  status := .free, bind := 0, hold := .none, wait := none, remote := none, inRep := false, tv := false,
  fenceRel := none, loads := [], tkns := [], again := false, banked := 0, paid := 0, killing := false,
  stopped := false }

/-- Freeing a slot where nothing waits to spawn: its edges, its claims and its binding go (R231, R344). -/
theorem freeSlot_plain (s : State) (c u : Nat) (h : ∀ e ∈ s.edges, e.kind ≠ .spawn) :
    ∃ ds, s.freeSlot c u = ((s.dropEdges (.task c u)).setDies ds).setSlot c u (s.slotAt c u).freed := by
  obtain ⟨ds, hd⟩ := releaseClaims_only (s.dropEdges (.task c u)) (s.holderOf c u)
  refine ⟨ds, ?_⟩
  rw [State.freeSlot, hd]
  exact wakeKind_none _ _ _ fun e he => h e (List.mem_of_mem_filter he)

theorem exec_slotKill {c u : Nat} {s : State} : exec (.slotKill c u) s = .next (s.killSlot c u) := rfl

/-- A kill of a slot whose accesses are performed frees it (R262, R344). -/
theorem slotKill_frees (s : State) (c u : Nat) (h : (s.slotAt c u).status ≠ .free) (hq : s.quiet c u = true)
    (he : ∀ e ∈ s.edges, e.kind ≠ .spawn) : ∃ t, exec (.slotKill c u) s = .next t ∧
      t.slotAt c u = (s.slotAt c u).freed ∧ (∀ e ∈ t.edges, e.party ≠ .task c u) ∧ t.mem = s.mem ∧
      ∀ w, t.winAt c w = s.winAt c w := by
  obtain ⟨ds, hf⟩ := freeSlot_plain s c u he
  have hk : s.killSlot c u = s.freeSlot c u := by
    rw [State.killSlot, if_neg h, if_pos hq]
  exact ⟨_, exec_slotKill.trans (congrArg _ (hk.trans hf)), slotAt_setSlot_self .., dropEdges_party s _, rfl,
    fun w => setSlot_winAt ..⟩

/-- A kill of a slot with accesses in flight leaves it dying until they are performed (R231, R262, R344). -/
theorem slotKill_waits (s : State) (c u : Nat) (h : (s.slotAt c u).status ≠ .free) (hq : s.quiet c u = false) :
    ∃ t, exec (.slotKill c u) s = .next t ∧ t.slotAt c u = { s.slotAt c u with
        status := .runnable, hold := .none, wait := none, remote := none, inRep := false, tkns := [],
        killing := true } ∧
      (∀ e ∈ t.edges, e.party ≠ .task c u) ∧ t.accs = s.accs ∧ t.mem = s.mem := by
  have hk : s.killSlot c u = (s.dropEdges (.task c u)).setSlot c u { s.slotAt c u with
      status := .runnable, hold := .none, wait := none, remote := none, inRep := false, tkns := [],
      killing := true } := by
    rw [State.killSlot, if_neg h, if_neg (by rw [hq]; exact Bool.false_ne_true)]
  exact ⟨_, exec_slotKill.trans (congrArg _ hk), slotAt_setSlot_self .., dropEdges_party s _, rfl, rfl⟩

/-- The writer of a kill goes on once the slot it killed is no longer dying (R262). -/
theorem releasePerformed_kill (s : State) (c u k : Nat) (hk : (s.slotAt c u).hold = .kill k) :
    ((s.slotAt c k).killing = true → Leaves (.releasePerformed c u) s s) ∧
      ((s.slotAt c k).killing = false →
        Leaves (.releasePerformed c u) s (s.setSlot c u { s.slotAt c u with hold := .none }.advance)) := by
  have hi : exec (.releasePerformed c u) s =
      .next (if (s.slotAt c k).killing then s else (s.unhold c u).advance c u) := by
    rw [exec, execReleasePerformed]
    simp only [hk]
  refine ⟨fun h => ?_, fun h => ?_⟩
  · rw [Leaves, hi, if_pos h]
  · rw [Leaves, hi, if_neg (by rw [h]; exact Bool.false_ne_true), State.unhold, State.advance, slotAt_setSlot_self,
      setSlot_setSlot]

/-! ## Traps of SWR (R13, R254) -/

/-- An SWR to a number that is unassigned or read only is an illegal instruction (R13). -/
theorem traps_illegal {s : State} {i : Instr} {m : Nat} {k : State → Out} (hi : exec i s = finish s (writable m s k))
    (hr : s.me.inRep = false) (h : sysAccess m = none ∨ sysAccess m = some .ro) :
    Traps i s ⟨1, (tget 0 (s.coreAt s.cur).istore s.me.pc.toNat).setWidth 64, none, none⟩ := by
  have hw : writable m s k = .trap (illegalWord (tget 0 (s.coreAt s.cur).istore s.me.pc.toNat)) := by
    rw [writable, Core.fetch_plain _ _ hr]
    rcases h with h | h
    · simp only [h]
    · simp only [h]
  rw [Traps, hi, hw, finish_trap]
  rfl

/-- A supervisor register written without TSTAT.SUP is a privilege trap (R13). -/
theorem traps_privilege {s : State} {i : Instr} {m : Nat} {k : State → Out} (hi : exec i s = finish s (writable m s k))
    (hr : s.me.inRep = false) (h : sysAccess m = some .sw) (hp : s.me.sup = false) :
    Traps i s ⟨3, (tget 0 (s.coreAt s.cur).istore s.me.pc.toNat).setWidth 64, none, none⟩ := by
  have hw : writable m s k = .trap (trapOf 3 ((tget 0 (s.coreAt s.cur).istore s.me.pc.toNat).setWidth 64)) := by
    rw [writable, Core.fetch_plain _ _ hr]
    simp only [h, hp]
    rfl
  rw [Traps, hi, hw, finish_trap]
  rfl

/-- A backing register of a window whose ring holds elements, or that waits for a refill, is not written (R254). -/
theorem traps_backing {s : State} {i : Instr} {m j : Nat} {f : Win → Win}
    (hi : exec i s = finish s (backingOut m j f s)) (hp : s.me.sup = true) (hl : 0x080 ≤ m) (hu : m ≤ 0x09F)
    (hstill : ¬(((s.winAt s.cur j).mode = .backed → (s.winAt s.cur j).rc = 0) ∧ (s.winAt s.cur j).refills = [])) :
    Traps i s ⟨6, BitVec.ofNat 64 ((if (s.winAt s.cur j).v then (s.winAt s.cur j).ext % 65536 else 0) * 2 ^ 48 +
      5 * 2 ^ 8 + 5 * 2 ^ 4 + j), none, none⟩ := by
  have hc : ((s.winAt s.cur j).mode == .backed && decide ((s.winAt s.cur j).rc ≠ 0) ||
      !(s.winAt s.cur j).refills.isEmpty) = true := by
    by_contra h
    refine hstill ⟨fun hb => ?_, ?_⟩
    · by_contra hrc
      simp [hb, hrc] at h
    · by_contra href
      simp [href] at h
  have hw : backingOut m j f s = .trap (winTrap (s.winAt s.cur j) j .define false 0 5) := by
    rw [backingOut, writable_allowed m s _ (.inl (sysAccess_backing hl hu)) (.inl hp)]
    exact if_pos hc
  have harg : winFaultArg (s.winAt s.cur j) j .define false 0 5 =
      BitVec.ofNat 64 ((if (s.winAt s.cur j).v then (s.winAt s.cur j).ext % 65536 else 0) * 2 ^ 48 +
        5 * 2 ^ 8 + 5 * 2 ^ 4 + j) := by
    rw [winFaultArg]
    simp [OpKind.code]
  rw [Traps, hi, hw, finish_trap, winTrap, harg]
  rfl

/-! ## SRD (R13, R137) -/

/-- An SRD of a number that is assigned writes its value. -/
theorem ends_srd {s : State} {n : BitVec 10} {v : Word} (d : BitVec 5) (hn : HasNext s)
    (h : s.sysRead s.cur s.slot n.toNat (s.tick + 1) true = some v) : Ends (.srd d n) s (s.me.writeG d v) := by
  have hi : exec (.srd d n) s = finish s (.done (s.setG d v)) := by
    rw [exec, execSrd, h]
  rw [Ends, hi]
  exact finish_done_setMe s _ hn

/-- An SRD of a number that no table assigns is an illegal instruction. -/
theorem traps_srd {s : State} {n : BitVec 10} (d : BitVec 5) (hr : s.me.inRep = false)
    (h : s.sysRead s.cur s.slot n.toNat (s.tick + 1) true = none) :
    Traps (.srd d n) s ⟨1, (tget 0 (s.coreAt s.cur).istore s.me.pc.toNat).setWidth 64, none, none⟩ := by
  have hi : exec (.srd d n) s = finish s (.trap (illegalWord ((s.coreAt s.cur).fetch s.me))) := by
    rw [exec, execSrd, h]
  rw [Traps, hi, Core.fetch_plain _ _ hr]
  rfl

theorem sysRead_none {s : State} {c u n : Nat} (tick : Word) (h : sysAccess n = none) :
    s.sysRead c u n tick true = none := by
  simp only [State.sysRead, h]

theorem sysRead_some {s : State} {c u n : Nat} (tick : Word) (h : (sysAccess n).isSome) :
    ∃ v, s.sysRead c u n tick true = some v := by
  obtain ⟨a, ha⟩ := Option.isSome_iff_exists.mp h
  simp only [State.sysRead, ha]
  exact ⟨_, rfl⟩

/-- TSTAT as the statements write it. -/
theorem tstat_eq (sl : Slot) : sl.tstat = BitVec.ofNat 64 (2 * sl.prio.toNat + sl.sup.toNat) := by
  rw [Slot.tstat, Nat.mul_comm]
  cases sl.sup <;> rfl

/-- SRD of the registers that no engine feeds. -/
theorem srd_reads (s : State) (d : BitVec 5) (n : BitVec 10) (hn : HasNext s) :
    let k := s.coreAt s.cur
    let reads (v : Word) : Prop := Ends (.srd d n) s (s.me.writeG d v)
    (n = 0x000 → reads (BitVec.ofNat 64 s.cur)) ∧ (n = 0x001 → reads (BitVec.ofNat 64 s.slot)) ∧
    (n = 0x002 → reads (k.seq.setWidth 64)) ∧ (n = 0x003 → reads s.tick) ∧
    (n = 0x010 → reads (BitVec.ofNat 64 (2 * s.me.prio.toNat + s.me.sup.toNat))) ∧
    (n = 0x011 → reads (s.me.fpstat.setWidth 64)) ∧ (n = 0x012 → reads (s.me.repc.setWidth 64)) ∧
    (n = 0x018 → reads s.me.trapcause) ∧ (n = 0x019 → reads (s.me.trappc.setWidth 64)) ∧
    (n = 0x01A → reads (s.me.trapsite.setWidth 64)) ∧ (n = 0x01B → reads s.me.traparg) ∧
    (n = 0x040 → reads (BitVec.ofNat 64 (4096 * k.tvecEn.toNat + k.tvec.toNat))) ∧
    (n = 0x041 → reads (BitVec.ofNat 64 (2 * s.me.tv.toNat + s.me.psup.toNat))) ∧
    (n = 0x042 → reads s.me.trapva) ∧ (n = 0x043 → reads (s.me.trapvah.setWidth 64)) ∧
    (n = 0x060 → reads (s.clusterAt (s.cur / 256)).ptroot) ∧ (n = 0x0B0 → reads (k.wdctl.setWidth 64)) ∧
    (n = 0x0B1 → reads k.wdcnt) ∧ (n = 0x0B4 → reads 0) ∧ (n = 0x139 → reads k.dbgev) := by
  intro k reads
  have bool2 : ∀ (b : Bool) (m : Nat), (if b then m else 0) = m * b.toNat := fun b m => by cases b <;> simp
  have htvec : s.sysRead s.cur s.slot 0x040 (s.tick + 1) true =
      some (BitVec.ofNat 64 ((if k.tvecEn then 4096 else 0) + k.tvec.toNat)) := rfl
  have htrapst : s.sysRead s.cur s.slot 0x041 (s.tick + 1) true =
      some (BitVec.ofNat 64 ((if s.me.tv then 2 else 0) + (if s.me.psup then 1 else 0))) := rfl
  refine ⟨?_, ?_, ?_, ?_, ?_, ?_, ?_, ?_, ?_, ?_, ?_, ?_, ?_, ?_, ?_, ?_, ?_, ?_, ?_, ?_⟩
  case refine_5 =>
    rintro rfl
    exact ends_srd d hn (congrArg some (tstat_eq s.me))
  case refine_12 =>
    rintro rfl
    exact ends_srd d hn (htvec.trans (by rw [bool2]))
  case refine_13 =>
    rintro rfl
    exact ends_srd d hn (htrapst.trans (by rw [bool2, bool2, Nat.one_mul]))
  all_goals
    rintro rfl
    exact ends_srd d hn rfl

/-! ## The statement -/

/-- Settles O42, by what a read depends on, by the bits each register keeps, and by what SLOTCTL schedules. -/
theorem systemRegisters : Obligations.SystemRegisters := by
  unfold Obligations.SystemRegisters
  refine ⟨fun s d n hn => ⟨fun ha hr => ?_, fun ha => ?_, srd_reads s d n hn⟩, ?_, ?_⟩
  · exact traps_srd d hr (sysRead_none _ ha)
  · obtain ⟨v, hv⟩ := sysRead_some (s := s) (c := s.cur) (u := s.slot) (s.tick + 1) ha
    exact ⟨v, ends_srd d hn hv⟩
  · intro s n j z c u hn hr v reg writes window still
    have hj := j.isLt
    refine ⟨fun ha h1 h2 h3 h4 hp => ?_, fun hz hp => ?_, fun hp => ?_, fun hp => ?_, fun hp => ?_, fun hp => ?_,
      fun hstill => ⟨fun hp => ?_, fun hp => ?_⟩, fun hstill hp => ?_, ?_⟩
    · exact stores_swr (s := s) (v := v) rfl hn hr hp ha (fun e => h1 (BitVec.eq_of_toNat_eq e))
        (fun e => h2 (BitVec.eq_of_toNat_eq e)) (fun e => h3 (BitVec.eq_of_toNat_eq e)) h4
    · subst hz
      exact stores_tstat (s := s) (v := v) rfl hn hr hp
    · exact stores_slot_register (s := s) (v := v) rfl hn hr hp (by decide)
    · exact stores_slot_register (s := s) (v := v) rfl hn hr hp (by decide)
    · exact stores_core_register (s := s) (v := v) rfl hn hr hp (by decide)
    · exact stores_trcctl (s := s) (v := v) rfl hn hr hp
    · exact stores_backing (s := s) (f := fun x => { x with wbkb := v }) rfl hn hr hp (by omega) (by omega) (by omega)
        hstill (if_pos (by omega)) fun o h =>
          coreSame_setWin rfl (fun e => absurd e h) (fun _ => rfl) (fun _ => rfl) fun _ => rfl
    · exact stores_backing (s := s) (f := fun x => { x with rlog := bits v.toNat 59 5, rhead := 0, rfill := 0 }) rfl
        hn hr hp (by omega) (by omega) (by omega) hstill ((if_neg (by omega)).trans (wbks_bits v _)) fun o h =>
          coreSame_setWin rfl (fun _ => rfl) (fun e => absurd e h) (fun _ => rfl) fun _ => rfl
    · exact ⟨traps_backing rfl hp (by omega) (by omega) hstill, traps_backing rfl hp (by omega) (by omega) hstill⟩
    · intro killed waits
      have hwaits : s.killWaits s.cur s.slot v = true ↔ waits := killWaits_iff ..
      refine ⟨fun hz hp => ?_, fun h => ?_, fun h => ?_, fun h => ?_, fun h hq he => ?_, fun h hq => ?_, fun k hk => ?_⟩
      · subst hz
        obtain ⟨t, ht, hmem, hgo, hhold, hagenda⟩ := swr_slotctl s v hn hp
        obtain ⟨-, -, -, -, hsched⟩ := slotctl_only s s.cur v
        exact ⟨t, ht, hmem, fun h => hgo (by rw [← Bool.not_eq_true, hwaits]; exact h), fun h => hhold (hwaits.mpr h),
          hagenda.trans hsched⟩
      · exact congrArg _ (if_pos h)
      · exact congrArg _ (if_neg h)
      · exact congrArg _ (if_pos h)
      · exact slotKill_frees s c u h hq he
      · exact slotKill_waits s c u h hq
      · exact releasePerformed_kill s c u k hk
  · intro s n j z hr word illegal privilege
    have hj := j.isLt
    refine ⟨fun h => traps_illegal rfl hr h, fun hp => ⟨fun h => traps_privilege rfl hr h hp,
      traps_privilege (m := 0x012) rfl hr rfl hp, traps_privilege (m := 0x0B0) rfl hr rfl hp,
      traps_privilege (m := 0x131) rfl hr rfl hp, traps_privilege rfl hr (sysAccess_backing ?_ ?_) hp,
      traps_privilege rfl hr (sysAccess_backing ?_ ?_) hp⟩⟩
    all_goals omega

end Sys2Proof.Machine
end

section
/-! SUPPORT. Additions, subtractions and products of special operands (R36, R37, R38, R128). -/

namespace Sys2Proof.Machine

open Sys2Proof

/-! ## Kinds of values (R35, R37) -/

@[simp] theorem FVal.isNan_negate (x : FVal) : x.negate.isNan = x.isNan := by cases x <;> rfl

theorem FVal.isZero_iff (x : FVal) : x.isZero = true ↔ ∃ s e, x = .num s 0 e := by
  cases x with
  | nan q => simp [FVal.isZero]
  | inf s => simp [FVal.isZero]
  | num s m e => simp [FVal.isZero]

theorem snanFlag_pair (x y : FVal) : snanFlag [x, y] = if x.isSnan || y.isSnan then fNV else 0 := by
  simp [snanFlag]

/-! ## Infinities and zeros (R37, R38) -/

theorem FVal.inf_mul_zero (s t : Bool) (e : Int) : (FVal.inf s).mul (.num t 0 e) = none := rfl

theorem FVal.zero_mul_inf (s t : Bool) (e : Int) : (FVal.num t 0 e).mul (.inf s) = none := rfl

theorem Fmt.sum_inf (f : Fmt) (r : Rnd) (s t : Bool) :
    f.sum r (.inf s) (.inf t) = if s = t then (f.pack s f.infMag, 0) else (f.nan, fNV) := rfl

/-- A number and its opposite have opposite scaled integers. -/
theorem FVal.scaled_not (s : Bool) (m : Nat) (e q : Int) :
    (FVal.num (!s) m e).scaled q = -(FVal.num s m e).scaled q := by
  cases s <;> simp [FVal.scaled]

/-- A number and its opposite sum to +0, or to −0 under RD. -/
theorem Fmt.sum_opposite (f : Fmt) (r : Rnd) (s : Bool) (m : Nat) (e : Int) :
    f.sum r (.num s m e) (.num (!s) m e) = (f.pack (r == .rd) 0, 0) := by
  simp [Fmt.sum, FVal.exp, FVal.sign, FVal.scaled_not]

/-! ## The operations on patterns (R36, R128) -/

section
variable {f : Fmt} {a b : Nat} (r : Rnd)

theorem Fmt.add_nan (h : (f.decode a).isNan = true ∨ (f.decode b).isNan = true) :
    f.add r a b = (f.nan, if (f.decode a).isSnan || (f.decode b).isSnan then fNV else 0) := by
  rw [← snanFlag_pair]
  exact if_pos (by simpa using h)

theorem Fmt.sub_nan (h : (f.decode a).isNan = true ∨ (f.decode b).isNan = true) :
    f.sub r a b = (f.nan, if (f.decode a).isSnan || (f.decode b).isSnan then fNV else 0) := by
  rw [← snanFlag_pair]
  exact if_pos (by simpa using h)

theorem Fmt.mul_nan (h : (f.decode a).isNan = true ∨ (f.decode b).isNan = true) :
    f.mul r a b = (f.nan, if (f.decode a).isSnan || (f.decode b).isSnan then fNV else 0) := by
  rw [← snanFlag_pair]
  exact if_pos (by simpa using h)

variable {x y : FVal}

/-- Without a NaN, an addition rounds the sum of the decoded values. -/
theorem Fmt.add_eq_sum (ha : f.decode a = x) (hb : f.decode b = y) (hx : x.isNan = false) (hy : y.isNan = false) :
    f.add r a b = f.sum r x y := by
  simp [Fmt.add, ha, hb, hx, hy]

/-- Without a NaN, a subtraction rounds the sum with the opposite. -/
theorem Fmt.sub_eq_sum (ha : f.decode a = x) (hb : f.decode b = y) (hx : x.isNan = false) (hy : y.isNan = false) :
    f.sub r a b = f.sum r x y.negate := by
  simp [Fmt.sub, ha, hb, hx, hy]

/-- Without a NaN, a product of no value is the canonical NaN with NV. -/
theorem Fmt.mul_invalid (ha : f.decode a = x) (hb : f.decode b = y) (hx : x.isNan = false) (hy : y.isNan = false)
    (h : x.mul y = none) : f.mul r a b = (f.nan, fNV) := by
  simp [Fmt.mul, ha, hb, hx, hy, h]

end

/-- Settles O20, by what a NaN gives first, and then by the sum or the product of the decoded values. -/
theorem fpSpecialOperands : Obligations.FpSpecialOperands := by
  unfold Obligations.FpSpecialOperands
  intro f r a b x y
  refine ⟨fun h => ⟨f.add_nan r h, f.sub_nan r h, f.mul_nan r h⟩, fun q hx hy => ?_,
    fun q hx hy => ⟨?_, ?_⟩, fun q hx hy => ?_, fun q m e hx hy _ => ?_⟩
  · rw [Fmt.add_eq_sum r hx hy rfl rfl, Fmt.sum_inf, if_neg (by simp)]
  · rw [Fmt.sub_eq_sum r hx hy rfl rfl, FVal.negate, Fmt.sum_inf, if_neg (by simp)]
  · rw [Fmt.add_eq_sum r hx hy rfl rfl, Fmt.sum_inf, if_pos rfl]
  · obtain ⟨t, e, hy⟩ := y.isZero_iff.mp hy
    exact ⟨Fmt.mul_invalid r hx hy rfl rfl (FVal.inf_mul_zero q t e),
      Fmt.mul_invalid r hy hx rfl rfl (FVal.zero_mul_inf q t e)⟩
  · rw [Fmt.add_eq_sum r hx hy rfl rfl, Fmt.sum_opposite]

end Sys2Proof.Machine
end

section
/-! SUPPORT. Rounding a magnitude to the patterns of a format, and what lies beyond a format's range (R39 to R42). -/

namespace Sys2Proof.Machine

open Sys2Proof

/-! ## Rounding to a multiple of a power of two (R39) -/

/-- The magnitude m × 2^e in units of 2^q. -/
def inUnits (m : Nat) (e q : Int) : ℚ := m * 2 ^ (e - q)

theorem inUnits_mul (m : Nat) (e q : Int) : inUnits m e q * 2 ^ q = m * 2 ^ e := by
  rw [inUnits, mul_assoc, ← zpow_add₀ two_ne_zero, sub_add_cancel]

theorem roundsUp_exact (r : Rnd) (s odd : Bool) {den : Nat} (h : den ≠ 0) : roundsUp r s odd 0 den = false := by
  cases r <;> simp [roundsUp, h.symm]

/-- Rounding divides, whichever exponent is the larger: the magnitude in units is a ratio of naturals, its quotient is
taken, and one more where `roundsUp` says so of the remainder. -/
theorem roundTo_quotient (m : Nat) (e q : Int) : ∃ a d : Nat, 0 < d ∧ inUnits m e q = a / d ∧
    ∀ r s, roundTo r s m e q =
      (if roundsUp r s (a / d % 2 = 1) (a % d) d then a / d + 1 else a / d, decide (a % d ≠ 0)) := by
  rcases le_total q e with h | h <;> obtain ⟨k, hk⟩ := Int.le.dest h
  · refine ⟨m * 2 ^ k, 1, one_pos, ?_, fun r s => ?_⟩
    · simp [inUnits, ← hk]
    · simp [roundTo, ← hk, Nat.mod_one, roundsUp_exact]
  · refine ⟨m, 2 ^ k, by positivity, ?_, fun r s => ?_⟩
    · simp [inUnits, ← hk, div_eq_mul_inv]
    · rcases k.eq_zero_or_pos with rfl | hpos
      · simp [roundTo, ← hk, Nat.mod_one, roundsUp_exact]
      · simp [roundTo, ← hk, hpos.ne']

/-- Whether the mode goes away from zero from n + t units, t the fraction (R39). -/
def goesUp (r : Rnd) (s : Bool) (n : Nat) (t : ℚ) : Prop :=
  match r with
  | .rne => 1 < 2 * t ∨ (2 * t = 1 ∧ n % 2 = 1)
  | .rz => False
  | .ru => s = false ∧ t ≠ 0
  | .rd => s = true ∧ t ≠ 0

/-- `roundsUp` asks of a remainder what `goesUp` asks of its fraction. -/
theorem roundsUp_iff (r : Rnd) (s : Bool) (n : Nat) {rem den : Nat} (hden : 0 < den) :
    roundsUp r s (n % 2 = 1) rem den = true ↔ goesUp r s n (rem / den) := by
  have hd : (0 : ℚ) < den := by exact_mod_cast hden
  have hlt : (1 : ℚ) < 2 * (rem / den) ↔ den < 2 * rem := by
    rw [← mul_div_assoc, one_lt_div hd]; exact_mod_cast Iff.rfl
  have heq : 2 * (rem / den : ℚ) = 1 ↔ 2 * rem = den := by
    rw [← mul_div_assoc, div_eq_one_iff_eq hd.ne']; exact_mod_cast Iff.rfl
  cases r with
  | rne => simp [roundsUp, goesUp, hlt, heq]
  | rz => simp [roundsUp, goesUp]
  | ru => simp [roundsUp, goesUp, hden.ne']
  | rd => simp [roundsUp, goesUp, hden.ne']

/-- Rounding n + t units gives n, or n + 1 where the mode goes up; it is inexact when the fraction t is not zero. -/
theorem roundTo_cases (r : Rnd) (s : Bool) (m : Nat) (e q : Int) : ∃ (n : Nat) (t : ℚ), 0 ≤ t ∧ t < 1 ∧
    inUnits m e q = n + t ∧ ((roundTo r s m e q).2 = true ↔ t ≠ 0) ∧
    ((roundTo r s m e q).1 = n ∧ ¬goesUp r s n t ∨ (roundTo r s m e q).1 = n + 1 ∧ goesUp r s n t) := by
  obtain ⟨a, d, hd, hx, hround⟩ := roundTo_quotient m e q
  have hd' : (0 : ℚ) < d := by exact_mod_cast hd
  refine ⟨a / d, (a % d : Nat) / d, by positivity, ?_, ?_, ?_, ?_⟩
  · rw [div_lt_one hd']; exact_mod_cast Nat.mod_lt a hd
  · rw [hx, div_eq_iff hd'.ne', add_mul, div_mul_cancel₀ _ hd'.ne']; exact_mod_cast (Nat.div_add_mod' a d).symm
  · simp [hround, hd.ne']
  · rw [hround, ← roundsUp_iff r s _ hd]
    by_cases h : roundsUp r s (a / d % 2 = 1) (a % d) d = true
    · exact .inr ⟨if_pos h, h⟩
    · exact .inl ⟨if_neg h, h⟩

section
variable (r : Rnd) (s : Bool) (m : Nat) (e q : Int)

/-- No fraction, no rounding up. -/
theorem not_goesUp_zero (n : Nat) : ¬goesUp r s n 0 := by cases r <;> simp [goesUp]

/-- The multiple is less than a unit away, below and above. -/
theorem roundTo_near : inUnits m e q - 1 < (roundTo r s m e q).1 ∧ ((roundTo r s m e q).1 : ℚ) < inUnits m e q + 1 := by
  obtain ⟨n, t, h0, h1, hx, -, ⟨hn, -⟩ | ⟨hn, hup⟩⟩ := roundTo_cases r s m e q <;> rw [hn, hx]
  · constructor <;> linarith
  · have ht : t ≠ 0 := fun h => not_goesUp_zero r s n (h ▸ hup)
    have := lt_of_le_of_ne h0 ht.symm
    push_cast
    constructor <;> linarith

theorem roundTo_inexact : (roundTo r s m e q).2 = true ↔ ((roundTo r s m e q).1 : ℚ) ≠ inUnits m e q := by
  obtain ⟨n, t, h0, h1, hx, hne, ⟨hn, -⟩ | ⟨hn, hup⟩⟩ := roundTo_cases r s m e q <;> rw [hne, hn, hx]
  · simp
  · have ht : t ≠ 0 := fun h => not_goesUp_zero r s n (h ▸ hup)
    simp [ht, h1.ne']

/-- A mode that goes toward zero for the sign rounds to the multiple below. -/
theorem roundTo_down (h : r = .rz ∨ r = if s then .ru else .rd) : ((roundTo r s m e q).1 : ℚ) ≤ inUnits m e q := by
  obtain ⟨n, t, h0, h1, hx, -, ⟨hn, -⟩ | ⟨hn, hup⟩⟩ := roundTo_cases r s m e q
  · rw [hn, hx]; linarith
  · rcases h with rfl | rfl
    · exact hup.elim
    · cases s <;> simp [goesUp] at hup

/-- The mode that goes away from zero for the sign rounds to the multiple above. -/
theorem roundTo_up (h : r = if s then .rd else .ru) : inUnits m e q ≤ (roundTo r s m e q).1 := by
  obtain ⟨n, t, h0, h1, hx, -, ⟨hn, hup⟩ | ⟨hn, -⟩⟩ := roundTo_cases r s m e q <;> rw [hn, hx]
  · have ht : t = 0 := by cases s <;> simpa [h, goesUp] using hup
    simp [ht]
  · push_cast
    linarith

/-- To nearest, the multiple is at most half a unit away, and less when it is odd. -/
theorem roundTo_nearest : let n : ℚ := (roundTo .rne s m e q).1
    2 * inUnits m e q ≤ 2 * n + 1 ∧ 2 * n - 1 ≤ 2 * inUnits m e q ∧
    ((roundTo .rne s m e q).1 % 2 = 1 → 2 * inUnits m e q < 2 * n + 1 ∧ 2 * n - 1 < 2 * inUnits m e q) := by
  obtain ⟨n, t, h0, h1, hx, -, ⟨hn, hup⟩ | ⟨hn, hup⟩⟩ := roundTo_cases .rne s m e q <;>
    simp only [hn, hx, goesUp, not_or, not_and, not_lt] at hup ⊢
  · refine ⟨by linarith, by linarith, fun hodd => ?_⟩
    have := lt_of_le_of_ne hup.1 fun h => hup.2 h hodd
    constructor <;> linarith
  · push_cast
    refine ⟨by linarith, by rcases hup with h | h <;> linarith, fun hodd => ?_⟩
    have := hup.resolve_right (by omega)
    constructor <;> linarith

end

end Sys2Proof.Machine
end

section
/-! SUPPORT. The values of a format's patterns, and the statement about rounding (R35, R39 to R42). -/

namespace Sys2Proof.Machine

open Sys2Proof

/-! ## Values of patterns (R35) -/

/-- The unit of block k of a format's patterns: the spacing of the values of exponent field k + 1, and in block 0 of the
subnormals too. -/
def ulp (f : Fmt) (k : Nat) : ℚ := 2 ^ ((k : ℤ) + 1 - f.bias - f.frac)

theorem ulp_pos (f : Fmt) (k : Nat) : 0 < ulp f k := by unfold ulp; positivity

theorem ulp_succ (f : Fmt) (k : Nat) : ulp f (k + 1) = 2 * ulp f k := by
  rw [ulp, ulp, ← zpow_one_add₀ two_ne_zero]
  congr 1
  push_cast
  ring

theorem magValue_subnormal (f : Fmt) {n : Nat} (h : n < 2 ^ f.frac) : magValue f n = n * ulp f 0 := by
  rw [magValue, if_pos (Nat.div_eq_of_lt h), ulp, Nat.cast_zero, zero_add]

theorem magValue_normal (f : Fmt) (k : Nat) {j : Nat} (h : j < 2 ^ f.frac) :
    magValue f ((k + 1) * 2 ^ f.frac + j) = (2 ^ f.frac + j : Nat) * ulp f k := by
  have hdiv : ((k + 1) * 2 ^ f.frac + j) / 2 ^ f.frac = k + 1 := by
    rw [add_comm, Nat.add_mul_div_right _ _ (by positivity), Nat.div_eq_of_lt h, zero_add]
  have hmod : ((k + 1) * 2 ^ f.frac + j) % 2 ^ f.frac = j := by
    rw [add_comm, Nat.add_mul_mod_self_right, Nat.mod_eq_of_lt h]
  rw [magValue, hdiv, hmod, if_neg k.succ_ne_zero, ulp, Nat.cast_succ]

/-- The pattern k × 2^frac + n stands for n units of block k, up to the next power of two, n = 2^(frac + 1). Above block
0 the leading bit is there, so n is at least 2^frac. -/
theorem magValue_block (f : Fmt) {k n : Nat} (hlo : k ≠ 0 → 2 ^ f.frac ≤ n) (hhi : n ≤ 2 * 2 ^ f.frac) :
    magValue f (k * 2 ^ f.frac + n) = n * ulp f k := by
  rcases lt_or_ge n (2 ^ f.frac) with hlt | hge
  · obtain rfl : k = 0 := by_contra fun h => absurd (hlo h) hlt.not_ge
    rw [zero_mul, zero_add, magValue_subnormal f hlt]
  · obtain ⟨j, rfl⟩ := Nat.exists_eq_add_of_le hge
    rcases lt_or_eq_of_le (show j ≤ 2 ^ f.frac by omega) with hj | rfl
    · rw [← magValue_normal f k hj]; congr 1; ring
    · have h := magValue_normal f (k + 1) (j := 0) (by positivity)
      rw [ulp_succ] at h
      convert h using 1
      · congr 1; ring
      · push_cast; ring

/-- The next pattern stands for a unit more, or two from the next power of two. -/
theorem succ_units_le_magValue (f : Fmt) {k n : Nat} (hlo : k ≠ 0 → 2 ^ f.frac ≤ n) (hhi : n ≤ 2 * 2 ^ f.frac) :
    (n + 1) * ulp f k ≤ magValue f (k * 2 ^ f.frac + n + 1) := by
  rcases lt_or_eq_of_le hhi with hlt | rfl
  · rw [add_assoc, magValue_block f (fun h => (hlo h).trans n.le_succ) hlt, Nat.cast_succ]
  · have hpos : 1 ≤ 2 ^ f.frac := Nat.one_le_two_pow
    have h := magValue_block f (k := k + 1) (n := 2 ^ f.frac + 1) (fun _ => Nat.le_succ _) (by omega)
    rw [ulp_succ] at h
    rw [show k * 2 ^ f.frac + 2 * 2 ^ f.frac + 1 = (k + 1) * 2 ^ f.frac + (2 ^ f.frac + 1) by ring, h]
    push_cast
    nlinarith [ulp_pos f k]

/-- The pattern before stands for a unit less, except that before a power of two it stands for half a unit less. -/
theorem magValue_pred (f : Fmt) {k n : Nat} (hlo : k ≠ 0 → 2 ^ f.frac ≤ n) (hhi : n ≤ 2 * 2 ^ f.frac)
    (hne : k * 2 ^ f.frac + n ≠ 0) :
    magValue f (k * 2 ^ f.frac + n - 1) = (n - 1) * ulp f k ∨
      n = 2 ^ f.frac ∧ k ≠ 0 ∧ magValue f (k * 2 ^ f.frac + n - 1) = (n - 1 / 2) * ulp f k := by
  have hpos : 1 ≤ 2 ^ f.frac := Nat.one_le_two_pow
  by_cases hedge : k ≠ 0 ∧ n = 2 ^ f.frac
  · obtain ⟨hk, rfl⟩ := hedge
    obtain ⟨j, rfl⟩ := Nat.exists_eq_succ_of_ne_zero hk
    have h := magValue_block f (k := j) (n := 2 * 2 ^ f.frac - 1) (fun _ => by omega) (by omega)
    refine .inr ⟨rfl, hk, ?_⟩
    rw [Nat.succ_mul, show j * 2 ^ f.frac + 2 ^ f.frac + 2 ^ f.frac - 1 = j * 2 ^ f.frac + (2 * 2 ^ f.frac - 1) by omega, h,
      Nat.succ_eq_add_one, ulp_succ, Nat.cast_sub (by omega)]
    push_cast
    ring
  · have hn : 1 ≤ n := by
      rcases eq_or_ne k 0 with rfl | hk
      · omega
      · exact hpos.trans (hlo hk)
    have h := magValue_block f (k := k) (n := n - 1) (fun hk => by have := hlo hk; omega) (by omega)
    exact .inl (by rw [Nat.add_sub_assoc hn, h, Nat.cast_sub hn, Nat.cast_one])

/-! ## Where a magnitude lies (R39) -/

/-- The exponent of the unit that m × 2^e rounds to. -/
def Fmt.unitExp (f : Fmt) (m : Nat) (e : Int) : Int := max (e + Nat.log2 m - f.frac) (1 - (f.bias : Int) - f.frac)

/-- The block of patterns that m × 2^e lies in. -/
def Fmt.block (f : Fmt) (m : Nat) (e : Int) : Nat := (f.unitExp m e + f.frac + f.bias - 1).toNat

theorem Fmt.roundMag_eq (f : Fmt) (r : Rnd) (s : Bool) (m : Nat) (e : Int) :
    f.roundMag r s m e = (f.block m e * 2 ^ f.frac + (roundTo r s m e (f.unitExp m e)).1,
      (roundTo r s m e (f.unitExp m e)).2) := rfl

theorem ulp_block (f : Fmt) (m : Nat) (e : Int) : ulp f (f.block m e) = 2 ^ f.unitExp m e := by
  have hmin : 1 - (f.bias : Int) - f.frac ≤ f.unitExp m e := le_max_right _ _
  rw [ulp, Fmt.block]
  congr 1
  omega

/-- A magnitude is less than 2^(frac + 1) of its units. -/
theorem inUnits_lt (f : Fmt) (m : Nat) (e : Int) : inUnits m e (f.unitExp m e) < 2 * 2 ^ f.frac := by
  have hm : (m : ℚ) < 2 ^ ((Nat.log2 m : ℤ) + 1) := by exact_mod_cast Nat.lt_log2_self
  have hexp : (Nat.log2 m : ℤ) + 1 + (e - f.unitExp m e) ≤ 1 + f.frac := by
    have := le_max_left (e + Nat.log2 m - f.frac) (1 - (f.bias : Int) - f.frac)
    unfold Fmt.unitExp
    omega
  calc inUnits m e (f.unitExp m e) < 2 ^ ((Nat.log2 m : ℤ) + 1) * 2 ^ (e - f.unitExp m e) :=
        mul_lt_mul_of_pos_right hm (by positivity)
    _ = 2 ^ ((Nat.log2 m : ℤ) + 1 + (e - f.unitExp m e)) := (zpow_add₀ two_ne_zero _ _).symm
    _ ≤ 2 ^ (1 + (f.frac : ℤ)) := zpow_le_zpow_right₀ one_le_two hexp
    _ = 2 * 2 ^ f.frac := by rw [zpow_one_add₀ two_ne_zero, zpow_natCast]

/-- Above block 0, it is at least 2^frac of them. -/
theorem le_inUnits (f : Fmt) {m : Nat} (e : Int) (hm : m ≠ 0) (hk : f.block m e ≠ 0) :
    2 ^ f.frac ≤ inUnits m e (f.unitExp m e) := by
  have hlog : (2 : ℚ) ^ (Nat.log2 m : ℤ) ≤ m := by exact_mod_cast Nat.log2_self_le hm
  have hexp : (f.frac : ℤ) = Nat.log2 m + (e - f.unitExp m e) := by
    unfold Fmt.block at hk
    unfold Fmt.unitExp at hk ⊢
    omega
  calc (2 : ℚ) ^ f.frac = 2 ^ (Nat.log2 m : ℤ) * 2 ^ (e - f.unitExp m e) := by
        rw [← zpow_natCast, hexp, zpow_add₀ two_ne_zero]
    _ ≤ m * 2 ^ (e - f.unitExp m e) := mul_le_mul_of_nonneg_right hlog (by positivity)

/-! ## The rounded pattern and its neighbours (R39) -/

/-- What the rounding of m × 2^e by any mode comes to: the pattern of n units of its block, where the magnitude is x
units, with the facts about the neighbouring patterns. -/
structure Placed (f : Fmt) (m : Nat) (e : Int) (p n : Nat) (x u : ℚ) : Prop where
  pos : 0 < u
  magnitude : m * 2 ^ e = x * u
  value : magValue f p = n * u
  succ : (n + 1) * u ≤ magValue f (p + 1)
  /-- The pattern before is a unit below, or the magnitude is at least the pattern's value. -/
  pred : p ≠ 0 → magValue f (p - 1) = (n - 1) * u ∨ (n : ℚ) ≤ x ∧ magValue f (p - 1) < n * u
  parity : p % 2 = n % 2

theorem Fmt.frac_pos (f : Fmt) : 0 < f.frac := by cases f <;> decide

theorem roundMag_placed (f : Fmt) (r : Rnd) (s : Bool) {m : Nat} (e : Int) (hm : m ≠ 0) :
    Placed f m e (f.roundMag r s m e).1 (roundTo r s m e (f.unitExp m e)).1 (inUnits m e (f.unitExp m e))
      (2 ^ f.unitExp m e) := by
  obtain ⟨hbelow, habove⟩ := roundTo_near r s m e (f.unitExp m e)
  have hmax := inUnits_lt f m e
  rw [Fmt.roundMag_eq]
  generalize hn : (roundTo r s m e (f.unitExp m e)).1 = n at *
  have hhi : n ≤ 2 * 2 ^ f.frac := by
    have : (n : ℚ) < (2 * 2 ^ f.frac : Nat) + 1 := by push_cast; linarith
    exact Nat.lt_succ_iff.mp (by exact_mod_cast this)
  have hlo : f.block m e ≠ 0 → 2 ^ f.frac ≤ n := fun hk => by
    have : ((2 ^ f.frac : Nat) : ℚ) < n + 1 := by have := le_inUnits f e hm hk; push_cast; linarith
    exact Nat.lt_succ_iff.mp (by exact_mod_cast this)
  rw [← ulp_block]
  refine ⟨ulp_pos f _, ?_, magValue_block f hlo hhi, succ_units_le_magValue f hlo hhi, fun hne => ?_, ?_⟩
  · rw [ulp_block, inUnits_mul]
  · refine (magValue_pred f hlo hhi hne).imp_right fun ⟨hn, hk, hv⟩ => ⟨?_, ?_⟩
    · rw [hn]; exact_mod_cast le_inUnits f e hm hk
    · rw [hv]; nlinarith [ulp_pos f (f.block m e)]
  · obtain ⟨j, hj⟩ := Nat.exists_eq_succ_of_ne_zero f.frac_pos.ne'
    have : f.block m e * 2 ^ f.frac = 2 * (f.block m e * 2 ^ j) := by rw [hj, pow_succ]; ring
    show (f.block m e * 2 ^ f.frac + n) % 2 = n % 2
    omega

section
variable (f : Fmt) (r : Rnd) (s : Bool) {m : Nat} (e : Int) (hm : m ≠ 0)
include hm

/-- Toward zero, the magnitude is at the pattern's value or between it and the next. -/
theorem roundMag_down (h : r = .rz ∨ r = if s then .ru else .rd) :
    magValue f (f.roundMag r s m e).1 ≤ m * 2 ^ e ∧ (m : ℚ) * 2 ^ e < magValue f ((f.roundMag r s m e).1 + 1) := by
  have hp := roundMag_placed f r s e hm
  have hle := roundTo_down r s m e (f.unitExp m e) h
  obtain ⟨hlt, -⟩ := roundTo_near r s m e (f.unitExp m e)
  rw [hp.value, hp.magnitude]
  exact ⟨mul_le_mul_of_nonneg_right hle hp.pos.le,
    (mul_lt_mul_of_pos_right (sub_lt_iff_lt_add.mp hlt) hp.pos).trans_le hp.succ⟩

/-- Away from zero, the magnitude is at the pattern's value or between it and the one before. -/
theorem roundMag_up (h : r = if s then .rd else .ru) :
    m * 2 ^ e ≤ magValue f (f.roundMag r s m e).1 ∧
      ((f.roundMag r s m e).1 ≠ 0 → magValue f ((f.roundMag r s m e).1 - 1) < m * 2 ^ e) := by
  have hp := roundMag_placed f r s e hm
  have hle := roundTo_up r s m e (f.unitExp m e) h
  obtain ⟨-, hlt⟩ := roundTo_near r s m e (f.unitExp m e)
  rw [hp.value, hp.magnitude]
  refine ⟨mul_le_mul_of_nonneg_right hle hp.pos.le, fun hne => ?_⟩
  rcases hp.pred hne with hv | ⟨hx, hv⟩
  · rw [hv]; exact mul_lt_mul_of_pos_right (sub_lt_iff_lt_add.mpr hlt) hp.pos
  · exact hv.trans_le (mul_le_mul_of_nonneg_right hx hp.pos.le)

/-- To nearest, the magnitude is not past the middle to a neighbour, and not at it when the pattern is odd. -/
theorem roundMag_nearest (n : Nat) (h : n = (f.roundMag .rne s m e).1) :
    2 * ((m : ℚ) * 2 ^ e) ≤ magValue f n + magValue f (n + 1) ∧
      (n ≠ 0 → magValue f (n - 1) + magValue f n ≤ 2 * ((m : ℚ) * 2 ^ e)) ∧
      (n % 2 = 1 → 2 * ((m : ℚ) * 2 ^ e) < magValue f n + magValue f (n + 1) ∧
        magValue f (n - 1) + magValue f n < 2 * ((m : ℚ) * 2 ^ e)) := by
  obtain ⟨hpos, hmag, hv, hsucc, hpred, hpar⟩ := roundMag_placed f .rne s e hm
  obtain ⟨hle, hge, hodd⟩ := roundTo_nearest s m e (f.unitExp m e)
  rw [← h] at hv hsucc hpred hpar
  rw [← hpar] at hodd
  rw [hmag, hv]
  refine ⟨?_, fun hne => ?_, fun h1 => ⟨?_, ?_⟩⟩
  · nlinarith
  · rcases hpred hne with hv' | ⟨hx, hv'⟩
    · rw [hv']; nlinarith
    · nlinarith
  · nlinarith [mul_lt_mul_of_pos_right (hodd h1).1 hpos]
  · rcases hpred (by omega) with hv' | ⟨hx, hv'⟩
    · rw [hv']; nlinarith [mul_lt_mul_of_pos_right (hodd h1).2 hpos]
    · nlinarith

/-- A rounding is inexact when its pattern's value is another. -/
theorem roundMag_inexact : (f.roundMag r s m e).2 = true ↔ magValue f (f.roundMag r s m e).1 ≠ m * 2 ^ e := by
  have hp := roundMag_placed f r s e hm
  rw [hp.value, hp.magnitude, Ne, mul_left_inj' hp.pos.ne']
  exact roundTo_inexact r s m e (f.unitExp m e)

/-! ## Beyond the range of a format (R40, R41) -/

theorem round_overflow (hf : f ≠ .e4m3) (h : f.infMag ≤ (f.roundMag r s m e).1) :
    f.round r s m e = (f.pack s (overflowMag f r s), fOF ||| fNX) := by
  cases f with
  | e4m3 => exact absurd rfl hf
  | f32 | bf16 | f16 => exact (if_neg hm).trans (if_pos h)

theorem round_saturates (h : 0x7E < (Fmt.e4m3.roundMag r s m e).1) :
    Fmt.e4m3.round r s m e = (Fmt.e4m3.pack s 0x7E, fSAT ||| fNX) :=
  (if_neg hm).trans (if_pos h)

end

/-- An overflow gives infinity to nearest and where the mode goes away from zero, else the largest finite value. -/
theorem overflowMag_eq (f : Fmt) (r : Rnd) (s : Bool) : overflowMag f r s =
    if r = .rne ∨ (r = .ru ∧ s = false) ∨ (r = .rd ∧ s = true) then f.infMag else f.infMag - 1 := by
  cases r <;> cases s <;> rfl

/-! ## Conversion to integers (R42) -/

theorem toInteger_range (r : Rnd) {lo hi : Int} (hlo : lo ≤ 0) (hhi : 0 ≤ hi) (v : FVal) :
    lo ≤ (toInteger r lo hi v).1 ∧ (toInteger r lo hi v).1 ≤ hi := by
  cases v with
  | nan q => exact ⟨hlo, hhi⟩
  | inf q => cases q <;> simp [toInteger, hlo.trans hhi]
  | num s m e =>
    simp only [toInteger]
    generalize (if s = true then -((roundTo r s m e 0).1 : Int) else (roundTo r s m e 0).1) = i
    by_cases h : i < lo
    · simp [h, hlo.trans hhi]
    · by_cases h' : hi < i
      · simp [h, h', hlo.trans hhi]
      · simp only [h, h', if_false]
        omega

@[simp] theorem roundTo_integer (r : Rnd) (s : Bool) (m : Nat) : roundTo r s m 0 0 = (m, false) := by simp [roundTo]

theorem toInteger_above (r : Rnd) {lo hi : Int} {m : Nat} (hlo : lo ≤ m) (h : hi < m) :
    toInteger r lo hi (.num false m 0) = (hi, fNV) := by
  simp [toInteger, h, hlo]

theorem toInteger_below (r : Rnd) {lo hi : Int} {m : Nat} (h : -(m : Int) < lo) :
    toInteger r lo hi (.num true m 0) = (lo, fNV) := by
  simp [toInteger, h]

/-- Settles O21, by the values of the rounded pattern's neighbours in units, and by the branches of `Fmt.round` and
`toInteger`. -/
theorem roundingBrackets : Obligations.RoundingBrackets := by
  unfold Obligations.RoundingBrackets
  refine ⟨fun f s m e hm => ?_, fun f r s m e lo hi hm hlo hhi => ?_⟩
  · exact ⟨fun r h => roundMag_down f r s e hm h, roundMag_up f _ s e hm rfl, roundMag_nearest f s e hm,
      fun r => roundMag_inexact f r s e hm⟩
  · refine ⟨fun hf h => ?_, ?_, toInteger_range r hlo hhi, ?_, ?_, fun q => rfl, fun q => rfl⟩
    · rw [round_overflow f r s e hm hf h, overflowMag_eq]
    · rintro rfl h
      exact round_saturates r s e hm h
    · rintro rfl h
      exact toInteger_above r (by omega) h
    · rintro rfl h
      exact toInteger_below r h

end Sys2Proof.Machine
end

section
/-! SUPPORT. The immediate forms, MOVH and NOP (R53, R92, R100). -/

namespace Sys2Proof.Machine

open Sys2Proof

/-- Sixteen bits moved up by q quarters are quarter q, and zeros elsewhere. -/
theorem quarter_getLsbD (x : BitVec 16) (q j : Nat) (hj : j < 64) :
    (x.setWidth 64 <<< (16 * q)).getLsbD j = (decide (j / 16 = q) && x.getLsbD (j % 16)) := by
  rw [BitVec.getLsbD_shiftLeft, BitVec.getLsbD_setWidth]
  by_cases h : j / 16 = q
  · have hlow : j - 16 * q = j % 16 := by omega
    have hge : ¬j < 16 * q := by omega
    simp [h, hj, hlow, hge, show j % 16 < 64 by omega]
  · by_cases hlt : j < 16 * q
    · simp [h, hlt]
    · simp [h, BitVec.getLsbD_of_ge x (j - 16 * q) (by omega)]

/-- MOVH replaces the bits of its quarter (R100). -/
theorem movhVal_getLsbD (v : Word) (q : BitVec 2) (i : BitVec 16) (j : Nat) (hj : j < 64) :
    (movhVal v q i).getLsbD j = if j / 16 = q.toNat then i.getLsbD (j % 16) else v.getLsbD j := by
  have hmask : (0xFFFF#64 <<< (16 * q.toNat)).getLsbD j = decide (j / 16 = q.toNat) := by
    rw [show 0xFFFF#64 = (BitVec.allOnes 16).setWidth 64 by decide, quarter_getLsbD _ _ j hj,
      BitVec.getLsbD_allOnes, decide_eq_true (show j % 16 < 16 by omega), Bool.and_true]
  rw [movhVal, BitVec.getLsbD_or, BitVec.getLsbD_and, BitVec.getLsbD_not, hmask, zext16, quarter_getLsbD i _ j hj]
  by_cases h : j / 16 = q.toNat <;> simp [h, hj]

/-- Settles O13: each form writes a value of its operand and is done. -/
theorem immediates : Obligations.Immediates := by
  unfold Obligations.Immediates
  intro s d a i n q hn
  have himm (a : BitVec 5) (f : Word → Word) :
      immOp d a f s = .next (s.setMe (s.me.writeG d (f (s.me.readG a))).advance) := finish_done_setMe s _ hn
  exact ⟨himm a (· + i.signExtend 64), himm a (· &&& i.setWidth 64), himm a (· ||| i.setWidth 64),
    himm a (· ^^^ i.setWidth 64), himm a (· <<< n.toNat), himm a (· >>> n.toNat), himm a (·.sshiftRight n.toNat),
    himm 0 fun _ => i.signExtend 64,
    ⟨movhVal (s.me.readG d) q i, fun j hj => movhVal_getLsbD _ q i j hj, himm d (movhVal · q i)⟩,
    finish_done_same s hn⟩

end Sys2Proof.Machine
end

section
/-! SUPPORT. The block transfers that run on a core and its commands that have ended: what operations leave of them. -/

namespace Sys2Proof.Machine

open Sys2Proof

/-- A fold of steps that keep what is observed of the state keeps it. -/
theorem foldl_keeps {α β : Type} (f : State → β) (g : State → α → State) (hg : ∀ u x, f (g u x) = f u) (l : List α)
    (s : State) : f (l.foldl g s) = f s := by
  induction l generalizing s with
  | nil => rfl
  | cons x r ih => rw [List.foldl_cons, ih, hg]

/-- The block transfers that run on a core, and its commands that have ended. -/
def State.blocksAt (s : State) (d : Nat) : Vector (Option BteRun) 4 × List Ended :=
  ((s.coreAt d).bte, (s.coreAt d).ended)

theorem bteAt_of_blocksAt {s t : State} {c : Nat} (h : t.blocksAt c = s.blocksAt c) (e : Nat) :
    (t.coreAt c).bteAt e = (s.coreAt c).bteAt e := by
  rw [Core.bteAt, show (t.coreAt c).bte = (s.coreAt c).bte from congrArg Prod.fst h]
  rfl

theorem ended_of_blocksAt {s t : State} {c : Nat} (h : t.blocksAt c = s.blocksAt c) :
    (t.coreAt c).ended = (s.coreAt c).ended := congrArg Prod.snd h

/-- Replacing a core by one with the same block transfers and ended commands. -/
theorem setCore_blocksAt {s : State} {c : Nat} {k : Core} {d : Nat} (h : (k.bte, k.ended) = s.blocksAt c) :
    (s.setCore c k).blocksAt d = s.blocksAt d := by
  rw [State.blocksAt, coreAt_setCore]
  split
  · subst d
    exact h
  · rfl

section
variable (s : State) (c d : Nat)

@[simp] theorem post_blocksAt (e : Instr) : (s.post e).blocksAt d = s.blocksAt d := rfl
@[simp] theorem retryWin_blocksAt (w : Nat) : (s.retryWin c w).blocksAt d = s.blocksAt d := rfl
@[simp] theorem dropRetry_blocksAt (p : Party) (i : Instr) : (s.dropRetry p i).blocksAt d = s.blocksAt d := rfl
@[simp] theorem dropEdges_blocksAt (p : Party) : (s.dropEdges p).blocksAt d = s.blocksAt d := rfl
@[simp] theorem dropCmdEdges_blocksAt : (s.dropCmdEdges c).blocksAt d = s.blocksAt d := rfl
@[simp] theorem setDies_blocksAt (ds : Table Die) : (s.setDies ds).blocksAt d = s.blocksAt d := rfl
@[simp] theorem report_blocksAt (cl : Nat) (r : Report) : (s.report cl r).blocksAt d = s.blocksAt d := rfl
@[simp] theorem setSlot_blocksAt (t : Nat) (x : Slot) : (s.setSlot c t x).blocksAt d = s.blocksAt d :=
  setCore_blocksAt rfl
@[simp] theorem setWin_blocksAt (w : Nat) (x : Win) : (s.setWin c w x).blocksAt d = s.blocksAt d :=
  setCore_blocksAt rfl
@[simp] theorem stallAdd_blocksAt (n : Fin 16) : (s.stallAdd c n).blocksAt d = s.blocksAt d := setCore_blocksAt rfl
@[simp] theorem wake_blocksAt (t : Nat) : (s.wake c t).blocksAt d = s.blocksAt d := setSlot_blocksAt ..

@[simp] theorem progressFill_blocksAt (w : Nat) : (s.progressFill c w).blocksAt d = s.blocksAt d := by
  obtain ⟨n, hn⟩ := progressFill_coreAt s c w d
  rw [State.blocksAt, hn]
  rfl

@[simp] theorem releaseClaims_blocksAt (h : Holder) : (s.releaseClaims h).blocksAt d = s.blocksAt d := by
  obtain ⟨ds, hd⟩ := releaseClaims_only s h
  rw [hd, setDies_blocksAt]

@[simp] theorem trace_blocksAt (r : TraceRec) : (s.trace c r).blocksAt d = s.blocksAt d := by
  unfold State.trace
  simp only []
  split
  · exact setCore_blocksAt rfl
  · rfl

/-! ## Halts and breakpoints (R411, R412) -/

@[simp] theorem stopSlot_blocksAt (t : Nat) : (s.stopSlot c t).blocksAt d = s.blocksAt d := by
  unfold State.stopSlot
  rw [setSlot_blocksAt]
  split <;> rfl

@[simp] theorem stopSlots_blocksAt (x : Option Nat) : (s.stopSlots c x).blocksAt d = s.blocksAt d :=
  foldl_keeps (State.blocksAt · d) _ (fun u e => by
    split
    · rfl
    · exact stopSlot_blocksAt ..) _ s

@[simp] theorem halt_blocksAt (b : BitVec 4) : (s.halt c b).blocksAt d = s.blocksAt d := by
  unfold State.halt
  simp only [dropCmdEdges_blocksAt, stopSlots_blocksAt]
  exact setCore_blocksAt rfl

@[simp] theorem debugEvent_blocksAt (why : Nat) (site : BitVec 46) :
    (s.debugEvent c why site).blocksAt d = s.blocksAt d := setCore_blocksAt rfl

@[simp] theorem breakpoint_blocksAt (ev : Nat) (site : BitVec 46) :
    (s.breakpoint c ev site).blocksAt d = s.blocksAt d := by
  unfold State.breakpoint
  split
  · rw [debugEvent_blocksAt, halt_blocksAt]
  · rfl

/-! ## Accesses and fills (R23, R150, R241) -/

/-- Starting an access puts it behind the others, as it was given but for what the TLB says. -/
theorem startAcc_accs (a : Acc) : ∃ z, (s.startAcc a).accs = s.accs ++ [z] ∧ z.va = a.va ∧ z.size = a.size ∧
    z.op = a.op ∧ z.holder = a.holder ∧ z.dest = a.dest := by
  unfold State.startAcc
  simp only []
  split
  · split <;> exact ⟨_, rfl, rfl, rfl, rfl, rfl, rfl⟩
  · exact ⟨_, rfl, rfl, rfl, rfl, rfl, rfl⟩

@[simp] theorem startAcc_blocksAt (a : Acc) : (s.startAcc a).blocksAt d = s.blocksAt d := by
  unfold State.startAcc
  simp only []
  split
  · split
    · exact setCore_blocksAt rfl
    · rfl
  · rfl

@[simp] theorem activateRaw_blocksAt (t : Nat) (v : Word) : (s.activateRaw c t v).blocksAt d = s.blocksAt d := by
  simp [State.activateRaw]

@[simp] theorem deliver_blocksAt (key : Nat) : (s.deliver c key).1.blocksAt d = s.blocksAt d := by
  unfold State.deliver
  simp only []
  split
  · split
    · rfl
    · rw [activateRaw_blocksAt]
      exact setCore_blocksAt rfl
  · rfl

@[simp] theorem deliverTraced_blocksAt (key : Nat) : (s.deliverTraced c key).blocksAt d = s.blocksAt d := by
  unfold State.deliverTraced
  simp only []
  split
  · exact deliver_blocksAt ..
  · rw [State.traceActivation, trace_blocksAt, deliver_blocksAt]

theorem count_blocks (k : Core) (key : Nat) (v : BitVec 32) :
    ((k.count key v).bte, (k.count key v).ended) = (k.bte, k.ended) := by
  unfold Core.count
  split <;> rfl

@[simp] theorem afterFill_blocksAt (w : Nat) : (s.afterFill c w).blocksAt d = s.blocksAt d := by
  refine (foldl_keeps (State.blocksAt · d) _ (fun u x => deliverTraced_blocksAt ..) _ _).trans ?_
  rw [retryWin_blocksAt]
  exact setCore_blocksAt (by rw [count_blocks, count_blocks, count_blocks]; rfl)

@[simp] theorem landRaw_blocksAt (w : Nat) (bs : List Byte) : (s.landRaw c w bs).blocksAt d = s.blocksAt d := by
  unfold State.landRaw
  rw [progressFill_blocksAt]
  exact setCore_blocksAt rfl

@[simp] theorem fillNow_blocksAt (w : Nat) (bs : List Byte) (site : BitVec 46) (who : Option (Nat × Nat)) :
    (s.fillNow c w bs site who).blocksAt d = s.blocksAt d := by
  unfold State.fillNow
  simp only []
  split
  · simp
  · simp [State.spill]

/-- A fill changes no block transfer and no ended command. -/
@[simp] theorem fillWin_blocksAt (w : Nat) (bs : List Byte) (site : BitVec 46) (who : Option (Nat × Nat)) :
    (s.fillWin c w bs site who).blocksAt d = s.blocksAt d := by
  unfold State.fillWin
  simp only []
  split <;> simp

/-! ## Poison (R351) -/

@[simp] theorem setPoison_blocksAt (w : Nat) (p : BitVec 32) (cls : BitVec 8) (site : BitVec 46) (v : Word) :
    (s.setPoison c w p cls site v).blocksAt d = s.blocksAt d := by
  unfold State.setPoison
  simp only []
  split <;> simp [apply_ite (State.blocksAt · d)]

@[simp] theorem poisonAll_blocksAt (ws : List Nat) (cls : Nat) (site : BitVec 46) (v : Word) :
    (s.poisonAll c ws cls site v).blocksAt d = s.blocksAt d :=
  foldl_keeps (State.blocksAt · d) _ (fun _ _ => setPoison_blocksAt ..) ws s

/-! ## Heads of ports (R60, R209) -/

/-- Waking the tasks that wait for a port keeps what a slot does not show. -/
theorem takeHead_keeps {β : Type} (f : State → β) (hf : ∀ u t, f (u.wake c t) = f u) (p : Port) :
    ∃ l, f (s.takeHead c p) =
      f (s.setCore c { (s.coreAt c).setQueue p ((s.coreAt c).queue p).tail with fabLast := l }) :=
  ⟨_, foldl_keeps f _ (fun u e => by
    split
    · split
      · exact hf ..
      · rfl
    · rfl
    · rfl) _ _⟩

@[simp] theorem takeHead_accs (p : Port) : (s.takeHead c p).accs = s.accs :=
  (takeHead_keeps s c State.accs (fun _ _ => rfl) p).elim fun _ h => h

@[simp] theorem takeHead_blocksAt (p : Port) : (s.takeHead c p).blocksAt d = s.blocksAt d := by
  obtain ⟨l, h⟩ := takeHead_keeps s c (State.blocksAt · d) (fun _ _ => wake_blocksAt ..) p
  refine h.trans (setCore_blocksAt ?_)
  cases p <;> rfl

theorem takeHead_bteq : ((s.takeHead c .bte).coreAt c).bteq = (s.coreAt c).bteq.tail := by
  obtain ⟨l, h⟩ := takeHead_keeps s c (fun u => (u.coreAt c).bteq)
    (fun u t => by rw [wake_coreAt, if_pos rfl]; rfl) .bte
  rw [h, coreAt_setCore_self]
  rfl

end

end Sys2Proof.Machine
end

section
/-! SUPPORT. Block transfers: engine slots, streams, requests, fills and ends (R60, R281, R286, R288 to R294). -/

namespace Sys2Proof.Machine

open Sys2Proof

/-! ## Engine slots (R281) -/

theorem bteAt_lt {k : Core} {e : Nat} {r : BteRun} (h : k.bteAt e = some r) : e < 4 := by
  by_contra hn
  rw [Core.bteAt, List.getD_eq_default _ _ (by simpa using hn)] at h
  cases h

theorem setBte_bteAt (s : State) (c e f : Nat) (r : Option BteRun) (he : e < 4) :
    ((s.setBte c e r).coreAt c).bteAt f = if f = e then r else (s.coreAt c).bteAt f := by
  rw [State.setBte, coreAt_setCore_self]
  split
  · subst f
    exact vget_setIfInBounds_self none _ _ he r
  · exact vget_setIfInBounds_ne none _ _ _ r (Ne.symm ‹_›)

theorem bteGo_bteAt (s : State) (c e : Nat) (i : Instr) (r : BteRun) (he : e < 4) :
    ((s.bteGo c e i r).coreAt c).bteAt e = some r :=
  (setBte_bteAt _ c e e _ he).trans (if_pos rfl)

/-- The slot a command starts in is the lowest free one (R281). -/
theorem bteSlot_some {k : Core} {c e : Nat} {x : Wide} (h : k.bteSlot c x = some e) :
    e < 4 ∧ (∀ f, f < e → (k.bteAt f).isSome) ∧ k.bteAt e = none := by
  unfold Core.bteSlot at h
  split at h
  · cases h
  · obtain ⟨hfree, hlt, hbelow⟩ := List.find?_range_eq_some.mp h
    exact ⟨by simpa using hlt, fun f hf => by simpa using hbelow f hf, by simpa using hfree⟩

/-- A running command that still fills the window of a later one holds it back (R281). -/
theorem bteSlot_held {k : Core} {c f : Nat} {x : Wide} {y : BteRun} (hy : k.bteAt f = some y)
    (hleft : y.cmd.doneb.toNat < y.cmd.total) (hx : fillTarget c x ≠ none)
    (hsame : fillTarget c y.cmd.cmd = fillTarget c x) : k.bteSlot c x = none := by
  have hmem : some y ∈ k.bte.toList := by
    rw [Core.bteAt, List.getD_eq_getElem _ _ (by simpa using bteAt_lt hy)] at hy
    exact hy ▸ List.getElem_mem _
  have hholds : y.holds c x = true := by
    simp [BteRun.holds, hsame, hleft, Option.isSome_iff_ne_none.mpr hx]
  rw [Core.bteSlot, if_pos (List.any_eq_true.mpr ⟨some y, hmem, by simpa using hholds⟩)]

/-! ## Starts (R60, R281) -/

/-- Where a port's commands start, its head does (R60). -/
theorem headOf_head {k : Core} {p : Port} {x : Cmd} {rest : List Cmd} (hq : k.queue p = x :: rest)
    (hs : PortStarts k p) : k.headOf p (cmdOp x.cmd) = some x := by
  obtain ⟨hstop, hstuck, hfresh⟩ := hs
  have hjudge : (k.ended.any fun e => e.fresh && (e.replay || k.dbgctl.getLsbD 0)) = false := by
    rw [List.any_eq_false]
    intro e he
    simp [hfresh e he]
  simp only [Core.headOf, hjudge]
  simp [Core.portsRun, hstop, hq, show p ∉ k.stuck by simpa using hstuck]

/-- Each command of the port starts in the same way (R281). -/
theorem exec_bteStart (s : State) (c : Nat) :
    ∀ p ∈ ([(.gtw c, 0x41), (.wtg c, 0x42), (.wtw c, 0x43), (.gath c, 0x44), (.scat c, 0x45), (.gredw c, 0x46)] :
      List (Instr × Nat)), exec p.1 s = .next (s.bteStart c p.2) := by
  simp only [List.forall_mem_cons]
  exact ⟨rfl, rfl, rfl, rfl, rfl, rfl, fun _ h => nomatch h⟩

section
variable {s : State} {c : Nat} {x : Cmd} {rest : List Cmd}

/-- A head that was not cut off starts at its first byte, having shrunk nothing (R281, R292). -/
theorem bteStart_slot (hq : (s.coreAt c).bteq = x :: rest) (hs : PortStarts (s.coreAt c) .bte) (hd : x.doneb = 0)
    {e : Nat} (he : (s.coreAt c).bteSlot c x.cmd = some e) : s.bteStart c (cmdOp x.cmd) =
      ((s.takeHead c .bte).setBte c e (some (BteRun.start x 0))).post (.bteRequestIssue c e) := by
  have hh : (s.coreAt c).headOf .bte (cmdOp x.cmd) = some x := headOf_head hq hs
  simp [State.bteStart, hh, he, hd]

theorem bteStart_none (hq : (s.coreAt c).bteq = x :: rest) (hs : PortStarts (s.coreAt c) .bte)
    (he : (s.coreAt c).bteSlot c x.cmd = none) : s.bteStart c (cmdOp x.cmd) = s := by
  have hh : (s.coreAt c).headOf .bte (cmdOp x.cmd) = some x := headOf_head hq hs
  simp [State.bteStart, hh, he]

/-- What a start leaves: its engine slot runs the command, which has left the queue. -/
theorem bteStart_leaves (hq : (s.coreAt c).bteq = x :: rest) {e : Nat} (he : e < 4) :
    let t := ((s.takeHead c .bte).setBte c e (some (BteRun.start x 0))).post (.bteRequestIssue c e)
    (t.coreAt c).bteAt e = some (BteRun.start x 0) ∧
      (∀ f, f ≠ e → (t.coreAt c).bteAt f = (s.coreAt c).bteAt f) ∧ (t.coreAt c).bteq = rest ∧ t.mem = s.mem ∧
      t.accs = s.accs := by
  have hat := fun f => setBte_bteAt (s.takeHead c .bte) c e f (some (BteRun.start x 0)) he
  refine ⟨(hat e).trans (if_pos rfl), fun f hf => ?_, ?_, by simp, takeHead_accs ..⟩
  · rw [post_coreAt, hat, if_neg hf]
    exact bteAt_of_blocksAt (takeHead_blocksAt ..) f
  · rw [post_coreAt, State.setBte, coreAt_setCore_self]
    show ((s.takeHead c .bte).coreAt c).bteq = _
    rw [takeHead_bteq, hq]
    rfl

end

/-! ## Streams (R281, R284) -/

/-- The stream bytes from t on, m of them after it, have addresses that run on from a within 64 aligned bytes. -/
def BteRun.RunsOn (r : BteRun) (a : Addr) (t m : Nat) : Prop :=
  ∀ i, i ≤ m → r.byteAddr (t + i) = some (a + BitVec.ofNat 80 i) ∧ (a + BitVec.ofNat 80 i).toNat / 64 = a.toNat / 64

theorem runsOn_zero {r : BteRun} {a : Addr} {t : Nat} (h : r.byteAddr t = some a) : r.RunsOn a t 0 := by
  intro i hi
  obtain rfl : i = 0 := by omega
  simpa using h

theorem runsOn_succ {r : BteRun} {a : Addr} {t m : Nat} (h : r.byteAddr t = some a)
    (hblock : (a + 1).toNat / 64 = a.toNat / 64) (hrest : r.RunsOn (a + 1) (t + 1) m) : r.RunsOn a t (m + 1) := by
  intro i hi
  cases i with
  | zero => exact runsOn_zero h 0 (by omega)
  | succ i =>
    obtain ⟨haddr, hsame⟩ := hrest i (by omega)
    have hadd : a + 1 + BitVec.ofNat 80 i = a + BitVec.ofNat 80 (i + 1) := by
      rw [BitVec.add_assoc, Nat.add_comm i 1, BitVec.ofNat_add]
      rfl
    rw [← hadd, ← Nat.add_assoc, Nat.add_right_comm, haddr, hsame, hblock]
    exact ⟨rfl, rfl⟩

/-- The bytes that go into one request with a byte of the stream (R281). -/
theorem runFrom_runsOn (r : BteRun) (n : Nat) {a : Addr} {t : Nat} (h : r.byteAddr t = some a)
    (ht : t < r.cmd.total) :
    r.runFrom a t n ≤ n ∧ t + r.runFrom a t n < r.cmd.total ∧ r.RunsOn a t (r.runFrom a t n) := by
  induction n generalizing a t with
  | zero => exact ⟨Nat.le_refl _, ht, runsOn_zero h⟩
  | succ n ih =>
    rw [BteRun.runFrom]
    split
    · next b hb =>
      split
      · next hgo =>
        obtain ⟨-, rfl, hblock, hlt⟩ := hgo
        obtain ⟨hle, hend, hrest⟩ := ih hb hlt
        exact ⟨by omega, by omega, runsOn_succ h hblock hrest⟩
      · exact ⟨by omega, ht, runsOn_zero h⟩
    · exact ⟨by omega, ht, runsOn_zero h⟩

/-! ## Requests (R281, R288, R289) -/

section
variable {s : State} {c e : Nat} {r : BteRun}

/-- A GTW or WTG that runs sends its next request (R281). -/
theorem exec_bteRequestIssue (hr : (s.coreAt c).bteAt e = some r) (hstop : (s.coreAt c).stop = .none)
    (hhold : r.hold = false) (hf : r.failing = none) (ht : r.issued < r.cmd.total)
    (hop : cmdOp r.cmd.cmd = 0x41 ∨ cmdOp r.cmd.cmd = 0x42) : exec (.bteRequestIssue c e) s =
      .next (if cmdOp r.cmd.cmd = 0x42 then s.bteWriteIssue c e r else s.bteReadIssue c e r) := by
  have hgo : (!(s.coreAt c).portsRun || r.hold || r.failing.isSome || decide (r.cmd.total ≤ r.issued)) = false := by
    simp [Core.portsRun, hstop, hhold, hf, ht]
  show execBteRequestIssue c e s = _
  unfold execBteRequestIssue
  simp only [hr, hgo]
  rcases hop with h | h <;> simp [h, State.bteIndex, usesIndex, writesGlobal]

theorem exec_bteRequestIssue_failing (hr : (s.coreAt c).bteAt e = some r) (hf : r.failing.isSome) :
    exec (.bteRequestIssue c e) s = .next s := by
  show execBteRequestIssue c e s = _
  simp [execBteRequestIssue, hr, hf]

/-- Reading the source starts no access. -/
theorem useSource_accs (t n : Nat) : (s.useSource c r t n).accs = s.accs := by
  refine foldl_keeps State.accs _ (fun u i => ?_) _ s
  rfl

/-- What a command's request of n bytes leaves: the access, and the command past those bytes. -/
theorem request_leaves (he : e < 4) (i : Instr) (s' : State) (op : AccOp) (a : Addr) (n t : Nat) (w : Bool) :
    let r' := { r with issued := t + n }
    let u := (s.bteGo c e i r').startAcc (bteAcc s' c e r op a n t w)
    (u.coreAt c).bteAt e = some r' ∧ ∃ z, u.accs = s.accs ++ [z] ∧ z.va = a ∧ z.size = n ∧ z.op = op ∧
      z.holder = .cmd r.cmd.site ∧ z.dest = .engine e t :=
  ⟨(bteAt_of_blocksAt (startAcc_blocksAt ..) e).trans (bteGo_bteAt s c e i _ he), startAcc_accs ..⟩

/-- A GTW asks for the bytes that run on from its next one (R281, R288). -/
theorem bteReadIssue_request {a : Addr} (ha : r.byteAddr r.issued = some a) :
    let n := r.runFrom a r.issued 63 + 1
    s.bteReadIssue c e r = (s.bteGo c e (.bteRequestIssue c e) { r with issued := r.issued + n }).startAcc
      (bteAcc s c e r .load a n r.issued false) := by
  simp [State.bteReadIssue, ha]

/-- A WTG writes the source bytes that go to where its next one and those that run on from it go (R281, R289). -/
theorem bteWriteIssue_request {a : Addr} {bs : List Byte} (hop : cmdOp r.cmd.cmd = 0x42)
    (ha : r.byteAddr r.issued = some a)
    (hb : (s.coreAt c).sourceBytes 18 r r.issued (r.runFrom a r.issued 63 + 1) = .ready bs) :
    let n := r.runFrom a r.issued 63 + 1
    let s' := s.useSource c r r.issued n
    s.bteWriteIssue c e r = (s'.bteGo c e (.bteRequestIssue c e) { r with issued := r.issued + n }).startAcc
      (bteAcc s' c e r (.store bs) a n r.issued true) := by
  simp [State.bteWriteIssue, ha, hop, hb]

/-- The request that a GTW or WTG sends (R281, R288, R289). -/
theorem exec_bteRequestIssue_request (hr : (s.coreAt c).bteAt e = some r) (hstop : (s.coreAt c).stop = .none)
    (hhold : r.hold = false) (hf : r.failing = none) (ht : r.issued < r.cmd.total)
    (hop : cmdOp r.cmd.cmd = 0x41 ∨ cmdOp r.cmd.cmd = 0x42) {a : Addr} (ha : r.byteAddr r.issued = some a)
    {bs : List Byte} (hb : cmdOp r.cmd.cmd = 0x42 →
      (s.coreAt c).sourceBytes 18 r r.issued (r.runFrom a r.issued 63 + 1) = .ready bs) :
    let r' := { r with issued := r.issued + (r.runFrom a r.issued 63 + 1) }
    ∃ u, exec (.bteRequestIssue c e) s = .next u ∧ (u.coreAt c).bteAt e = some r' ∧
      ∃ z, u.accs = s.accs ++ [z] ∧ z.va = a ∧ z.size = r.runFrom a r.issued 63 + 1 ∧
        z.op = (if cmdOp r.cmd.cmd = 0x42 then .store bs else .load) ∧ z.holder = .cmd r.cmd.site ∧
        z.dest = .engine e r.issued := by
  refine ⟨_, exec_bteRequestIssue hr hstop hhold hf ht hop, ?_⟩
  by_cases h : cmdOp r.cmd.cmd = 0x42
  · simp only [if_pos h]
    rw [bteWriteIssue_request h ha (hb h), ← useSource_accs (s := s) (c := c) (r := r)]
    exact request_leaves (bteAt_lt hr) _ _ _ _ _ _ _
  · simp only [if_neg h]
    rw [bteReadIssue_request ha]
    exact request_leaves (bteAt_lt hr) _ _ _ _ _ _ _

/-- Bytes out of bounds come as zeros, without a request (R284, R288). -/
theorem exec_bteRequestIssue_outside (hr : (s.coreAt c).bteAt e = some r) (hstop : (s.coreAt c).stop = .none)
    (hhold : r.hold = false) (hf : r.failing = none) (ht : r.issued < r.cmd.total)
    (hop : cmdOp r.cmd.cmd = 0x41) (ha : r.byteAddr r.issued = none) :
    ∃ u, exec (.bteRequestIssue c e) s = .next u ∧ u.accs = s.accs ∧ ∃ r' n, (u.coreAt c).bteAt e = some r' ∧ 0 < n ∧
      r'.issued = r.issued + n ∧ tget [] r'.got r.issued = List.replicate n 0 := by
  refine ⟨_, exec_bteRequestIssue hr hstop hhold hf ht (.inl hop), ?_⟩
  rw [if_neg (by rw [hop]; decide)]
  simp only [State.bteReadIssue, ha]
  exact ⟨rfl, _, r.outFrom r.issued 63 + 1, bteGo_bteAt _ _ _ _ _ (bteAt_lt hr), Nat.succ_pos _, rfl, by simp⟩

/-! ## Fills (R286) -/

/-- The element at the tail holds the bytes that were written. -/
theorem tgets_writeElem (k : Core) (x : Win) (o : Nat) {bs : List Byte} (h : bs.length = x.esize) :
    tgets 0 (k.writeElem x o bs).wstore (elemAddr x o) x.esize = bs := by
  show tgets 0 (tputs 0 _ (x.addr o) (bs.take x.esize)) (x.addr o) x.esize = bs
  rw [List.take_of_length_le (by omega), ← h, tgets_tputs]

theorem fillsStore_plain {x : Win} (hm : x.mode = .plain) (h : x.ext < x.cap.toNat) : x.fillsStore = true := by
  simp [Win.fillsStore, hm, h]

/-- A command whose next element is there, and finds room, fills it (R286). -/
theorem bteFill_room {k : Core} {x : Win} (hk : s.coreAt c = k) (hx : k.winAt (cmdDstw r.cmd.cmd) = x)
    (hv : x.v = true) (hheld : x.held = false) (hm : x.mode = .plain) (hroom : x.ext < x.cap.toNat)
    (hu : Unwatched k (cmdDstw r.cmd.cmd)) (hd : r.cmd.doneb.toNat + x.esize ≤ r.cmd.total)
    (hb : x.esize ≤ (contiguous r.got r.cmd.doneb.toNat).length) :
    ∃ i, s.bteFill c e r = ((s.bteGo c e (.bteElementFill c e)
      { r with
        got := dropFront r.got x.esize
        cmd := { r.cmd with doneb := BitVec.ofNat 32 (r.cmd.doneb.toNat + x.esize) } }).fillWin c
          (cmdDstw r.cmd.cmd) ((contiguous r.got r.cmd.doneb.toNat).take x.esize) r.cmd.site
          (issuerOf r.cmd.site)).post i := by
  have hpos : 0 < x.esize := Nat.two_pow_pos _
  have hmore : (decide ((contiguous r.got r.cmd.doneb.toNat).length < x.esize) ||
      decide (r.cmd.total ≤ r.cmd.doneb.toNat)) = false := by simp; omega
  have hfits : x.engineFills = true := by simp [Win.engineFills, hv, hm]
  have hfill : k.fillRoom (cmdDstw r.cmd.cmd) = true :=
    fillRoom_unwatched k _ (by rw [hx]; exact fillsStore_plain hm hroom) hu
  unfold State.bteFill
  simp only [hk, hx, hmore, hfits, hheld, hfill]
  exact ⟨_, rfl⟩

/-- A fill that takes its bytes writes them to the tail slot and raises FILL (R23, R25). -/
theorem takes_fill {t : State} {w : Nat} {bs : List Byte} (h : Takes s t c w bs)
    (hb : bs.length = (s.winAt c w).esize) :
    (t.winAt c w).fill = (s.winAt c w).fill + 1 ∧
      tgets 0 (t.coreAt c).wstore (elemAddr (s.winAt c w) (s.winAt c w).ext) (s.winAt c w).esize = bs := by
  obtain ⟨l, o, m, hw⟩ := h.core.win
  refine ⟨congrArg Win.fill hw, ?_⟩
  rw [h.core.wstore]
  exact tgets_writeElem _ _ _ hb

/-- A GTW whose next element is there, and finds room, fills it and counts its bytes (R286, R292). -/
theorem exec_bteElementFill_room (hr : (s.coreAt c).bteAt e = some r) (hstop : (s.coreAt c).stop = .none)
    (hop : cmdOp r.cmd.cmd = 0x41) {x : Win} (hx : s.winAt c (cmdDstw r.cmd.cmd) = x) (hv : x.v = true)
    (hheld : x.held = false) (hm : x.mode = .plain) (hroom : x.ext < x.cap.toNat)
    (hu : Unwatched (s.coreAt c) (cmdDstw r.cmd.cmd)) (hd : r.cmd.doneb.toNat + x.esize ≤ r.cmd.total)
    (ht : r.cmd.total < 2 ^ 32) (hb : x.esize ≤ (contiguous r.got r.cmd.doneb.toNat).length) :
    ∃ u, exec (.bteElementFill c e) s = .next u ∧ (u.winAt c (cmdDstw r.cmd.cmd)).fill = x.fill + 1 ∧
      tgets 0 (u.coreAt c).wstore (elemAddr x x.ext) x.esize =
        (contiguous r.got r.cmd.doneb.toNat).take x.esize ∧
      ∃ r', (u.coreAt c).bteAt e = some r' ∧ r'.cmd.doneb.toNat = r.cmd.doneb.toNat + x.esize := by
  obtain ⟨i, hi⟩ := bteFill_room (e := e) rfl hx hv hheld hm hroom hu hd hb
  have hexec : exec (.bteElementFill c e) s = .next (s.bteFill c e r) := by
    show execBteElementFill c e s = _
    simp [execBteElementFill, hr, hop, writesGlobal, readsSource, fillsHere, Core.portsRun, hstop]
  refine ⟨_, hexec.trans (by rw [hi]), ?_⟩
  generalize hr' : ({ r with
    got := dropFront r.got x.esize
    cmd := { r.cmd with doneb := BitVec.ofNat 32 (r.cmd.doneb.toNat + x.esize) } } : BteRun) = r'
  have hcore : (s.bteGo c e (.bteElementFill c e) r').coreAt c =
      { s.coreAt c with bte := (s.coreAt c).bte.setIfInBounds e (some r') } := coreAt_setCore_self ..
  have hwin : (s.bteGo c e (.bteElementFill c e) r').winAt c (cmdDstw r.cmd.cmd) = x := by
    rw [State.winAt, hcore]
    exact hx
  have htakes := fillWin_takes (s.bteGo c e (.bteElementFill c e) r') c (cmdDstw r.cmd.cmd)
    ((contiguous r.got r.cmd.doneb.toNat).take x.esize) r.cmd.site (issuerOf r.cmd.site)
    (by rw [hwin]; exact fillsStore_plain hm hroom) (by rw [hcore]; exact hu)
  obtain ⟨hfill, hbytes⟩ := takes_fill (takes_post htakes i) (by rw [hwin, List.length_take]; omega)
  rw [hwin] at hfill hbytes
  refine ⟨hfill, hbytes, r', ?_, ?_⟩
  · exact (bteAt_of_blocksAt ((post_blocksAt ..).trans (fillWin_blocksAt ..)) e).trans
      (bteGo_bteAt _ _ _ _ _ (bteAt_lt hr))
  · rw [← hr', BitVec.toNat_ofNat, Nat.mod_eq_of_lt (by omega)]

/-! ## Ends (R210, R212, R291, R294) -/

theorem doneWin_isSome {x : Wide} (h : cmdDone x = true) : (doneWin x).isSome := by
  unfold doneWin
  rw [h]
  simp only [Bool.not_true, Bool.false_eq_true, if_false]
  split
  · rfl
  · split <;> rfl

/-- What the end of a command leaves: its engine slot free, and the done element it owes, where it asks for one (R210,
R212). -/
def Over (u : State) (c e : Nat) (x : Cmd) (f st : Bool) : Prop :=
  (u.coreAt c).bteAt e = none ∧ (cmdDone x.cmd = true → ∃ z ∈ (u.coreAt c).ended, z.cmd = x ∧ z.dw = doneWin x.cmd ∧
    z.fault = f ∧ z.stop = st)

theorem over_of_blocksAt {u : State} {b : Vector (Option BteRun) 4} {l : List Ended} {x : Cmd} {f st : Bool}
    (h : u.blocksAt c = (b, l)) (hb : vget none b e = none) {z : Ended} (hz : cmdDone x.cmd = true → z ∈ l)
    (hx : z.cmd = x ∧ z.dw = doneWin x.cmd ∧ z.fault = f ∧ z.stop = st) : Over u c e x f st := by
  obtain ⟨rfl, rfl⟩ := Prod.mk.inj h
  exact ⟨hb, fun hdone => ⟨z, hz hdone, hx⟩⟩

/-- A command of a free engine slot ends (R212). -/
theorem over_endCommand {t : State} (hr : (t.coreAt c).bteAt e = none) (x : Cmd) (p : Port) (f st sl : Bool) :
    Over (t.endCommand c x p f st sl) c e x f st := by
  unfold State.endCommand
  extract_lets census s1 s2 k z s3 k2
  have hk : vget none k.bte e = none := by
    refine (bteAt_of_blocksAt (?_ : s2.blocksAt c = t.blocksAt c) e).trans hr
    rw [releaseClaims_blocksAt, dropEdges_blocksAt]
  have hk2 : k2.bte = k.bte := congrArg Prod.fst (trace_blocksAt ..)
  split
  · refine over_of_blocksAt (b := k.bte) (l := k.ended ++ [z]) (z := z) ?_ hk (fun _ => by simp) ⟨rfl, rfl, rfl, rfl⟩
    show State.blocksAt (s2.setCore c { k with ended := k.ended ++ [z] }) c = _
    rw [State.blocksAt, coreAt_setCore_self]
  · refine over_of_blocksAt (b := k2.bte) (l := if z.dw.isSome then k2.ended ++ [z] else k2.ended) (z := z) ?_
      (by rw [hk2]; exact hk) (fun hdone => ?_) ⟨rfl, rfl, rfl, rfl⟩
    · rw [post_blocksAt, breakpoint_blocksAt, State.blocksAt, coreAt_setCore_self]
    · rw [if_pos (doneWin_isSome hdone)]
      simp

theorem over_failCommand {t : State} (hr : (t.coreAt c).bteAt e = none) (x : Cmd) (p : Port) (ws : List Nat)
    (cls : Nat) (v : Word) (va : Addr) (sl : Bool) : Over (t.failCommand c x p ws cls v va sl) c e x true false := by
  refine over_endCommand ?_ x p true false sl
  refine (bteAt_of_blocksAt ?_ e).trans hr
  rw [State.engineReport, report_blocksAt]
  refine Eq.trans ?_ (poisonAll_blocksAt t c c ws cls x.site v)
  exact setCore_blocksAt rfl

/-- A block transfer that ends in a fault leaves its engine slot, and its done element carries the fault (R294). -/
theorem over_bteEnd (s : State) (c : Nat) {e : Nat} (he : e < 4) (r : BteRun) (cls : Nat) (v : Word) (va : Addr) :
    Over (s.bteEnd c e r cls v va) c e r.cmd true false := by
  have hr : ((s.setBte c e none).coreAt c).bteAt e = none := (setBte_bteAt s c e e none he).trans (if_pos rfl)
  unfold State.bteEnd
  simp only []
  split
  · split
    · exact over_failCommand hr ..
    · exact over_failCommand ((bteAt_of_blocksAt (poisonAll_blocksAt ..) e).trans hr) ..
  · exact over_failCommand hr ..

theorem cmdBusy_iff (s : State) (site : BitVec 46) : s.cmdBusy site = true ↔ ∃ z ∈ s.accs, z.holder = .cmd site := by
  simp [State.cmdBusy]

theorem cmdBusy_false {site : BitVec 46} (h : ∀ z ∈ s.accs, z.holder ≠ .cmd site) : s.cmdBusy site = false := by
  simpa [State.cmdBusy] using h

theorem exec_bteCommandComplete_busy (hr : (s.coreAt c).bteAt e = some r) (h : s.cmdBusy r.cmd.site = true) :
    exec (.bteCommandComplete c e) s = .next s := by
  show execBteCommandComplete c e s = _
  simp [execBteCommandComplete, hr, h]

/-- A command with bytes still to deliver does not complete (R291). -/
theorem exec_bteCommandComplete_early (hr : (s.coreAt c).bteAt e = some r) (hf : r.failing = none)
    (hd : r.cmd.doneb.toNat < r.cmd.total) : exec (.bteCommandComplete c e) s = .next s := by
  show execBteCommandComplete c e s = _
  simp [execBteCommandComplete, hr, hf, hd]

/-- GTW completes once all of its bytes are delivered (R291). -/
theorem exec_bteCommandComplete_gtw (hr : (s.coreAt c).bteAt e = some r) (hf : r.failing = none)
    (hop : cmdOp r.cmd.cmd = 0x41) (hd : r.cmd.total ≤ r.cmd.doneb.toNat) (hfl : r.flight = 0)
    (h : s.cmdBusy r.cmd.site = false) : exec (.bteCommandComplete c e) s =
      .next ((s.setBte c e none).endCommand c r.cmd .bte false false false) := by
  show execBteCommandComplete c e s = _
  simp [execBteCommandComplete, hr, h, hf, hfl, hd, State.owesShrink, readsSource, hop, State.bteLast, usesIndex]

/-- A command that met a fault ends once its accesses are performed and its shrinks are made (R294). -/
theorem exec_bteCommandComplete_failing (hr : (s.coreAt c).bteAt e = some r) {f : Nat × Word × Addr}
    (hf : r.failing = some f) (h : s.cmdBusy r.cmd.site = false) (ho : s.owesShrink c r = false) :
    exec (.bteCommandComplete c e) s = .next (s.bteEnd c e r f.1 f.2.1 f.2.2) := by
  show execBteCommandComplete c e s = _
  simp [execBteCommandComplete, hr, h, hf, ho]

end

end Sys2Proof.Machine
end

section
/-! SUPPORT. Done elements, and the statement about block transfers (R210, R212, R281, R286, R291, R294). -/

namespace Sys2Proof.Machine

open Sys2Proof

/-! ## Done elements (R210, R212) -/

/-- An edge that was added is the wait of an edge that stands there, unless its party's core is halted (R27, R412). -/
theorem addEdge_same (s : State) (e : Edge) (h : (s.coreAt e.party.core).stop ≠ .halted) :
    ∃ x ∈ (s.addEdge e).edges, x.same e = true := by
  have hb : ((s.coreAt e.party.core).stop == .halted) = false := by simpa using h
  unfold State.addEdge
  rw [hb, Bool.or_false]
  by_cases ha : s.edges.any (·.same e) = true
  · rw [if_pos ha]
    exact List.any_eq_true.mp ha
  · rw [if_neg ha]
    exact ⟨e, by simp, by simp [Edge.same]⟩

/-- Of one fill that is owed, it is the turn. -/
theorem turns_single (s : State) (e : Ended) (i : Instr) : s.turns [e] i = [e] := by
  unfold State.turns
  simp only []
  by_cases h : (s.edges.any fun x => x.party == .cmd e.cmd.site && x.retry == some i) = true <;> simp [h]

section
variable {s : State} {c w : Nat} {e : Ended}

/-- The one done element a core owes is tried. -/
theorem exec_doneElementFill_single (he : (s.coreAt c).ended = [e]) (hstop : (s.coreAt c).stop = .none)
    (hc : e.census = false) (hw : e.dw = some w) : exec (.doneElementFill c) s = .next (s.fillDone c e) := by
  have howes : (s.coreAt c).owesDone = [e] := by simp [Core.owesDone, he, hc, hw]
  show execDoneElementFill c s = _
  simp [execDoneElementFill, howes, turns_single, State.doneFills, hstop]

/-- A done element that finds no room waits with an edge (R27, R212). -/
theorem fillDone_full (hw : e.dw = some w) (hv : (s.winAt c w).v = true) (hz : (s.winAt c w).esz = 1)
    (hm : (s.winAt c w).mode = .plain) (hfull : (s.winAt c w).ext = (s.winAt c w).cap.toNat) :
    s.fillDone c e = s.addEdge (cmdFillEdge c w e.cmd.site (.doneElementFill c)) := by
  have hroom : (s.coreAt c).fillRoom w = false := by
    have hstore : ((s.coreAt c).winAt w).fillsStore = false := by
      simp [Win.fillsStore, show ((s.coreAt c).winAt w).cap.toNat ≤ ((s.coreAt c).winAt w).ext from hfull.ge]
    have hring : ((s.coreAt c).winAt w).fillsRing = false := by
      simp [Win.fillsRing, show ((s.coreAt c).winAt w).mode = .plain from hm]
    simp [Core.fillRoom, hstore, hring]
  unfold State.fillDone
  simp [hw, hroom, show ((s.coreAt c).winAt w).v = true from hv, show ((s.coreAt c).winAt w).esz = 1 from hz]

/-- The state from which a done element that finds room is filled: its command owes it no longer. -/
def State.settled (s : State) (c : Nat) (e : Ended) : State :=
  (s.dropRetry (.cmd e.cmd.site) (.doneElementFill c)).setCore c ((s.coreAt c).putEnded { e with dw := none })

theorem fillDone_room (hw : e.dw = some w) (hv : (s.winAt c w).v = true) (hz : (s.winAt c w).esz = 1)
    (hheld : (s.winAt c w).held = false) (hroom : (s.coreAt c).fillRoom w = true) : s.fillDone c e =
      (s.settled c e).fillWin c w (bytesOf 8 e.doneElem.toNat) e.cmd.site (issuerOf e.cmd.site) := by
  unfold State.fillDone
  simp [hw, hroom, show ((s.coreAt c).winAt w).v = true from hv, show ((s.coreAt c).winAt w).esz = 1 from hz,
    show ((s.coreAt c).winAt w).held = false from hheld, State.settled]

theorem settled_coreAt (s : State) (c d : Nat) (e : Ended) : (s.settled c e).coreAt d =
    if d = c then (s.coreAt c).putEnded { e with dw := none } else s.coreAt d := coreAt_setCore ..

/-- A fill from the settled state is a fill, of all that a fill is said to change. -/
theorem takes_settled {t : State} {bs : List Byte} (h : Takes (s.settled c e) t c w bs) : Takes s t c w bs := by
  have hc : (s.settled c e).coreAt c = (s.coreAt c).putEnded { e with dw := none } := by rw [settled_coreAt, if_pos rfl]
  obtain ⟨⟨hslots, hpend, hwin, hwins, hstore⟩, hcores, hmem, hcur, hslot⟩ := h
  rw [hc] at hslots hpend hwin hwins hstore
  exact ⟨⟨hslots, hpend, hwin, hwins, hstore⟩,
    fun d hd => by rw [hcores d hd, settled_coreAt, if_neg hd], hmem, hcur, hslot⟩

theorem settled_ended (he : (s.coreAt c).ended = [e]) (hc : e.census = false) :
    ((s.settled c e).coreAt c).ended = [] := by
  rw [settled_coreAt, if_pos rfl]
  simp [Core.putEnded, he, hc]

/-- What a done element says (R210). -/
theorem doneElem_eq (e : Ended) :
    e.doneElem = BitVec.ofNat 64 (2 ^ 63 * e.fault.toNat + 2 ^ 62 * e.stop.toNat + e.cmd.site.toNat) := by
  unfold Ended.doneElem
  cases e.fault <;> cases e.stop <;> rfl

/-- A done element that finds room is filled (R210, R212). -/
theorem doneElement_filled (he : (s.coreAt c).ended = [e]) (hc : e.census = false) (hw : e.dw = some w)
    (hv : (s.winAt c w).v = true) (hz : (s.winAt c w).esz = 1) (hheld : (s.winAt c w).held = false)
    (hm : (s.winAt c w).mode = .plain) (hu : Unwatched (s.coreAt c) w)
    (hlt : (s.winAt c w).ext < (s.winAt c w).cap.toNat) :
    ((s.fillDone c e).coreAt c).ended = [] ∧ Filled s (s.fillDone c e) c w e.doneElem := by
  have hstore := fillsStore_plain hm hlt
  rw [fillDone_room hw hv hz hheld (fillRoom_unwatched _ w hstore hu)]
  constructor
  · rw [ended_of_blocksAt (fillWin_blocksAt ..), settled_ended he hc]
  · have hcore : (s.settled c e).coreAt c = (s.coreAt c).putEnded { e with dw := none } := by
      rw [settled_coreAt, if_pos rfl]
    have hwin : (s.settled c e).winAt c w = s.winAt c w := by rw [State.winAt, hcore]; rfl
    have hbytes : bytesOf 8 e.doneElem.toNat = scalarBytes (s.winAt c w) e.doneElem := by
      simp [scalarBytes, Win.esize, hz]
    rw [hbytes]
    exact filled_of_takes (takes_settled (fillWin_takes _ c w _ _ _ (by rw [hwin]; exact hstore)
      (by rw [hcore]; exact hu)))

end

/-! ## The statement -/

/-- An event that writes no memory leaves memory as it was, beside what else it leaves. -/
theorem leaves_mem {i : Instr} {s : State} {p : State → Prop} (hi : writesMem i = false)
    (h : ∃ u, exec i s = .next u ∧ p u) : ∃ u, exec i s = .next u ∧ u.mem = s.mem ∧ p u := by
  obtain ⟨u, hu, hp⟩ := h
  have hm := exec_mem i s hi
  rw [hu] at hm
  exact ⟨u, hu, hm, hp⟩

/-- Settles O47, by the equation of each event of a block transfer, and by what it leaves of its engine slot. -/
theorem blockTransfers : Obligations.BlockTransfers := by
  unfold Obligations.BlockTransfers
  refine ⟨fun s c x rest hq hs hd p hp hop => ⟨fun e he => ?_, fun he => ?_, fun f y hy hleft hx hsame => ?_⟩,
    fun s c e r a bs hr hstop hhold => ⟨fun hf => ⟨?_, ?_, ?_, ?_, ?_⟩, fun f hf => ⟨?_, ?_, ?_⟩⟩,
    fun s c w e he hstop hc hw hv hz hheld hm hu => ⟨fun hlt => ?_, fun hfull hsite => ?_⟩⟩
  · obtain ⟨hlt, hbelow, hfree⟩ := bteSlot_some he
    refine ⟨hlt, hbelow, hfree, _, ?_, bteStart_leaves hq hlt⟩
    rw [exec_bteStart s c p hp, ← hop, bteStart_slot hq hs hd he]
  · rw [Leaves, exec_bteStart s c p hp, ← hop, bteStart_none hq hs he]
  · exact bteSlot_held hy hleft hx hsame
  · intro hop ht ha hb
    obtain ⟨hle, hend, hrun⟩ := runFrom_runsOn r 63 ha ht
    refine leaves_mem rfl ?_
    obtain ⟨u, hu, hr', z, hacc, hva, hsize, hzop, hholder, hdest⟩ :=
      exec_bteRequestIssue_request hr hstop hhold hf ht hop ha hb
    exact ⟨u, hu, z, _, hacc, hr', by rw [hsize], rfl, hva, hholder, hdest, by omega, by omega, by omega,
      fun i hi => hrun i (by omega), hzop⟩
  · intro hop ht ha
    exact leaves_mem rfl (exec_bteRequestIssue_outside hr hstop hhold hf ht hop ha)
  · intro hop hv hheld hm hroom hu hd ht hb
    exact leaves_mem rfl (exec_bteElementFill_room hr hstop hop rfl hv hheld hm hroom hu hd ht hb)
  · intro hop hd hfl hacc
    refine leaves_mem rfl ⟨_, exec_bteCommandComplete_gtw hr hf hop hd hfl (cmdBusy_false hacc), ?_⟩
    obtain ⟨hnone, hended⟩ := over_endCommand (t := s.setBte c e none)
      ((setBte_bteAt s c e e none (bteAt_lt hr)).trans (if_pos rfl)) r.cmd .bte false false false
    exact ⟨hnone, hended⟩
  · exact fun hd => exec_bteCommandComplete_early hr hf hd
  · exact exec_bteRequestIssue_failing hr (by rw [hf]; rfl)
  · exact fun hacc => exec_bteCommandComplete_busy hr ((cmdBusy_iff ..).mpr hacc)
  · intro hacc ho
    refine leaves_mem rfl ⟨_, exec_bteCommandComplete_failing hr hf (cmdBusy_false hacc) ho, ?_⟩
    obtain ⟨hnone, hended⟩ := over_bteEnd s c (bteAt_lt hr) r f.1 f.2.1 f.2.2
    refine ⟨hnone, fun hdone => ?_⟩
    obtain ⟨z, hz, hcmd, hdw, hfault, -⟩ := hended hdone
    exact ⟨z, hz, hcmd, hdw, hfault⟩
  · rw [← doneElem_eq]
    exact ⟨_, exec_doneElementFill_single he hstop hc hw, doneElement_filled he hc hw hv hz hheld hm hu hlt⟩
  · refine ⟨_, exec_doneElementFill_single he hstop hc hw, ?_⟩
    rw [fillDone_full hw hv hz hm hfull]
    have hcores := addEdge_cores s (cmdFillEdge c w e.cmd.site (.doneElementFill c))
    refine ⟨by rw [coreAt_of_cores hcores, he], ?_, winAt_of_cores hcores c w, addEdge_mem ..⟩
    obtain ⟨x, hx, hsame⟩ := addEdge_same s (cmdFillEdge c w e.cmd.site (.doneElementFill c)) (by
      show (s.coreAt (siteCore e.cmd.site)).stop ≠ .halted
      rw [hsite, hstop]
      decide)
    simp only [Edge.same, Bool.and_eq_true, beq_iff_eq] at hsame
    obtain ⟨⟨⟨⟨⟨hparty, -⟩, hcore⟩, hwin⟩, hkind⟩, -⟩ := hsame
    exact ⟨x, hx, hparty, hkind, hcore, hwin⟩

end Sys2Proof.Machine
end

section
/-! SUPPORT. Cancelling the launch of a group, and the statement about launch units (R162, R420). -/

namespace Sys2Proof.Machine

open Sys2Proof

/-- A device that does not run cancels nothing (R420). -/
theorem exec_gidCancel_down (s : State) (gid : BitVec 16) (h : s.device.dev ≠ .running) :
    exec (.gidCancel gid) s = .next s := by
  show execGidCancel gid s = _
  unfold execGidCancel
  simp only []
  split
  · rfl
  · rw [if_pos (.inr (.inl h))]

/-- The reset device, which has not booted, where unit 0 holds the record of the one part of group 1. -/
def heldRecord : State :=
  State.reset.setUnit 0 { LaunchUnit.init with stage := .read, record := [0, 0, 0, 0x1000001] }

theorem heldRecord_unit :
    heldRecord.unitAt 0 = { LaunchUnit.init with stage := .read, record := [0, 0, 0, 0x1000001] } := by
  simp [heldRecord, State.setUnit, State.unitAt]

/-- Refutes O55: the clause about cancelling a group does not ask that the device runs. Where it does not, the unit of
`heldRecord` holds a record of group 1 and no failure of the group is noted, so that the clause has the cancellation
note one; but the event changes nothing there. -/
theorem not_launch : ¬Obligations.Launch := by
  unfold Obligations.Launch
  rintro ⟨hunits, -⟩
  obtain ⟨-, -, -, -, -, -, -, hcancel, -⟩ := hunits heldRecord 0 0 0 1 0 false
  have hbusy : (heldRecord.unitAt 0).stage ≠ .idle := by rw [heldRecord_unit]; decide
  have hgid : recGid (heldRecord.unitAt 0).record = (1#16).toNat := by rw [heldRecord_unit]; decide
  obtain ⟨t, n, ht, hnoted, -, -⟩ := hcancel (by decide) (fun e he => nomatch he) hbusy hgid (by decide)
  rw [exec_gidCancel_down heldRecord 1 (by decide)] at ht
  cases ht
  exact List.cons_ne_nil _ _ hnoted.symm

end Sys2Proof.Machine
end

section
/-! SUPPORT. What an ISS comes to: its command joins the queue of its port, or it waits, or it faults (R75, R79, R209,
R280). -/

set_option Elab.async false

namespace Sys2Proof.Machine

open Sys2Proof

/-! ## The checks of an ISS (R78, R79) -/

/-- An opcode that no port has fails the first check. -/
theorem issueFault_reserved {x : Wide} (k : Core) (c : Nat) (sup : Bool) (p : Port) (h : opPort (cmdOp x) = none) :
    issueFault k c sup p x = some 1 := by
  simp only [issueFault, h]

/-- An opcode of another port fails the second check. -/
theorem issueFault_otherPort {x : Wide} {p q : Port} (k : Core) (c : Nat) (sup : Bool)
    (h : opPort (cmdOp x) = some q) (hq : q ≠ p) : issueFault k c sup p x = some 2 := by
  simp only [issueFault, h, if_pos hq]

/-- OP is the low byte of a command (R77). -/
theorem cmdOp_eq (x : Wide) : cmdOp x = x.toNat % 256 := by simp [cmdOp, cf]

/-! ## The queues of the ports (R209) -/

section
variable (k : Core) (p : Port) (q : List Cmd)

@[simp] theorem setQueue_slots : (k.setQueue p q).slots = k.slots := by cases p <;> rfl
@[simp] theorem setQueue_wins : (k.setQueue p q).wins = k.wins := by cases p <;> rfl
@[simp] theorem setQueue_seq : (k.setQueue p q).seq = k.seq := by cases p <;> rfl
@[simp] theorem setQueue_trc : (k.setQueue p q).trc = k.trc := by cases p <;> rfl
@[simp] theorem setQueue_dbgctl : (k.setQueue p q).dbgctl = k.dbgctl := by cases p <;> rfl
@[simp] theorem setQueue_queue_self : (k.setQueue p q).queue p = q := by cases p <;> rfl

theorem setQueue_queue_other {o : Port} (h : o ≠ p) : (k.setQueue p q).queue o = k.queue o := by
  cases p <;> cases o <;> simp [Core.setQueue, Core.queue] at h ⊢

@[simp] theorem setSlot_queue (t : Nat) (sl : Slot) : (k.setSlot t sl).queue p = k.queue p := by cases p <;> rfl

end

/-! ## A command joins its queue (R209, R280) -/

/-- A core whose trace unit is off forms no trace record (R407). -/
theorem trace_off {s : State} {c : Nat} (r : TraceRec) (h : (s.coreAt c).trc.v = false) : s.trace c r = s := by
  simp [State.trace, h]

/-- A core whose site breakpoints are off meets none (R411). -/
theorem breakpoint_off {s : State} {c : Nat} (ev : Nat) (site : BitVec 46)
    (h : (s.coreAt c).dbgctl.getLsbD 0 = false) : s.breakpoint c ev site = s := by
  simp only [State.breakpoint, Core.breaks, h, Bool.false_and, Bool.false_eq_true, if_false]

/-- A core that counted an issue and took a command into the queue of a port. -/
def Core.joined (k : Core) (p : Port) (q : Cmd) : Core :=
  { k with seq := k.seq + 1 }.setQueue p (k.queue p ++ [q])

section
variable (k : Core) (p : Port) (q : Cmd)

@[simp] theorem joined_queue_self : (k.joined p q).queue p = k.queue p ++ [q] := setQueue_queue_self ..
@[simp] theorem joined_seq : (k.joined p q).seq = k.seq + 1 := setQueue_seq ..
@[simp] theorem joined_slotAt (t : Nat) : (k.joined p q).slotAt t = k.slotAt t := by
  simp [Core.slotAt, Core.joined]
@[simp] theorem joined_winAt (w : Nat) : (k.joined p q).winAt w = k.winAt w := by simp [Core.winAt, Core.joined]

theorem joined_queue_other {o : Port} (h : o ≠ p) : (k.joined p q).queue o = k.queue o :=
  (setQueue_queue_other _ p _ h).trans (by cases o <;> rfl)

end

/-- The command that an ISS of a slot makes (R280, R282). -/
def State.issued (s : State) (c t : Nat) (x : Wide) : Cmd where
  cmd := x
  site := s.siteOf c t
  shape := (s.coreAt c).shapeOf x
  doneb := 0
  owed := 0
  nan := 0
  inf := 0
  sat := 0
  unf := 0

/-- The state with other events to come. -/
def State.setAgenda (s : State) (l : List Instr) : State := { s with agenda := l }

/-- Where neither tracing nor a breakpoint looks on, a command that is issued only joins its queue, and its start is
due. -/
theorem enqueue_quiet {s : State} {c : Nat} (t : Nat) (p : Port) (x : Wide) (htrc : (s.coreAt c).trc.v = false)
    (hdbg : (s.coreAt c).dbgctl.getLsbD 0 = false) :
    ∃ l, s.enqueue c t p x = (s.setCore c ((s.coreAt c).joined p (s.issued c t x))).setAgenda l := by
  unfold State.enqueue
  dsimp only
  rw [trace_off _ (by simpa), breakpoint_off _ _ (by simpa)]
  split <;> exact ⟨_, rfl⟩

/-! ## The instruction -/

/-- An ISS with no access before it goes on from a state that differs in the claim tables alone (R262). -/
theorem exec_iss_quiet {s : State} (r : BitVec 3) (p : Port) (hs : s.quiet s.cur s.slot = true) :
    ∃ ds, exec (.iss r p) s = finish s (issOut r p (s.setDies ds)) := by
  obtain ⟨ds, hd⟩ := released_only s (issOut r p) hs
  exact ⟨ds, congrArg (finish s) hd⟩

/-- The wait edge of an ISS whose port is full (R209). -/
def portEdge (s : State) (p : Port) : Edge where
  party := .task s.cur s.slot
  at_ := s.cur
  kind := .port
  core := s.cur
  win := p.code
  level := 0
  arg := 0
  site := s.siteOf s.cur s.slot
  retry := none
  reported := false

section
variable {s : State} {r : BitVec 3} {p : Port}

/-- An ISS that fails a check faults. -/
theorem issOut_fault {n : Nat} (h : issueFault (s.coreAt s.cur) s.cur s.me.sup p (s.me.readK r) = some n) :
    issOut r p s = .trap (issueTrap r p n (s.me.readK r)) := by
  simp only [issOut, h]

/-- An ISS to a full port waits. -/
theorem issOut_full (h : issueFault (s.coreAt s.cur) s.cur s.me.sup p (s.me.readK r) = none)
    (hfull : 8 ≤ ((s.coreAt s.cur).queue p).length) : issOut r p s = .hold (s.waitMe .again (portEdge s p)) := by
  simp only [issOut, h, if_pos hfull]
  rfl

/-- An ISS to a port with room queues its command. -/
theorem issOut_room (h : issueFault (s.coreAt s.cur) s.cur s.me.sup p (s.me.readK r) = none)
    (hroom : ((s.coreAt s.cur).queue p).length < 8) :
    issOut r p s = .done (s.enqueue s.cur s.slot p (s.me.readK r)) := by
  simp only [issOut, h, if_neg (Nat.not_le.mpr hroom)]

/-- An ISS that faults takes the command fault with the first WHY that applies (R79). -/
theorem traps_iss {n : Nat} (hs : s.quiet s.cur s.slot = true)
    (h : issueFault (s.coreAt s.cur) s.cur s.me.sup p (s.me.readK r) = some n) :
    Traps (.iss r p) s (issueTrap r p n (s.me.readK r)) := by
  obtain ⟨ds, hd⟩ := exec_iss_quiet r p hs
  rw [Traps, hd, issOut_fault (s := s.setDies ds) h, finish_trap]
  rfl

/-- An ISS to a full port puts its slot into the waiting state with an edge that names the port (R27, R209). -/
theorem exec_iss_full (hs : s.quiet s.cur s.slot = true)
    (h : issueFault (s.coreAt s.cur) s.cur s.me.sup p (s.me.readK r) = none)
    (hfull : 8 ≤ ((s.coreAt s.cur).queue p).length) (hn : HasNext s) :
    ∃ ds, exec (.iss r p) s = .next ((s.setDies ds).waitMe .again (portEdge s p)) := by
  obtain ⟨ds, hd⟩ := exec_iss_quiet r p hs
  refine ⟨ds, ?_⟩
  rw [hd, issOut_full (s := s.setDies ds) h hfull, finish]
  simp only [show s.me.fallsOut = false from hn]
  rfl

/-- An ISS to a port with room moves its slot on, and its command joins the queue (R209). -/
theorem exec_iss_room (hs : s.quiet s.cur s.slot = true)
    (h : issueFault (s.coreAt s.cur) s.cur s.me.sup p (s.me.readK r) = none)
    (hroom : ((s.coreAt s.cur).queue p).length < 8) (hn : HasNext s) (htrc : (s.coreAt s.cur).trc.v = false)
    (hdbg : (s.coreAt s.cur).dbgctl.getLsbD 0 = false) :
    ∃ ds l, exec (.iss r p) s = .next ((((s.setDies ds).setCore s.cur
      ((s.coreAt s.cur).joined p (s.issued s.cur s.slot (s.me.readK r)))).setAgenda l).advance s.cur s.slot) := by
  obtain ⟨ds, hd⟩ := exec_iss_quiet r p hs
  obtain ⟨l, hl⟩ := enqueue_quiet (s := s.setDies ds) s.slot p (s.me.readK r) htrc hdbg
  refine ⟨ds, l, ?_⟩
  rw [hd, issOut_room (s := s.setDies ds) h hroom, finish_done _ _ hn]
  exact congrArg (fun u : State => (.next (u.advance u.cur u.slot) : Res)) hl

end

/-- What a command that joins its queue leaves: the queue, SEQ and the issuing slot moved on (R209, R280). -/
theorem joined_leaves (s : State) (ds : Table Die) (l : List Instr) (p : Port) (q : Cmd) :
    let t := (((s.setDies ds).setCore s.cur ((s.coreAt s.cur).joined p q)).setAgenda l).advance s.cur s.slot
    (t.coreAt s.cur).queue p = (s.coreAt s.cur).queue p ++ [q] ∧
      (t.coreAt s.cur).seq = (s.coreAt s.cur).seq + 1 ∧
      (∀ o, o ≠ p → (t.coreAt s.cur).queue o = (s.coreAt s.cur).queue o) ∧ t.me = s.me.advance ∧ t.mem = s.mem ∧
      (∀ c u, ¬(c = s.cur ∧ u = s.slot) → t.slotAt c u = s.slotAt c u) ∧ (∀ c w, t.winAt c w = s.winAt c w) := by
  intro t
  let u := ((s.setDies ds).setCore s.cur ((s.coreAt s.cur).joined p q)).setAgenda l
  have hcore (d : Nat) : u.coreAt d = if d = s.cur then (s.coreAt s.cur).joined p q else s.coreAt d :=
    coreAt_setCore (s.setDies ds) s.cur d _
  have hslot (c v : Nat) : u.slotAt c v = s.slotAt c v := by
    rw [State.slotAt, hcore]
    split
    · subst c
      exact joined_slotAt ..
    · rfl
  have ht : t = u.setSlot s.cur s.slot s.me.advance := congrArg (u.setSlot s.cur s.slot) (congrArg _ (hslot ..))
  have hcur : t.coreAt s.cur = ((s.coreAt s.cur).joined p q).setSlot s.slot s.me.advance := by
    rw [ht, coreAt_setSlot, if_pos rfl, hcore, if_pos rfl]
  refine ⟨by simp [hcur], by simp [hcur], fun o ho => ?_, ?_, by rw [ht]; rfl, fun c v hcv => ?_, fun c w => ?_⟩
  · rw [hcur, setSlot_queue, joined_queue_other _ _ _ ho]
  · rw [ht]
    exact slotAt_setSlot_self ..
  · rw [ht, slotAt_setSlot, if_neg hcv, hslot]
  · rw [ht, setSlot_winAt, State.winAt, hcore]
    split
    · subst c
      exact joined_winAt ..
    · rfl

/-- What an ISS that waits for its port leaves: its edge, and the port as it was (R27, R209). -/
theorem portWait_leaves (s : State) (ds : Table Die) (p : Port) :
    let t := (s.setDies ds).waitMe .again (portEdge s p)
    t.me = { s.me with status := .waiting, wait := some .again } ∧
      ((s.coreAt s.cur).stop ≠ .halted →
        ∃ e ∈ t.edges, e.party = .task s.cur s.slot ∧ e.kind = .port ∧ e.win = p.code) ∧
      (t.coreAt s.cur).queue p = (s.coreAt s.cur).queue p ∧ (t.coreAt s.cur).seq = (s.coreAt s.cur).seq ∧
      t.mem = s.mem := by
  intro t
  let u := (s.setDies ds).setMe { s.me with status := .waiting, wait := some .again }
  have hcore : u.coreAt s.cur = (s.coreAt s.cur).setSlot s.slot { s.me with status := .waiting, wait := some .again } :=
    coreAt_setCore_self ..
  have ht : t.coreAt s.cur = u.coreAt s.cur := coreAt_of_cores (addEdge_cores u (portEdge s p)) _
  refine ⟨?_, fun hstop => ?_, ?_, ?_, addEdge_mem u _⟩
  · show (u.addEdge (portEdge s p)).me = _
    rw [State.me, addEdge_cur, addEdge_slot, slotAt_of_cores (addEdge_cores ..)]
    exact slotAt_setSlot_self ..
  · obtain ⟨e, he, hsame⟩ := addEdge_same u (portEdge s p) (by
      rw [show (portEdge s p).party.core = s.cur from rfl, hcore]
      exact hstop)
    simp only [Edge.same, Bool.and_eq_true, beq_iff_eq] at hsame
    obtain ⟨⟨⟨⟨⟨hparty, -⟩, -⟩, hwin⟩, hkind⟩, -⟩ := hsame
    exact ⟨e, he, hparty, hkind, hwin⟩
  · rw [ht, hcore, setSlot_queue]
  · rw [ht, hcore, Core.setSlot_seq]

/-- Settles O41, by what an ISS that passes its checks, waits or fails a check comes to. -/
theorem commandIssue : Obligations.CommandIssue := by
  unfold Obligations.CommandIssue
  intro s r p hs
  dsimp only
  refine ⟨fun h hroom hn htrc hdbg => ?_, fun h hfull hn => ?_, fun n h => ?_, fun h => ?_, fun q h hq => ?_⟩
  · obtain ⟨ds, l, ht⟩ := exec_iss_room hs h hroom hn htrc hdbg
    obtain ⟨hq, hseq, hrest⟩ := joined_leaves s ds l p (s.issued s.cur s.slot (s.me.readK r))
    exact ⟨_, _, ht, hq, rfl, rfl, rfl, hseq, hrest⟩
  · obtain ⟨ds, ht⟩ := exec_iss_full hs h hfull hn
    exact ⟨_, ht, portWait_leaves s ds p⟩
  · have := traps_iss hs h
    simpa [issueTrap, trapOf, cf] using this
  · exact issueFault_reserved _ _ _ _ (by rwa [cmdOp_eq])
  · exact issueFault_otherPort _ _ _ (by rwa [cmdOp_eq]) hq

end Sys2Proof.Machine
end

section
/-! SUPPORT. What a word that decodes says of the instruction it decodes to: the word is put together again from its
fields, and each field from its code (R61 to R64). -/

set_option Elab.async false

namespace Sys2Proof

/-! ## Words from their fields (R61) -/

@[simp] theorem bits_toNat (v p n : Nat) : (bits v p n).toNat = v / 2 ^ p % 2 ^ n := BitVec.toNat_ofNat ..

@[simp] theorem negBit_negOf (b : BitVec 1) : negBit (negOf b) = b := by
  revert b
  decide

/-- A field from the number it holds. -/
theorem field_eq {n v : Nat} {x : BitVec n} (h : v = x.toNat) : BitVec.ofNat n v = x := by
  rw [h, BitVec.ofNat_toNat, BitVec.setWidth_eq]

/-- A digit above the digits below it. -/
theorem digit_add (v p n : Nat) : v / 2 ^ p % 2 ^ n * 2 ^ p + v % 2 ^ p = v % 2 ^ (p + n) := by
  rw [Nat.pow_add, Nat.mod_mul, Nat.mul_comm, Nat.add_comm]

section
variable (w : Code)

theorem f3Word_f3Of : f3Word (majorOf w) (f3Of w) = w :=
  field_eq <| by
    simp only [majorOf, f3Of, negBit_negOf, bits_toNat, Nat.pow_zero, Nat.div_one, Nat.add_assoc, digit_add,
      Nat.reduceAdd, Nat.mod_eq_of_lt w.isLt]

theorem fiWord_fiOf : fiWord (majorOf w) (fiOf w) = w :=
  field_eq <| by
    simp only [majorOf, fiOf, bits_toNat, Nat.pow_zero, Nat.div_one, Nat.add_assoc, digit_add,
      Nat.reduceAdd, Nat.mod_eq_of_lt w.isLt]

theorem fwWord_fwOf : fwWord (majorOf w) (fwOf w) = w :=
  field_eq <| by
    simp only [majorOf, fwOf, bits_toNat, Nat.pow_zero, Nat.div_one, Nat.add_assoc, digit_add,
      Nat.reduceAdd, Nat.mod_eq_of_lt w.isLt]

theorem fbWord_fbOf : fbWord (majorOf w) (fbOf w) = w :=
  field_eq <| by
    simp only [majorOf, fbOf, negBit_negOf, bits_toNat, Nat.pow_zero, Nat.div_one, Nat.add_assoc, digit_add,
      Nat.reduceAdd, Nat.mod_eq_of_lt w.isLt]

theorem fkWord_fkOf : fkWord (majorOf w) (fkOf w) = w :=
  field_eq <| by
    simp only [majorOf, fkOf, bits_toNat, Nat.pow_zero, Nat.div_one, Nat.add_assoc, digit_add,
      Nat.reduceAdd, Nat.mod_eq_of_lt w.isLt]

theorem fsWord_fsOf : fsWord (majorOf w) (fsOf w) = w :=
  field_eq <| by
    simp only [majorOf, fsOf, bits_toNat, Nat.pow_zero, Nat.div_one, Nat.add_assoc, digit_add,
      Nat.reduceAdd, Nat.mod_eq_of_lt w.isLt]

end

/-! ## Codes from their values -/

theorem code_sizeOf2 {n : Nat} (h : n < 4) : (sizeOf2 n).code = n := by interval_cases n <;> rfl
theorem code_rndOf2 {n : Nat} (h : n < 4) : (rndOf2 n).code = n := by interval_cases n <;> rfl
theorem code_fcondOf {n : Nat} (h : n < 4) : (fcondOf n).code = n := by interval_cases n <;> rfl
theorem code_scopeOf3 {n : Nat} (h : n < 8) : (scopeOf3 n).code = n := by interval_cases n <;> rfl

theorem code_condOf {n : Nat} {c : Cond} (h : condOf n = some c) : c.code = n := by
  unfold condOf at h
  split at h <;> cases h <;> rfl

theorem code_cvtTyOf {n : Nat} {c : CvtTy} (h : cvtTyOf n = some c) : c.code = n := by
  unfold cvtTyOf at h
  split at h <;> cases h <;> rfl

theorem code_levelOf {n : Nat} {l : Level} (h : levelOf n = some l) : l.code = n := by
  unfold levelOf at h
  split at h <;> cases h <;> rfl

theorem code_portOf {n : Nat} {p : Port} (h : portOf n = some p) : p.code = n := by
  unfold portOf at h
  split at h <;> cases h <;> rfl

theorem code_redOpOf {n : Nat} {o : RedOp} (h : redOpOf n = some o) : o.code = n := by
  unfold redOpOf at h
  split at h <;> cases h <;> rfl

theorem code_amoOpOf {n : Nat} {o : AmoOp} (h : amoOpOf n = some o) : o.code = n := by
  unfold amoOpOf at h
  split at h <;> cases h <;> rfl

theorem code_fenceKindOf {n : Nat} {k : FenceKind} (h : fenceKindOf n = some k) : k.code = n := by
  unfold fenceKindOf at h
  split at h <;> cases h <;> rfl

theorem code_tlbKindOf {n : Nat} {k : TlbKind} (h : tlbKindOf n = some k) : k.code = n := by
  unfold tlbKindOf at h
  split at h <;> cases h <;> rfl

theorem code_sgnOf {n : Nat} {o : SgnOp} (h : sgnOf n = some o) : o.code = n := by
  unfold sgnOf at h
  split at h <;> cases h <;> rfl

/-- An order from its scope and order codes (R73). -/
theorem code_orderOf {s n : Nat} {o : Order} (hs : s < 8) (hn : n < 4) (h : orderOf s n = some o) :
    o.code = s * 4 + n := by
  have hc := code_scopeOf3 hs
  interval_cases n
  · simp only [orderOf] at h
    split at h <;> cases h
    subst s
    rfl
  all_goals
    cases h
    rw [Order.code, hc]

/-! ## What a decoder answers -/

/-- What a decoder answers is well-formed and has the word `w`. -/
def Encodes (r : Decoded) (w : Code) : Prop := ∀ i, r = .ok i → i.wf = true ∧ encode i = some w

section
variable {w : Code} {k : Decoded}

theorem Encodes.error (e : Reject) : Encodes (.error e) w := fun _ h => nomatch h

theorem Encodes.ok {i : Instr} (hwf : i.wf = true) (hw : encode i = some w) : Encodes (.ok i) w := by
  rintro _ ⟨⟩
  exact ⟨hwf, hw⟩

theorem Encodes.zeroField {n : Nat} (h : n = 0 → Encodes k w) : Encodes (zeroField n k) w := by
  unfold Sys2Proof.zeroField
  split
  · exact h ‹_›
  · exact .error _

theorem Encodes.need {c : Bool} (h : c = true → Encodes k w) : Encodes (need c k) w := by
  unfold Sys2Proof.need
  split
  · exact h ‹_›
  · exact .error _

theorem Encodes.named {α : Type} {o : Option α} {k : α → Decoded} (h : ∀ x, o = some x → Encodes (k x) w) :
    Encodes (named o k) w := by
  unfold Sys2Proof.named
  split
  · exact h _ rfl
  · exact .error _

theorem Encodes.aReg {x : BitVec 5} {k : BitVec 4 → Decoded} (h : ∀ a, aField a = x → Encodes (k a) w) :
    Encodes (aReg x k) w := by
  unfold Sys2Proof.aReg
  split
  · exact h _ (field_eq (by rw [BitVec.toNat_ofNat]; omega))
  · exact .error _

theorem Encodes.pReg {x : BitVec 5} {k : BitVec 3 → Decoded} (h : ∀ p, pField p = x → Encodes (k p) w) :
    Encodes (pReg x k) w := by
  unfold Sys2Proof.pReg
  split
  · exact h _ (field_eq (by rw [BitVec.toNat_ofNat]; omega))
  · exact .error _

end

/-! ## Words with the fields of a word -/

/-- A field that is zero. -/
theorem zero_eq {n : Nat} {x : BitVec n} (h : x.toNat = 0) : 0#n = x := field_eq h.symm

theorem f3Word_eq {m : BitVec 6} {x : F3} {d a b : BitVec 5} {n : Nat} (hn : n = x.f.toNat) (hd : d = x.d := by rfl)
    (ha : a = x.a := by rfl) (hb : b = x.b := by rfl) :
    some (f3Word m ⟨d, a, b, x.g, BitVec.ofNat 7 n⟩) = some (f3Word m x) := by
  rw [field_eq hn, hd, ha, hb]

theorem fiWord_eq {m : BitVec 6} {x : FI} {d a : BitVec 5} {i : BitVec 16} (hi : i = x.i) (hd : d = x.d := by rfl)
    (ha : a = x.a := by rfl) : some (fiWord m ⟨d, a, i⟩) = some (fiWord m x) := by
  rw [hi, hd, ha]

theorem fwWord_eq {x : FW} {r : BitVec 5} {o : BitVec 3} {i : BitVec 14} (ho : x.m.toNat = o.toNat)
    (hi : i = x.i := by rfl) (hr : r = x.r := by rfl) :
    some (fwWord 0x20#6 ⟨x.w, r, o, i⟩) = some (fwWord 0x20#6 x) := by
  rw [hi, hr, ← BitVec.eq_of_toNat_eq ho]

theorem fkWord_eq {x : FK} {o : BitVec 3} {n : Nat} (ho : x.op.toNat = o.toNat) (hn : n = x.x.toNat) :
    some (fkWord 0x38#6 ⟨x.k, o, BitVec.ofNat 20 n⟩) = some (fkWord 0x38#6 x) := by
  rw [field_eq hn, ← BitVec.eq_of_toNat_eq ho]

theorem sysWord_eq {x : FS} {f : BitVec 6} {a b : BitVec 5} {n : Nat} (hf : x.fn.toNat = f.toNat) (hn : n = x.z.toNat)
    (ha : a = x.x := by rfl) (hb : b = x.y := by rfl) : some (sysWord f a b n) = some (fsWord 0x3F#6 x) := by
  rw [sysWord, field_eq hn, ha, hb, ← BitVec.eq_of_toNat_eq hf]

/-- The major of the integer words of an extension (R66). -/
def Ext.major : Ext → BitVec 6
  | .z => 0x01#6
  | .s => 0x02#6

theorem intWord_eq {x : F3} {b : BitVec 5} {n : Nat} (e : Ext) (hf : x.f.toNat / 4 = n) (hb : b = x.b := by rfl) :
    some (intWord e n (sizeOf2 (x.f.toNat % 4)) x.d x.a b x.g) = some (f3Word e.major x) := by
  have hn : n * 4 + (sizeOf2 (x.f.toNat % 4)).code = x.f.toNat := by
    rw [code_sizeOf2 (by omega)]
    omega
  cases e <;> exact f3Word_eq hn (hb := hb)

/-- The major of the scalar floating-point words of a type (R72). -/
def FpTy.major : FpTy → BitVec 6
  | .f32 => 0x24#6
  | .bf16x2 => 0x25#6
  | .f16x2 => 0x26#6

theorem fpWord_eq {x : F3} {d b : BitVec 5} {n c : Nat} (t : FpTy) (hf : x.f.toNat / 4 = n) (hc : c = x.f.toNat % 4)
    (hd : d = x.d := by rfl) (hb : b = x.b := by rfl) :
    some (fpWord t n c d x.a b x.g) = some (f3Word t.major x) := by
  have hn : n * 4 + c = x.f.toNat := by omega
  cases t <;> exact f3Word_eq hn (hd := hd) (hb := hb)

theorem winWord_eq {m : BitVec 6} {x : F3} {d a b : BitVec 5} {n : Nat} (hf : x.f.toNat % 8 = n)
    (hd : d = x.d := by rfl) (ha : a = x.a := by rfl) (hb : b = x.b := by rfl) :
    some (winWord m n d a b (bits x.f.toNat 3 4) x.g) = some (f3Word m x) :=
  f3Word_eq (hd := hd) (ha := ha) (hb := hb) (by rw [bits_toNat]; omega)

/-! ## The groups of F3 words (R66, R67, R69) -/

theorem decodeInt_encodes (e : Ext) (x : F3) : Encodes (decodeInt e x) (f3Word e.major x) := by
  unfold decodeInt
  dsimp only
  split
  -- ADD, whose NOP word decodes to NOP (R53)
  case h_1 h =>
    split
    case isTrue hnop =>
      have hw := intWord_eq e h
      simp only [isNopAdd, Bool.and_eq_true, beq_iff_eq] at hnop
      obtain ⟨⟨⟨⟨⟨he, hs⟩, hd⟩, ha⟩, hb⟩, hg⟩ := hnop
      rw [hs, hd, ha, hb, hg, he] at hw
      rw [he]
      exact .ok rfl hw
    case isFalse hnop => exact .ok (congrArg not (eq_false_of_ne_true hnop)) (intWord_eq e h)
  -- two operands of any size
  case h_2 h | h_3 h | h_7 h | h_8 h | h_9 h | h_11 h | h_12 h | h_13 h | h_17 h | h_18 h =>
    exact .ok rfl (intWord_eq e h)
  -- MULH, DIV and REM take no narrow size
  case h_4 h | h_5 h | h_6 h => exact .need fun hs => .ok hs (intWord_eq e h)
  -- one operand: b is zero
  case h_10 h | h_14 h | h_15 h | h_16 h | h_19 h | h_21 h =>
    exact .zeroField fun hb => .ok rfl (intWord_eq e h (zero_eq hb))
  -- BSWP takes no byte
  case h_20 h => exact .need fun hs => .zeroField fun hb => .ok hs (intWord_eq e h (zero_eq hb))
  case h_22 => exact .error _

theorem decodeCmp_encodes (x : F3) : Encodes (decodeCmp x) (f3Word 0x0C#6 x) :=
  .zeroField fun hz => .pReg fun d hd => .named fun c hc => .ok rfl <| f3Word_eq (hd := hd) <| by
    rw [code_condOf hc, code_sizeOf2 (by omega)]
    omega

theorem decodeAcmp_encodes (x : F3) : Encodes (decodeAcmp x) (f3Word 0x13#6 x) :=
  .zeroField fun hz => .pReg fun d hd => .aReg fun a ha => .aReg fun b hb => .named fun c hc => .need fun hok =>
    .ok hok <| f3Word_eq (hd := hd) (ha := ha) (hb := hb) <| by
      rw [code_condOf hc]
      omega

theorem decodeBf_encodes (x : F3) : Encodes (decodeBf x) (f3Word 0x10#6 x) := by
  unfold decodeBf
  split
  case h_1 h | h_2 h | h_3 h => exact .ok rfl (f3Word_eq h.symm)
  case h_4 => exact .error _

theorem decodeAddr_encodes (x : F3) : Encodes (decodeAddr x) (f3Word 0x11#6 x) := by
  unfold decodeAddr
  split
  case h_1 h | h_5 h => exact .aReg fun d hd => .aReg fun a ha => .ok rfl (f3Word_eq h.symm hd ha)
  case h_2 h => exact .aReg fun d hd => .ok rfl (f3Word_eq h.symm hd)
  case h_3 h | h_4 h =>
    exact .aReg fun a ha => .zeroField fun hb => .ok rfl (f3Word_eq h.symm rfl ha (zero_eq hb))
  case h_6 => exact .error _

theorem decodePred_encodes (x : F3) : Encodes (decodePred x) (f3Word 0x14#6 x) := by
  unfold decodePred
  split
  case h_1 h | h_2 h | h_3 h =>
    exact .pReg fun d hd => .pReg fun a ha => .pReg fun b hb => .ok rfl (f3Word_eq h.symm hd ha hb)
  case h_4 h =>
    exact .pReg fun d hd => .pReg fun a ha => .zeroField fun hb => .ok rfl (f3Word_eq h.symm hd ha (zero_eq hb))
  case h_5 h =>
    exact .pReg fun d hd => .zeroField fun hb => .zeroField fun ha => .ok rfl <|
      f3Word_eq h.symm hd (field_eq (by rw [negBit_negOf, bits_toNat]; omega)) (zero_eq hb)
  case h_6 => exact .error _

/-! ## The groups of FI words (R68, R73) -/

theorem decodeShiftImm_encodes {m : BitVec 6} (x : FI) {k : BitVec 6 → Instr} (hwf : ∀ n, (k n).wf = true)
    (hk : ∀ n, encode (k n) = some (fiWord m ⟨x.d, x.a, BitVec.ofNat 16 n.toNat⟩)) :
    Encodes (decodeShiftImm x k) (fiWord m x) :=
  .zeroField fun hi => .ok (hwf _) <| (hk _).trans <| fiWord_eq <| field_eq <| by
    rw [bits_toNat]
    omega

theorem decodeBfx_encodes (x : FI) : Encodes (decodeBfx x) (fiWord 0x0E#6 x) := by
  unfold decodeBfx
  split
  case h_1 h | h_2 h =>
    exact .ok rfl <| fiWord_eq <| field_eq <| by
      rw [bits_toNat, bits_toNat]
      omega
  case h_3 => exact .error _

theorem decodeBfi_encodes (x : FI) : Encodes (decodeBfi x) (fiWord 0x0F#6 x) :=
  .zeroField fun hi => .ok rfl <| fiWord_eq <| field_eq <| by
    rw [bits_toNat, bits_toNat]
    omega

theorem decodeMovh_encodes (x : FI) : Encodes (decodeMovh x) (fiWord 0x0B#6 x) :=
  .zeroField fun ha => .ok rfl <| fiWord_eq rfl rfl <| field_eq <| by
    rw [bits_toNat]
    omega

theorem decodeRep_encodes (x : FI) : Encodes (decodeRep x) (fiWord 0x19#6 x) :=
  .zeroField fun hd => .zeroField fun ha => .zeroField fun hi => .ok rfl <|
    fiWord_eq (hd := zero_eq hd) (ha := zero_eq ha) <| field_eq <| by
      simp only [negBit_negOf, bits_toNat]
      omega

/-- The order and the offset of a word of a global access. -/
theorem memWord_eq {m : BitVec 6} {x : FI} {a : BitVec 4} {o : Order} (ha : aField a = x.a)
    (ho : orderOf (x.i.toNat / 8192) (x.i.toNat / 2048 % 4) = some o) :
    some (memWord m x.d a o (bits x.i.toNat 0 11)) = some (fiWord m x) :=
  fiWord_eq (ha := ha) <| field_eq <| by
    rw [code_orderOf (by omega) (by omega) ho, bits_toNat]
    omega

section
variable {m : BitVec 6} {k : BitVec 5 → BitVec 4 → Order → BitVec 11 → Instr}
  (hk : ∀ d a o f, encode (k d a o f) = some (memWord m d a o f))
include hk

theorem decodeLoad_encodes (x : FI) (hwf : ∀ d a o f, (k d a o f).wf = o.loadOk) :
    Encodes (decodeLoad x k) (fiWord m x) :=
  .aReg fun _ ha => .named fun _ ho => .need fun hok => .ok ((hwf ..).trans hok) ((hk ..).trans (memWord_eq ha ho))

theorem decodeStore_encodes (x : FI) (hwf : ∀ d a o f, (k d a o f).wf = o.storeOk) :
    Encodes (decodeStore x k) (fiWord m x) :=
  .aReg fun _ ha => .named fun _ ho => .need fun hok => .ok ((hwf ..).trans hok) ((hk ..).trans (memWord_eq ha ho))

end

/-! ## Window words (R71) -/

theorem decodeWin_encodes (x : FW) : Encodes (decodeWin x) (fwWord 0x20#6 x) := by
  unfold decodeWin
  generalize h : x.m.toNat = n
  have hn : n < 8 := h ▸ x.m.isLt
  interval_cases n
  · exact .zeroField fun hi => .ok rfl (fwWord_eq h (zero_eq hi))
  · exact .ok rfl (fwWord_eq h)
  · exact .ok rfl (fwWord_eq h)
  · exact .zeroField fun hr => .ok rfl (fwWord_eq h rfl (zero_eq hr))
  · exact .zeroField fun hi => .need fun hq => .ok hq <| fwWord_eq h <| field_eq <| by
      rw [bits_toNat]
      omega
  · exact .ok rfl <| fwWord_eq h <| field_eq <| by
      rw [bits_toNat, bits_toNat]
      omega
  · exact .zeroField fun hi => .ok rfl <| fwWord_eq h <| field_eq <| by
      rw [bits_toNat]
      omega
  · exact .zeroField fun hi => .ok rfl (fwWord_eq h (zero_eq hi))

theorem decodeWinReg_encodes (x : F3) : Encodes (decodeWinReg x) (f3Word 0x21#6 x) := by
  refine .zeroField fun hb => ?_
  split
  case h_1 h => exact .zeroField fun ha => .ok rfl (winWord_eq h rfl (zero_eq ha) (zero_eq hb))
  case h_2 h | h_3 h => exact .ok rfl (winWord_eq h (hb := zero_eq hb))
  case h_4 h => exact .zeroField fun hd => .ok rfl (winWord_eq h (zero_eq hd) rfl (zero_eq hb))
  case h_5 => exact .error _

theorem decodeWinRm_encodes (x : F3) : Encodes (decodeWinRm x) (f3Word 0x22#6 x) := by
  unfold decodeWinRm
  dsimp only
  split
  case h_1 h => exact .zeroField fun ha => .ok rfl (winWord_eq h rfl (zero_eq ha))
  case h_2 h | h_3 h => exact .ok rfl (winWord_eq h)
  case h_4 h => exact .zeroField fun hd => .ok rfl (winWord_eq h (zero_eq hd))
  case h_5 h =>
    refine .need fun ha => ?_
    have hlt : x.a.toNat < 3 := of_decide_eq_true ha
    have hq : (bits x.a.toNat 0 2).toNat = x.a.toNat := by
      rw [bits_toNat]
      omega
    refine .ok (bne_iff_ne.mpr fun h3 => ?_) (winWord_eq h rfl (field_eq hq))
    rw [h3] at hq
    exact absurd hq (by simp only [BitVec.toNat_ofNat]; omega)
  case h_6 => exact .error _

/-! ## Scalar floating point, reductions and atomics (R72, R74) -/

theorem decodeFp_encodes (t : FpTy) (x : F3) : Encodes (decodeFp t x) (f3Word t.major x) := by
  have hm : x.f.toNat % 4 < 4 := by omega
  unfold decodeFp
  dsimp only
  split
  case h_1 h | h_2 h | h_3 h | h_4 h => exact .ok rfl (fpWord_eq t h (code_rndOf2 hm))
  case h_5 h | h_6 h => exact .zeroField fun hz => .ok rfl (fpWord_eq t h hz.symm)
  case h_7 h => exact .named fun o ho => .ok rfl (fpWord_eq t h (code_sgnOf ho))
  case h_8 h => exact .pReg fun d hd => .ok rfl (fpWord_eq t h (code_fcondOf hm) hd)
  case h_9 h | h_10 h | h_11 h =>
    refine .zeroField fun hz => .zeroField fun hb => .need fun ht => ?_
    obtain rfl : t = .f32 := beq_iff_eq.mp ht
    exact .ok rfl (fpWord_eq .f32 h hz.symm rfl (zero_eq hb))
  case h_12 => exact .error _

theorem decodeCvt_encodes (x : F3) : Encodes (decodeCvt x) (f3Word 0x27#6 x) :=
  .zeroField fun hf => .zeroField fun hb => .named fun y hy => .named fun z hz => .need fun hok => .ok hok <|
    f3Word_eq (hb := field_eq ((code_rndOf2 (by omega)).trans (by omega))) <| by
      rw [code_cvtTyOf hy, code_cvtTyOf hz]
      omega

theorem decodeRed_encodes (x : F3) : Encodes (decodeRed x) (f3Word 0x33#6 x) := by
  refine .aReg fun a ha => .named fun o ho => .named fun op hop => .need fun hok => ?_
  obtain ⟨hbf, hstore⟩ := Bool.and_eq_true_iff.mp hok
  obtain ⟨hbit, hform⟩ := Bool.and_eq_true_iff.mp hbf
  have h8 := congrArg BitVec.toNat (beq_iff_eq.mp hbit)
  refine .ok (Bool.and_eq_true_iff.mpr ⟨hform, hstore⟩) ?_
  refine f3Word_eq (ha := ha) (hb := field_eq ((code_orderOf (by omega) (by omega) ho).trans (by omega))) ?_
  simp only [code_redOpOf hop, negBit_negOf, bits_toNat, BitVec.toNat_ofNat] at h8 ⊢
  omega

theorem decodeAmo_encodes (x : F3) : Encodes (decodeAmo x) (f3Word 0x34#6 x) := by
  refine .zeroField fun hz => .aReg fun a ha => .named fun o ho => .named fun op hop => .need fun hok => ?_
  obtain ⟨hbit, hdest⟩ := Bool.and_eq_true_iff.mp hok
  have h8 := congrArg BitVec.toNat (beq_iff_eq.mp hbit)
  refine .ok hdest ?_
  refine f3Word_eq (ha := ha) (hb := field_eq ((code_orderOf (by omega) (by omega) ho).trans (by omega))) ?_
  simp only [code_amoOpOf hop, negBit_negOf, bits_toNat, BitVec.toNat_ofNat] at h8 ⊢
  omega

/-! ## Command-register words (R75) -/

/-- The position, the width and the register of a KINS or KEXT. -/
theorem kField_eq {x : FK} {o : BitVec 3} (ho : x.op.toNat = o.toNat) (hz : x.x.toNat % 4 = 0) :
    some (fkWord 0x38#6 ⟨x.k, o, BitVec.ofNat 20 ((bits x.x.toNat 13 7).toNat * 8192 +
      (bits x.x.toNat 7 6).toNat * 128 + (bits x.x.toNat 2 5).toNat * 4)⟩) = some (fkWord 0x38#6 x) :=
  fkWord_eq ho <| by
    have := x.x.isLt
    simp only [bits_toNat]
    omega

theorem decodeK_encodes (x : FK) : Encodes (decodeK x) (fkWord 0x38#6 x) := by
  unfold decodeK
  split
  case h_1 h =>
    exact .zeroField fun hi => .need fun hz => .ok rfl <| fkWord_eq h <| by
      rw [bits_toNat]
      rw [beq_iff_eq] at hz
      omega
  case h_2 h =>
    exact .zeroField fun hi => .named fun p hp => .ok rfl <| fkWord_eq h <| by
      rw [code_portOf hp]
      omega
  case h_3 h | h_4 h => exact .zeroField fun hz => .need fun hok => .ok hok (kField_eq h hz)
  case h_5 h =>
    exact .zeroField fun hi => .ok rfl <| fkWord_eq h <| by
      rw [bits_toNat]
      omega
  case h_6 => exact .error _

/-! ## System words (R76, R137) -/

/-- A field of z with zeros above it. -/
theorem bits_low {z n : Nat} (h : z / 2 ^ n = 0) : (bits z 0 n).toNat = z := by
  rw [bits_toNat, Nat.pow_zero, Nat.div_one]
  exact Nat.mod_eq_of_lt ((Nat.div_eq_zero_iff_lt (Nat.two_pow_pos n)).mp h)

/-- A write of a system register is well-formed and has the number in its word, whichever step it is. -/
theorem swrStep_encodes (n : BitVec 10) (s : BitVec 5) :
    (swrStep n s).wf = true ∧ encode (swrStep n s) = some (sysWord 0x02#6 s 0 n.toNat) := by
  unfold swrStep
  split_ifs with h1 h2 h3 h4 hrange heven
  · exact ⟨rfl, by rw [h1]; rfl⟩
  · exact ⟨rfl, by rw [h2]; rfl⟩
  · exact ⟨rfl, by rw [h3]; rfl⟩
  · exact ⟨rfl, by rw [h4]; rfl⟩
  · refine ⟨rfl, congrArg (fun z => some (sysWord 0x02#6 s 0 z)) ?_⟩
    rw [bits_toNat]
    omega
  · refine ⟨rfl, congrArg (fun z => some (sysWord 0x02#6 s 0 z)) ?_⟩
    rw [bits_toNat]
    omega
  · have hown : sysOwnStep n = false := by
      simp only [sysOwnStep, beq_eq_false_iff_ne.mpr h1, beq_eq_false_iff_ne.mpr h2, beq_eq_false_iff_ne.mpr h3,
        beq_eq_false_iff_ne.mpr h4, Bool.false_or, Bool.and_eq_false_iff, decide_eq_false_iff_not]
      omega
    exact ⟨congrArg not hown, rfl⟩

theorem Encodes.barOf {z : Nat} {k : Level → BitVec 4 → Instr} {w : Code}
    (h : ∀ l b, barZ l b = z → Encodes (.ok (k l b)) w) : Encodes (barOf z k) w :=
  .zeroField fun _ => .named fun l hl => h l _ <| by
    rw [barZ, code_levelOf hl, bits_toNat]
    omega

theorem decodeSys_encodes (x : FS) : Encodes (decodeSys x) (fsWord 0x3F#6 x) := by
  unfold decodeSys
  dsimp only
  split
  -- SRD, SWR, TRCM: z is a number of ten bits
  case h_1 h | h_31 h => exact .zeroField fun hy => .ok rfl (sysWord_eq h rfl rfl (zero_eq hy))
  case h_2 h =>
    obtain ⟨hwf, hw⟩ := swrStep_encodes x.z x.x
    exact .zeroField fun hy => .ok hwf (hw.trans (sysWord_eq h rfl rfl (zero_eq hy)))
  case h_3 h | h_4 h =>
    exact .zeroField fun hx => .zeroField fun hy => .ok rfl (sysWord_eq h rfl (zero_eq hx) (zero_eq hy))
  case h_5 h | h_6 h | h_7 h =>
    exact .zeroField fun hx => .zeroField fun hy => .zeroField fun hz =>
      .ok rfl (sysWord_eq h hz.symm (zero_eq hx) (zero_eq hy))
  case h_8 h | h_9 h => exact .zeroField fun hz => .ok rfl (sysWord_eq h hz.symm)
  case h_10 h => exact .zeroField fun hy => .zeroField fun hz => .ok rfl (sysWord_eq h hz.symm rfl (zero_eq hy))
  case h_11 h | h_17 h | h_26 h | h_30 h =>
    exact .zeroField fun hy => .zeroField fun hz => .ok rfl (sysWord_eq h (bits_low hz) rfl (zero_eq hy))
  case h_12 h | h_14 h =>
    exact .zeroField fun hy => .barOf fun l b hz => .ok rfl (sysWord_eq h hz rfl (zero_eq hy))
  case h_13 h => exact .zeroField fun hx => .barOf fun l b hz => .ok rfl (sysWord_eq h hz (zero_eq hx))
  case h_15 h | h_16 h | h_18 h | h_21 h =>
    exact .zeroField fun hx => .zeroField fun hy => .zeroField fun hz =>
      .ok rfl (sysWord_eq h (bits_low hz) (zero_eq hx) (zero_eq hy))
  case h_19 h | h_20 h | h_24 h | h_25 h =>
    exact .zeroField fun hy => .zeroField fun hz => .aReg fun a ha =>
      .ok rfl (sysWord_eq h (bits_low hz) ha (zero_eq hy))
  case h_22 h =>
    exact .zeroField fun hx => .zeroField fun hy => .zeroField fun hz => .zeroField fun hm => .named fun o ho =>
      .ok rfl (sysWord_eq h (by rw [code_scopeOf3 (by omega), code_fenceKindOf ho]; omega) (zero_eq hx) (zero_eq hy))
  case h_23 h =>
    exact .zeroField fun hy => .zeroField fun hz => .aReg fun a ha => .named fun k hk =>
      .ok rfl (sysWord_eq h (code_tlbKindOf hk) ha (zero_eq hy))
  case h_27 h | h_28 h | h_29 h | h_32 h =>
    exact .zeroField fun hy => .zeroField fun hz => .aReg fun a ha =>
      .ok rfl (sysWord_eq h hz.symm ha (zero_eq hy))
  case h_33 => exact .error _

/-! ## Every word -/

section
variable {w : Code} {r : Decoded} (m : BitVec 6) (h : (majorOf w).toNat = m.toNat)
include h

theorem Encodes.ofF3 (hr : Encodes r (f3Word m (f3Of w))) : Encodes r w := by
  rwa [← BitVec.eq_of_toNat_eq h, f3Word_f3Of] at hr

theorem Encodes.ofFI (hr : Encodes r (fiWord m (fiOf w))) : Encodes r w := by
  rwa [← BitVec.eq_of_toNat_eq h, fiWord_fiOf] at hr

theorem Encodes.ofFW (hr : Encodes r (fwWord m (fwOf w))) : Encodes r w := by
  rwa [← BitVec.eq_of_toNat_eq h, fwWord_fwOf] at hr

theorem Encodes.ofFB (hr : Encodes r (fbWord m (fbOf w))) : Encodes r w := by
  rwa [← BitVec.eq_of_toNat_eq h, fbWord_fbOf] at hr

theorem Encodes.ofFK (hr : Encodes r (fkWord m (fkOf w))) : Encodes r w := by
  rwa [← BitVec.eq_of_toNat_eq h, fkWord_fkOf] at hr

theorem Encodes.ofFS (hr : Encodes r (fsWord m (fsOf w))) : Encodes r w := by
  rwa [← BitVec.eq_of_toNat_eq h, fsWord_fsOf] at hr

end

/-- A word that decodes is the word of the well-formed instruction it decodes to. -/
theorem decode_encodes (w : Code) : Encodes (decode w) w := by
  unfold decode
  split
  next h => exact .ofF3 0x01#6 h (decodeInt_encodes .z _)
  next h => exact .ofF3 0x02#6 h (decodeInt_encodes .s _)
  next h => exact .ofFI 0x03#6 h (.ok rfl rfl)
  next h => exact .ofFI 0x04#6 h (.ok rfl rfl)
  next h => exact .ofFI 0x05#6 h (.ok rfl rfl)
  next h => exact .ofFI 0x06#6 h (.ok rfl rfl)
  next h => exact .ofFI 0x07#6 h (decodeShiftImm_encodes _ (fun _ => rfl) fun _ => rfl)
  next h => exact .ofFI 0x08#6 h (decodeShiftImm_encodes _ (fun _ => rfl) fun _ => rfl)
  next h => exact .ofFI 0x09#6 h (decodeShiftImm_encodes _ (fun _ => rfl) fun _ => rfl)
  next h => exact .ofFI 0x0A#6 h <| .zeroField fun ha => .ok rfl (fiWord_eq rfl rfl (zero_eq ha))
  next h => exact .ofFI 0x0B#6 h (decodeMovh_encodes _)
  next h => exact .ofF3 0x0C#6 h (decodeCmp_encodes _)
  next h => exact .ofF3 0x0D#6 h <| .zeroField fun hf => .ok rfl (f3Word_eq hf.symm)
  next h => exact .ofFI 0x0E#6 h (decodeBfx_encodes _)
  next h => exact .ofFI 0x0F#6 h (decodeBfi_encodes _)
  next h => exact .ofF3 0x10#6 h (decodeBf_encodes _)
  next h => exact .ofF3 0x11#6 h (decodeAddr_encodes _)
  next h => exact .ofFI 0x12#6 h <| .aReg fun d hd => .aReg fun a ha => .ok rfl (fiWord_eq rfl hd ha)
  next h => exact .ofF3 0x13#6 h (decodeAcmp_encodes _)
  next h => exact .ofF3 0x14#6 h (decodePred_encodes _)
  next h => exact .ofFB 0x15#6 h (.ok rfl rfl)
  next h => exact .ofFI 0x16#6 h <| .zeroField fun ha => .ok rfl (fiWord_eq rfl rfl (zero_eq ha))
  next h =>
    exact .ofF3 0x17#6 h <| .zeroField fun hd => .zeroField fun hb => .zeroField fun hf =>
      .ok rfl (f3Word_eq hf.symm (zero_eq hd) rfl (zero_eq hb))
  next h => exact .ofFI 0x18#6 h <| .zeroField fun ha => .ok rfl (fiWord_eq rfl rfl (zero_eq ha))
  next h => exact .ofFI 0x19#6 h (decodeRep_encodes _)
  next h => exact .ofFW 0x20#6 h (decodeWin_encodes _)
  next h => exact .ofF3 0x21#6 h (decodeWinReg_encodes _)
  next h => exact .ofF3 0x22#6 h (decodeWinRm_encodes _)
  next h => exact .ofF3 0x24#6 h (decodeFp_encodes .f32 _)
  next h => exact .ofF3 0x25#6 h (decodeFp_encodes .bf16x2 _)
  next h => exact .ofF3 0x26#6 h (decodeFp_encodes .f16x2 _)
  next h => exact .ofF3 0x27#6 h (decodeCvt_encodes _)
  next h => exact .ofFI 0x28#6 h (decodeLoad_encodes (fun _ _ _ _ => rfl) _ fun _ _ _ _ => rfl)
  next h => exact .ofFI 0x29#6 h (decodeLoad_encodes (fun _ _ _ _ => rfl) _ fun _ _ _ _ => rfl)
  next h => exact .ofFI 0x2A#6 h (decodeLoad_encodes (fun _ _ _ _ => rfl) _ fun _ _ _ _ => rfl)
  next h => exact .ofFI 0x2B#6 h (decodeLoad_encodes (fun _ _ _ _ => rfl) _ fun _ _ _ _ => rfl)
  next h => exact .ofFI 0x2C#6 h (decodeLoad_encodes (fun _ _ _ _ => rfl) _ fun _ _ _ _ => rfl)
  next h => exact .ofFI 0x2D#6 h (decodeLoad_encodes (fun _ _ _ _ => rfl) _ fun _ _ _ _ => rfl)
  next h => exact .ofFI 0x2E#6 h (decodeLoad_encodes (fun _ _ _ _ => rfl) _ fun _ _ _ _ => rfl)
  next h => exact .ofFI 0x2F#6 h (decodeStore_encodes (fun _ _ _ _ => rfl) _ fun _ _ _ _ => rfl)
  next h => exact .ofFI 0x30#6 h (decodeStore_encodes (fun _ _ _ _ => rfl) _ fun _ _ _ _ => rfl)
  next h => exact .ofFI 0x31#6 h (decodeStore_encodes (fun _ _ _ _ => rfl) _ fun _ _ _ _ => rfl)
  next h => exact .ofFI 0x32#6 h (decodeStore_encodes (fun _ _ _ _ => rfl) _ fun _ _ _ _ => rfl)
  next h => exact .ofF3 0x33#6 h (decodeRed_encodes _)
  next h => exact .ofF3 0x34#6 h (decodeAmo_encodes _)
  next h => exact .ofFK 0x38#6 h (decodeK_encodes _)
  next h => exact .ofFS 0x3F#6 h (decodeSys_encodes _)
  next => exact .error _

/-- Refutes O1: a reserved encoding has a word and is well-formed, but no word decodes to it; its own word 0, of
major 0x00, decodes to nothing. -/
theorem not_decodeEncode : ¬Obligations.DecodeEncode := by
  unfold Obligations.DecodeEncode
  intro h
  have hdecode : decode 0 = .error .major := rfl
  have hok := h (.reservedEncoding 0) 0 rfl rfl
  rw [hdecode] at hok
  cases hok

/-- Settles O2: every decoder of the map answers well-formed instructions that have the word it read. -/
theorem encodeDecode : Obligations.EncodeDecode := decode_encodes

end Sys2Proof
end

section
/-! SUPPORT. Operands and results of N bits, and what the integer forms come to (R31, R32, R91, R97, R98). -/

namespace Sys2Proof.Machine

open Sys2Proof

/-! ## Operands and results of N bits (R31, R32) -/

theorem lowBits_readG (s : State) (z : Size) (a : BitVec 5) :
    lowBits (sizeBits z) (s.me.readG a) = (opnd s z a).toNat := (BitVec.toNat_setWidth ..).symm

theorem sizeBits_pos (z : Size) : 0 < sizeBits z := by cases z <;> decide

@[simp] theorem signedOf_toNat {n : Nat} (x : BitVec n) : signedOf n x.toNat = x.toInt := by
  rw [signedOf, Nat.mod_eq_of_lt x.isLt, BitVec.toInt_eq_toNat_cond]
  cases n with
  | zero => simp [BitVec.eq_nil x]
  | succ n =>
    have hhalf : x.toNat < 2 ^ (n + 1 - 1) ↔ 2 * x.toNat < 2 ^ (n + 1) := by rw [Nat.add_sub_cancel]; omega
    simp only [hhalf]

@[simp] theorem valueOf_toNat (e : Ext) {n : Nat} (x : BitVec n) :
    valueOf e n x.toNat = byExt e (x.toNat : Int) x.toInt := by
  cases e with
  | z => simp [valueOf, byExt, Nat.mod_eq_of_lt x.isLt]
  | s => exact signedOf_toNat x

/-- Extending a number is widening the N bits it stands for (R32). -/
theorem extend_eq_widen (e : Ext) (n k : Nat) : extend e n k = widen e (BitVec.ofNat n k) := by
  cases e with
  | z =>
    apply BitVec.eq_of_toNat_eq
    simp [extend, widen]
  | s =>
    have h : signedOf n k = (BitVec.ofNat n k).toInt := by
      rw [← signedOf_toNat, BitVec.toNat_ofNat, signedOf, signedOf, Nat.mod_mod]
    rw [extend, widen, BitVec.signExtend, h]

/-- The model's N-bit pattern of an integer is that of `BitVec.ofInt`. -/
theorem emod_toNat_eq_ofInt (n : Nat) (i : Int) :
    (i % ((2 ^ n : Nat) : Int)).toNat = (BitVec.ofInt n i).toNat := (BitVec.toNat_ofInt i).symm

/-! ## What the forms come to (R91, R97, R98) -/

section
variable {s : State} {g : Guard} (h : Clear g s)
include h

/-- A guarded form that only changes its slot ends with that slot (R8, R9). -/
theorem guarded_setMe {k : State → Out} {x : Slot} (hk : k s = .done (s.setMe x)) :
    guarded g s k = .next (s.setMe x.advance) := by
  rw [guarded_true g s k h.1, hk, finish_done_setMe s x h.2]

theorem intOp_ends {e : Ext} {z : Size} {d a b : BitVec 5} {f : Nat → Nat → Nat → Nat} {v : BitVec (sizeBits z)}
    (hv : BitVec.ofNat _ (f (sizeBits z) (opnd s z a).toNat (opnd s z b).toNat) = v) :
    intOp e z d a b g f s = .next (s.setMe (s.me.writeG d (widen e v)).advance) := by
  refine guarded_setMe h ?_
  simp only [setG_eq, lowBits_readG, extend_eq_widen, hv]

theorem shiftOp_ends {e : Ext} {z : Size} {d a b : BitVec 5} {f : Nat → Nat → Nat → Nat} {v : BitVec (sizeBits z)}
    (hv : BitVec.ofNat _ (f (sizeBits z) (opnd s z a).toNat (s.me.readG b).toNat) = v) :
    shiftOp e z d a b g f s = .next (s.setMe (s.me.writeG d (widen e v)).advance) := by
  refine guarded_setMe h ?_
  simp only [setG_eq, lowBits_readG, extend_eq_widen, hv]

theorem countOp_ends {z : Size} {d a : BitVec 5} {f : Nat → Nat → Nat} :
    countOp z d a g f s =
      .next (s.setMe (s.me.writeG d (BitVec.ofNat 64 (f (sizeBits z) (opnd s z a).toNat))).advance) := by
  refine guarded_setMe h ?_
  simp only [setG_eq, lowBits_readG]

end

end Sys2Proof.Machine
end

section
/-! SUPPORT. Sums, products, quotients and the order of N-bit operands (R93 to R95). -/

namespace Sys2Proof.Machine

open Sys2Proof

section
variable {n : Nat} (e : Ext) (x y : BitVec n)

theorem ofNat_sub_wrapped : BitVec.ofNat n ((x.toNat + 2 ^ n - y.toNat) % 2 ^ n) = x - y := by
  have hy := y.isLt
  apply BitVec.eq_of_toNat_eq
  rw [BitVec.toNat_ofNat, Nat.mod_mod, BitVec.toNat_sub]
  congr 1
  omega

/-- The pattern of an integer that each major takes from its own reading (R91). -/
theorem ofInt_byExt (m : Nat) (i : Int) :
    BitVec.ofInt n (byExt e (m : Int) i) = byExt e (BitVec.ofNat n m) (BitVec.ofInt n i) := by
  cases e with
  | z => exact BitVec.ofInt_natCast n m
  | s => rfl

/-- MULH is the upper half of the exact product (R93). -/
theorem ofNat_mulhVal : BitVec.ofNat n (mulhVal e n x.toNat y.toNat) =
    byExt e (BitVec.ofNat n (x.toNat * y.toNat / 2 ^ n)) (BitVec.ofInt n (x.toInt * y.toInt / 2 ^ n)) := by
  have hvalue : valueOf e n x.toNat * valueOf e n y.toNat / ((2 ^ n : Nat) : Int) =
      byExt e ((x.toNat * y.toNat / 2 ^ n : Nat) : Int) (x.toInt * y.toInt / 2 ^ n) := by
    cases e <;> simp [byExt]
  rw [mulhVal, emod_toNat_eq_ofInt, BitVec.ofNat_toNat, BitVec.setWidth_eq, hvalue, ofInt_byExt]

theorem sdiv_eq_ofInt : x.sdiv y = BitVec.ofInt n (x.toInt.tdiv y.toInt) := by
  rw [← BitVec.toInt_inj, BitVec.toInt_sdiv, BitVec.toInt_ofInt]

theorem srem_eq_ofInt : x.srem y = BitVec.ofInt n (x.toInt.tmod y.toInt) := by
  rw [← BitVec.toInt_srem, BitVec.ofInt_toInt]

theorem toNat_eq_zero_iff : x.toNat = 0 ↔ x = 0 := by rw [BitVec.toNat_eq]; simp

/-- DIV truncates, and gives all ones for a zero divisor (R94). -/
theorem ofNat_divVal : BitVec.ofNat n (divVal e n x.toNat y.toNat) =
    if y = 0 then BitVec.allOnes n else byExt e (x / y) (x.sdiv y) := by
  simp only [divVal, toNat_eq_zero_iff]
  split
  next => exact BitVec.eq_of_toNat_eq (by simp)
  next =>
    have hvalue : (valueOf e n x.toNat).tdiv (valueOf e n y.toNat) =
        byExt e ((x.toNat / y.toNat : Nat) : Int) (x.toInt.tdiv y.toInt) := by
      cases e <;> simp [byExt]
    have hdiv : BitVec.ofNat n (x.toNat / y.toNat) = x / y := by
      rw [← BitVec.toNat_udiv, BitVec.ofNat_toNat, BitVec.setWidth_eq]
    rw [emod_toNat_eq_ofInt, BitVec.ofNat_toNat, BitVec.setWidth_eq, hvalue, ofInt_byExt, hdiv, sdiv_eq_ofInt]

/-- REM takes the sign of the dividend, and is the dividend for a zero divisor (R94). -/
theorem ofNat_remVal : BitVec.ofNat n (remVal e n x.toNat y.toNat) =
    if y = 0 then x else byExt e (x % y) (x.srem y) := by
  simp only [remVal, toNat_eq_zero_iff]
  split
  next => rw [BitVec.ofNat_toNat, BitVec.setWidth_eq]
  next =>
    have hvalue : (valueOf e n x.toNat).tmod (valueOf e n y.toNat) =
        byExt e ((x.toNat % y.toNat : Nat) : Int) (x.toInt.tmod y.toInt) := by
      cases e <;> simp [byExt, Int.tmod_eq_emod_of_nonneg]
    have hmod : BitVec.ofNat n (x.toNat % y.toNat) = x % y := by
      rw [← BitVec.toNat_umod, BitVec.ofNat_toNat, BitVec.setWidth_eq]
    rw [emod_toNat_eq_ofInt, BitVec.ofNat_toNat, BitVec.setWidth_eq, hvalue, ofInt_byExt, hmod, srem_eq_ofInt]

/-- Each major compares operands as it reads them (R91, R95). -/
theorem valueOf_lt_iff : valueOf e n x.toNat < valueOf e n y.toNat ↔ byExt e (x.ult y) (x.slt y) = true := by
  cases e with
  | z => simp [byExt, BitVec.ult]
  | s => simp [byExt, BitVec.slt]

theorem ofNat_ite (p : Prop) [Decidable p] : BitVec.ofNat n (if p then y.toNat else x.toNat) = if p then y else x := by
  split <;> rw [BitVec.ofNat_toNat, BitVec.setWidth_eq]

end

/-- Settles O11: each form computes a number whose N-bit pattern is the value stated. -/
theorem integerArithmetic : Obligations.IntegerArithmetic := by
  unfold Obligations.IntegerArithmetic
  intro s e z d a b g h
  refine ⟨show execAdd e z d a b g s = _ from intOp_ends h ?add, show execSub e z d a b g s = _ from intOp_ends h ?sub,
    show execMul e z d a b g s = _ from intOp_ends h ?mul, show execMulh e z d a b g s = _ from intOp_ends h ?mulh,
    show execDiv e z d a b g s = _ from intOp_ends h ?div, show execRem e z d a b g s = _ from intOp_ends h ?rem,
    show execMin e z d a b g s = _ from intOp_ends h ?min, show execMax e z d a b g s = _ from intOp_ends h ?max⟩
  case add => exact BitVec.eq_of_toNat_eq (by simp)
  case sub => exact ofNat_sub_wrapped _ _
  case mul => exact BitVec.eq_of_toNat_eq (by simp)
  case mulh => exact ofNat_mulhVal e _ _
  case div => exact ofNat_divVal e _ _
  case rem => exact ofNat_remVal e _ _
  case min => simp only [valueOf_lt_iff]; exact ofNat_ite _ _ _
  case max => simp only [valueOf_lt_iff]; exact ofNat_ite _ _ _

end Sys2Proof.Machine
end

section
/-! SUPPORT. Logic, shifts, rotations, counts and reversals of N-bit operands (R96 to R99). -/

namespace Sys2Proof.Machine

open Sys2Proof

/-! ## Shifts and rotations (R97) -/

section
variable {n : Nat} (x : BitVec n) (c : Nat)

theorem ofNat_shlVal : BitVec.ofNat n (shlVal n x.toNat c) = x <<< c := by
  apply BitVec.eq_of_toNat_eq
  rw [shlVal, BitVec.toNat_ofNat, BitVec.toNat_shiftLeft, Nat.shiftLeft_eq]
  split
  next => exact Nat.mod_mod ..
  next h =>
    have hdvd : 2 ^ n ∣ x.toNat * 2 ^ c := Dvd.dvd.mul_left (pow_dvd_pow 2 (by omega)) _
    rw [Nat.zero_mod, Nat.mod_eq_zero_of_dvd hdvd]

/-- An integer within N bits and a sign is shifted out by N places (R97). -/
theorem ediv_min_eq_shiftRight {i : Int} (hlo : -(2 ^ n : Nat) ≤ i) (hhi : i < (2 ^ n : Nat)) :
    i / ((2 ^ min c n : Nat) : Int) = i >>> c := by
  rw [Int.shiftRight_eq_div_pow]
  rcases Nat.le_total c n with h | h
  · rw [Nat.min_eq_left h]
  · have hpow : ((2 ^ n : Nat) : Int) ≤ (2 ^ c : Nat) := by exact_mod_cast Nat.pow_le_pow_right (by decide) h
    rw [Nat.min_eq_right h]
    rcases lt_or_ge i 0 with hneg | hpos
    · rw [Int.ediv_eq_neg_one_of_neg_of_le hneg (by omega), Int.ediv_eq_neg_one_of_neg_of_le hneg (by omega)]
    · rw [Int.ediv_eq_zero_of_lt hpos hhi, Int.ediv_eq_zero_of_lt hpos (by omega)]

/-- SHR fills with zeros or with copies of the sign, as the major says (R97). -/
theorem ofNat_shrVal (e : Ext) :
    BitVec.ofNat n (shrVal e n x.toNat c) = byExt e (x >>> c) (x.sshiftRight c) := by
  rw [shrVal, emod_toNat_eq_ofInt, BitVec.ofNat_toNat, BitVec.setWidth_eq, valueOf_toNat]
  cases e with
  | z =>
    have hx := x.isLt
    rw [byExt, byExt, ediv_min_eq_shiftRight c (by omega) (by omega)]
    apply BitVec.eq_of_toNat_eq
    rw [BitVec.toNat_ushiftRight, ← Int.natCast_shiftRight, BitVec.ofInt_natCast, BitVec.toNat_ofNat, Nat.mod_eq_of_lt]
    exact Nat.lt_of_le_of_lt (Nat.shiftRight_le ..) hx
  | s =>
    have hlo := x.le_two_mul_toInt
    have hhi := x.two_mul_toInt_lt
    rw [byExt, byExt, ediv_min_eq_shiftRight c (by push_cast; omega) (by push_cast; omega)]
    rfl

theorem ofNat_rotVal (hn : 0 < n) : BitVec.ofNat n (rotVal n x.toNat c) = x.rotateLeft c := by
  have hx := x.isLt
  have hc := Nat.mod_lt c hn
  have hpow : 2 ^ n = 2 ^ (n - c % n) * 2 ^ (c % n) := by rw [← pow_add]; congr 1; omega
  have hhigh : x.toNat / 2 ^ (n - c % n) < 2 ^ (c % n) := Nat.div_lt_of_lt_mul (hpow ▸ hx)
  have hlow : x.toNat * 2 ^ (c % n) % 2 ^ n = (x.toNat % 2 ^ (n - c % n)) <<< (c % n) := by
    rw [hpow, Nat.mul_mod_mul_right, Nat.shiftLeft_eq]
  have hval : rotVal n x.toNat c = (x.rotateLeft c).toNat := by
    rw [BitVec.toNat_rotateLeft, rotVal, Nat.shiftLeft_eq, Nat.shiftRight_eq_div_pow, hlow,
      Nat.shiftLeft_add_eq_or_of_lt hhigh]
  rw [hval, BitVec.ofNat_toNat, BitVec.setWidth_eq]

end

/-! ## Counts (R98) -/

theorem clzVal_spec {n a : Nat} (h : a < 2 ^ n) : clzVal n a ≤ n ∧ (∀ i, n - clzVal n a ≤ i → a.testBit i = false) ∧
    (clzVal n a < n → a.testBit (n - 1 - clzVal n a) = true) := by
  unfold clzVal
  split
  next h0 => simp [h0]
  next h0 =>
    have htop := (Nat.log2_lt h0).2 h
    refine ⟨by omega, fun i hi => Nat.testBit_lt_two_pow ((Nat.log2_lt h0).1 (by omega)), fun _ => ?_⟩
    rw [show n - 1 - (n - 1 - a.log2) = a.log2 by omega, Nat.testBit_log2 h0]

theorem ctzVal_spec (n a : Nat) : ctzVal n a ≤ n ∧ (∀ i, i < ctzVal n a → a.testBit i = false) ∧
    (ctzVal n a < n → a.testBit (ctzVal n a) = true) := by
  unfold ctzVal leastBelow
  cases hfind : (List.range n).find? fun i => a.testBit i with
  | none =>
    rw [List.find?_eq_none] at hfind
    exact ⟨Nat.le_refl n, fun i hi => Bool.eq_false_iff.2 (hfind i (List.mem_range.2 hi)),
      fun h => absurd h (lt_irrefl n)⟩
  | some k =>
    obtain ⟨hbit, hmem, hbelow⟩ := List.find?_range_eq_some.1 hfind
    exact ⟨(List.mem_range.1 hmem).le, fun i hi => by simpa using hbelow i hi, fun _ => hbit⟩

/-! ## Reversals (R99) -/

theorem brevVal_testBit (n a i : Nat) : (brevVal n a).testBit i = (decide (i < n) && a.testBit (n - 1 - i)) := by
  induction n generalizing a i with
  | zero => simp [brevVal]
  | succ n ih =>
    have hlt : brevVal n (a / 2) < 2 ^ n := Nat.lt_pow_two_of_testBit _ fun j hj => by simp [ih, hj]
    rw [brevVal, Nat.mul_comm, Nat.testBit_two_pow_mul_add _ hlt]
    rcases Nat.lt_trichotomy i n with h | rfl | h
    · simp [h, ih, show i < n + 1 by omega, Nat.testBit_div_two, show n - 1 - i + 1 = n - i by omega]
    · simp [Nat.testBit_zero]
    · rw [if_neg (by omega), Nat.testBit_lt_two_pow]
      · simp [show ¬i < n + 1 by omega]
      · exact Nat.lt_of_lt_of_le (Nat.mod_lt a (by decide)) (Nat.le_self_pow (by omega) 2)

theorem ofNat_brevVal {n : Nat} (x : BitVec n) : BitVec.ofNat n (brevVal n x.toNat) = x.reverse := by
  apply BitVec.eq_of_getLsbD_eq
  intro i hi
  rw [BitVec.getLsbD_ofNat, brevVal_testBit, BitVec.getLsbD_reverse, BitVec.getMsbD, BitVec.getLsbD]
  simp [hi]

/-- Bit i of a number is bit i mod 8 of its byte i / 8. -/
theorem testBit_eq_byte (a i : Nat) : a.testBit i = (BitVec.ofNat 8 (a / 256 ^ (i / 8))).getLsbD (i % 8) := by
  rw [BitVec.getLsbD_ofNat, show 256 = 2 ^ 8 from rfl, ← pow_mul, Nat.testBit_div_two_pow,
    show i % 8 + 8 * (i / 8) = i by omega]
  simp [Nat.mod_lt]

theorem bswpVal_testBit (k a i : Nat) (hi : i < 8 * k) :
    (bswpVal k a).testBit i = a.testBit (8 * (k - 1 - i / 8) + i % 8) := by
  have hbyte : (bytesOf k a).reverse.getD (i / 8) 0 = BitVec.ofNat 8 (a / 256 ^ (k - 1 - i / 8)) := by
    rw [List.getD_eq_getElem _ _ (by simp; omega), List.getElem_reverse, bytesOf_getElem, bytesOf_length]
  rw [testBit_eq_byte, bswpVal, ofBytes_byte, hbyte, testBit_eq_byte a,
    show (8 * (k - 1 - i / 8) + i % 8) / 8 = k - 1 - i / 8 by omega,
    show (8 * (k - 1 - i / 8) + i % 8) % 8 = i % 8 by omega]

theorem bswpVal_getLsbD {n : Nat} (x : BitVec n) (h8 : 8 ∣ n) (i : Nat) (hi : i < n) :
    (BitVec.ofNat n (bswpVal (n / 8) x.toNat)).getLsbD i = x.getLsbD (n - 8 - i / 8 * 8 + i % 8) := by
  rw [BitVec.getLsbD_ofNat, bswpVal_testBit _ _ _ (by omega), BitVec.getLsbD,
    show 8 * (n / 8 - 1 - i / 8) + i % 8 = n - 8 - i / 8 * 8 + i % 8 by omega]
  simp [hi]

theorem eight_dvd_sizeBits (z : Size) : 8 ∣ sizeBits z := by cases z <;> decide

/-- Settles O12: each form computes a number whose N-bit pattern, or whose bits, are those stated. -/
theorem logicAndShifts : Obligations.LogicAndShifts := by
  unfold Obligations.LogicAndShifts
  refine ⟨fun s e z d a b g h => ?_, fun s e z d a g h => ?_⟩
  · refine ⟨show execAnd e z d a b g s = _ from intOp_ends h ?and, show execOr e z d a b g s = _ from intOp_ends h ?or,
      show execXor e z d a b g s = _ from intOp_ends h ?xor, show execNot e z d a g s = _ from intOp_ends h ?not,
      show execMov e z d a g s = _ from intOp_ends h ?mov, show execShl e z d a b g s = _ from shiftOp_ends h ?shl,
      show execShr e z d a b g s = _ from shiftOp_ends h ?shr, show execRot e z d a b g s = _ from shiftOp_ends h ?rot⟩
    case and | or | xor | mov => simp
    case not => rw [← BitVec.toNat_not, BitVec.ofNat_toNat, BitVec.setWidth_eq]
    case shl => exact ofNat_shlVal _ _
    case shr => exact ofNat_shrVal _ _ e
    case rot => exact ofNat_rotVal _ _ (sizeBits_pos z)
  · obtain ⟨hclz, hclzAbove, hclzBit⟩ := clzVal_spec (opnd s z a).isLt
    obtain ⟨hctz, hctzBelow, hctzBit⟩ := ctzVal_spec (sizeBits z) (opnd s z a).toNat
    refine ⟨⟨clzVal _ (opnd s z a).toNat, hclz, hclzAbove, hclzBit, show execClz e z d a g s = _ from countOp_ends h⟩,
      ⟨ctzVal _ (opnd s z a).toNat, hctz, hctzBelow, hctzBit, show execCtz e z d a g s = _ from countOp_ends h⟩,
      ?_, show execBrev e z d a g s = _ from intOp_ends h (ofNat_brevVal _),
      ⟨_, bswpVal_getLsbD _ (eight_dvd_sizeBits z), show execBswp e z d a g s = _ from intOp_ends h rfl⟩⟩
    rw [List.countP_eq_length_filter]
    exact show execPopc e z d a g s = _ from countOp_ends h

end Sys2Proof.Machine
end

section
/-! SUPPORT. Conditions on N-bit operands and on addresses (R101, R107). -/

namespace Sys2Proof.Machine

open Sys2Proof

section
variable {n : Nat} (x y : BitVec n) (i j : Int)

theorem condHolds_eq : condHolds .eq x.toNat y.toNat i j = (x == y) := by
  simp [condHolds, BitVec.toNat_inj, beq_eq_decide]

theorem condHolds_ne : condHolds .ne x.toNat y.toNat i j = (x != y) := by
  simp [condHolds, BitVec.toNat_inj, bne, beq_eq_decide]

end

/-- The operands of CMP are its registers' N-bit patterns and their signed values (R101). -/
theorem execCmp_ends {s : State} {g : Guard} (h : Clear g s) (c : Cond) (z : Size) (d : BitVec 3) (a b : BitVec 5) :
    execCmp c z d a b g s = .next (s.setMe (s.me.writeP d
      (condHolds c (opnd s z a).toNat (opnd s z b).toNat (opnd s z a).toInt (opnd s z b).toInt)).advance) := by
  refine guarded_setMe h ?_
  simp only [setP_eq, lowBits_readG, signedOf_toNat]

/-- Settles O14, by the conditions as comparisons of bit vectors. -/
theorem compareAndSelect : Obligations.CompareAndSelect := by
  unfold Obligations.CompareAndSelect
  refine ⟨fun s c z d e a b v w g hn => ⟨fun hg => ?_, fun hg => ?_, finish_done_setMe s _ hn⟩,
    fun s d a b v g h => ⟨show execPand d a b g s = _ from guarded_setMe h rfl,
      show execPor d a b g s = _ from guarded_setMe h rfl, show execPxor d a b g s = _ from guarded_setMe h rfl,
      show execPnot d a g s = _ from guarded_setMe h rfl, show execPset d v g s = _ from guarded_setMe h rfl⟩⟩
  · refine (execCmp_ends ⟨hg, hn⟩ c z d a b).trans ?_
    cases c with
    | eq => rw [condHolds_eq]
    | ne => rw [condHolds_ne]
    | lt | le | gt | ge | lo | ls | hi | hs => rfl
  · refine show execAcmp c d v w g s = _ from guarded_setMe ⟨hg, hn⟩ ?_
    cases c with
    | eq => exact congrArg (fun p => Out.done (s.setP d p)) (condHolds_eq ..)
    | ne => exact congrArg (fun p => Out.done (s.setP d p)) (condHolds_ne ..)
    | lt | le | gt | ge => simp [condHolds, BitVec.ult, BitVec.ule]
    | lo | ls | hi | hs => rfl

end Sys2Proof.Machine
end

section
/-! SUPPORT. Bit fields of a general register (R103). -/

namespace Sys2Proof.Machine

open Sys2Proof

section
variable (v old : Word) (pos wid i : Nat)

theorem bfxVal_z_getLsbD (hi : i < 64) :
    (bfxVal .z v pos wid).getLsbD i = (decide (i < wid) && v.getLsbD (pos + i)) := by
  unfold bfxVal
  split
  next h => simp [h]
  next =>
    rw [BitVec.getLsbD_ofNat, Nat.testBit_mod_two_pow, Nat.testBit_div_two_pow, Nat.add_comm i pos, BitVec.getLsbD]
    simp [hi]

/-- The pattern of an integer on fewer bits is the low part of its pattern on more. -/
theorem setWidth_ofInt {m n : Nat} (h : m ≤ n) (k : Int) : (BitVec.ofInt n k).setWidth m = BitVec.ofInt m k := by
  have hdvd : ((2 ^ m : Nat) : Int) ∣ (2 ^ n : Nat) := by exact_mod_cast pow_dvd_pow 2 h
  have hnonneg : 0 ≤ k % ((2 ^ n : Nat) : Int) := Int.emod_nonneg k (by positivity)
  apply BitVec.eq_of_toNat_eq
  rw [BitVec.toNat_setWidth, BitVec.toNat_ofInt, BitVec.toNat_ofInt, ← Int.emod_emod_of_dvd k hdvd,
    Int.toNat_emod hnonneg (by positivity), Int.toNat_natCast]

/-- BFX.s is the sign extension of a field of the register's signed shift (R103). -/
theorem bfxVal_s (h0 : wid ≠ 0) (h : wid ≤ 64) :
    bfxVal .s v pos wid = ((v.sshiftRight pos).setWidth wid).signExtend 64 := by
  have hfield : (v.toInt / ((2 ^ pos : Nat) : Int) % ((2 ^ wid : Nat) : Int)).toNat =
      ((v.sshiftRight pos).setWidth wid).toNat := by
    rw [emod_toNat_eq_ofInt, BitVec.sshiftRight, setWidth_ofInt h, Int.shiftRight_eq_div_pow]
  rw [bfxVal, if_neg h0, hfield, signedOf_toNat, BitVec.signExtend]

theorem bfxVal_s_getLsbD (h : wid ≤ 64) (hi : i < 64) :
    (bfxVal .s v pos wid).getLsbD i = (decide (wid ≠ 0) &&
      (if pos + min i (wid - 1) < 64 then v.getLsbD (pos + min i (wid - 1)) else v.getLsbD 63)) := by
  by_cases h0 : wid = 0
  · simp [bfxVal, h0]
  · have hbit : (bfxVal .s v pos wid).getLsbD i = (v.sshiftRight pos).getLsbD (min i (wid - 1)) := by
      rw [bfxVal_s v pos wid h0 h, BitVec.getLsbD_signExtend]
      by_cases hlt : i < wid
      · rw [if_pos hlt, BitVec.getLsbD_setWidth, Nat.min_eq_left (by omega)]
        simp [hi, hlt]
      · rw [if_neg hlt, BitVec.msb_eq_getLsbD_last, BitVec.getLsbD_setWidth, Nat.min_eq_right (by omega)]
        simp [hi, Nat.pos_of_ne_zero h0]
    rw [hbit, BitVec.getLsbD_sshiftRight, BitVec.msb_eq_getLsbD_last]
    simp [h0, show ¬64 ≤ min i (wid - 1) by omega]

theorem bfiVal_getLsbD (hi : i < 64) :
    (bfiVal old v pos wid).getLsbD i = if pos ≤ i ∧ i < pos + wid then v.getLsbD (i - pos) else old.getLsbD i := by
  have hmask : (BitVec.ofNat 64 ((2 ^ wid - 1) * 2 ^ pos)).getLsbD i = decide (pos ≤ i ∧ i < pos + wid) := by
    rw [BitVec.getLsbD_ofNat, Nat.testBit_mul_two_pow, Nat.testBit_two_pow_sub_one]
    by_cases h : pos ≤ i <;> simp [h, hi]
    omega
  have hmoved : (BitVec.ofNat 64 (v.toNat * 2 ^ pos)).getLsbD i = (decide (pos ≤ i) && v.getLsbD (i - pos)) := by
    rw [BitVec.getLsbD_ofNat, Nat.testBit_mul_two_pow, BitVec.getLsbD]
    simp [hi]
  simp only [bfiVal, BitVec.getLsbD_or, BitVec.getLsbD_and, BitVec.getLsbD_not, hi, hmask, hmoved]
  by_cases h : pos ≤ i ∧ i < pos + wid <;> simp [h]

end

theorem bfPos_eq (y : Word) : bfPos y = (y.setWidth 8).toNat := (BitVec.toNat_setWidth 8 y).symm

theorem bfWid_eq (y : Word) : bfWid y = min 64 ((y >>> 8).setWidth 8).toNat := by
  rw [bfWid, BitVec.toNat_setWidth, BitVec.toNat_ushiftRight, Nat.shiftRight_eq_div_pow]

theorem bfWid_le (y : Word) : bfWid y ≤ 64 := Nat.min_le_left ..

/-- Settles O15, by the bits of each value. -/
theorem bitFields : Obligations.BitFields := by
  unfold Obligations.BitFields
  intro s d a b w p g hn x y old
  have hw : w.toNat + 1 ≤ 64 := w.isLt
  rw [← bfPos_eq, ← bfWid_eq]
  refine ⟨⟨_, fun i => bfxVal_z_getLsbD x _ _ i, finish_done_setMe s _ hn⟩,
    ⟨_, fun i => bfxVal_s_getLsbD x _ _ i hw, finish_done_setMe s _ hn⟩,
    ⟨_, fun i => bfiVal_getLsbD x old _ _ i, finish_done_setMe s _ hn⟩, fun hg => ⟨?_, ?_, ?_⟩⟩
  · exact ⟨_, fun i => bfxVal_z_getLsbD x _ _ i, show execBfxZReg d a b g s = _ from guarded_setMe ⟨hg, hn⟩ rfl⟩
  · exact ⟨_, fun i => bfxVal_s_getLsbD x _ _ i (bfWid_le y),
      show execBfxSReg d a b g s = _ from guarded_setMe ⟨hg, hn⟩ rfl⟩
  · exact ⟨_, fun i => bfiVal_getLsbD x old _ _ i, show execBfiReg d a b g s = _ from guarded_setMe ⟨hg, hn⟩ rfl⟩

end Sys2Proof.Machine
end

section
/-! SUPPORT. Address arithmetic (R105, R106). -/

namespace Sys2Proof.Machine

open Sys2Proof

theorem toNat_shiftRight_56 (b : Word) : (b >>> 56).toNat = b.toNat / 2 ^ 56 := by
  rw [BitVec.toNat_ushiftRight, Nat.shiftRight_eq_div_pow]

/-- ASTEP takes the bits of its block from the stepped address (R106). -/
theorem astepVal_getLsbD (v : Addr) (b : Word) (j : Nat) (hj : j < 80) :
    (astepVal v b).getLsbD j =
      if j < (b >>> 56).toNat then (v + (b.setWidth 48).signExtend 80).getLsbD j else v.getLsbD j := by
  rw [toNat_shiftRight_56, astepVal]
  generalize b.toNat / 2 ^ 56 = m
  generalize (b.setWidth 48).signExtend 80 = stride
  dsimp only
  split_ifs with h0 hlow h80 hlow hlow
  · omega
  · rfl
  · rfl
  · omega
  all_goals
    rw [BitVec.getLsbD_or, BitVec.getLsbD_and, BitVec.getLsbD_and, BitVec.getLsbD_not, BitVec.getLsbD_ofNat,
      Nat.testBit_two_pow_sub_one]
    simp [hj, hlow]

theorem ofNat_aset (b c : Word) :
    BitVec.ofNat 80 (b.toNat % 2 ^ 16 * 2 ^ 64 + c.toNat) = b.setWidth 16 ++ c := by
  have hb := Nat.mod_lt b.toNat (show 2 ^ 16 > 0 by decide)
  apply BitVec.eq_of_toNat_eq
  rw [BitVec.toNat_ofNat, BitVec.toNat_append, BitVec.toNat_setWidth, ← Nat.shiftLeft_add_eq_or_of_lt c.isLt,
    Nat.shiftLeft_eq, Nat.mod_eq_of_lt (by have := c.isLt; omega)]

theorem ofNat_agetH (x : Addr) : BitVec.ofNat 64 (x.toNat / 2 ^ 64) = (x >>> 64).setWidth 64 := by
  rw [← BitVec.ofNat_toNat, BitVec.toNat_ushiftRight, Nat.shiftRight_eq_div_pow]

/-- Settles O16, by the value of each form. -/
theorem addresses : Obligations.Addresses := by
  unfold Obligations.Addresses
  intro s d a r b c i g hn x m next
  refine ⟨finish_done_setMe s _ hn, fun hg => ?_⟩
  have h : Clear g s := ⟨hg, hn⟩
  refine ⟨show execAaddReg d a b g s = _ from guarded_setMe h rfl,
    show execAset d c b g s = _ from guarded_setMe h ?_, show execAget r a g s = _ from guarded_setMe h rfl,
    show execAgetH r a g s = _ from guarded_setMe h ?_,
    ⟨_, fun j => astepVal_getLsbD x (s.me.readG b) j, show execAstep d a b g s = _ from guarded_setMe h rfl⟩⟩
  · rw [ofNat_aset, setA_eq]
  · rw [ofNat_agetH, setG_eq]

end Sys2Proof.Machine
end

section
/-! SUPPORT. Control transfers and repeats (R109, R110, R112, R113). -/

namespace Sys2Proof.Machine

open Sys2Proof

/-! ## Transfers (R109, R110) -/

section
variable {s : State} {x : Int}

theorem finish_jump_inside (t : State) (h : 0 ≤ x ∧ x < 4096) :
    finish s (.jump t x) = .next (t.setMe { t.me with pc := BitVec.ofInt 12 x }) := finish_jump s t x (by omega)

/-- A changed slot that goes on at a word of the store (R109). -/
theorem finish_jump_setMe (sl : Slot) (h : 0 ≤ x ∧ x < 4096) :
    finish s (.jump (s.setMe sl) x) = .next (s.setMe { sl with pc := BitVec.ofInt 12 x }) := by
  rw [finish_jump_inside _ h, me_setMe, setMe_setMe]

theorem finish_jump_outside (t : State) (h : ¬(0 ≤ x ∧ x < 4096)) :
    finish s (.jump t x) = .next (s.takeTrap s.cur s.slot ⟨2, BitVec.ofInt 64 x, none, none⟩ s.me.pc) :=
  finish_jump_out s t x (by omega)

end

theorem execBr_taken {s : State} {g : Guard} (hg : s.me.guard g = true) (o : BitVec 22) :
    execBr g o s = finish s (.jump s (target s.me.pc o.toInt)) := guarded_true g s _ hg

theorem execJr_taken {s : State} {g : Guard} (hg : s.me.guard g = true) (a : BitVec 5) :
    execJr a g s = finish s (.jump s (s.me.readG a).toNat) := guarded_true g s _ hg

/-- LOOP goes round while more than one round is left (R110). -/
theorem execLoop_round {s : State} {d : BitVec 5} (i : BitVec 16) (h : 1 < (s.me.readG d).toNat) :
    execLoop d i s = finish s (.jump (s.setG d (s.me.readG d - 1)) (target s.me.pc i.toInt)) := by
  rw [execLoop, if_pos h]

/-- LOOP falls through with its count at zero (R110). -/
theorem execLoop_last {s : State} {d : BitVec 5} (i : BitVec 16) (h : (s.me.readG d).toNat ≤ 1) :
    execLoop d i s = finish s (.done (s.setG d 0)) := by
  rw [execLoop, if_neg (by omega)]

/-- The link is the next index (R109). -/
theorem execJal_eq (d : BitVec 5) (i : BitVec 16) (s : State) : execJal d i s = finish s
    (.jump (s.setMe (s.me.writeG d (BitVec.ofInt 64 ((s.me.pc.toNat : Int) + 1)))) (target s.me.pc i.toInt)) := by
  rw [execJal, setG_eq, ← BitVec.ofInt_natCast, Int.natCast_add, Int.natCast_one]

/-! ## Repeats (R112, R113) -/

/-- The word after the issuing slot's own (R112). -/
def State.repTarget (s : State) : Code := tget 0 (s.coreAt s.cur).istore (s.me.pc.toNat + 1)

/-- Two words as one number, the first above the second. -/
theorem ofNat_words (x y : Code) : BitVec.ofNat 64 (x.toNat * 2 ^ 32 + y.toNat) = x ++ y := by
  have hx := x.isLt
  have hy := y.isLt
  apply BitVec.eq_of_toNat_eq
  rw [BitVec.toNat_ofNat, BitVec.toNat_append, ← Nat.shiftLeft_add_eq_or_of_lt hy, Nat.shiftLeft_eq,
    Nat.mod_eq_of_lt (by omega)]

section
variable {s : State} (n : BitVec 6) (sd sa sb : Bool) (hpc : s.me.pc ≠ 4095#12)
include hpc

theorem repOut_undecoded {e : Reject} (hd : decode s.repTarget = .error e) :
    repOut n sd sa sb s = .trap (illegalWord s.repTarget) := by
  rw [State.repTarget] at hd ⊢
  simp only [repOut, if_neg hpc, hd]

theorem repOut_refused {i : Instr} (hd : decode s.repTarget = .ok i)
    (h : repTargetOk s.repTarget i (n.toNat + 1) sd sa sb = false ∨ n.toNat + 1 < s.me.repc.toNat) :
    repOut n sd sa sb s = .trap (trapOf 1 (s.repTarget ++ tget 0 (s.coreAt s.cur).istore s.me.pc.toNat)) := by
  have hbad : (!repTargetOk s.repTarget i (n.toNat + 1) sd sa sb || decide (n.toNat + 1 < s.me.repc.toNat)) = true := by
    rcases h with h | h <;> simp [h]
  rw [State.repTarget] at hd hbad ⊢
  simp only [repOut, if_neg hpc, hd, hbad, if_true, ofNat_words]

theorem repOut_starts {i : Instr} (hd : decode s.repTarget = .ok i)
    (h : repTargetOk s.repTarget i (n.toNat + 1) sd sa sb = true) (hc : s.me.repc.toNat ≤ n.toNat + 1) :
    repOut n sd sa sb s = .moved (s.setMe { s.me with
      inRep := true, repc := if s.me.repc = 0 then BitVec.ofNat 7 (n.toNat + 1) else s.me.repc }) := by
  rw [State.repTarget] at hd h
  simp only [repOut, if_neg hpc, hd, h, decide_eq_false (Nat.not_lt.2 hc), Bool.not_true, Bool.or_self,
    Bool.false_eq_true, if_false]

end

/-- Settles O17, by the ends of a transfer and the three ends of REP. -/
theorem transfers : Obligations.Transfers := by
  unfold Obligations.Transfers
  refine ⟨fun s d a i o g => ?_, fun s n sd sa sb hpc => ⟨fun i hd h hc => ?_, fun i hd h => ?_, fun e hd => ?_⟩⟩
  · intro pc inside goto out x
    refine ⟨fun hg => ⟨fun h => ?_, fun h => ?_, fun h => ?_, fun h => ?_⟩, fun h => ?_, fun h => ?_, fun hx h => ?_,
      fun hx h => ?_, fun hx hn => ?_⟩
    · exact (execBr_taken hg o).trans (finish_jump_inside s h)
    · exact (execBr_taken hg o).trans (finish_jump_outside s h)
    · exact (execJr_taken hg a).trans (finish_jump_inside s h)
    · exact (execJr_taken hg a).trans (finish_jump_outside s h)
    · exact (execJal_eq d i s).trans (finish_jump_setMe _ h)
    · exact (execJal_eq d i s).trans (finish_jump_outside _ h)
    · exact (execLoop_round i hx).trans (finish_jump_setMe _ h)
    · exact (execLoop_round i hx).trans (finish_jump_outside _ h)
    · exact (execLoop_last i hx).trans (finish_done_setMe s _ hn)
  · exact congrArg (finish s) (repOut_starts n sd sa sb hpc hd h hc)
  · exact congrArg (finish s) (repOut_refused n sd sa sb hpc hd h)
  · exact congrArg (finish s) (repOut_undecoded n sd sa sb hpc hd)

end Sys2Proof.Machine
end

section
/-! SUPPORT. What the scalar floating-point operations answer fits their format, and how lanes are packed (R33, R34,
R127 to R135). -/

namespace Sys2Proof.Machine

open Sys2Proof

/-! ## Results fit their format (R33, R34) -/

/-- A pattern of a format has no bit above the format's width. -/
def Fmt.Fits (f : Fmt) (n : Nat) : Prop := n < 2 ^ f.width

section
variable (f : Fmt)

theorem Fmt.two_signBit : 2 ^ f.width = f.signBit + f.signBit := by cases f <;> rfl

theorem Fmt.signBit_pos : 0 < f.signBit := by cases f <;> decide

theorem Fmt.infMag_lt : f.infMag < f.signBit := by cases f <;> decide

theorem Fmt.nan_fits : f.Fits f.nan := by cases f <;> (unfold Fmt.Fits; decide)

theorem Fmt.lane_fits (j : Nat) (v : Word) : f.Fits (lane f.width j v) := Nat.mod_lt _ (by positivity)

variable {f}

/-- A magnitude below the sign bit fits with its sign. -/
theorem Fmt.pack_fits (s : Bool) {n : Nat} (h : n < f.signBit) : f.Fits (f.pack s n) := by
  have := f.two_signBit
  unfold Fmt.Fits Fmt.pack
  split <;> omega

theorem Fmt.pack_infMag_fits (s : Bool) : f.Fits (f.pack s f.infMag) := pack_fits s f.infMag_lt

theorem Fmt.pack_zero_fits (s : Bool) : f.Fits (f.pack s 0) := pack_fits s f.signBit_pos

theorem overflowMag_le (r : Rnd) (s : Bool) : overflowMag f r s ≤ f.infMag := by
  cases r <;> cases s <;> simp [overflowMag]

/-- Both results of a branch fit, so what it answers does. -/
theorem Fmt.ite_fits {p : Prop} [Decidable p] {x y : Nat × Flags} (hx : p → f.Fits x.1) (hy : ¬p → f.Fits y.1) :
    f.Fits (if p then x else y).1 := by
  split
  next h => exact hx h
  next h => exact hy h

section
variable (r : Rnd) (s : Bool) {m : Nat} (e : Int) (hm : m ≠ 0)
include hm

/-- Below infinity, a rounded value is its sign and its magnitude. -/
theorem Fmt.round_finite (hf : f ≠ .e4m3) (h : ¬f.infMag ≤ (f.roundMag r s m e).1) :
    ∃ fl, f.round r s m e = (f.pack s (f.roundMag r s m e).1, fl) := by
  cases f with
  | e4m3 => exact absurd rfl hf
  | f32 | bf16 | f16 => exact ⟨_, (if_neg hm).trans (if_neg h)⟩

/-- Up to the largest finite value, so is one of E4M3. -/
theorem round_unsaturated (h : ¬0x7E < (Fmt.e4m3.roundMag r s m e).1) :
    ∃ fl, Fmt.e4m3.round r s m e = (Fmt.e4m3.pack s (Fmt.e4m3.roundMag r s m e).1, fl) :=
  ⟨_, (if_neg hm).trans (if_neg h)⟩

end

/-- A rounded value fits: what reaches the magnitude of infinity overflows or saturates. -/
theorem Fmt.round_fits (r : Rnd) (s : Bool) (m : Nat) (e : Int) : f.Fits (f.round r s m e).1 := by
  by_cases hm : m = 0
  · rw [show f.round r s m e = (f.pack s 0, 0) from if_pos hm]
    exact pack_zero_fits s
  by_cases hf : f = .e4m3
  · subst hf
    by_cases h : 0x7E < (Fmt.e4m3.roundMag r s m e).1
    · rw [round_saturates r s e hm h]
      exact pack_fits s (by decide)
    · obtain ⟨fl, hfl⟩ := round_unsaturated r s e hm h
      rw [hfl]
      exact pack_fits s (lt_of_le_of_lt (not_lt.mp h) (by decide))
  · by_cases h : f.infMag ≤ (f.roundMag r s m e).1
    · rw [round_overflow f r s e hm hf h]
      exact pack_fits s ((overflowMag_le r s).trans_lt f.infMag_lt)
    · obtain ⟨fl, hfl⟩ := round_finite r s e hm hf h
      rw [hfl]
      exact pack_fits s ((not_le.mp h).trans f.infMag_lt)

theorem Fmt.roundVal_fits (r : Rnd) (x : FVal) : f.Fits (f.roundVal r x).1 := by
  cases x with
  | nan q => exact f.nan_fits
  | inf s => exact pack_infMag_fits s
  | num s m e => exact round_fits r s m e

theorem Fmt.sum_fits (r : Rnd) (x y : FVal) : f.Fits (f.sum r x y).1 := by
  unfold Fmt.sum
  split
  · split
    · exact pack_infMag_fits _
    · exact f.nan_fits
  · exact pack_infMag_fits _
  · exact pack_infMag_fits _
  · dsimp only
    split
    · exact pack_zero_fits _
    · exact round_fits ..

variable (r : Rnd) (a b c : Nat)

theorem Fmt.add_fits : f.Fits (f.add r a b).1 := ite_fits (fun _ => f.nan_fits) fun _ => sum_fits ..

theorem Fmt.sub_fits : f.Fits (f.sub r a b).1 := ite_fits (fun _ => f.nan_fits) fun _ => sum_fits ..

theorem Fmt.mul_fits : f.Fits (f.mul r a b).1 := by
  refine ite_fits (fun _ => f.nan_fits) fun _ => ?_
  split
  · exact roundVal_fits ..
  · exact f.nan_fits

theorem Fmt.fma_fits : f.Fits (f.fma r a b c).1 := by
  refine ite_fits (fun _ => f.nan_fits) fun _ => ite_fits (fun _ => f.nan_fits) fun _ => ?_
  split
  · exact f.nan_fits
  · exact ite_fits (fun _ => f.nan_fits) fun _ => sum_fits ..

variable {a b}

/-- A minimum or maximum is an operand or the canonical NaN. -/
theorem Fmt.minMax_fits (max : Bool) (ha : f.Fits a) (hb : f.Fits b) : f.Fits (f.minMax max a b).1 := by
  have h : (f.minMax max a b).1 = f.nan ∨ (f.minMax max a b).1 = a ∨ (f.minMax max a b).1 = b := by
    simp only [Fmt.minMax]
    split_ifs <;> simp
  rcases h with h | h | h <;> rw [h]
  · exact f.nan_fits
  · exact ha
  · exact hb

theorem Fmt.sgn_fits (o : SgnOp) : f.Fits (f.sgn o a b).1 := by
  unfold Fmt.sgn
  dsimp only
  split
  · exact f.nan_fits
  · exact pack_fits _ (Nat.mod_lt _ f.signBit_pos)

end

theorem estimate_fits (s : Bool) (n : Nat) (q : Int) : Fmt.f32.Fits (estimate s n q).1 := by
  simp only [estimate]
  exact Fmt.ite_fits (fun _ => Fmt.pack_infMag_fits s) fun h => Fmt.pack_fits s ((not_le.mp h).trans Fmt.f32.infMag_lt)

theorem frceVal_fits (a : Nat) : Fmt.f32.Fits (frceVal a).1 := by
  simp only [frceVal]
  split
  · exact Fmt.f32.nan_fits
  · exact Fmt.pack_zero_fits _
  · exact Fmt.ite_fits (fun _ => Fmt.pack_infMag_fits _) fun _ => estimate_fits ..

theorem frsqeVal_fits (a : Nat) : Fmt.f32.Fits (frsqeVal a).1 := by
  simp only [frsqeVal]
  split
  · exact Fmt.f32.nan_fits
  · exact Fmt.ite_fits (fun _ => Fmt.f32.nan_fits) fun _ => Nat.two_pow_pos _
  · exact Fmt.ite_fits (fun _ => Fmt.pack_infMag_fits _) fun _ =>
      Fmt.ite_fits (fun _ => Fmt.f32.nan_fits) fun _ => estimate_fits ..

theorem fclassVal_fits (a : Nat) : Fmt.f32.Fits (fclassVal a) := by
  have h : fclassVal a ≤ 512 := by
    unfold fclassVal
    dsimp only
    split <;> split_ifs <;> decide
  exact h.trans_lt (by decide)

/-! ## Packing the lanes of a result (R33, R127) -/

section
variable {t : FpTy} {f : Nat → Nat × Flags}

/-- Each lane of a packed result is the result of its lane. -/
theorem lane_mapLanes (hf : ∀ j, j < lanesOf t → (fpFmt t).Fits (f j).1) {j : Nat} (hj : j < lanesOf t) :
    lane (fpFmt t).width j (mapLanes t f).1 = (f j).1 := by
  cases t with
  | f32 =>
    obtain rfl : j = 0 := Nat.lt_one_iff.mp hj
    have h0 : (f 0).1 < 2 ^ 32 := hf 0 hj
    simp only [lane, mapLanes, fpFmt, Fmt.width, BitVec.toNat_ofNat]
    omega
  | bf16x2 | f16x2 =>
    have h0 : (f 0).1 < 2 ^ 16 := hf 0 Nat.two_pos
    have h1 : (f 1).1 < 2 ^ 16 := hf 1 Nat.one_lt_two
    have hj : j = 0 ∨ j = 1 := by simp only [lanesOf] at hj; omega
    rcases hj with rfl | rfl
    · simp only [lane, mapLanes, fpFmt, Fmt.width, BitVec.toNat_ofNat]
      omega
    · simp only [lane, mapLanes, fpFmt, Fmt.width, BitVec.toNat_ofNat]
      omega

/-- A packed result has zeros above bit 31. -/
theorem mapLanes_lt (hf : ∀ j, j < lanesOf t → (fpFmt t).Fits (f j).1) : (mapLanes t f).1.toNat < 2 ^ 32 := by
  cases t with
  | f32 =>
    have h0 : (f 0).1 < 2 ^ 32 := hf 0 Nat.one_pos
    simp only [mapLanes, BitVec.toNat_ofNat]
    omega
  | bf16x2 | f16x2 =>
    have h0 : (f 0).1 < 2 ^ 16 := hf 0 Nat.two_pos
    have h1 : (f 1).1 < 2 ^ 16 := hf 1 Nat.one_lt_two
    simp only [mapLanes, BitVec.toNat_ofNat]
    omega

/-- A property of some lane, lane by lane. -/
theorem exists_lane_iff (t : FpTy) (p : Nat → Prop) :
    (∃ j, j < lanesOf t ∧ p j) ↔ match t with
      | .f32 => p 0
      | .bf16x2 | .f16x2 => p 0 ∨ p 1 := by
  cases t <;> simp [lanesOf, Nat.le_one_iff_eq_zero_or_eq_one, or_and_right, exists_or]

/-- A property of every lane, lane by lane. -/
theorem forall_lane_iff (t : FpTy) (p : Nat → Prop) :
    (∀ j, j < lanesOf t → p j) ↔ match t with
      | .f32 => p 0
      | .bf16x2 | .f16x2 => p 0 ∧ p 1 := by
  cases t <;> simp [lanesOf, Nat.le_one_iff_eq_zero_or_eq_one, or_imp, forall_and]

/-- The flags of a packed result are those that some lane raises. -/
theorem mapLanes_flags (i : Nat) :
    (mapLanes t f).2.getLsbD i = true ↔ ∃ j, j < lanesOf t ∧ (f j).2.getLsbD i = true := by
  rw [exists_lane_iff]
  cases t <;> simp [mapLanes]

end

/-! ## Ends of the instructions (R127, R131) -/

section
variable {s : State} {g : Guard} (h : Clear g s)
include h

/-- An instruction over lanes whose results fit ends with them and their flags. -/
theorem fpOp_ends {i : Instr} {t : FpTy} {d : BitVec 5} {f : Slot → Nat → Nat × Flags} {F : Nat → Nat × Flags}
    (hi : exec i s = fpOp t d g f s) (hF : ∀ j, j < lanesOf t → f s.me j = F j)
    (hfits : ∀ j, j < lanesOf t → (fpFmt t).Fits (F j).1) : FpEnds i s t d F := by
  have hf : ∀ j, j < lanesOf t → (fpFmt t).Fits (f s.me j).1 := fun j hj => by rw [hF j hj]; exact hfits j hj
  have hend : Ends i s ((s.me.writeG d (mapLanes t (f s.me)).1).raiseFlags (mapLanes t (f s.me)).2) :=
    hi.trans (guarded_setMe h rfl)
  rw [Slot.raiseFlags, Slot.writeG_fpstat] at hend
  refine ⟨_, _, hend, fun j hj => ?_, mapLanes_lt hf, fun b => ?_⟩
  · rw [lane_mapLanes hf hj, hF j hj]
  · rw [mapLanes_flags]
    exact exists_congr fun j => and_congr_right fun hj => by rw [hF j hj]

/-- FCVT ends with the value and the flags of its conversion. -/
theorem fcvt_ends (y x : CvtTy) (r : Rnd) (d a : BitVec 5) :
    Ends (.fcvt y x r d a g) s { s.me.writeG d (cvtVal y x r (s.me.readG a)).1 with
      fpstat := s.me.fpstat ||| (cvtVal y x r (s.me.readG a)).2 } := by
  have hend : Ends (.fcvt y x r d a g) s ((s.me.writeG d (cvtVal y x r (s.me.readG a)).1).raiseFlags
      (cvtVal y x r (s.me.readG a)).2) :=
    (show exec (.fcvt y x r d a g) s = execFcvt y x r d a g s from rfl).trans (guarded_setMe h rfl)
  rwa [Slot.raiseFlags, Slot.writeG_fpstat] at hend

/-- FCMP ends with its predicate true where the condition holds in every lane, and with the flags of all lanes. -/
theorem fcmp_ends (t : FpTy) (c : FCond) (p : BitVec 3) (a b : BitVec 5) :
    let z (j : Nat) := (fpFmt t).cmp c (laneOf t s.me a j) (laneOf t s.me b j)
    ∃ (q : Bool) (fl : Flags), Ends (.fcmp t c p a b g) s { s.me.writeP p q with fpstat := s.me.fpstat ||| fl } ∧
      (q = true ↔ ∀ j, j < lanesOf t → (z j).1 = true) ∧
      (∀ i, fl.getLsbD i = true ↔ ∃ j, j < lanesOf t ∧ (z j).2.getLsbD i = true) := by
  intro z
  have hi : exec (.fcmp t c p a b g) s = execFcmp t c p a b g s := rfl
  have hend {q : Bool} {fl : Flags} {k : State → Out} (hi : exec (.fcmp t c p a b g) s = guarded g s k)
      (hk : k s = .done (s.setMe ((s.me.writeP p q).raiseFlags fl))) :
      Ends (.fcmp t c p a b g) s { s.me.writeP p q with fpstat := s.me.fpstat ||| fl } := by
    have hx := hi.trans (guarded_setMe h hk)
    rwa [Slot.raiseFlags, Slot.writeP_fpstat] at hx
  cases t with
  | f32 =>
    refine ⟨(z 0).1, (z 0).2, hend hi rfl, ?_, fun i => ?_⟩
    · simp [lanesOf]
    · simp [lanesOf]
  | bf16x2 | f16x2 =>
    refine ⟨(z 0).1 && (z 1).1, (z 0).2 ||| (z 1).2, hend hi rfl, ?_, fun i => ?_⟩
    · rw [forall_lane_iff]
      simp
    · rw [exists_lane_iff]
      simp

end

/-- Settles O19: every operation answers a pattern of its format, so packing keeps the results of the lanes apart. -/
theorem fpArithmetic : Obligations.FpArithmetic := by
  unfold Obligations.FpArithmetic
  refine ⟨fun s t r o d a b g h => ?_, fun s t c y x r d a b p g h => ?_⟩
  · intro f u v w
    have hu (j : Nat) : f.Fits (u j) := f.lane_fits ..
    have hv (j : Nat) : f.Fits (v j) := f.lane_fits ..
    have hadd : exec (.fadd t r d a b g) s = execFadd t r d a b g s := rfl
    have hsub : exec (.fsub t r d a b g) s = execFsub t r d a b g s := rfl
    have hmul : exec (.fmul t r d a b g) s = execFmul t r d a b g s := rfl
    have hfma : exec (.ffma t r d a b g) s = execFfma t r d a b g s := rfl
    have hmin : exec (.fmin t d a b g) s = execFmin t d a b g s := rfl
    have hmax : exec (.fmax t d a b g) s = execFmax t d a b g s := rfl
    have hsgn : exec (.fsgn t o d a b g) s = execFsgn t o d a b g s := rfl
    exact ⟨fpOp_ends h hadd (fun _ _ => rfl) fun _ _ => Fmt.add_fits ..,
      fpOp_ends h hsub (fun _ _ => rfl) fun _ _ => Fmt.sub_fits ..,
      fpOp_ends h hmul (fun _ _ => rfl) fun _ _ => Fmt.mul_fits ..,
      fpOp_ends h hfma (fun _ _ => rfl) fun _ _ => Fmt.fma_fits ..,
      fpOp_ends h hmin (fun _ _ => rfl) fun j _ => Fmt.minMax_fits _ (hu j) (hv j),
      fpOp_ends h hmax (fun _ _ => rfl) fun j _ => Fmt.minMax_fits _ (hu j) (hv j),
      fpOp_ends h hsgn (fun _ _ => rfl) fun _ _ => Fmt.sgn_fits ..⟩
  · intro f u v w
    have hlane (j : Nat) (hj : j < lanesOf .f32) : laneOf .f32 s.me a j = w := by
      obtain rfl : j = 0 := Nat.lt_one_iff.mp hj
      rfl
    have hrce : exec (.frce d a g) s = execFrce d a g s := rfl
    have hrsqe : exec (.frsqe d a g) s = execFrsqe d a g s := rfl
    have hclass : exec (.fclass d a g) s = execFclass d a g s := rfl
    exact ⟨fpOp_ends h hrce (fun j hj => congrArg frceVal (hlane j hj)) fun _ _ => frceVal_fits _,
      fpOp_ends h hrsqe (fun j hj => congrArg frsqeVal (hlane j hj)) fun _ _ => frsqeVal_fits _,
      fpOp_ends h hclass (fun j hj => congrArg (fun n => (fclassVal n, 0)) (hlane j hj)) fun _ _ => fclassVal_fits _,
      fcvt_ends h y x r d a, fcmp_ends h t c p a b⟩

end Sys2Proof.Machine
end

section
/-! SUPPORT. Reads, probes and queries of the issuing core's windows, and WDEF (R115 to R120). -/

namespace Sys2Proof.Machine

open Sys2Proof

/-! ## Reads and queries (R115, R117, R119) -/

section
variable (s : State) (d : BitVec 5) (w : BitVec 4)

/-- A read of a filled element is done with the element in its destination. -/
theorem localOp_readable {o : BitVec 32} (hx : Readable (s.winAt s.cur w.toNat) o.toNat) :
    localOp w (.read o) d s =
      .done (s.setMe (s.me.writeG d ((s.coreAt s.cur).readScalar (s.winAt s.cur w.toNat) o.toNat))) :=
  (localOp_read w o d s).trans
    (localGo_done w _ d s s _ (tryCore_read s false s.cur w.toNat _ s.cur s.slot o (judge_readable hx)))

/-- A query is done with a third of the descriptor in its destination. -/
theorem localOp_query (q : BitVec 2) : localOp w (.query q) d s =
    .done (s.setMe (s.me.writeG d ((s.winAt s.cur w.toNat).word q.toNat))) := rfl

end

/-! ## The probe of a read (R118) -/

/-- A read of an element that is not filled yet waits (R23). -/
theorem judge_read_absent {x : Win} {n : Nat} (hx : Usable x .read) (hcap : n < x.cap.toNat)
    (hpois : x.poisonedAt n = false) (hext : x.ext ≤ n) : x.judge .read n = .wait := by
  obtain ⟨hv, hh, -⟩ := hx
  rw [judge_read x n hh hv, if_neg hcap.not_ge, if_neg (by simp [hpois]), if_neg hext.not_gt]

section
variable {s : State} {w : BitVec 4} {o : BitVec 11} (d : BitVec 5) (p : BitVec 3)

/-- The probe of a filled element reads it and sets its predicate. -/
theorem wrdnOut_readable (hx : Readable (s.winAt s.cur w.toNat) o.toNat) : wrdnOut d p w o s = .done (s.setMe
    ((s.me.writeG d ((s.coreAt s.cur).readScalar (s.winAt s.cur w.toNat) o.toNat)).writeP p true)) := by
  obtain ⟨⟨hv, hheld, hmode⟩, hrest⟩ := hx
  have hjudge : ({ s.winAt s.cur w.toNat with held := false } : Win).judge .read o.toNat = .proceed :=
    judge_readable ⟨⟨hv, rfl, hmode⟩, hrest⟩
  simp only [wrdnOut, hjudge, hheld, Bool.false_eq_true, if_false, setG_eq, setP_eq, me_setMe, setMe_setMe]

/-- The probe of an element that is not filled yet clears its predicate. -/
theorem wrdnOut_absent (hx : Usable (s.winAt s.cur w.toNat) .read) (hcap : o.toNat < (s.winAt s.cur w.toNat).cap.toNat)
    (hpois : (s.winAt s.cur w.toNat).poisonedAt o.toNat = false) (hext : (s.winAt s.cur w.toNat).ext ≤ o.toNat) :
    wrdnOut d p w o s = .done (s.setMe (s.me.writeP p false)) := by
  obtain ⟨hv, -, -⟩ := hx
  have hjudge : ({ s.winAt s.cur w.toNat with held := false } : Win).judge .read o.toNat = .wait :=
    judge_read_absent ⟨hv, rfl, allows_read _⟩ hcap hpois hext
  simp only [wrdnOut, hjudge, setP_eq]

end

/-- An instruction that is done with its slot changed ends with that slot (R8). -/
theorem done_ends {s : State} {o : Out} {x : Slot} (hn : HasNext s) (ho : o = .done (s.setMe x)) :
    finish s o = .next (s.setMe x.advance) := by
  rw [ho, finish_done_setMe s x hn]

/-- Settles O22: each form is done with its slot changed in its destination alone. -/
theorem windowReads : Obligations.WindowReads := by
  unfold Obligations.WindowReads
  intro s d a w o n p q g hn k x
  refine ⟨fun hx => ?_, fun hg hx => ?_, fun hx => ?_, fun hx hcap hpois hext => ?_, ?_⟩
  · rw [← toNat_setWidth_14 o] at hx ⊢
    exact ⟨_, isElement_readScalar k x _, done_ends hn (localOp_readable s d w hx)⟩
  · exact ⟨_, isElement_readScalar k x _, guarded_setMe
      (k := fun s => localOp w (.read ((s.me.readG a).setWidth 32)) d s) ⟨hg, hn⟩ (localOp_readable s d w hx)⟩
  · exact ⟨_, isElement_readScalar k x _, done_ends hn (wrdnOut_readable d p hx)⟩
  · exact done_ends hn (wrdnOut_absent d p hx hcap hpois hext)
  · exact done_ends hn (localOp_query s d w q)

/-! ## WDEF (R120) -/

/-- A field of a word. -/
theorem bits_toNat_word (v : Word) (p n : Nat) : bits v.toNat p n = (v >>> p).setWidth n := by
  apply BitVec.eq_of_toNat_eq
  simp [Nat.shiftRight_eq_div_pow]

/-- The mode of a code has that code. -/
theorem code_modeOf {n : Nat} (h : (modeOf n).isSome = true) : ((modeOf n).getD .plain).code = n := by
  have hn : n < 6 := by
    by_contra hge
    obtain ⟨k, rfl⟩ := Nat.exists_eq_add_of_le' (not_lt.mp hge)
    exact absurd h Bool.false_ne_true
  interval_cases n <;> rfl

/-- An acceptable descriptor names a mode. -/
theorem modeOf_wdefOk {v : Word} (h : wdefOk v = true) : (modeOf (v.toNat / 2 ^ 39 % 8)).isSome = true := by
  simp only [wdefOk, Bool.and_eq_true] at h
  obtain ⟨⟨⟨⟨⟨⟨⟨hmode, -⟩, -⟩, -⟩, -⟩, -⟩, -⟩, -⟩ := h
  exact hmode

/-- Defining a window changes that window, cuts its backing accesses off and retries what waits: no core but for its
window. -/
theorem defineWin_cores (s : State) (c w : Nat) (v : Word) :
    (s.defineWin c w v).cores = (s.setWin c w ((s.winAt c w).define v)).cores := by
  unfold State.defineWin
  dsimp only
  split <;> rfl

theorem defineWin_cur (s : State) (c w : Nat) (v : Word) : (s.defineWin c w v).cur = s.cur := by
  unfold State.defineWin
  dsimp only
  split <;> rfl

theorem defineWin_slot (s : State) (c w : Nat) (v : Word) : (s.defineWin c w v).slot = s.slot := by
  unfold State.defineWin
  dsimp only
  split <;> rfl

/-- The core of a window that was defined. -/
theorem coreAt_defineWin (s : State) (c w : Nat) (v : Word) :
    (s.defineWin c w v).coreAt c = (s.coreAt c).setWin w ((s.winAt c w).define v) := by
  rw [coreAt_of_cores (defineWin_cores s c w v), coreAt_setWin_self]

theorem winAt_defineWin (s : State) (c w d u : Nat) (v : Word) :
    (s.defineWin c w v).winAt d u = if d = c ∧ u = w then (s.winAt c w).define v else s.winAt d u := by
  rw [winAt_of_cores (defineWin_cores s c w v), winAt_setWin]

/-- A WDEF with no access before it goes on from a state that differs in the claim tables alone (R262). -/
theorem exec_wdef_quiet {s : State} (w : BitVec 4) (z : BitVec 5) (hs : s.quiet s.cur s.slot = true) :
    ∃ ds, exec (.wdef w z) s = finish s (wdefOut w (s.me.readG z) (s.setDies ds)) := by
  obtain ⟨ds, hd⟩ := released_only s (fun s => wdefOut w (s.me.readG z) s) hs
  exact ⟨ds, congrArg (finish s) hd⟩

/-- Settles O25, by the descriptor that `Win.define` writes. -/
theorem windowDefinition : Obligations.WindowDefinition := by
  unfold Obligations.WindowDefinition
  intro s w z hs v y
  obtain ⟨ds, hi⟩ := exec_wdef_quiet w z hs
  refine ⟨fun hok hn => ?_, fun hbad => ?_⟩
  · generalize ht : (s.setDies ds).defineWin s.cur w.toNat v = t
    have hcore : t.coreAt s.cur = (s.coreAt s.cur).setWin w.toNat ((s.winAt s.cur w.toNat).define v) := by
      rw [← ht]; exact coreAt_defineWin (s.setDies ds) ..
    have hwin (d u : Nat) : t.winAt d u =
        if d = s.cur ∧ u = w.toNat then (s.winAt s.cur w.toNat).define v else s.winAt d u := by
      rw [← ht]; exact winAt_defineWin (s.setDies ds) ..
    have hcur : t.cur = s.cur := by rw [← ht]; exact defineWin_cur ..
    have hslot : t.slot = s.slot := by rw [← ht]; exact defineWin_slot ..
    have hme : t.me = s.me := me_of_slots hcur hslot (by rw [hcore]; rfl)
    have hend : exec (.wdef w z) s = .next (t.setMe t.me.advance) := by
      rw [hi, wdefOut, if_pos hok, setDies_cur, ht, finish_done_me s t hn]
    have hy : y (t.setMe t.me.advance) = (s.winAt s.cur w.toNat).define v :=
      (setMe_winAt ..).trans ((hwin ..).trans (if_pos ⟨rfl, rfl⟩))
    refine ⟨_, hend, by rw [me_setMe, hme], ?_⟩
    rw [hy]
    refine ⟨rfl, ?_, bits_toNat_word .., bits_toNat_word .., bits_toNat_word .., bits_toNat_word ..,
      bits_toNat_word .., rfl, rfl, rfl, rfl, rfl, rfl, rfl, rfl, ?_, fun d u h => ?_, ?_⟩
    · rw [BitVec.toNat_ushiftRight, Nat.shiftRight_eq_div_pow]
      exact code_modeOf (modeOf_wdefOk hok)
    · rw [coreAt_setMe, hcur, if_pos rfl, Core.setSlot_wstore, hcore, Core.setWin_wstore]
    · rw [setMe_winAt, hwin, if_neg h]
    · rw [setMe_mem, ← ht, defineWin_mem, setDies_mem]
  · rw [Traps, hi, wdefOut, if_neg (by rw [hbad]; exact Bool.false_ne_true), setDies_cur, setDies_winAt, finish_trap]

end Sys2Proof.Machine
end

section
/-! SUPPORT. What taking a trap leaves (R140, R141, R230, R342, R347), and the instructions that raise one (R142 to
R144, R410). -/

namespace Sys2Proof.Machine

open Sys2Proof

/-! ## The trap registers (R140) -/

/-- The slot with the trap registers written: TRAPPC, TRAPSITE, and what the trap says of itself. -/
def Slot.trapWritten (sl : Slot) (tr : Trap) (ret : BitVec 12) (site : BitVec 46) : Slot :=
  { sl with
    trappc := ret, trapcause := tr.cause, traparg := tr.arg, trapsite := site,
    trapva := match tr.va with
      | some a => a.setWidth 64
      | none => sl.trapva
    trapvah := match tr.va with
      | some a => BitVec.ofNat 16 (a.toNat / 2 ^ 64)
      | none => sl.trapvah }

/-- The slot as its handler begins. -/
def Slot.handling (sl : Slot) (entry : BitVec 12) (tick : BitVec 64) : Slot :=
  { sl with
    psup := sl.sup, tv := true, sup := true, pc := entry, hold := .none, wait := none, inRep := false, remote := none,
    again := false, banked := 0, paid := 0, status := .runnable,
    ready := if sl.status = .waiting then tick else sl.ready,
    issues := if sl.status = .waiting then 0 else sl.issues }

/-- The high 16 bits of an 80-bit address. -/
theorem ofNat_addressHigh (va : Addr) : BitVec.ofNat 16 (va.toNat / 2 ^ 64) = (va >>> 64).setWidth 16 := by
  apply BitVec.eq_of_toNat_eq
  simp [Nat.shiftRight_eq_div_pow]

/-! ## The ends of a trap (R140, R141, R230) -/

/-- The state with the trap's trace record formed (R408). -/
def State.trapTraced (s : State) (c u : Nat) (tr : Trap) : State :=
  s.trace c ⟨5, tr.site.getD (s.siteOf c u), tr.arg, tr.cause.toNat % 256, 0, u⟩

section
variable {s : State} {c u : Nat} (tr : Trap) (ret : BitVec 12)

/-- With no token in a network the trap is taken at once. -/
theorem takeTrap_now (h : (s.slotAt c u).tkns = []) : s.takeTrap c u tr ret = s.trapNow c u tr ret := if_pos h

/-- A slot that tokens in a network owe values holds its traps. -/
theorem takeTrap_held (h : (s.slotAt c u).tkns ≠ []) : s.takeTrap c u tr ret =
    (s.dropEdges (.task c u)).setSlot c u { s.slotAt c u with
      status := .runnable, hold := .trapping ((s.slotAt c u).traps ++ [(tr, ret)]), wait := none, remote := none,
      again := false,
      ready := if (s.slotAt c u).status = .waiting then s.tick else (s.slotAt c u).ready,
      issues := if (s.slotAt c u).status = .waiting then 0 else (s.slotAt c u).issues } := if_neg h

variable {tr}

/-- Inside a handler the slot stops, and no trap register is written. -/
theorem trapNow_nested (h : ((s.trapTraced c u tr).slotAt c u).tv = true) : s.trapNow c u tr ret =
    (s.trapTraced c u tr).stopTrapped c u (tr.cause.toNat % 256) true (s.siteOf c u) tr.arg := if_pos h

/-- Outside a handler, with one set, the trap registers are written and the handler begins. -/
theorem trapNow_handled (h : ((s.trapTraced c u tr).slotAt c u).tv = false) (he : (s.coreAt c).tvecEn = true) :
    s.trapNow c u tr ret = ((s.trapTraced c u tr).dropEdges (.task c u)).setSlot c u
      ((((s.trapTraced c u tr).slotAt c u).trapWritten tr ret (tr.site.getD (s.siteOf c u))).handling (s.coreAt c).tvec
        (s.trapTraced c u tr).tick) :=
  (if_neg (by exact Bool.not_eq_true _ ▸ h)).trans (if_pos he)

/-- With none set, the trap registers are written and the slot stops. -/
theorem trapNow_unhandled (h : ((s.trapTraced c u tr).slotAt c u).tv = false) (he : (s.coreAt c).tvecEn = false) :
    s.trapNow c u tr ret = ((s.trapTraced c u tr).setSlot c u
      (((s.trapTraced c u tr).slotAt c u).trapWritten tr ret (tr.site.getD (s.siteOf c u)))).stopTrapped c u
        (tr.cause.toNat % 256) false (s.siteOf c u) tr.arg :=
  (if_neg (by exact Bool.not_eq_true _ ▸ h)).trans (if_neg (by rw [he]; exact Bool.false_ne_true))

end

/-! ## The trapped state (R141, R347) -/

section
variable (s : State) (c u code : Nat) (nested : Bool) (site : BitVec 46) (arg : Word)

theorem stopTrapped_slotAt : (s.stopTrapped c u code nested site arg).slotAt c u = { s.slotAt c u with
    status := .trapped, hold := .none, wait := none, inRep := false, remote := none, again := false, banked := 0,
    paid := 0 } := slotAt_setSlot_self (s.dropEdges _) c u _

/-- The reporter of the slot's cluster holds the record of the stop. -/
theorem stopTrapped_held : ((s.stopTrapped c u code nested site arg).clusterAt (clusterOf c)).held =
    (s.clusterAt (clusterOf c)).held ++
      [⟨1, BitVec.ofNat 32 (code + if nested then 256 else 0), [site.setWidth 64, arg], c, none⟩] :=
  congrArg Cluster.held (clusterAt_setCluster_self ..)

end

/-! ## The statement about traps -/

/-- A trap that its handler takes writes the trap registers and saves PSUP and TV (R140). -/
theorem trap_handled (s : State) (c u : Nat) (tr : Trap) (ret : BitVec 12) (htk : (s.slotAt c u).tkns = []) :
    let own := s.siteOf c u
    let s1 := s.trapTraced c u tr
    let x := s1.slotAt c u
    let t := s.takeTrap c u tr ret
    let y := t.slotAt c u
    x.tv = false → (s.coreAt c).tvecEn = true →
      y.trappc = ret ∧ y.trapcause = tr.cause ∧ y.traparg = tr.arg ∧ y.trapsite = tr.site.getD own ∧
      (∀ va, tr.va = some va → y.trapva = va.setWidth 64 ∧ y.trapvah = (va >>> 64).setWidth 16) ∧
      (tr.va = none → y.trapva = x.trapva ∧ y.trapvah = x.trapvah) ∧
      y.psup = x.sup ∧ y.tv = true ∧ y.sup = true ∧ y.pc = (s.coreAt c).tvec ∧ y.status = .runnable ∧
      (∀ r, y.readG r = x.readG r) ∧ (∀ r, y.readA r = x.readA r) ∧ (∀ r, y.readP r = x.readP r) ∧
      (∀ r, y.readK r = x.readK r) ∧ y.fpstat = x.fpstat ∧ y.repc = x.repc ∧ y.prio = x.prio ∧
      y.bind = x.bind ∧ y.tscr = x.tscr ∧ (∀ d v, ¬(d = c ∧ v = u) → t.slotAt d v = s1.slotAt d v) ∧
      (∀ d w, t.winAt d w = s1.winAt d w) ∧ t.mem = s1.mem ∧ t.accs = s1.accs := by
  intro own s1 x t y htv hen
  have ht : t = (s1.dropEdges (.task c u)).setSlot c u ((x.trapWritten tr ret (tr.site.getD own)).handling
      (s.coreAt c).tvec s1.tick) := (takeTrap_now tr ret htk).trans (trapNow_handled ret htv hen)
  have hy : y = (x.trapWritten tr ret (tr.site.getD own)).handling (s.coreAt c).tvec s1.tick :=
    (congrArg (State.slotAt · c u) ht).trans (slotAt_setSlot_self ..)
  have hslots (d v : Nat) (h : ¬(d = c ∧ v = u)) : t.slotAt d v = s1.slotAt d v := by
    rw [ht, slotAt_setSlot, if_neg h]
    exact slotAt_of_cores (dropEdges_cores ..) d v
  have hwins (d w : Nat) : t.winAt d w = s1.winAt d w := by
    rw [ht, setSlot_winAt]
    exact winAt_of_cores (dropEdges_cores ..) d w
  have hva (va : Addr) (h : tr.va = some va) : y.trapva = va.setWidth 64 ∧ y.trapvah = (va >>> 64).setWidth 16 := by
    rw [hy, ← ofNat_addressHigh]
    simp [Slot.handling, Slot.trapWritten, h]
  have hnone (h : tr.va = none) : y.trapva = x.trapva ∧ y.trapvah = x.trapvah := by
    rw [hy]
    simp [Slot.handling, Slot.trapWritten, h]
  rw [hy] at hva hnone ⊢
  exact ⟨rfl, rfl, rfl, rfl, hva, hnone, rfl, rfl, rfl, rfl, rfl, fun _ => rfl, fun _ => rfl, fun _ => rfl,
    fun _ => rfl, rfl, rfl, rfl, rfl, rfl, hslots, hwins, by rw [ht]; rfl, by rw [ht]; rfl⟩

/-- A trap with no handler to take it, and one inside a handler, stop the slot with a report (R140, R141, R347). -/
theorem trap_stops (s : State) (c u : Nat) (tr : Trap) (ret : BitVec 12) (htk : (s.slotAt c u).tkns = []) :
    let own := s.siteOf c u
    let s1 := s.trapTraced c u tr
    let x := s1.slotAt c u
    let t := s.takeTrap c u tr ret
    let y := t.slotAt c u
    let code := tr.cause.toNat % 256
    (x.tv = true → y.status = .trapped ∧ y.pc = x.pc ∧ y.sup = x.sup ∧
      (y.trappc, y.trapcause, y.traparg, y.trapsite, y.trapva, y.trapvah) =
        (x.trappc, x.trapcause, x.traparg, x.trapsite, x.trapva, x.trapvah) ∧
      (t.clusterAt (clusterOf c)).held = (s1.clusterAt (clusterOf c)).held ++
        [⟨1, BitVec.ofNat 32 (code + 256), [own.setWidth 64, tr.arg], c, none⟩]) ∧
    (x.tv = false → (s.coreAt c).tvecEn = false → y.status = .trapped ∧ y.pc = x.pc ∧ y.sup = x.sup ∧ y.tv = false ∧
      y.trappc = ret ∧ y.trapcause = tr.cause ∧ y.traparg = tr.arg ∧ y.trapsite = tr.site.getD own ∧
      (t.clusterAt (clusterOf c)).held = (s1.clusterAt (clusterOf c)).held ++
        [⟨1, BitVec.ofNat 32 code, [own.setWidth 64, tr.arg], c, none⟩]) := by
  intro own s1 x t y code
  have hnow : t = s.trapNow c u tr ret := takeTrap_now tr ret htk
  refine ⟨fun htv => ?_, fun htv hen => ?_⟩
  · have ht : t = s1.stopTrapped c u code true own tr.arg := hnow.trans (trapNow_nested ret htv)
    have hy : y = _ := (congrArg (State.slotAt · c u) ht).trans (stopTrapped_slotAt ..)
    have hheld := stopTrapped_held s1 c u code true own tr.arg
    rw [← ht] at hheld
    rw [hy]
    exact ⟨rfl, rfl, rfl, rfl, hheld⟩
  · have ht : t = (s1.setSlot c u (x.trapWritten tr ret (tr.site.getD own))).stopTrapped c u code false own tr.arg :=
      hnow.trans (trapNow_unhandled ret htv hen)
    have hy : y = _ := (congrArg (State.slotAt · c u) ht).trans (stopTrapped_slotAt ..)
    have hheld := stopTrapped_held (s1.setSlot c u (x.trapWritten tr ret (tr.site.getD own))) c u code false own tr.arg
    rw [← ht] at hheld
    rw [slotAt_setSlot_self] at hy
    rw [hy]
    exact ⟨rfl, rfl, rfl, htv, rfl, rfl, rfl, rfl, hheld⟩

/-- Settles O6, by the ends of a trap: the handler, the trapped state, the wait for the values of tokens. -/
theorem trapEntry : Obligations.TrapEntry := by
  unfold Obligations.TrapEntry
  refine ⟨fun s c u tr ret htk => ⟨trace_off _, trap_handled s c u tr ret htk⟩,
    fun s c u tr ret htk => trap_stops s c u tr ret htk, fun s c u tr ret hhold htk => ?_,
    fun s c u tr ret hhold htk => ?_⟩
  · have htraps : (s.slotAt c u).traps = [] := by simp only [Slot.traps, hhold]
    dsimp only
    rw [takeTrap_held tr ret htk, htraps, slotAt_setSlot_self]
    exact ⟨⟨fun _ _ => rfl, fun _ _ => rfl, fun _ _ => rfl, fun _ _ => rfl, fun _ => rfl, rfl, rfl, rfl⟩,
      rfl, rfl, rfl, rfl⟩
  · have htraps : (s.slotAt c u).traps = [(tr, ret)] := by simp only [Slot.traps, hhold]
    have hnow := takeTrap_now (s := s.setSlot c u { s.slotAt c u with hold := .none }) tr ret
      (by rw [slotAt_setSlot_self]; exact htk)
    rw [hnow, State.takeHeldTraps]
    dsimp only
    rw [htraps, if_pos ⟨htk, List.cons_ne_nil _ _⟩]
    rfl

/-! ## TRAP, BRK, ERET and reserved words (R142 to R144, R410) -/

/-- The slot as a BRK in debug mode stops it: the trap registers are written outside a handler alone (R141, R144). -/
def Slot.broken (sl : Slot) (n : BitVec 10) (site : BitVec 46) : Slot :=
  { (if sl.tv then sl else { sl with trappc := sl.pc, trapcause := 5, traparg := n.setWidth 64, trapsite := site }) with
    status := .trapped, inRep := false }

/-- A BRK in debug mode on a core whose trace unit is off stops its slot and records the debug event (R144). -/
theorem exec_brk_debug {s : State} (n : BitVec 10) (hdbg : (s.coreAt s.cur).dbgctl.getLsbD 0 = true)
    (htrc : (s.coreAt s.cur).trc.v = false) : exec (.brk n) s =
      .next ((s.setMe (s.me.broken n (s.siteOf s.cur s.slot))).debugEvent s.cur 1 (s.siteOf s.cur s.slot)) := by
  have hbreak : s.debugBreak n =
      (s.setMe (s.me.broken n (s.siteOf s.cur s.slot))).debugEvent s.cur 1 (s.siteOf s.cur s.slot) := by
    simp only [State.debugBreak, trace_off _ htrc]
    rw [slotAt_cur_slot, setSlot_cur_slot, Slot.broken]
  have hi : exec (.brk n) s = execBrk n s := rfl
  rw [hi, execBrk, if_pos hdbg, hbreak]

/-- Putting back a core whose slots are as they were leaves every slot as it was. -/
theorem slotAt_setCore_slots {s : State} {c : Nat} {k : Core} (h : k.slots = (s.coreAt c).slots) (d u : Nat) :
    (s.setCore c k).slotAt d u = s.slotAt d u := by
  rw [State.slotAt, coreAt_setCore]
  split
  · subst d
    rw [Core.slotAt, h]
    rfl
  · rfl

theorem debugEvent_slotAt (s : State) (c why d u : Nat) (site : BitVec 46) :
    (s.debugEvent c why site).slotAt d u = s.slotAt d u :=
  slotAt_setCore_slots (s := s) (c := c)
    (k := { s.coreAt c with dbgev := BitVec.ofNat 64 (2 ^ 63 + why * 2 ^ 48 + site.toNat) }) rfl d u

theorem debugEvent_dbgev (s : State) (c why : Nat) (site : BitVec 46) :
    ((s.debugEvent c why site).coreAt c).dbgev = BitVec.ofNat 64 (2 ^ 63 + why * 2 ^ 48 + site.toNat) :=
  congrArg Core.dbgev (coreAt_setCore_self ..)

/-- Settles O7, by the equation of each instruction. -/
theorem programTraps : Obligations.ProgramTraps := by
  unfold Obligations.ProgramTraps
  refine ⟨fun s n w => ⟨fun hpc => if_neg hpc, fun hpc => if_pos hpc, fun hdbg => ?_, fun hsup => ?_, rfl⟩,
    fun s n hdbg htrc => ?_⟩
  · exact if_neg (by exact Bool.not_eq_true _ ▸ hdbg)
  · exact congrArg (finish s) (privileged_sup .eret s _ hsup)
  · refine ⟨_, exec_brk_debug n hdbg htrc, ?_⟩
    have hme : (s.setMe (s.me.broken n (s.siteOf s.cur s.slot))).slotAt s.cur s.slot =
        s.me.broken n (s.siteOf s.cur s.slot) := slotAt_setSlot_self ..
    rw [debugEvent_slotAt, debugEvent_dbgev, hme, one_mul]
    refine ⟨rfl, ?_, fun htv => ?_, fun htv => ?_, rfl, rfl, rfl⟩
    · cases htv : s.me.tv <;> simp [Slot.broken, htv]
    · simp [Slot.broken, htv]
    · simp [Slot.broken, htv]

end Sys2Proof.Machine
end

section
/-! SUPPORT. Remote window operations: sending, performing at the target, answering (R116, R122). -/

namespace Sys2Proof.Machine

open Sys2Proof

/-! ## Sending (R116, R122) -/

section
variable {c : Nat} {v : Word}

/-- A core of the cluster is reached by its number. -/
theorem remoteTarget_inside (h : v.toNat % 8192 < Config.cores) (hc : clusterOf (v.toNat % 8192) = clusterOf c) :
    remoteTarget c v = some (v.toNat % 8192) := by
  have hcores : Config.cores ≤ 0x1FFD := by decide
  rw [remoteTarget, if_neg (by omega), if_pos ⟨h, hc⟩]

/-- No other core is reached. -/
theorem remoteTarget_outside (hs : v.toNat % 8192 < 0x1FFD)
    (h : ¬(v.toNat % 8192 < Config.cores ∧ clusterOf (v.toNat % 8192) = clusterOf c)) : remoteTarget c v = none := by
  rw [remoteTarget, if_neg (by omega), if_neg h]

end

/-- The state in which the issuing slot's remote operation has gone out. -/
def State.remoteSent (s : State) (n w : Nat) (op : WinOp) (d : BitVec 5) : State :=
  (s.setMe { s.me with hold := .remote, remote := some ⟨n, w, op, d, s.siteOf s.cur s.slot, false⟩ }).post
    (.remoteWindowOperation s.cur (.slot s.slot))

section
variable {s : State} {w : BitVec 4} {v : Word} (op : WinOp) (d : BitVec 5)

/-- With no access before it, an operation on a core of the cluster goes out and holds its task. -/
theorem remoteOp_inside (hs : s.quiet s.cur s.slot = true) (h : v.toNat % 8192 < Config.cores)
    (hc : clusterOf (v.toNat % 8192) = clusterOf s.cur) :
    ∃ ds, remoteOp w v op d s = .hold ((s.setDies ds).remoteSent (v.toNat % 8192) w.toNat op d) := by
  have hnot : ¬(Config.cores ≤ v.toNat % 8192 ∧ (!s.me.sup) = true) := fun hx => absurd hx.1 h.not_ge
  simp only [remoteOp, remoteTarget_inside h hc, if_neg hnot]
  split
  · exact released_only s (fun s => .hold (s.remoteSent (v.toNat % 8192) w.toNat op d)) hs
  · exact ⟨s.dies, rfl⟩

/-- A form whose operation goes out leaves its task held, with the operation on its way, and changes no window. -/
theorem remote_sent {i : Instr} (hi : exec i s = finish s (remoteOp w v op d s)) (hn : HasNext s)
    (hs : s.quiet s.cur s.slot = true) (h : v.toNat % 8192 < Config.cores)
    (hc : clusterOf (v.toNat % 8192) = clusterOf s.cur) : ∃ t, exec i s = .next t ∧
      t.me = { s.me with
        hold := .remote, remote := some ⟨v.toNat % 8192, w.toNat, op, d, s.siteOf s.cur s.slot, false⟩ } ∧
      t.agenda = s.agenda ++ [.remoteWindowOperation s.cur (.slot s.slot)] ∧
      (∀ e u, t.winAt e u = s.winAt e u) ∧ t.mem = s.mem := by
  obtain ⟨ds, hd⟩ := remoteOp_inside op d hs h hc
  refine ⟨(s.setDies ds).remoteSent (v.toNat % 8192) w.toNat op d, ?_, ?_, rfl, fun e u => ?_, rfl⟩
  · rw [hi, hd, finish]
    simp only [show s.me.fallsOut = false from hn, Bool.false_eq_true, if_false]
  · exact me_setMe (s.setDies ds) _
  · exact setMe_winAt (s.setDies ds) ..

/-- The operand fault of an operation on a core outside the cluster: no extent, WHY 1 (R28, R122). -/
theorem winTrap_remote (n : Nat) (k : OpKind) (arg : BitVec 32) : winTrap Win.init n k true arg 1 =
    ⟨6, BitVec.ofNat 64 (arg.toNat * 2 ^ 16 + 2 ^ 8 + 2 ^ 7 + k.code * 2 ^ 4 + n), none, none⟩ := by
  have hv : Win.init.v = false := rfl
  simp [winTrap, trapOf, winFaultArg, hv]

/-- A form on a core outside the cluster takes that fault. -/
theorem remote_faults {i : Instr} {k : OpKind} {arg : BitVec 32} (hi : exec i s = finish s (remoteOp w v op d s))
    (hlow : v.toNat % 8192 < 0x1FFD)
    (h : ¬(v.toNat % 8192 < Config.cores ∧ clusterOf (v.toNat % 8192) = clusterOf s.cur))
    (hk : op.kind = k := by rfl) (ha : op.arg = arg := by rfl) : Traps i s
      ⟨6, BitVec.ofNat 64 (arg.toNat * 2 ^ 16 + 2 ^ 8 + 2 ^ 7 + k.code * 2 ^ 4 + w.toNat), none, none⟩ := by
  subst hk ha
  have hout : remoteOp w v op d s = .trap (winTrap Win.init w.toNat op.kind true op.arg 1) := by
    simp only [remoteOp, remoteTarget_outside hlow h]
  rw [Traps, hi, hout, winTrap_remote, finish_trap]

end

/-- Each form runs its operation where its guard holds (R9, R116). -/
theorem exec_remote_forms {s : State} {g : Guard} (hg : s.me.guard g = true) (d a c z : BitVec 5) (w : BitVec 4)
    (q : BitVec 2) :
    exec (.wfillRm w c z g) s = finish s (remoteOp w (s.me.readG c) (.fill (s.me.readG z)) 0 s) ∧
    exec (.wrdRm d w c a g) s = finish s (remoteOp w (s.me.readG c) (.read ((s.me.readG a).setWidth 32)) d s) ∧
    exec (.wwrRm w c a z g) s =
      finish s (remoteOp w (s.me.readG c) (.update ((s.me.readG a).setWidth 32) (s.me.readG z)) 0 s) ∧
    exec (.wshrRm w c a g) s = finish s (remoteOp w (s.me.readG c) (.shrink ((s.me.readG a).setWidth 32)) 0 s) ∧
    exec (.wqryRm d w c q g) s = finish s (remoteOp w (s.me.readG c) (.query q) d s) :=
  ⟨by rw [exec, execWfillRm, guarded_true g s _ hg], by rw [exec, execWrdRm, guarded_true g s _ hg],
    by rw [exec, execWwrRm, guarded_true g s _ hg], by rw [exec, execWshrRm, guarded_true g s _ hg],
    by rw [exec, execWqryRm, guarded_true g s _ hg]⟩

/-! ## Performing at the target (R122) -/

/-- The rows an operation uses are noted at its target, and nothing else changes (R124). -/
theorem remoteRows_coreAt (s : State) (r : Remote) (d : Nat) :
    ∃ b, (s.remoteRows r).coreAt d = { s.coreAt d with banks := b } := by
  have hrows (a n : Nat) (write : Bool) :
      ∃ b, (s.setCore r.core ((s.coreAt r.core).useRows write a n)).coreAt d = { s.coreAt d with banks := b } := by
    rw [coreAt_setCore]
    split
    · subst d; exact ⟨_, rfl⟩
    · exact ⟨_, rfl⟩
  unfold State.remoteRows
  dsimp only
  split
  case h_1 | h_2 =>
    split
    · exact hrows ..
    · exact ⟨_, rfl⟩
  case h_3 | h_4 | h_5 => exact ⟨_, rfl⟩

/-- The state in which a slot's remote operation is tried at its target. -/
def State.remoteBegun (s : State) (c t : Nat) (r : Remote) : State :=
  (s.setSlot c t { s.slotAt c t with remote := some { r with arrived := true } }).remoteRows r

section
variable (s : State) (c t : Nat) (r : Remote)

/-- It differs in the target's rows and in the slots. -/
theorem remoteBegun_coreAt (d : Nat) :
    ∃ b l, (s.remoteBegun c t r).coreAt d = { s.coreAt d with banks := b, slots := l } := by
  obtain ⟨b, hb⟩ := remoteRows_coreAt (s.setSlot c t { s.slotAt c t with
    remote := some { r with arrived := true } }) r d
  rw [State.remoteBegun, hb, coreAt_setSlot]
  split
  · subst d; exact ⟨b, _, rfl⟩
  · exact ⟨b, _, rfl⟩

theorem remoteBegun_winAt (d w : Nat) : (s.remoteBegun c t r).winAt d w = s.winAt d w := by
  obtain ⟨b, l, hb⟩ := remoteBegun_coreAt s c t r d
  rw [State.winAt, hb]
  rfl

theorem remoteBegun_wstore (d : Nat) : ((s.remoteBegun c t r).coreAt d).wstore = (s.coreAt d).wstore := by
  obtain ⟨b, l, hb⟩ := remoteBegun_coreAt s c t r d
  rw [hb]

theorem remoteBegun_pend (d : Nat) : ((s.remoteBegun c t r).coreAt d).pend = (s.coreAt d).pend := by
  obtain ⟨b, l, hb⟩ := remoteBegun_coreAt s c t r d
  rw [hb]

theorem remoteBegun_mem : (s.remoteBegun c t r).mem = s.mem := by simp [State.remoteBegun]

end

/-- A remote operation is performed: its answer, with the result, is on its way to the slot (R122). -/
def Performs (s : State) (c t : Nat) (r : Option Word) (s' : State) : Prop :=
  exec (.remoteWindowOperation c (.slot t)) s = .next s' ∧ (s'.slotAt c t).hold = .remoteDone r ∧
    .remoteAnswer c (.slot t) ∈ s'.agenda ∧ s'.mem = s.mem

/-- A fill leaves HEAD as it was. -/
theorem filled_head {s t : State} {c w : Nat} {v : Word} (h : Filled s t c w v) :
    (t.winAt c w).head = (s.winAt c w).head :=
  (Prod.mk.inj h.stands).1

section
variable {s : State} {c t n w : Nat} {op : WinOp} {d : BitVec 5} {site : BitVec 46}

/-- An operation that is done when it is tried at a core is performed. -/
theorem performs_done {u : State} {v : Option Word} (hn : n < Config.cores)
    (hr : (s.slotAt c t).remote = some ⟨n, w, op, d, site, false⟩)
    (h : (s.remoteBegun c t ⟨n, w, op, d, site, false⟩).tryCore true n w op site c t = .done u v) (hm : u.mem = s.mem) :
    Performs s c t v (u.remotePerformed c t v) := by
  refine ⟨?_, ?_, List.mem_append_right _ (List.mem_singleton_self _), hm⟩
  · have htry : (s.remoteBegun c t ⟨n, w, op, d, site, false⟩).tryOp true n w op site c t = .done u v := by
      rw [State.tryOp, if_pos hn, h]
    have hexec : exec (.remoteWindowOperation c (.slot t)) s = .next (s.remoteArrive c t) := rfl
    rw [State.remoteBegun] at htry
    rw [hexec, State.remoteArrive]
    simp only [hr, Bool.false_eq_true, if_false, htry]
  · exact congrArg Slot.hold (slotAt_setSlot_self u c t _)

theorem remotePerformed_winAt (u : State) (v : Option Word) (e x : Nat) :
    (u.remotePerformed c t v).winAt e x = u.winAt e x := setSlot_winAt ..

theorem remotePerformed_wstore (u : State) (v : Option Word) (e : Nat) :
    ((u.remotePerformed c t v).coreAt e).wstore = (u.coreAt e).wstore := by
  rw [State.remotePerformed, post_coreAt, coreAt_setSlot]
  split
  · subst e; rfl
  · rfl

variable (hn : n < Config.cores)
include hn

/-- A remote read of a filled element answers with the element. -/
theorem performs_read {o : BitVec 32} (hr : (s.slotAt c t).remote = some ⟨n, w, .read o, d, site, false⟩)
    (hx : Readable (s.winAt n w) o.toNat) :
    ∃ s' u, IsElement (s.coreAt n) (s.winAt n w) o.toNat u ∧ Performs s c t (some u) s' := by
  have hwin := remoteBegun_winAt s c t ⟨n, w, .read o, d, site, false⟩ n w
  have hmem := remoteBegun_mem s c t ⟨n, w, .read o, d, site, false⟩
  have htry := tryCore_read (s.remoteBegun c t ⟨n, w, .read o, d, site, false⟩) true n w site c t o
    (by rw [hwin]; exact judge_readable hx)
  refine ⟨_, _, fun j hj => ?_, performs_done hn hr htry hmem⟩
  rw [← remoteBegun_wstore s c t ⟨n, w, .read o, d, site, false⟩, hwin]
  exact isElement_readScalar _ _ _ j hj

/-- A remote query answers with a third of the descriptor. -/
theorem performs_query {q : BitVec 2} (hr : (s.slotAt c t).remote = some ⟨n, w, .query q, d, site, false⟩) :
    ∃ s', Performs s c t (some ((s.winAt n w).word q.toNat)) s' := by
  have hmem := remoteBegun_mem s c t ⟨n, w, .query q, d, site, false⟩
  rw [← remoteBegun_winAt s c t ⟨n, w, .query q, d, site, false⟩ n w]
  exact ⟨_, performs_done hn hr rfl hmem⟩

/-- A remote fill of an unwatched window with room takes its element. -/
theorem performs_fill {v : Word} (hr : (s.slotAt c t).remote = some ⟨n, w, .fill v, d, site, false⟩)
    (hx : Usable (s.winAt n w) .fill) (hf : (s.winAt n w).fillsStore = true) (hu : Unwatched (s.coreAt n) w) :
    ∃ s', Performs s c t none s' ∧ (s'.winAt n w).fill = (s.winAt n w).fill + 1 ∧
      (s'.winAt n w).head = (s.winAt n w).head ∧ ∀ j, j < 2 ^ ((s.winAt n w).esz.toNat + 2) →
        tget 0 (s'.coreAt n).wstore (elemAddr (s.winAt n w) (s.winAt n w).ext + j) =
          if j < 8 then (v >>> (8 * j)).setWidth 8 else 0#8 := by
  have hwin := remoteBegun_winAt s c t ⟨n, w, .fill v, d, site, false⟩ n w
  have hpend := remoteBegun_pend s c t ⟨n, w, .fill v, d, site, false⟩ n
  have hmem := remoteBegun_mem s c t ⟨n, w, .fill v, d, site, false⟩
  have hdone := @performs_done s c t n w (.fill v) d site
  generalize s.remoteBegun c t ⟨n, w, .fill v, d, site, false⟩ = b at hwin hpend hmem hdone
  have hfb : (b.winAt n w).fillsStore = true := by rw [hwin]; exact hf
  have hub : Unwatched (b.coreAt n) w := fun kind => by rw [hpend]; exact hu kind
  have htry := tryCore_fill b true n w site c t v (by rw [hwin]; exact judge_fill _ 0 hx)
  rw [if_pos (fillRoom_unwatched _ _ hfb hub)] at htry
  have hk := filled_of_takes (fillWin_takes b n w (scalarBytes (b.winAt n w) v) site (some (c, t)) hfb hub)
  generalize b.fillWin n w (scalarBytes (b.winAt n w) v) site (some (c, t)) = u at htry hk
  have hel := hk.element
  rw [hwin] at hel
  refine ⟨_, hdone hn hr htry (hk.mem.trans hmem), ?_, ?_, fun j hj => ?_⟩
  · rw [remotePerformed_winAt, hk.fill, hwin]
  · rw [remotePerformed_winAt, filled_head hk, hwin]
  · rw [remotePerformed_wstore]
    exact hel j hj

/-- A remote update of a filled element writes its bytes. -/
theorem performs_update {o : BitVec 32} {v : Word}
    (hr : (s.slotAt c t).remote = some ⟨n, w, .update o v, d, site, false⟩)
    (hx : Usable (s.winAt n w) .update) (ho : o.toNat < (s.winAt n w).ext) : ∃ s', Performs s c t none s' ∧
      (∀ j, j < min 8 (2 ^ ((s.winAt n w).esz.toNat + 2)) →
        tget 0 (s'.coreAt n).wstore (elemAddr (s.winAt n w) o.toNat + j) = (v >>> (8 * j)).setWidth 8) ∧
      (∀ e, e < elemAddr (s.winAt n w) o.toNat ∨
        elemAddr (s.winAt n w) o.toNat + min 8 (2 ^ ((s.winAt n w).esz.toNat + 2)) ≤ e →
          tget 0 (s'.coreAt n).wstore e = tget 0 (s.coreAt n).wstore e) ∧ (∀ e u, s'.winAt e u = s.winAt e u) := by
  have hwins := remoteBegun_winAt s c t ⟨n, w, .update o v, d, site, false⟩
  have hwstore := remoteBegun_wstore s c t ⟨n, w, .update o v, d, site, false⟩ n
  have hmem := remoteBegun_mem s c t ⟨n, w, .update o v, d, site, false⟩
  have hdone := @performs_done s c t n w (.update o v) d site
  generalize s.remoteBegun c t ⟨n, w, .update o v, d, site, false⟩ = b at hwins hwstore hmem hdone
  have htry := tryCore_update b true n w site c t o v
    (by rw [hwins, judge_update _ _ hx, if_neg (not_le.mpr ho)])
  have hk : Updated b (b.setCore n ((b.coreAt n).updateScalar (b.winAt n w) o.toNat v)) n w o.toNat v :=
    updated_setCore b b.dies n w o.toNat v
  generalize b.setCore n ((b.coreAt n).updateScalar (b.winAt n w) o.toNat v) = z at htry hk
  have hel := hk.element
  have hby := hk.bytes
  rw [hwins] at hel hby
  refine ⟨_, hdone hn hr htry (hk.mem.trans hmem), fun j hj => ?_, fun e he => ?_, fun e u => ?_⟩
  · rw [remotePerformed_wstore]
    exact hel j hj
  · rw [remotePerformed_wstore, ← hwstore]
    exact hby e he
  · rw [remotePerformed_winAt]
    exact (hk.wins e u).trans (hwins e u)

/-- A remote shrink of filled elements moves HEAD and HSLOT. -/
theorem performs_shrink {o : BitVec 32} (hr : (s.slotAt c t).remote = some ⟨n, w, .shrink o, d, site, false⟩)
    (hx : Usable (s.winAt n w) .shrink) (ho : o.toNat ≤ (s.winAt n w).ext) : ∃ s', Performs s c t none s' ∧
      (s'.winAt n w).head = (s.winAt n w).head + o ∧ (s'.winAt n w).fill = (s.winAt n w).fill ∧
      (0 < o.toNat → (s'.winAt n w).hslot =
        BitVec.ofNat 16 (((s.winAt n w).hslot.toNat + o.toNat) % (s.winAt n w).cap.toNat)) ∧
      (s'.coreAt n).wstore = (s.coreAt n).wstore := by
  have hwin := remoteBegun_winAt s c t ⟨n, w, .shrink o, d, site, false⟩ n w
  have hwstore := remoteBegun_wstore s c t ⟨n, w, .shrink o, d, site, false⟩ n
  have hmem := remoteBegun_mem s c t ⟨n, w, .shrink o, d, site, false⟩
  have hdone := @performs_done s c t n w (.shrink o) d site
  generalize s.remoteBegun c t ⟨n, w, .shrink o, d, site, false⟩ = b at hwin hwstore hmem hdone
  have htry := tryCore_shrink b true n w site c t o (by rw [hwin, judge_shrink _ _ hx, if_neg (not_lt.mpr ho)])
  have hk := shrinkWin_shrunk b n w o.toNat site (some (c, t))
  refine ⟨_, hdone hn hr htry (hk.mem.trans hmem), ?_, ?_, fun h => ?_, ?_⟩
  · rw [remotePerformed_winAt, hk.head, hwin, BitVec.ofNat_toNat, BitVec.setWidth_eq]
  · rw [remotePerformed_winAt, hk.fill, hwin]
  · rw [remotePerformed_winAt, hk.hslot h, hwin]
  · rw [remotePerformed_wstore, hk.wstore, hwstore]

end

/-! ## The answer (R122) -/

/-- The answer of a remote operation writes its result, if it has one, and lets the task go on. -/
theorem leaves_remoteAnswer {s : State} {c t : Nat} {x : Remote} {v : Option Word}
    (hh : (s.slotAt c t).hold = .remoteDone v) (hr : (s.slotAt c t).remote = some x) :
    Leaves (.remoteAnswer c (.slot t)) s (s.setSlot c t
      ((match v with
        | some u => { s.slotAt c t with hold := .none, remote := none }.writeG x.d u
        | none => { s.slotAt c t with hold := .none, remote := none })).advance) := by
  have hexec : exec (.remoteAnswer c (.slot t)) s = .next (s.remoteAnswered c t) := rfl
  rw [Leaves, hexec, State.remoteAnswered]
  simp only [hh, hr]
  cases v with
  | none => simp only [State.writeBack, State.advance, slotAt_setSlot_self, setSlot_setSlot]
  | some u => simp only [State.writeBack, State.advance, slotAt_setSlot_self, setSlot_setSlot]

/-- Settles O27, by what each form comes to, and by trying the operation at its target. -/
theorem remoteOperations : Obligations.RemoteOperations := by
  unfold Obligations.RemoteOperations
  refine ⟨fun s d a c z w q g hc hs => ?_, fun s d a c z w q g hg => ?_, fun s c t n w o v d q site op r hn => ?_⟩
  · intro n off sent h hcl
    obtain ⟨hfill, hread, hupd, hshr, hqry⟩ := exec_remote_forms hc.1 d a c z w q
    exact ⟨remote_sent _ _ hfill hc.2 hs h hcl, remote_sent _ _ hread hc.2 hs h hcl, remote_sent _ _ hupd hc.2 hs h hcl,
      remote_sent _ _ hshr hc.2 hs h hcl, remote_sent _ _ hqry hc.2 hs h hcl⟩
  · intro n off fault hlow h
    obtain ⟨hfill, hread, hupd, hshr, hqry⟩ := exec_remote_forms hg d a c z w q
    exact ⟨remote_faults _ _ hfill hlow h, remote_faults _ _ hread hlow h, remote_faults _ _ hupd hlow h,
      remote_faults _ _ hshr hlow h, remote_faults _ _ hqry hlow h⟩
  · exact ⟨performs_read hn, performs_query hn, performs_fill hn, performs_update hn, performs_shrink hn,
      leaves_remoteAnswer⟩

end Sys2Proof.Machine
end

section
/-! SUPPORT. Task slots: bindings whose source has no pending event, what TBIND, TUNB, TPRIO and TRET make of a slot
(R148, R150, R152, R154, R155). -/

namespace Sys2Proof.Machine

open Sys2Proof

/-! ## Deliveries of a source without pending events (R150) -/

/-- A source has no pending event: it has no count, or its count is zero. -/
def Core.NonePending (k : Core) (key : Nat) : Prop := ∀ p, tget none k.pend key = some p → p.count = 0

theorem deliver_idle {s : State} {c key : Nat} (h : (s.coreAt c).NonePending key) : s.deliver c key = (s, none) := by
  cases hp : tget none (s.coreAt c).pend key with
  | none => exact deliver_unnamed s c key hp
  | some p =>
    cases hb : (s.coreAt c).boundTo key with
    | none => simp only [State.deliver, hp, hb]
    | some t => simp only [State.deliver, hp, hb, if_pos (h p hp)]

theorem deliverSource_idle {s : State} {c key : Nat} (h : (s.coreAt c).NonePending key) :
    s.deliverSource c key = s := by
  simp only [State.deliverSource, State.deliverTraced, deliver_idle h, Option.isNone_none, true_or, if_true]

/-- Naming a source gives it a count of zero at most: its slots stand, and nothing becomes pending. -/
theorem nameSource_only (k : Core) (key : Nat) : ∃ p, k.nameSource key = { k with pend := p } := by
  unfold Core.nameSource
  split
  · split
    · exact ⟨_, rfl⟩
    · exact ⟨_, rfl⟩
  · exact ⟨_, rfl⟩

@[simp] theorem nameSource_slotAt (k : Core) (key t : Nat) : (k.nameSource key).slotAt t = k.slotAt t := by
  obtain ⟨p, hp⟩ := nameSource_only k key
  rw [hp]
  rfl

theorem nameSource_idle {k : Core} {key : Nat} (h : k.NonePending key) : (k.nameSource key).NonePending key := by
  unfold Core.nameSource
  split
  · split
    next => exact h
    next =>
      intro p hp
      rw [tget_tput_self] at hp
      cases hp
      rfl
  · exact h

/-! ## TBIND (R152) -/

/-- What a binding makes of the slot it is given to. -/
def Slot.bound (sl : Slot) (b : BitVec 26) : Slot :=
  if sl.status = .free then sl.taken b else { sl with bind := b, lsup := false }

theorem bindSlot_idle (s : State) (c t : Nat) (b : BitVec 26) (h : (s.coreAt c).NonePending (bindSource b)) :
    s.bindSlot c t b = s.setCore c (((s.coreAt c).nameSource (bindSource b)).setSlot t ((s.slotAt c t).bound b)) := by
  have hk : ((s.setCore c (((s.coreAt c).nameSource (bindSource b)).setSlot t
      ((s.slotAt c t).bound b))).coreAt c).NonePending (bindSource b) := by
    rw [coreAt_setCore_self]
    exact nameSource_idle h
  rw [← deliverSource_idle hk]
  simp only [State.bindSlot, nameSource_slotAt]
  rfl

theorem bindSlot_slotAt (s : State) (c t d v : Nat) (b : BitVec 26) (h : (s.coreAt c).NonePending (bindSource b)) :
    (s.bindSlot c t b).slotAt d v = if d = c ∧ v = t then (s.slotAt c t).bound b else s.slotAt d v := by
  rw [bindSlot_idle s c t b h]
  simp only [State.slotAt, coreAt_setCore]
  by_cases hd : d = c
  · subst d
    simp only [if_true, true_and, Core.slotAt_setSlot, nameSource_slotAt]
  · simp only [hd, false_and, if_false]

/-! ## Slot operands (R152) -/

theorem slotOperand_slot {v : Word} (h : v.toNat < 32) : slotOperand v = some v.toNat := if_pos h

theorem slotOperand_none {v : Word} (h : 32 ≤ v.toNat) : slotOperand v = none := if_neg (not_lt.mpr h)

theorem exec_tbind_slot {s : State} {z e : BitVec 5} (hu : (s.me.readG z).toNat < 32)
    (hb : bindingOk (s.me.readG e).toNat = true) :
    exec (.tbind z e) s =
      finish s (.done (s.bindSlot s.cur (s.me.readG z).toNat (BitVec.ofNat 26 (s.me.readG e).toNat))) := by
  show execTbind z e s = _
  simp only [execTbind, slotOperand_slot hu, hb, if_true]

/-- The issuing slot ends an operation that left it alone where it stood, moved past the instruction. -/
theorem finish_done_of_slotAt {s t : State} (hn : HasNext s) (hc : t.cur = s.cur) (hs : t.slot = s.slot) :
    ∃ u, finish s (.done t) = .next u ∧ u.me = (t.slotAt s.cur s.slot).advance ∧ u.mem = t.mem ∧
      (∀ d v, ¬(d = s.cur ∧ v = s.slot) → u.slotAt d v = t.slotAt d v) := by
  refine ⟨_, finish_done_me s t hn, ?_, rfl, fun d v h => ?_⟩
  · rw [me_setMe, State.me, hc, hs]
  · rw [slotAt_setMe, hc, hs, if_neg h]

/-- TBIND of a slot whose source has no pending event: the slot takes the binding, and the issuing one moves on. -/
theorem tbind_idle {s : State} {z e : BitVec 5} (hn : HasNext s) (hu : (s.me.readG z).toNat < 32)
    (hb : bindingOk (s.me.readG e).toNat = true)
    (hp : (s.coreAt s.cur).NonePending (bindSource (BitVec.ofNat 26 (s.me.readG e).toNat))) :
    let u := (s.me.readG z).toNat
    let b := BitVec.ofNat 26 (s.me.readG e).toNat
    ∃ t, exec (.tbind z e) s = .next t ∧ t.mem = s.mem ∧
      t.me = (if s.slot = u then s.me.bound b else s.me).advance ∧
      (∀ d v, ¬(d = s.cur ∧ v = s.slot) →
        t.slotAt d v = if d = s.cur ∧ v = u then (s.slotAt s.cur u).bound b else s.slotAt d v) := by
  intro u b
  have heq := bindSlot_idle s s.cur u b hp
  have hslots := fun d v => bindSlot_slotAt s s.cur u d v b hp
  obtain ⟨t, ht, hme, hmem, hother⟩ := finish_done_of_slotAt (t := s.bindSlot s.cur u b) hn (by rw [heq]; rfl)
    (by rw [heq]; rfl)
  refine ⟨t, (exec_tbind_slot hu hb).trans ht, by rw [hmem, heq]; rfl, ?_,
    fun d v h => (hother d v h).trans (hslots d v)⟩
  rw [hme, hslots]
  by_cases h : s.slot = u
  · simp only [h, and_self, if_true, ← slotAt_cur_slot]
  · simp only [h, and_false, if_false, slotAt_cur_slot]

/-- A task instruction with a bad slot operand (R152). -/
theorem traps_slotOperand {s : State} (z e : BitVec 5) (q : BitVec 2) (h : 32 ≤ (s.me.readG z).toNat) :
    let fault (fn : Nat) : Trap := taskTrap ((s.me.readG z).toNat % 2 ^ 32) 1 fn
    Traps (.tbind z e) s (fault 9) ∧ Traps (.tunb z) s (fault 10) ∧ Traps (.tprio z q) s (fault 11) := by
  have hbind : exec (.tbind z e) s = execTbind z e s := rfl
  have hunb : exec (.tunb z) s = execTunb z s := rfl
  have hprio : exec (.tprio z q) s = execTprio z q s := rfl
  refine ⟨?_, ?_, ?_⟩
  · simp only [Traps, hbind, execTbind, slotOperand_none h, finish_trap]
  · simp only [Traps, hunb, execTunb, slotOperand_none h, finish_trap]
  · simp only [Traps, hprio, execTprio, slotOperand_none h, finish_trap]

theorem traps_tbind_binding {s : State} {z e : BitVec 5} (h : (s.me.readG z).toNat < 32)
    (hb : bindingOk (s.me.readG e).toNat = false) :
    Traps (.tbind z e) s (taskTrap ((s.me.readG e).toNat % 2 ^ 32) 2 9) := by
  show execTbind z e s = _
  simp only [execTbind, slotOperand_slot h, hb, Bool.false_eq_true, if_false, finish_trap]

theorem traps_spawn_operand {s : State} {z a : BitVec 5} (h : 2 ^ 14 ≤ (s.me.readG z).toNat) :
    Traps (.spawn z a) s (taskTrap ((s.me.readG z).toNat % 2 ^ 32) 2 8) := by
  show execSpawn z a s = _
  simp only [execSpawn, if_pos h, finish_trap]

theorem traps_barc_operand {s : State} {z : BitVec 5} (l : Level) (b : BitVec 4) (h : 2 ^ 16 ≤ (s.me.readG z).toNat) :
    Traps (.barc l b z) s (taskTrap ((s.me.readG z).toNat % 2 ^ 32) 4 14) := by
  show execBarc l b z s = _
  simp only [execBarc, if_pos h, finish_trap]

/-- Settles O28: a binding whose source has no pending event is delivered nothing, so TBIND leaves what it wrote. -/
theorem taskBinding : Obligations.TaskBinding := by
  unfold Obligations.TaskBinding
  refine ⟨fun s z e hn => ?_, fun s z e hn hrun => ?_, fun s z e q l b => ?_⟩
  · intro u n b sl hu hne hb hp
    obtain ⟨t, ht, hmem, hme, hslots⟩ := tbind_idle hn hu hb hp
    refine ⟨t, ht, by rw [hme, if_neg hne.symm], hmem, ?_, fun d v h => ?_⟩
    · rw [hslots _ _ (fun h => hne h.2), if_pos ⟨rfl, rfl⟩]
      rfl
    · rw [hslots _ _ (fun h' => h ⟨h'.1, .inr h'.2⟩), if_neg (fun h' => h ⟨h'.1, .inl h'.2⟩)]
  · intro n b hu hlt hb hp
    obtain ⟨t, ht, hmem, hme, -⟩ := tbind_idle hn (hu ▸ hlt) hb hp
    refine ⟨t, ht, ?_, hmem⟩
    rw [hme, if_pos hu.symm, Slot.bound, if_neg (by rw [hrun]; decide)]
  · exact ⟨traps_slotOperand z e q, traps_tbind_binding, traps_spawn_operand, traps_barc_operand l b⟩

/-! ## TUNB, TPRIO and YIELD (R152, R155) -/

/-- What TUNB makes of the slot it names. -/
def Slot.unbound (sl : Slot) : Slot :=
  match sl.status with
  | .free => sl
  | .bound => { sl with status := .free, bind := 0 }
  | .runnable | .waiting | .trapped => { sl with bind := 0 }

/-- What TPRIO makes of the slot it names. -/
def Slot.withPrio (sl : Slot) (q : BitVec 2) : Slot :=
  match sl.status with
  | .free | .bound => { sl with bind := bindWithPrio sl.bind q }
  | .runnable | .waiting | .trapped => { sl with prio := q }

theorem unbound_free {sl : Slot} (h : sl.status = .free) : sl.unbound = sl := by
  simp only [Slot.unbound, h]

theorem unbound_bound {sl : Slot} (h : sl.status = .bound) : sl.unbound = { sl with status := .free, bind := 0 } := by
  simp only [Slot.unbound, h]

theorem unbound_task {sl : Slot} (h : sl.status = .runnable ∨ sl.status = .waiting ∨ sl.status = .trapped) :
    sl.unbound = { sl with bind := 0 } := by
  rcases h with h | h | h <;> simp only [Slot.unbound, h]

theorem withPrio_source {sl : Slot} (q : BitVec 2) (h : sl.status = .free ∨ sl.status = .bound) :
    sl.withPrio q = { sl with bind := bindWithPrio sl.bind q } := by
  rcases h with h | h <;> simp only [Slot.withPrio, h]

theorem withPrio_task {sl : Slot} (q : BitVec 2)
    (h : sl.status = .runnable ∨ sl.status = .waiting ∨ sl.status = .trapped) :
    sl.withPrio q = { sl with prio := q } := by
  rcases h with h | h | h <;> simp only [Slot.withPrio, h]

theorem setPrio_eq (s : State) (c t : Nat) (q : BitVec 2) :
    s.setPrio c t q = s.setSlot c t ((s.slotAt c t).withPrio q) := rfl

/-- Where nothing waits to spawn, TUNB changes its slot alone, and a free slot not at all. -/
theorem unbindSlot_cases {s : State} (c t : Nat) (h : ∀ e ∈ s.edges, e.kind ≠ .spawn) :
    s.unbindSlot c t = s ∧ (s.slotAt c t).status = .free ∨
      s.unbindSlot c t = s.setSlot c t (s.slotAt c t).unbound := by
  cases hst : (s.slotAt c t).status with
  | free => exact .inl ⟨by simp only [State.unbindSlot, hst]; exact wakeKind_none _ c _ h, rfl⟩
  | bound | runnable | waiting | trapped =>
    refine .inr ?_
    simp only [State.unbindSlot, Slot.unbound, hst]
    exact wakeKind_none _ c _ h

/-- The fields of a binding beside PRIO stand, and PRIO is the new one (R148, R152). -/
theorem bindWithPrio_fields (b : BitVec 26) (q : BitVec 2) :
    bindPrio (bindWithPrio b q) = q ∧ bindEntry (bindWithPrio b q) = bindEntry b ∧
      bindSource (bindWithPrio b q) = bindSource b ∧ bindOnce (bindWithPrio b q) = bindOnce b := by
  have hb := b.isLt
  have hq := q.isLt
  have hv : (bindWithPrio b q).toNat = b.toNat / 2 ^ 25 * 2 ^ 25 + q.toNat * 2 ^ 23 + b.toNat % 2 ^ 23 := by
    rw [bindWithPrio, BitVec.toNat_ofNat]
    omega
  refine ⟨?_, ?_, ?_, ?_⟩
  · apply BitVec.eq_of_toNat_eq
    simp only [bindPrio, bits, hv, BitVec.toNat_ofNat]
    omega
  · apply BitVec.eq_of_toNat_eq
    simp only [bindEntry, bits, hv, BitVec.toNat_ofNat]
    omega
  · simp only [bindSource, bindKind, bindArg, hv]
    omega
  · simp only [bindOnce, hv]
    congr 2
    omega

/-- An instruction that changes another slot of its core moves past itself. -/
theorem finish_done_oneSlot {s t : State} {u : Nat} {x : Slot} (hn : HasNext s) (hc : t.cur = s.cur)
    (hs : t.slot = s.slot) (hm : t.mem = s.mem) (hu : u ≠ s.slot)
    (hslots : ∀ d v, t.slotAt d v = if d = s.cur ∧ v = u then x else s.slotAt d v) :
    ∃ w, finish s (.done t) = .next w ∧ w.me = s.me.advance ∧ w.mem = s.mem ∧ w.slotAt s.cur u = x := by
  obtain ⟨w, hw, hme, hmem, hother⟩ := finish_done_of_slotAt hn hc hs
  refine ⟨w, hw, ?_, hmem.trans hm, ?_⟩
  · rw [hme, hslots, if_neg fun h => hu h.2.symm]
    rfl
  · rw [hother _ _ fun h => hu h.2, hslots, if_pos ⟨rfl, rfl⟩]

theorem exec_tunb_slot {s : State} {z : BitVec 5} (hu : (s.me.readG z).toNat < 32) :
    exec (.tunb z) s = finish s (.done (s.unbindSlot s.cur (s.me.readG z).toNat)) := by
  show execTunb z s = _
  simp only [execTunb, slotOperand_slot hu]

theorem exec_tprio_slot {s : State} {z : BitVec 5} (q : BitVec 2) (hu : (s.me.readG z).toNat < 32) :
    exec (.tprio z q) s =
      finish s (.done (s.setSlot s.cur (s.me.readG z).toNat ((s.slotAt s.cur (s.me.readG z).toNat).withPrio q))) := by
  show execTprio z q s = _
  simp only [execTprio, slotOperand_slot hu, setPrio_eq]

/-- TPRIO of another slot. -/
theorem tprio_other {s : State} {z : BitVec 5} (q : BitVec 2) (hn : HasNext s) (hu : (s.me.readG z).toNat < 32)
    (hne : (s.me.readG z).toNat ≠ s.slot) : ∃ t, exec (.tprio z q) s = .next t ∧ t.me = s.me.advance ∧ t.mem = s.mem ∧
      t.slotAt s.cur (s.me.readG z).toNat = (s.slotAt s.cur (s.me.readG z).toNat).withPrio q := by
  rw [exec_tprio_slot q hu]
  exact finish_done_oneSlot hn rfl rfl rfl hne fun d v => slotAt_setSlot ..

/-- TUNB of another slot, where nothing waits to spawn. -/
theorem tunb_other {s : State} {z : BitVec 5} (hn : HasNext s) (hu : (s.me.readG z).toNat < 32)
    (hne : (s.me.readG z).toNat ≠ s.slot) (he : ∀ e ∈ s.edges, e.kind ≠ .spawn) :
    ∃ t, exec (.tunb z) s = .next t ∧ t.me = s.me.advance ∧ t.mem = s.mem ∧
      t.slotAt s.cur (s.me.readG z).toNat = (s.slotAt s.cur (s.me.readG z).toNat).unbound := by
  rw [exec_tunb_slot hu]
  rcases unbindSlot_cases s.cur (s.me.readG z).toNat he with ⟨h, hfree⟩ | h
  · rw [h]
    refine finish_done_oneSlot hn rfl rfl rfl hne fun d v => ?_
    split
    next hdv => rw [hdv.1, hdv.2, unbound_free hfree]
    next => rfl
  · rw [h]
    exact finish_done_oneSlot hn rfl rfl rfl hne fun d v => slotAt_setSlot ..

/-! ## TRET (R154) -/

/-- A slot whose task has ended: free where its binding is ONCE or cleared, else bound again. -/
def Slot.retired (sl : Slot) : Slot :=
  let free := bindOnce sl.bind || sl.bind == 0#26
  { sl with
    status := if free then .free else .bound
    bind := if free then 0 else sl.bind
    tv := false
    hold := .none
    inRep := false }

theorem retireSlot_idle {s : State} {c t : Nat} (he : ∀ e ∈ s.edges, e.kind ≠ .spawn)
    (hp : (s.coreAt c).NonePending (bindSource (s.slotAt c t).bind)) :
    s.retireSlot c t = s.setSlot c t (s.slotAt c t).retired := by
  have hwake := wakeKind_none (s.setSlot c t (s.slotAt c t).retired) c .spawn he
  unfold State.retireSlot
  cases hf : (bindOnce (s.slotAt c t).bind || (s.slotAt c t).bind == 0#26) with
  | true =>
    simp only [Slot.retired, hf, if_true] at hwake ⊢
    exact hwake
  | false =>
    simp only [Slot.retired, hf, Bool.false_eq_true, if_false] at hwake ⊢
    rw [deliverSource_idle, hwake]
    rw [setSlot_coreAt_self]
    exact hp

/-- What comes before the slot retires, tracing off, leaves every slot, every count and every edge. -/
theorem retireEncounter_progress (s : State) (c t : Nat) : let u := (s.progress c).retireEncounter c t
    (∀ d, (u.coreAt d).slots = (s.coreAt d).slots ∧ (u.coreAt d).pend = (s.coreAt d).pend) ∧
      u.edges = s.edges ∧ u.cur = s.cur ∧ u.slot = s.slot ∧ u.mem = s.mem := by
  have hpro : ∀ d, ((s.progress c).coreAt d).slots = (s.coreAt d).slots ∧
      ((s.progress c).coreAt d).pend = (s.coreAt d).pend := fun d => by
    obtain ⟨n, hn⟩ := progress_coreAt s c d
    rw [hn]
    exact ⟨rfl, rfl⟩
  unfold State.retireEncounter
  simp only []
  split
  · refine ⟨fun d => ?_, ?_, ?_, ?_, ?_⟩
    · rw [post_coreAt, coreAt_setCore]
      split
      next h => exact h ▸ hpro c
      next => exact hpro d
    all_goals simp
  · exact ⟨hpro, progress_edges s c, progress_cur s c, progress_slot s c, by simp⟩

/-- TRET of a task that owes nothing, with no event of its source pending and nothing that waits to spawn. -/
theorem tret_idle {s : State} (hq : s.quiet s.cur s.slot = true) (htrc : (s.coreAt s.cur).trc.v = false)
    (he : ∀ e ∈ s.edges, e.kind ≠ .spawn) (hp : (s.coreAt s.cur).NonePending (bindSource s.me.bind)) :
    ∃ t, exec .tret s = .next t ∧ t.me = s.me.retired ∧ t.mem = s.mem ∧
      (∀ d v, ¬(d = s.cur ∧ v = s.slot) → t.slotAt d v = s.slotAt d v) := by
  obtain ⟨ds, hd⟩ := released_only s (fun s => .moved (s.retire s.cur s.slot)) hq
  have hexec : exec .tret s = .next ((s.setDies ds).retire s.cur s.slot) := by
    show execTret s = _
    rw [execTret, hd, finish_moved]
    rfl
  obtain ⟨hcores, hedges, hcur, hslot, hmem⟩ := retireEncounter_progress (s.setDies ds) s.cur s.slot
  have hretire : (s.setDies ds).retire s.cur s.slot =
      (((s.setDies ds).progress s.cur).retireEncounter s.cur s.slot).retireSlot s.cur s.slot := by
    simp only [State.retire]
    rw [trace_off (s := s.setDies ds) _ htrc]
  generalize ((s.setDies ds).progress s.cur).retireEncounter s.cur s.slot = u at *
  have hslots : ∀ d v, u.slotAt d v = s.slotAt d v := fun d v => by
    rw [State.slotAt, Core.slotAt, (hcores d).1]
    rfl
  have hsl := retireSlot_idle (s := u) (c := s.cur) (t := s.slot) (by rw [hedges]; exact he) (by
    rw [Core.NonePending, (hcores s.cur).2, hslots]
    exact hp)
  rw [hslots, slotAt_cur_slot] at hsl
  refine ⟨u.setSlot s.cur s.slot s.me.retired, by rw [hexec, hretire, hsl], ?_, hmem, fun d v h => ?_⟩
  · show State.slotAt _ u.cur u.slot = _
    rw [hcur, hslot]
    exact slotAt_setSlot_self ..
  · rw [slotAt_setSlot, if_neg h, hslots]

theorem exec_yield {s : State} (hn : HasNext s) : Ends .yield s { s.me with ready := s.tick, issues := 0 } :=
  finish_done_setMe s _ hn

/-- Settles O29, by what each instruction makes of the slot it names. -/
theorem slotControl : Obligations.SlotControl := by
  unfold Obligations.SlotControl
  refine ⟨fun s z q hn => ?_, fun s hq htrc he hp => ?_⟩
  · intro u sl
    refine ⟨exec_yield hn, fun hu hne => ?_, fun hu hrun hlt => ?_, fun hu hrun hlt he => ?_, fun hu hne he => ?_⟩
    · obtain ⟨t, ht, hme, hmem, hslot⟩ := tprio_other q hn hu hne
      exact ⟨t, ht, hme, hmem, fun h => hslot.trans (withPrio_task q h), fun h => ⟨bindWithPrio sl.bind q,
        hslot.trans (withPrio_source q h), bindWithPrio_fields sl.bind q⟩⟩
    · rw [Ends, exec_tprio_slot q hlt, show (s.me.readG z).toNat = s.slot from hu]
      rw [slotAt_cur_slot, setSlot_cur_slot, withPrio_task q (.inl hrun)]
      exact finish_done_setMe s _ hn
    · rw [Ends, exec_tunb_slot hlt, show (s.me.readG z).toNat = s.slot from hu]
      rcases unbindSlot_cases s.cur s.slot he with ⟨-, hfree⟩ | h
      · rw [slotAt_cur_slot, hrun] at hfree
        cases hfree
      · rw [h]
        rw [slotAt_cur_slot, setSlot_cur_slot, unbound_task (.inl hrun)]
        exact finish_done_setMe s _ hn
    · obtain ⟨t, ht, hme, hmem, hslot⟩ := tunb_other hn hu hne he
      exact ⟨t, ht, hme, hmem, fun h => hslot.trans (unbound_free h), fun h => hslot.trans (unbound_bound h),
        fun h => hslot.trans (unbound_task h)⟩
  · obtain ⟨t, ht, hme, hmem, hother⟩ := tret_idle hq htrc he hp
    refine ⟨t, ht, by rw [hme]; rfl, fun r => by rw [hme]; rfl, fun r => by rw [hme]; rfl, hmem,
      fun h => ?_, fun h => ?_, hother⟩
    · have hf : (bindOnce s.me.bind || s.me.bind == 0#26) = true := by simpa using h
      rw [hme]
      simp only [Slot.retired, hf, if_true, and_self]
    · have hf : (bindOnce s.me.bind || s.me.bind == 0#26) = false := by simpa using h
      rw [hme]
      simp only [Slot.retired, hf, Bool.false_eq_true, if_false, and_self]

end Sys2Proof.Machine
end

section
/-! SUPPORT. Activations: the slot a search finds, what an activation makes of it, what a delivery and a SPAWN leave
(R149 to R151, R153, R168, R388). -/

namespace Sys2Proof.Machine

open Sys2Proof

/-! ## The lowest number that meets a test -/

theorem leastBelow_some {p : Nat → Bool} {n i : Nat} (h : leastBelow p n = some i) :
    i < n ∧ p i = true ∧ ∀ j, j < i → p j = false := by
  obtain ⟨hp, hi, hlow⟩ := List.find?_range_eq_some.mp h
  exact ⟨by simpa using hi, hp, fun j hj => by simpa using hlow j hj⟩

theorem leastBelow_none {p : Nat → Bool} {n : Nat} (h : leastBelow p n = none) (i : Nat) (hi : i < n) :
    p i = false := by
  have := List.find?_eq_none.mp h i (List.mem_range.mpr hi)
  simpa using this

theorem boundTo_some {k : Core} {key u : Nat} (h : k.boundTo key = some u) :
    u < 32 ∧ (k.slotAt u).status = .bound ∧ bindSource (k.slotAt u).bind = key ∧
      ∀ v, v < u → ¬((k.slotAt v).status = .bound ∧ bindSource (k.slotAt v).bind = key) := by
  obtain ⟨hu, hp, hlow⟩ := leastBelow_some h
  simp only [Bool.and_eq_true, beq_iff_eq] at hp
  exact ⟨hu, hp.1, hp.2, fun v hv hb => by simpa [hb.1, hb.2] using hlow v hv⟩

/-! ## Activations (R151) -/

/-- A slot activated with a word in g1. -/
def Slot.activated (sl : Slot) (word : Word) (tick : BitVec 64) : Slot :=
  { sl.writeG 1 word with
    status := .runnable, pc := bindEntry sl.bind, prio := bindPrio sl.bind, sup := sl.lsup, psup := false, tv := false,
    ready := tick, issues := 0, hold := .none, wait := none, inRep := false, fenceRel := none, again := false,
    banked := 0, paid := 0, act := sl.act + 1 }

/-- A core after an activation: its slot is activated and the activation counted. -/
theorem activateRaw_coreAt (s : State) (c t d : Nat) (word : Word) : ∃ st, (s.activateRaw c t word).coreAt d =
    if d = c then { (s.coreAt c).setSlot t ((s.slotAt c t).activated word s.tick) with stall := st }
    else s.coreAt d := by
  have hset := coreAt_setSlot s c t d ((s.slotAt c t).activated word s.tick)
  have hc := setSlot_coreAt_self s c t ((s.slotAt c t).activated word s.tick)
  have heq : s.activateRaw c t word = (s.setSlot c t ((s.slotAt c t).activated word s.tick)).stallAdd c 15 := rfl
  rw [heq]
  by_cases hd : d = c
  · subst d
    rw [coreAt_stallAdd, hc]
    exact ⟨_, (if_pos rfl).symm⟩
  · refine ⟨Core.init.stall, ?_⟩
    rw [if_neg hd] at hset ⊢
    rw [← hset, State.stallAdd, coreAt_setCore, if_neg hd]

theorem activateRaw_slotAt (s : State) (c t d v : Nat) (word : Word) : (s.activateRaw c t word).slotAt d v =
    if d = c ∧ v = t then (s.slotAt c t).activated word s.tick else s.slotAt d v := by
  obtain ⟨st, h⟩ := activateRaw_coreAt s c t d word
  rw [State.slotAt, h]
  by_cases hd : d = c
  · subst d
    simp only [if_true, true_and]
    exact Core.slotAt_setSlot (s.coreAt c) t v ((s.slotAt c t).activated word s.tick)
  · simp only [hd, if_false, false_and]
    rfl

/-- What an activation leaves of a core beside its slots and its stall counters. -/
theorem activateRaw_keeps {β : Type} (f : Core → β) (hf : ∀ k l st, f { k with slots := l, stall := st } = f k)
    (s : State) (c t d : Nat) (word : Word) : f ((s.activateRaw c t word).coreAt d) = f (s.coreAt d) := by
  obtain ⟨st, h⟩ := activateRaw_coreAt s c t d word
  rw [h]
  split
  next hd =>
    rw [hd]
    exact hf (s.coreAt c) ((s.coreAt c).setSlot t ((s.slotAt c t).activated word s.tick)).slots st
  next => rfl

/-- With the trace unit off, an activation forms no record. -/
theorem activate_untraced {s : State} {c : Nat} (t : Nat) (word : Word) (h : (s.coreAt c).trc.v = false) :
    s.activate c t word = s.activateRaw c t word := by
  have htrc := activateRaw_keeps Core.trc (fun _ _ _ => rfl) s c t c word
  exact trace_off _ (by rw [htrc]; exact h)

@[simp] theorem activateRaw_cur (s : State) (c t : Nat) (word : Word) : (s.activateRaw c t word).cur = s.cur := rfl
@[simp] theorem activateRaw_slot (s : State) (c t : Nat) (word : Word) : (s.activateRaw c t word).slot = s.slot := rfl

/-! ## Deliveries (R149, R150) -/

/-- A core with the count of a source replaced. -/
def Core.setPend (k : Core) (key : Nat) (p : PendCount) : Core := { k with pend := tput none k.pend key (some p) }

theorem setPend_self (k : Core) (key : Nat) (p : PendCount) : tget none (k.setPend key p).pend key = some p :=
  tget_tput_self none k.pend key (some p)

/-- Pending events of a source that a slot is bound to activate the slot with one event word (R149, R150). -/
theorem deliver_pending {s : State} {c key u n : Nat} {data : BitVec 32}
    (hp : tget none (s.coreAt c).pend key = some ⟨n, data⟩) (hn : 0 < n) (hb : (s.coreAt c).boundTo key = some u) :
    s.deliver c key = ((s.setCore c ((s.coreAt c).setPend key ⟨0, data⟩)).activateRaw c u
      (eventWord data n (key / 128) (key % 128)), some u) := by
  simp only [State.deliver, hp, hb, if_neg (Nat.pos_iff_ne_zero.mp hn), Core.setPend]

/-- Events that are pending activate the lowest slot bound to their source, and none is pending then (R149 to R151). -/
theorem deliver_activates {s : State} {c key u n : Nat} {data : BitVec 32}
    (hp : tget none (s.coreAt c).pend key = some ⟨n, data⟩) (hn : 0 < n) (hb : (s.coreAt c).boundTo key = some u) :
    (s.deliver c key).2 = some u ∧ tget none ((s.deliver c key).1.coreAt c).pend key = some ⟨0, data⟩ ∧
      (s.deliver c key).1.slotAt c u =
        (s.slotAt c u).activated (eventWord data n (key / 128) (key % 128)) s.tick := by
  rw [deliver_pending hp hn hb]
  refine ⟨rfl, ?_, ?_⟩
  · rw [activateRaw_keeps Core.pend (fun _ _ _ => rfl), coreAt_setCore_self, setPend_self]
  · rw [activateRaw_slotAt, if_pos ⟨rfl, rfl⟩]
    exact congrArg (Slot.activated · _ s.tick) (slotAt_setCore_slots (by rfl) c u)

/-! ## Class masks and packets (R168, R388) -/

/-- A core with the queue of a class replaced. -/
def Core.setClass (k : Core) (cls : Nat) (q : List Packet) : Core := { k with classq := tput [] k.classq cls q }

/-- A core with another mask of its classes. -/
def Core.setMask (k : Core) (m : BitVec 16) : Core := { k with cmask := m }

/-- The oldest packet of a class that is not masked activates the slot bound to the class (R168, R388). -/
theorem packetDelivery_activates {s : State} {d u : Nat} {c : BitVec 4} {p : Packet} {rest : List Packet}
    (hq : (s.coreAt d).classQueue c.toNat = p :: rest) (hb : (s.coreAt d).boundTo (sourceKey 2 c.toNat) = some u)
    (hstop : (s.coreAt d).stop = .none) (hmask : (s.coreAt d).cmask.getLsbD c.toNat = false)
    (htrc : (s.coreAt d).trc.v = false) :
    ∃ t, exec (.packetDelivery d c) s = .next t ∧ (t.coreAt d).classQueue c.toNat = rest ∧
      t.slotAt d u = (s.slotAt d u).activated (eventWord p.pay 1 2 c.toNat) s.tick ∧ t.mem = s.mem := by
  have hexec : exec (.packetDelivery d c) s =
      .next (let u := (s.setCore d ((s.coreAt d).setClass c.toNat rest)).activate d u (eventWord p.pay 1 2 c.toNat)
        if rest.isEmpty then u else u.post (.packetDelivery d c)) := by
    show execPacketDelivery d c s = _
    simp only [execPacketDelivery, hq, hb, hstop, hmask, ne_eq, not_true_eq_false, Bool.false_eq_true, or_self,
      if_false, Core.setClass]
  have htrc' : ((s.setCore d ((s.coreAt d).setClass c.toNat rest)).coreAt d).trc.v = false := by
    rw [coreAt_setCore_self]
    exact htrc
  rw [activate_untraced u _ htrc'] at hexec
  refine ⟨_, hexec, ?_⟩
  have hcores : ∀ v : State, (if rest.isEmpty then v else v.post (.packetDelivery d c)).cores = v.cores := fun v => by
    split <;> rfl
  refine ⟨?_, ?_, ?_⟩
  · rw [Core.classQueue, coreAt_of_cores (hcores _), activateRaw_keeps Core.classq (fun _ _ _ => rfl),
      coreAt_setCore_self]
    exact tget_tput_self ..
  · rw [slotAt_of_cores (hcores _), activateRaw_slotAt, if_pos ⟨rfl, rfl⟩]
    exact congrArg (Slot.activated · _ s.tick) (slotAt_setCore_slots (by rfl) d u)
  · simp only []
    split <;> rfl

/-- CMSK and CUMSK set and clear the mask of their class; an unmasked class has its packets delivered (R168). -/
theorem classMasks_leave {s : State} (c : BitVec 4) (hn : HasNext s) :
    (∃ t, exec (.cmsk c) s = .next t ∧ t.me = s.me.advance ∧ t.mem = s.mem ∧
      (t.coreAt s.cur).cmask = (s.coreAt s.cur).cmask ||| (1#16 <<< c.toNat) ∧ t.agenda = s.agenda) ∧
    (∃ t, exec (.cumsk c) s = .next t ∧ t.me = s.me.advance ∧ t.mem = s.mem ∧
      (t.coreAt s.cur).cmask = (s.coreAt s.cur).cmask &&& ~~~(1#16 <<< c.toNat) ∧
      t.agenda = s.agenda ++ [.packetDelivery s.cur c]) := by
  have hme : ∀ m, (s.setCore s.cur ((s.coreAt s.cur).setMask m)).me = s.me := fun m =>
    me_of_slots rfl rfl (by rw [coreAt_setCore_self]; rfl)
  have hcore : ∀ m x, ((s.setCore s.cur ((s.coreAt s.cur).setMask m)).setMe x).coreAt s.cur =
      ((s.coreAt s.cur).setMask m).setSlot s.slot x := fun m x => by
    rw [coreAt_setMe]
    exact (if_pos rfl).trans (congrArg (Core.setSlot · s.slot x) (coreAt_setCore_self s s.cur _))
  have hmsk : exec (.cmsk c) s = _ := finish_done_me s
    (s.setCore s.cur ((s.coreAt s.cur).setMask ((s.coreAt s.cur).cmask ||| (1#16 <<< c.toNat)))) hn
  have humsk : exec (.cumsk c) s = _ := finish_done_me s
    ((s.setCore s.cur ((s.coreAt s.cur).setMask ((s.coreAt s.cur).cmask &&& ~~~(1#16 <<< c.toNat)))).post
      (.packetDelivery s.cur c)) hn
  refine ⟨⟨_, hmsk, ?_, rfl, ?_, rfl⟩, ⟨_, humsk, ?_, rfl, ?_, rfl⟩⟩
  · rw [me_setMe, hme]
  · exact congrArg Core.cmask (hcore ..)
  · rw [me_setMe]
    exact congrArg Slot.advance (hme _)
  · exact congrArg Core.cmask (hcore ..)

/-- Settles O31: a delivery with events pending and a packet of a class without a mask each activate the slot bound to
their source. -/
theorem delivery : Obligations.Delivery := by
  unfold Obligations.Delivery
  refine ⟨fun s c key u n data hp hn hb => ?_, fun s c => ⟨fun hn => (classMasks_leave c hn).1,
    fun hn => (classMasks_leave c hn).2, fun d u p rest hq hb hstop hmask htrc => ?_⟩⟩
  · obtain ⟨hslot, hpend, hsl⟩ := deliver_activates hp hn hb
    obtain ⟨-, hst, -, hlow⟩ := boundTo_some hb
    exact ⟨hslot, hpend, hsl, hst, hlow⟩
  · obtain ⟨t, ht, hqueue, hsl, hmem⟩ := packetDelivery_activates hq hb hstop hmask htrc
    refine ⟨t, ht, hqueue, ?_, ?_, ?_, hmem⟩
    · rw [hsl]
      rfl
    · rw [hsl]
      rfl
    · rw [hsl]
      exact Slot.readG_writeG (s.slotAt d u) 1 1 _

/-! ## SPAWN (R153) -/

/-- A bound slot that a SPAWN of an entry takes before any free one. -/
def Core.Fits (k : Core) (entry : BitVec 12) (v : Nat) : Prop :=
  (k.slotAt v).status = .bound ∧ bindKind (k.slotAt v).bind = 7 ∧ bindEntry (k.slotAt v).bind = entry

theorem spawnSlot_some {k : Core} {entry : BitVec 12} {u : Nat} (h : k.spawnSlot entry = some u) :
    u < 32 ∧ ((k.Fits entry u ∧ ∀ v, v < u → ¬k.Fits entry v) ∨
      ((∀ v, v < 32 → ¬k.Fits entry v) ∧ (k.slotAt u).status = .free ∧ ∀ v, v < u → (k.slotAt v).status ≠ .free)) := by
  have htest : ∀ v, ((k.slotAt v).status == .bound && bindKind (k.slotAt v).bind == 7
      && bindEntry (k.slotAt v).bind == entry) = true ↔ k.Fits entry v := fun v => by
    simp only [Bool.and_eq_true, beq_iff_eq, Core.Fits, and_assoc]
  unfold Core.spawnSlot at h
  split at h
  next t ht =>
    cases h
    obtain ⟨hu, hp, hlow⟩ := leastBelow_some ht
    exact ⟨hu, .inl ⟨(htest u).mp hp, fun v hv hf => by simpa [(htest v).mpr hf] using hlow v hv⟩⟩
  next hnone =>
    obtain ⟨hu, hp, hlow⟩ := leastBelow_some h
    refine ⟨hu, .inr ⟨fun v hv hf => ?_, by simpa using hp, fun v hv => by simpa using hlow v hv⟩⟩
    have := leastBelow_none hnone v hv
    rw [(htest v).mpr hf] at this
    cases this

/-- The binding that a SPAWN gives a free slot (R153). -/
theorem spawnBind_fields (n : Word) :
    bindEntry (spawnBind n.toNat) = n.setWidth 12 ∧ bindPrio (spawnBind n.toNat) = (n >>> 12).setWidth 2 ∧
      bindOnce (spawnBind n.toNat) = true ∧ bindKind (spawnBind n.toNat) = 7 := by
  have hv : (spawnBind n.toNat).toNat = 2 ^ 25 + n.toNat / 2 ^ 12 % 4 * 2 ^ 23 + 7 * 2 ^ 12 + n.toNat % 2 ^ 12 := by
    rw [spawnBind, BitVec.toNat_ofNat]
    omega
  refine ⟨?_, ?_, ?_, ?_⟩
  · apply BitVec.eq_of_toNat_eq
    simp only [bindEntry, bits, hv, BitVec.toNat_ofNat, BitVec.toNat_setWidth]
    omega
  · apply BitVec.eq_of_toNat_eq
    simp only [bindPrio, bits, hv, BitVec.toNat_ofNat, BitVec.toNat_setWidth, BitVec.toNat_ushiftRight,
      Nat.shiftRight_eq_div_pow]
    omega
  · simp only [bindOnce, hv]
    rw [decide_eq_true_eq]
    omega
  · simp only [bindKind, hv]
    omega

/-- The slot a SPAWN takes, before it is activated: a free one is bound by the SPAWN (R153). -/
def Slot.spawned (sl : Slot) (n : Nat) : Slot := if sl.status = .free then sl.taken (spawnBind n) else sl

theorem spawned_free {sl : Slot} (n : Nat) (h : sl.status = .free) : sl.spawned n = sl.taken (spawnBind n) := if_pos h

theorem spawned_bound {sl : Slot} (n : Nat) (h : sl.status = .bound) : sl.spawned n = sl :=
  if_neg (by rw [h]; decide)

/-- A free slot that a SPAWN takes is bound by it (R153). -/
def State.bindSpawned (s : State) (c u n : Nat) : State :=
  if (s.slotAt c u).status = .free then s.setSlot c u ((s.slotAt c u).taken (spawnBind n)) else s

theorem bindSpawned_leaves (s : State) (c u n : Nat) : let w := s.bindSpawned c u n
    w.cur = s.cur ∧ w.slot = s.slot ∧ w.mem = s.mem ∧ w.tick = s.tick ∧ (w.coreAt c).trc = (s.coreAt c).trc ∧
      ∀ d v, w.slotAt d v = if d = c ∧ v = u then (s.slotAt c u).spawned n else s.slotAt d v := by
  by_cases hst : (s.slotAt c u).status = .free
  · simp only [State.bindSpawned, if_pos hst, Slot.spawned]
    exact ⟨rfl, rfl, rfl, rfl, by rw [setSlot_coreAt_self, Core.setSlot_trc], fun d v => slotAt_setSlot ..⟩
  · simp only [State.bindSpawned, if_neg hst, Slot.spawned, true_and]
    intro d v
    split
    next hdv => rw [hdv.1, hdv.2]
    next => rfl

/-- A SPAWN that finds a slot activates it with its argument (R153). -/
theorem exec_spawn_slot {s : State} {e a : BitVec 5} {u : Nat} (h : (s.me.readG e).toNat < 2 ^ 14)
    (hu : (s.coreAt s.cur).spawnSlot ((s.me.readG e).setWidth 12) = some u)
    (htrc : (s.coreAt s.cur).trc.v = false) : ∃ r : State, exec (.spawn e a) s = finish s (.done r) ∧
      r.cur = s.cur ∧ r.slot = s.slot ∧ r.mem = s.mem ∧ ∀ d v, r.slotAt d v =
        if d = s.cur ∧ v = u then ((s.slotAt s.cur u).spawned (s.me.readG e).toNat).activated (s.me.readG a) s.tick
        else s.slotAt d v := by
  have hbits : bits (s.me.readG e).toNat 0 12 = (s.me.readG e).setWidth 12 := by
    rw [bits_toNat_word, BitVec.ushiftRight_zero]
  have hexec : exec (.spawn e a) s =
      finish s (.done (let w := s.bindSpawned s.cur u (s.me.readG e).toNat
        w.activate w.cur u (s.me.readG a))) := by
    show execSpawn e a s = _
    simp only [execSpawn, if_neg (not_le.mpr h), hbits, hu, State.bindSpawned]
  have hw := bindSpawned_leaves s s.cur u (s.me.readG e).toNat
  generalize s.bindSpawned s.cur u (s.me.readG e).toNat = w' at hexec hw
  obtain ⟨hcur, hslot, hmem, htick, htrc', hslots⟩ := hw
  simp only [hcur] at hexec
  rw [activate_untraced _ _ (by rw [htrc']; exact htrc)] at hexec
  refine ⟨_, hexec, hcur, hslot, hmem, fun d v => ?_⟩
  rw [activateRaw_slotAt, htick, (hslots s.cur u).trans (if_pos ⟨rfl, rfl⟩)]
  split
  next => rfl
  next hdv => rw [hslots, if_neg hdv]

/-- SPAWN with a slot to take. -/
theorem spawn_takes {s : State} {e a : BitVec 5} {u : Nat} (hn : HasNext s) (h : (s.me.readG e).toNat < 2 ^ 14)
    (hu : (s.coreAt s.cur).spawnSlot ((s.me.readG e).setWidth 12) = some u) (hne : u ≠ s.slot)
    (htrc : (s.coreAt s.cur).trc.v = false) :
    ∃ t, exec (.spawn e a) s = .next t ∧ t.me = s.me.advance ∧ t.mem = s.mem ∧ t.slotAt s.cur u =
      ((s.slotAt s.cur u).spawned (s.me.readG e).toNat).activated (s.me.readG a) s.tick := by
  obtain ⟨r, hr, hcur, hslot, hmem, hslots⟩ := exec_spawn_slot (a := a) h hu htrc
  rw [hr]
  exact finish_done_oneSlot hn hcur hslot hmem hne hslots

theorem activated_fields (sl : Slot) (word : Word) (tick : BitVec 64) :
    (sl.activated word tick).status = .runnable ∧ (sl.activated word tick).pc = bindEntry sl.bind ∧
      (sl.activated word tick).readG 1 = word ∧ (sl.activated word tick).ready = tick ∧
      (sl.activated word tick).tv = false ∧ (sl.activated word tick).prio = bindPrio sl.bind ∧
      (sl.activated word tick).sup = sl.lsup ∧ (sl.activated word tick).bind = sl.bind := by
  exact ⟨rfl, rfl, Slot.readG_writeG sl 1 1 word, rfl, rfl, rfl, rfl, Slot.writeG_bind ..⟩

theorem activated_readG (sl : Slot) (word : Word) (tick : BitVec 64) (r : BitVec 5) (h : r ≠ 1) :
    (sl.activated word tick).readG r = sl.readG r :=
  (Slot.readG_writeG sl 1 r word).trans (if_neg fun hr => h hr.1)

theorem activated_readA (sl : Slot) (word : Word) (tick : BitVec 64) (r : BitVec 4) :
    (sl.activated word tick).readA r = sl.readA r :=
  Slot.readA_writeG ..

/-- The edge of a SPAWN that finds no slot (R27, R153). -/
def spawnEdge (s : State) (n : Word) : Edge where
  party := .task s.cur s.slot
  at_ := s.cur
  kind := .spawn
  core := s.cur
  win := 0
  level := 0
  arg := BitVec.ofNat 32 n.toNat
  site := s.siteOf s.cur s.slot
  retry := none
  reported := false

/-- A SPAWN that finds no slot waits (R153). -/
theorem spawn_waits {s : State} {e a : BitVec 5} (hn : HasNext s) (h : (s.me.readG e).toNat < 2 ^ 14)
    (hu : (s.coreAt s.cur).spawnSlot ((s.me.readG e).setWidth 12) = none) : WaitsFor (.spawn e a) s .again := by
  have hbits : bits (s.me.readG e).toNat 0 12 = (s.me.readG e).setWidth 12 := by
    rw [bits_toNat_word, BitVec.ushiftRight_zero]
  refine waitsFor_waitMe _ s s.dies .again (spawnEdge s (s.me.readG e)) rfl hn ?_
  show execSpawn e a s = _
  simp only [execSpawn, if_neg (not_le.mpr h), hbits, hu]
  rfl

/-- Settles O30, by the slot that a SPAWN takes and what its activation makes of it. -/
theorem spawn : Obligations.Spawn := by
  unfold Obligations.Spawn
  refine ⟨fun s e a hn htrc h => ⟨fun u hu hne => ?_, fun hu => spawn_waits hn h hu⟩,
    fun k entry u hu => spawnSlot_some hu⟩
  obtain ⟨t, ht, hme, hmem, hsl⟩ := spawn_takes (a := a) hn h hu hne htrc
  obtain ⟨hrun, hpc, hg1, hready, htv, hprio, hsup, hbind⟩ := activated_fields
    ((s.slotAt s.cur u).spawned (s.me.readG e).toNat) (s.me.readG a) s.tick
  obtain ⟨hentry, hfprio, honce, hkind⟩ := spawnBind_fields (s.me.readG e)
  have hstatus : (s.slotAt s.cur u).status = .bound ∧ bindEntry (s.slotAt s.cur u).bind = (s.me.readG e).setWidth 12 ∨
      (s.slotAt s.cur u).status = .free := by
    obtain ⟨-, ⟨⟨hb, -, he⟩, -⟩ | ⟨-, hf, -⟩⟩ := spawnSlot_some hu
    · exact .inl ⟨hb, he⟩
    · exact .inr hf
  rw [← hsl] at hrun hpc hg1 hready htv hprio hsup hbind
  refine ⟨t, ht, hme, hmem, hrun, ?_, hg1, hready, htv, fun hfree => ?_, fun hbound => ?_⟩
  · rcases hstatus with ⟨hb, he⟩ | hf
    · rw [hpc, spawned_bound _ hb, he]
    · rw [hpc, spawned_free _ hf]
      exact hentry
  · rw [spawned_free _ hfree] at hprio hsup hbind hsl
    refine ⟨hprio.trans hfprio, hsup, ?_, ?_, fun r hr => ?_, fun r => ?_⟩
    · rw [hbind]
      exact honce
    · rw [hbind]
      exact hkind
    · rw [hsl, activated_readG _ _ _ _ hr]
      exact Slot.init_readG r
    · rw [hsl, activated_readA]
      exact Slot.init_readA r
  · rw [spawned_bound _ hbound] at hprio hsl
    exact ⟨hprio, fun r hr => by rw [hsl, activated_readG _ _ _ _ hr]⟩
end Sys2Proof.Machine
end

section
/-! SUPPORT. Barriers: the join element after a token, a new arc count and a firing; releases at a member (R150, R165,
R166). -/

namespace Sys2Proof.Machine

open Sys2Proof

/-! ## Groups and their barriers (R165) -/

@[simp] theorem groupAt_setGroup_self (s : State) (gn : Nat) (x : Group) : (s.setGroup gn x).groupAt gn = x := by
  rw [State.groupAt, State.setGroup]
  simp only [tget_tput_self, Option.getD_some]

theorem groupAt_of_groups {s t : State} (h : t.groups = s.groups) (gn : Nat) : t.groupAt gn = s.groupAt gn := by
  rw [State.groupAt, State.groupAt, h]

@[simp] theorem barrierAt_setBarrier_self (g : Group) (l : Level) (c : Nat) (b : BitVec 4) (x : Barrier) :
    (g.setBarrier l c b x).barrierAt l c b = x :=
  tget_tput_self ..

/-! ## Firings (R166) -/

theorem fireBarrier_groups (s : State) (gn : Nat) (l : Level) (c : Nat) (b : BitVec 4) (lost : Bool) :
    let x := (s.groupAt gn).barrierAt l c b
    (s.fireBarrier gn l c b lost).groups =
      (s.setGroup gn ((s.groupAt gn).setBarrier l c b { x with tokens := 0, gen := x.gen + 1, lost := lost })).groups :=
  foldl_keeps State.groups _ (fun _ _ => by rfl) _ _

theorem fireBarrier_cores (s : State) (gn : Nat) (l : Level) (c : Nat) (b : BitVec 4) (lost : Bool) :
    (s.fireBarrier gn l c b lost).cores = s.cores :=
  foldl_keeps State.cores _ (fun _ _ => by rfl) _ _

/-- A barrier as its tokens settle it: it fires where they reach its arcs. -/
def Barrier.settled (x : Barrier) : Barrier :=
  if x.arcs ≠ 0 ∧ x.arcs.toNat ≤ x.tokens then { x with tokens := 0, gen := x.gen + 1, lost := false } else x

/-- A barrier of a group that was replaced and settled. -/
theorem settleBarrier_barrierAt (s : State) (gn : Nat) (l : Level) (c : Nat) (b : BitVec 4) (x : Barrier) :
    (((s.setGroup gn ((s.groupAt gn).setBarrier l c b x)).settleBarrier gn l c b).groupAt gn).barrierAt l c b =
      x.settled := by
  unfold State.settleBarrier Barrier.settled
  simp only [groupAt_setGroup_self, barrierAt_setBarrier_self]
  split
  · rw [groupAt_of_groups (fireBarrier_groups ..), groupAt_setGroup_self, groupAt_setGroup_self]
    simp only [barrierAt_setBarrier_self]
  · rw [groupAt_setGroup_self, barrierAt_setBarrier_self]

theorem settleBarrier_cores (s : State) (gn : Nat) (l : Level) (c : Nat) (b : BitVec 4) :
    (s.settleBarrier gn l c b).cores = s.cores := by
  unfold State.settleBarrier
  simp only []
  split
  · exact fireBarrier_cores ..
  · rfl

theorem settled_arcs (x : Barrier) : x.settled.arcs = x.arcs := by
  unfold Barrier.settled
  split <;> rfl

theorem settled_waits {x : Barrier} (h : x.arcs = 0 ∨ x.tokens < x.arcs.toNat) : x.settled = x :=
  if_neg fun hf => h.elim hf.1 (not_lt.mpr hf.2)

theorem settled_fires {x : Barrier} (h : x.arcs ≠ 0) (ht : x.arcs.toNat ≤ x.tokens) :
    x.settled.tokens = 0 ∧ x.settled.gen = x.gen + 1 := by
  rw [Barrier.settled, if_pos ⟨h, ht⟩]
  exact ⟨rfl, rfl⟩

/-! ## The join element (R166) -/

/-- A barrier that counted the token of a task. -/
def Barrier.counted (x : Barrier) (c t : Nat) : Barrier :=
  { x with tokens := x.tokens + 1, arrived := x.arrive (some (.task c t)) }

/-- The token of a task at an enabled barrier: it counts, and the task is answered the generation it counted in. -/
theorem baraToken_counts {s : State} {c t gn : Nat} {l : Level} {b : BitVec 4} {d : BitVec 5}
    (hg : (s.coreAt c).group = some gn) (hh : (s.slotAt c t).hold = .bara d)
    (ha : ((s.groupAt gn).barrierAt l c b).arcs ≠ 0) :
    let x := (s.groupAt gn).barrierAt l c b
    ∃ s', exec (.baraTokenCount c (some t) l b) s = .next s' ∧
      s'.slotAt c t = ({ s.slotAt c t with hold := .none }.writeG d (x.gen.setWidth 64)).advance ∧
      (s'.groupAt gn).barrierAt l c b = (x.counted c t).settled ∧ s'.mem = s.mem := by
  intro x
  let w := (s.setGroup gn ((s.groupAt gn).setBarrier l c b (x.counted c t))).settleBarrier gn l c b
  have hexec : exec (.baraTokenCount c (some t) l b) s = .next (w.baraDone c t x.gen) := by
    show execBaraTokenCount c (some t) l b s = _
    simp only [execBaraTokenCount, hg, Option.getD_some, if_neg ha]
    rfl
  have hslot : w.slotAt c t = s.slotAt c t := slotAt_of_cores (settleBarrier_cores ..) c t
  have hdone : w.baraDone c t x.gen =
      (w.setSlot c t ({ s.slotAt c t with hold := .none }.writeG d (x.gen.setWidth 64))).advance c t := by
    simp only [State.baraDone, hslot, Slot.baraDest, hh]
  refine ⟨_, hexec, ?_, ?_, by simp [w]⟩
  · rw [hdone, State.advance, slotAt_setSlot_self, slotAt_setSlot_self]
  · rw [hdone]
    exact settleBarrier_barrierAt ..

/-- The token of a task at a disabled barrier faults the BARA (R166). -/
theorem baraToken_faults {s : State} {c t gn : Nat} {l : Level} {b : BitVec 4} {d : BitVec 5}
    (hg : (s.coreAt c).group = some gn) (hh : (s.slotAt c t).hold = .bara d)
    (ha : ((s.groupAt gn).barrierAt l c b).arcs = 0) : Leaves (.baraTokenCount c (some t) l b) s
      ((s.setSlot c t { s.slotAt c t with hold := .none }).takeTrap c t (taskTrap (barrierOperand l b) 3 12)
        (s.slotAt c t).pc) := by
  show execBaraTokenCount c (some t) l b s = _
  simp only [execBaraTokenCount, hg, Option.getD_some, if_pos ha, State.baraFault, Slot.baraDest, hh]

/-- A new arc count at the join element. -/
theorem barcArrival_sets {s : State} {c gn : Nat} (l : Level) (b : BitVec 4) (n : BitVec 16)
    (hg : (s.coreAt c).group = some gn) : ∃ s', exec (.barcArrival c l b n) s = .next s' ∧
      (s'.groupAt gn).barrierAt l c b = ({ (s.groupAt gn).barrierAt l c b with arcs := n } : Barrier).settled ∧
      s'.mem = s.mem := by
  have hexec : exec (.barcArrival c l b n) s = .next ((s.setGroup gn ((s.groupAt gn).setBarrier l c b
      { (s.groupAt gn).barrierAt l c b with arcs := n })).settleBarrier gn l c b) := by
    show execBarcArrival c l b n s = _
    simp only [execBarcArrival, hg]
  exact ⟨_, hexec, settleBarrier_barrierAt .., by simp⟩

/-! ## Releases at a member (R150, R166) -/

/-- What a release does for one slot of a core: a BARW that waits for an earlier generation proceeds, or traps where a
member was lost. -/
def State.releaseBarw (s : State) (c : Nat) (l : Level) (b : BitVec 4) (gen : BitVec 16) (lost : Bool) (t : Nat) :
    State :=
  match (s.slotAt c t).wait with
  | some (.barw l' b' held) =>
    if l' = l ∧ b' = b ∧ held ≠ gen then
      let s := s.wake c t
      if lost then
        s.takeTrap c t (trapOf 10 (BitVec.ofNat 64 ((gen - 1).toNat * 2 ^ 16 + barrierOperand l b))) (s.slotAt c t).pc
      else s.advance c t
    else s
  | some (.window _ _ _ _ _ _) | some (.tkn _ _ _) | some .again | none => s

theorem releaseBarws_eq (s : State) (c : Nat) (l : Level) (b : BitVec 4) (gen : BitVec 16) (lost : Bool) :
    s.releaseBarws c l b gen lost =
      (s.coreAt c).slots.foldl (fun u e => u.releaseBarw c l b gen lost e.1) s := rfl

/-- What replacing a slot leaves of a core. -/
theorem setSlot_keeps {β : Type} (f : Core → β) (hf : ∀ k t x, f (Core.setSlot k t x) = f k) (s : State) (c t d : Nat)
    (x : Slot) : f ((s.setSlot c t x).coreAt d) = f (s.coreAt d) := by
  rw [coreAt_setSlot]
  split
  next hd => rw [hd, hf]
  next => rfl

section
variable (s : State) (c t : Nat) (l : Level) (b : BitVec 4) (gen : BitVec 16)

/-- A release of a generation that was not lost leaves a slot as it was, or moves it past its BARW. -/
theorem releaseBarw_cases : s.releaseBarw c l b gen false t = s ∨
    s.releaseBarw c l b gen false t = (s.wake c t).advance c t := by
  unfold State.releaseBarw
  split
  · split
    · exact .inr rfl
    · exact .inl rfl
  all_goals exact .inl rfl

/-- What a release that was not lost keeps: what waking and moving on a slot keep. -/
theorem releaseBarw_keeps {β : Type} (f : State → β) (hf : f ((s.wake c t).advance c t) = f s) :
    f (s.releaseBarw c l b gen false t) = f s := by
  rcases releaseBarw_cases s c t l b gen with h | h
  · rw [h]
  · rw [h, hf]

theorem wake_advance_slotAt (u : Nat) : ((s.wake c t).advance c t).slotAt c u =
    if u = t then { s.slotAt c t with status := .runnable, wait := none, ready := s.tick, issues := 0 }.advance
    else s.slotAt c u := by
  have hw : (s.wake c t).slotAt c t =
      { s.slotAt c t with status := .runnable, wait := none, ready := s.tick, issues := 0 } := slotAt_setSlot_self ..
  rw [State.advance, slotAt_setSlot, hw]
  by_cases hu : u = t
  · rw [if_pos ⟨rfl, hu⟩, if_pos hu]
  · rw [if_neg fun h => hu h.2, if_neg hu, State.wake, slotAt_setSlot, if_neg fun h => hu h.2]
    rfl

theorem releaseBarw_other {u : Nat} (h : u ≠ t) : (s.releaseBarw c l b gen false t).slotAt c u = s.slotAt c u :=
  releaseBarw_keeps s c t l b gen (fun v => v.slotAt c u) (by rw [wake_advance_slotAt, if_neg h])

theorem releaseBarw_idle (h : (s.slotAt c t).wait = none) : s.releaseBarw c l b gen false t = s := by
  simp only [State.releaseBarw, h]

theorem releaseBarw_waiting {held : BitVec 16} (h : (s.slotAt c t).wait = some (.barw l b held)) (hg : held ≠ gen) :
    s.releaseBarw c l b gen false t = (s.wake c t).advance c t := by
  simp only [State.releaseBarw, h, true_and, if_pos hg, Bool.false_eq_true, if_false]

/-- A slot that does not wait keeps standing as the slots of a list are released. -/
theorem foldl_releaseBarw_idle {α : Type} (xs : List (Nat × α)) (h : (s.slotAt c t).wait = none) :
    (xs.foldl (fun u e => u.releaseBarw c l b gen false e.1) s).slotAt c t = s.slotAt c t := by
  induction xs generalizing s with
  | nil => rfl
  | cons e xs ih =>
    have he : (s.releaseBarw c l b gen false e.1).slotAt c t = s.slotAt c t := by
      by_cases ht : t = e.1
      · rw [← ht, releaseBarw_idle s c t l b gen h]
      · exact releaseBarw_other s c e.1 l b gen ht
    rw [List.foldl_cons, ih _ (by rw [he]; exact h), he]

/-- A slot of a list that waits in a BARW for an earlier generation goes on past it. -/
theorem foldl_releaseBarw_waiting {α : Type} (xs : List (Nat × α)) {held : BitVec 16}
    (h : (s.slotAt c t).wait = some (.barw l b held)) (hg : held ≠ gen) (hx : ∃ e ∈ xs, e.1 = t) :
    (xs.foldl (fun u e => u.releaseBarw c l b gen false e.1) s).slotAt c t =
      { s.slotAt c t with status := .runnable, wait := none, ready := s.tick, issues := 0 }.advance := by
  induction xs generalizing s with
  | nil => simp at hx
  | cons e xs ih =>
    rw [List.foldl_cons]
    by_cases ht : t = e.1
    · have hsl := (wake_advance_slotAt s c t t).trans (if_pos rfl)
      have hwait : ((((s.wake c t).advance c t).slotAt c t).wait = none) := by
        rw [hsl]
        unfold Slot.advance
        (repeat' split) <;> rfl
      rw [← ht, releaseBarw_waiting s c t l b gen h hg, foldl_releaseBarw_idle _ c t l b gen xs hwait, hsl]
    · have hsl := releaseBarw_other s c e.1 l b gen ht
      have htick : (s.releaseBarw c l b gen false e.1).tick = s.tick :=
        releaseBarw_keeps s c e.1 l b gen State.tick rfl
      obtain ⟨y, hy, hyt⟩ := hx
      have hrest : ∃ y ∈ xs, y.1 = t := by
        rcases List.mem_cons.mp hy with rfl | hy
        · exact absurd hyt.symm ht
        · exact ⟨y, hy, hyt⟩
      rw [ih _ (by rw [hsl]; exact h) hrest, hsl, htick]

/-- The releases of a core's slots leave its generations and its counts. -/
theorem releaseBarws_keeps : ((s.releaseBarws c l b gen false).coreAt c).gens = (s.coreAt c).gens ∧
    ((s.releaseBarws c l b gen false).coreAt c).pend = (s.coreAt c).pend := by
  have hcore : ∀ (u : State) v,
      ((((u.wake c v).advance c v).coreAt c).gens, (((u.wake c v).advance c v).coreAt c).pend) =
      ((u.coreAt c).gens, (u.coreAt c).pend) := fun u v =>
    (setSlot_keeps (fun k => (k.gens, k.pend)) (fun _ _ _ => rfl) ..).trans
      (setSlot_keeps (fun k => (k.gens, k.pend)) (fun _ _ _ => rfl) (u.dropEdges (.task c v)) ..)
  have h := foldl_keeps (fun u => ((u.coreAt c).gens, (u.coreAt c).pend))
    (fun (u : State) (e : Nat × Slot) => u.releaseBarw c l b gen false e.1)
    (fun u e => releaseBarw_keeps u c e.1 l b gen (fun u => ((u.coreAt c).gens, (u.coreAt c).pend)) (hcore u e.1))
    (s.coreAt c).slots s
  exact Prod.mk.inj h

end

theorem progress_tick (s : State) (c : Nat) : (s.progress c).tick = s.tick := by
  unfold State.progress
  simp only []
  split <;> rfl

/-- A key that a table does not read as its default is listed. -/
theorem listed_of_tget {α : Type} (dflt : α) {m : Table α} {k : Nat} (h : tget dflt m k ≠ dflt) : ∃ e ∈ m, e.1 = k := by
  induction m with
  | nil => exact absurd rfl h
  | cons e r ih =>
    by_cases he : e.1 = k
    · exact ⟨e, List.mem_cons_self, he⟩
    · obtain ⟨x, hx, hk⟩ := ih (by rwa [tget, if_neg he] at h)
      exact ⟨x, List.mem_cons_of_mem _ hx, hk⟩

/-- A core that has seen a generation of a barrier. -/
def Core.sawGen (k : Core) (l : Level) (b : BitVec 4) (gen : BitVec 16) : Core :=
  { k with gens := tput 0 k.gens (barrierOperand l b) gen }

/-- A release that was not lost arrives at a member whose barrier no binding names (R150, R166). -/
theorem releaseArrival_leaves {s : State} {c t : Nat} {l : Level} {b : BitVec 4} {gen : BitVec 16} (hl : l ≠ .lane)
    (hp : tget none (s.coreAt c).pend (sourceKey 5 (barrierOperand l b)) = none) :
    ∃ s', exec (.barrierReleaseArrival c l b gen false) s = .next s' ∧ (s'.coreAt c).genSeen l b = gen ∧
      s'.mem = s.mem ∧
      ∀ held, (s.slotAt c t).wait = some (.barw l b held) → held ≠ gen → s'.slotAt c t =
        { s.slotAt c t with status := .runnable, wait := none, ready := s.tick, issues := 0 }.advance := by
  let v := s.dropEdge (heldRelease c l b gen false)
  let w := (v.setCore c ((s.coreAt c).sawGen l b gen)).progress c
  let u := w.releaseBarws c l b gen false
  have hfull : (s.coreAt c).countFull (sourceKey 5 (barrierOperand l b)) = false := by
    simp only [Core.countFull, hp]
  have hw : ∃ n, w.coreAt c = { (s.coreAt c).sawGen l b gen with wdcnt := n } := by
    obtain ⟨n, hn⟩ := progress_coreAt (v.setCore c ((s.coreAt c).sawGen l b gen)) c c
    exact ⟨n, by rw [hn, coreAt_setCore_self]⟩
  obtain ⟨n, hw⟩ := hw
  obtain ⟨hgens, hpend⟩ := releaseBarws_keeps w c l b gen
  rw [hw] at hgens hpend
  have hidle : u.deliverSource c (sourceKey 5 (barrierOperand l b)) = u :=
    deliverSource_idle fun p h => by
      rw [hpend] at h
      cases hp.symm.trans h
  have hexec : exec (.barrierReleaseArrival c l b gen false) s = .next u := by
    have hcount (data : BitVec 32) : ((s.coreAt c).sawGen l b gen).count (sourceKey 5 (barrierOperand l b)) data =
        (s.coreAt c).sawGen l b gen :=
      count_unnamed _ _ _ hp
    have harrive : s.releaseArrives c l b gen false = u.deliverSource c (sourceKey 5 (barrierOperand l b)) := by
      simp only [State.releaseArrives, hfull, Bool.false_eq_true, if_false, false_and, and_false]
      exact congrArg (fun k => (((v.setCore c k).progress c).releaseBarws c l b gen false).deliverSource c
        (sourceKey 5 (barrierOperand l b))) (hcount _)
    show execBarrierReleaseArrival c l b gen false s = _
    simp only [execBarrierReleaseArrival, hfull, Bool.false_eq_true, if_false, if_neg hl, harrive, hidle]
  have hsl : w.slotAt c t = s.slotAt c t := by
    rw [State.slotAt, hw]
    rfl
  have htick : w.tick = s.tick := progress_tick ..
  refine ⟨u, hexec, ?_, ?_, fun held hwait hg => ?_⟩
  · rw [Core.genSeen, hgens]
    exact tget_tput_self ..
  · simp [u, w, v]
  · have hx : ∃ e ∈ (w.coreAt c).slots, e.1 = t := listed_of_tget Slot.init fun h => by
      rw [show tget Slot.init (w.coreAt c).slots t = s.slotAt c t from hsl] at h
      rw [h] at hwait
      cases hwait
    have := foldl_releaseBarw_waiting w c t l b gen (w.coreAt c).slots (by rw [hsl]; exact hwait) hg hx
    rw [hsl, htick] at this
    exact this

/-! ## Issue (R166) -/

/-- BARA of a task that owes nothing: its token leaves and the task holds. -/
theorem bara_holds {s : State} (d : BitVec 5) (l : Level) (b : BitVec 4) (hn : HasNext s)
    (hq : s.quiet s.cur s.slot = true) : ∃ t, exec (.bara d l b) s = .next t ∧ t.me = { s.me with hold := .bara d } ∧
      t.agenda = s.agenda ++ [.baraTokenCount s.cur (some s.slot) l b] ∧ t.mem = s.mem := by
  obtain ⟨ds, hd⟩ := released_only s
    (fun s => .hold ((s.setMe { s.me with hold := .bara d }).post (.baraTokenCount s.cur (some s.slot) l b))) hq
  have hn' : s.me.fallsOut = false := hn
  have hexec : exec (.bara d l b) s = .next (((s.setDies ds).setMe { s.me with hold := .bara d }).post
      (.baraTokenCount s.cur (some s.slot) l b)) := by
    show execBara d l b s = _
    rw [execBara, hd, finish]
    simp only [hn', Bool.false_eq_true, if_false]
    rfl
  exact ⟨_, hexec, me_setMe (s.setDies ds) _, rfl, rfl⟩

/-- The edge of a BARW (R27, R166). -/
def barwEdge (s : State) (l : Level) (b : BitVec 4) (gen : BitVec 16) : Edge where
  party := .task s.cur s.slot
  at_ := s.cur
  kind := .barrier
  core := s.cur
  win := b.toNat
  level := l.code
  arg := gen.setWidth 32
  site := s.siteOf s.cur s.slot
  retry := none
  reported := false

theorem barw_proceeds {s : State} {l : Level} {b : BitVec 4} {g : BitVec 5} (hn : HasNext s)
    (h : (s.coreAt s.cur).genSeen l b ≠ (s.me.readG g).setWidth 16) : Ends (.barw l b g) s s.me := by
  show execBarw l b g s = _
  simp only [execBarw, ne_eq, h, not_false_eq_true, if_true]
  exact finish_done_same s hn

theorem barw_waits {s : State} {l : Level} {b : BitVec 4} {g : BitVec 5} (hn : HasNext s)
    (h : (s.coreAt s.cur).genSeen l b = (s.me.readG g).setWidth 16) :
    WaitsFor (.barw l b g) s (.barw l b ((s.me.readG g).setWidth 16)) := by
  refine waitsFor_waitMe _ s s.dies _ (barwEdge s l b ((s.me.readG g).setWidth 16)) rfl hn ?_
  show execBarw l b g s = _
  simp only [execBarw, ne_eq, h, not_true_eq_false, if_false]
  rfl

theorem barc_sends {s : State} {g : BitVec 5} (l : Level) (b : BitVec 4) (hn : HasNext s)
    (h : (s.me.readG g).toNat < 2 ^ 16) : ∃ t, exec (.barc l b g) s = .next t ∧ t.me = s.me.advance ∧ t.mem = s.mem ∧
      t.agenda = s.agenda ++ [.barcArrival s.cur l b ((s.me.readG g).setWidth 16)] := by
  have hexec : exec (.barc l b g) s =
      finish s (.done (s.post (.barcArrival s.cur l b ((s.me.readG g).setWidth 16)))) := by
    show execBarc l b g s = _
    simp only [execBarc, if_neg (not_le.mpr h)]
  rw [hexec, finish_done_me s _ hn]
  exact ⟨_, rfl, me_setMe .., rfl, rfl⟩

/-- Settles O32: at issue by the branch each instruction takes, at the join element by the barrier as it settles, and
at a member by the slots that its release moves on. -/
theorem barriers : Obligations.Barriers := by
  unfold Obligations.Barriers
  refine ⟨fun s d g l b hn => ⟨bara_holds d l b hn, barw_proceeds hn, barw_waits hn, barc_sends l b hn⟩,
    ?_, fun s c t l b gen held hl hp => ?_⟩
  · intro s c t gn l b n d hg x after
    refine ⟨fun hh ha => ?_, baraToken_faults hg, ?_⟩
    · obtain ⟨s', hs, hslot, hx, hmem⟩ := baraToken_counts hg hh ha
      have hafter : after s' = (x.counted c t).settled := hx
      refine ⟨s', hs, hslot, ?_, hmem, fun h => ?_, fun h => ?_⟩ <;> rw [hafter]
      · exact settled_arcs _
      · rw [settled_waits (.inr h)]
        exact ⟨rfl, rfl⟩
      · exact settled_fires ha h
    · obtain ⟨s', hs, hx, hmem⟩ := barcArrival_sets l b n hg
      have hafter : after s' = ({ x with arcs := n } : Barrier).settled := hx
      refine ⟨s', hs, ?_, hmem, fun h => ?_, fun h ht => ?_⟩ <;> rw [hafter]
      · exact settled_arcs _
      · rw [settled_waits h]
        exact ⟨rfl, rfl⟩
      · exact settled_fires h ht
  · obtain ⟨s', hs, hgen, hmem, hslot⟩ := releaseArrival_leaves (t := t) hl (hp 5)
    exact ⟨s', hs, hgen, hmem, hslot held⟩

end Sys2Proof.Machine
end

section
/-! SUPPORT. A block transfer that waits at a window of a core that is reset: it fails, and poisons the window that the
reset has just cleared (R161, R288, R294, R351, R399). -/

namespace Sys2Proof.Machine

open Sys2Proof

/-- A WTW of 8 bytes from window 5 of core 256 to window 3 of core 0, whose one fill has reached its target. -/
def stuckWtw : BteRun where
  cmd := {
    cmd := BitVec.ofNat 128 (0x43 + 5 * 2 ^ 8 + 3 * 2 ^ 12 + 8 * 2 ^ 64)
    site := mkSite 256 0 0 0
    shape := []
    doneb := 0
    owed := 0
    nan := 0
    inf := 0
    sat := 0
    unf := 0 }
  issued := 8
  got := []
  acked := []
  index := []
  shrunk := 0
  pending := [List.replicate 8 0]
  flight := 1
  hold := false
  failing := none

/-- A window of 8-byte elements that holds one element and has no room for more. -/
def fullWin : Win := { Win.init with v := true, esz := 1, cap := 1, fill := 1 }

/-- A running device whose cluster 0 is function 1's: core 0 is the one member of a group that has nothing left to do,
and core 256, which is function 0's, waits with its WTW at the full window 3 of core 0. -/
def stuckState : State :=
  { State.reset with
    device := { State.reset.device with dev := .running }
    clusters := [(0, { Cluster.init with owner := some 1 })]
    groups := [(0, some {
      gid := 0
      sup := false
      lpri := 0
      members := [0]
      parts := [(0, [0], 0, false, 0)]
      barriers := []
      started := true
      saving := false
      failed := false })]
    cores := [
      (0, { Core.init with group := some 0, wins := [(3, fullWin)] }),
      (256, { Core.init with wins := [(5, fullWin)], bte := Core.init.bte.set 0 (some stuckWtw) })]
    edges := [{ cmdFillEdge 256 3 stuckWtw.cmd.site (.remoteWindowOperation 256 (.engine 0)) with core := 0 }] }

/-- The WTW does wait: trying its fill again changes nothing. -/
theorem stuckState_waits : stuckState.wtwArrive 256 0 = stuckState := by decide +kernel

/-- Whether window 3 of core 0 is poisoned in the state an instruction leaves. -/
def poisonAfter (r : Res) : Bool :=
  match r with
  | .next t => (t.winAt 0 3).pv
  | _ => false

/-- A poisoned window is not as a reset leaves it. -/
theorem ne_init_of_poisonAfter {r : Res} {t : State} (h : poisonAfter r = true) (ht : r = .next t) :
    t.winAt 0 3 ≠ Win.init := by
  subst ht
  intro hw
  rw [poisonAfter, hw] at h
  exact absurd h (by decide)

theorem completion_poisons : poisonAfter (exec (.coreGroupCompletion 0) stuckState) = true := by
  show poisonAfter (execCoreGroupCompletion 0 stuckState) = true
  decide +kernel

theorem vfReset_poisons : poisonAfter (exec (.vfReset 1) stuckState) = true := by
  show poisonAfter (execVfReset 1 stuckState) = true
  decide +kernel

/-- Refutes O56: it claims that the cores of a completed group have every window as after reset. The WTW that waits at
a member's full window is judged as soon as the member is reset: it meets a window without V, fails, and its end poisons
that window (`completion_poisons`). -/
theorem not_groups : ¬ Obligations.Groups := by
  unfold Obligations.Groups
  intro h
  obtain ⟨-, -, hcompletes, -⟩ := h stuckState stuckState 0 0 0 0 0 [0] 0 false 0 ⟨0, []⟩ [] rfl rfl (by decide)
  obtain ⟨t, ht, -, -, -, -, hcores⟩ := hcompletes rfl rfl (by decide +kernel)
  obtain ⟨-, -, -, -, hwins⟩ := hcores List.mem_cons_self
  exact ne_init_of_poisonAfter completion_poisons ht (hwins 3)

/-- Refutes O57: it claims that the cores of a function that is reset have every window as after reset. The WTW of
another function's core that waits at a window of such a core is not ended by the reset; it is judged once the core is
reset, and its end poisons the window (`vfReset_poisons`). -/
theorem not_tenants : ¬ Obligations.Tenants := by
  unfold Obligations.Tenants
  intro h
  obtain ⟨-, hgo⟩ := h.2.2 stuckState 1 0 0
  obtain ⟨-, hreset⟩ := hgo (by decide) (by decide) List.not_mem_nil rfl
  have hnets (m : Nat) : (stuckState.netAt m).owner = some 0 := rfl
  obtain ⟨t, ht, -, -, hunits⟩ := hreset (fun m _ => by rw [hnets]; decide) fun a ha => absurd ha List.not_mem_nil
  obtain ⟨howned, -⟩ := hunits (by decide)
  obtain ⟨-, -, -, -, hcores⟩ := howned (by decide +kernel)
  obtain ⟨-, -, -, hwins⟩ := hcores 0 rfl
  exact ne_init_of_poisonAfter vfReset_poisons ht (hwins 3)

end Sys2Proof.Machine
end

section
/-! SUPPORT. What commands leave of a core's fab port and fabric as they start and end, and what a shrink leaves of them
(R23, R209, R212, R345, R348). -/

namespace Sys2Proof.Machine

open Sys2Proof

/-! ## What stands when a command ends -/

/-- A core but for its slots, trace records, debug state, matrix unit, micro-TLB, and what its commands that ended and
its engines' reports owe. -/
def Core.rest (k : Core) : Core :=
  { k with
    slots := []
    traced := []
    dbgctl := 0
    dbgev := 0
    stop := .none
    mx := Mx.init
    haltTick := 0
    utlb := []
    ended := []
    stuck := [] }

/-- The rest of a core, and the clusters. -/
def State.restAt (s : State) (d : Nat) : Core × Table Cluster := ((s.coreAt d).rest, s.clusters)

theorem rest_of_restAt {s t : State} {d : Nat} (h : t.restAt d = s.restAt d) : (t.coreAt d).rest = (s.coreAt d).rest :=
  congrArg Prod.fst h

/-- Two cores agree in their fab port, their fabric and their windows. -/
structure FabSame (k k' : Core) : Prop where
  fabq : k'.fabq = k.fabq
  fabRun : k'.fabRun = k.fabRun
  cstore : k'.cstore = k.cstore
  cready : k'.cready = k.cready
  round : k'.round = k.round
  wins : k'.wins = k.wins
  wstore : k'.wstore = k.wstore

theorem fabSame_of_rest {k k' : Core} (h : k'.rest = k.rest) : FabSame k k' := by
  have he {α : Type} (f : Core → α) : f k'.rest = f k.rest := congrArg f h
  exact ⟨he Core.fabq, he Core.fabRun, he Core.cstore, he Core.cready, he Core.round, he Core.wins, he Core.wstore⟩

namespace FabSame

variable {k k' : Core} (h : FabSame k k')
include h

theorem image (n : Nat) : k'.image n = k.image n := by rw [Core.image, h.cstore]; rfl
theorem isReady (n : Nat) : k'.isReady n = k.isReady n := by rw [Core.isReady, h.cready]; rfl
theorem winAt (w : Nat) : k'.winAt w = k.winAt w := by rw [Core.winAt, h.wins]; rfl
theorem engRead (w o : Nat) (z : Option (BitVec 4)) : k'.engRead w o z = k.engRead w o z := by
  rw [Core.engRead, h.winAt]
  rfl

end FabSame

theorem clusterAt_of_restAt {s t : State} {d : Nat} (h : t.restAt d = s.restAt d) (cl : Nat) :
    t.clusterAt cl = s.clusterAt cl := by
  rw [State.clusterAt, show t.clusters = s.clusters from congrArg Prod.snd h]
  rfl

/-- Replacing a core by one with the same rest. -/
theorem setCore_restAt {s : State} {c : Nat} {k : Core} {d : Nat} (h : k.rest = (s.coreAt c).rest) :
    (s.setCore c k).restAt d = s.restAt d := by
  rw [State.restAt, State.restAt, coreAt_setCore]
  split
  · subst d
    rw [h]
    rfl
  · rfl

section
variable (s : State) (c d : Nat)

@[simp] theorem post_restAt (e : Instr) : (s.post e).restAt d = s.restAt d := rfl
@[simp] theorem soon_restAt (e : Instr) : (s.soon e).restAt d = s.restAt d := rfl
@[simp] theorem dropRetry_restAt (p : Party) (i : Instr) : (s.dropRetry p i).restAt d = s.restAt d := rfl
@[simp] theorem dropEdges_restAt (p : Party) : (s.dropEdges p).restAt d = s.restAt d := rfl
@[simp] theorem dropCmdEdges_restAt : (s.dropCmdEdges c).restAt d = s.restAt d := rfl
@[simp] theorem setDies_restAt (ds : Table Die) : (s.setDies ds).restAt d = s.restAt d := rfl
@[simp] theorem setSlot_restAt (t : Nat) (x : Slot) : (s.setSlot c t x).restAt d = s.restAt d := setCore_restAt rfl
@[simp] theorem wake_restAt (t : Nat) : (s.wake c t).restAt d = s.restAt d := setSlot_restAt ..

@[simp] theorem releaseClaims_restAt (h : Holder) : (s.releaseClaims h).restAt d = s.restAt d := by
  obtain ⟨ds, hd⟩ := releaseClaims_only s h
  rw [hd, setDies_restAt]

@[simp] theorem trace_restAt (r : TraceRec) : (s.trace c r).restAt d = s.restAt d := by
  unfold State.trace
  simp only []
  split
  · exact setCore_restAt rfl
  · rfl

@[simp] theorem stopSlot_restAt (t : Nat) : (s.stopSlot c t).restAt d = s.restAt d := by
  unfold State.stopSlot
  rw [setSlot_restAt]
  split <;> rfl

@[simp] theorem stopSlots_restAt (x : Option Nat) : (s.stopSlots c x).restAt d = s.restAt d :=
  foldl_keeps (State.restAt · d) _ (fun u e => by
    split
    · rfl
    · exact stopSlot_restAt ..) _ s

@[simp] theorem halt_restAt (b : BitVec 4) : (s.halt c b).restAt d = s.restAt d := by
  unfold State.halt
  simp only [dropCmdEdges_restAt, stopSlots_restAt]
  exact setCore_restAt (by simp only [Core.rest])

@[simp] theorem debugEvent_restAt (why : Nat) (site : BitVec 46) : (s.debugEvent c why site).restAt d = s.restAt d :=
  setCore_restAt (by simp only [Core.rest])

@[simp] theorem breakpoint_restAt (ev : Nat) (site : BitVec 46) : (s.breakpoint c ev site).restAt d = s.restAt d := by
  unfold State.breakpoint
  split
  · rw [debugEvent_restAt, halt_restAt]
  · rfl

@[simp] theorem startAcc_restAt (a : Acc) : (s.startAcc a).restAt d = s.restAt d := by
  unfold State.startAcc
  simp only []
  split
  · split
    · exact setCore_restAt rfl
    · rfl
  · rfl

@[simp] theorem endCommand_restAt (x : Cmd) (p : Port) (f st sl : Bool) :
    (s.endCommand c x p f st sl).restAt d = s.restAt d := by
  unfold State.endCommand
  extract_lets census s1 s2 k e s3 k2
  have h2 : s2.restAt d = s.restAt d := by rw [releaseClaims_restAt, dropEdges_restAt]
  split
  · rw [soon_restAt, ← h2]
    exact setCore_restAt rfl
  · rw [post_restAt, breakpoint_restAt, ← h2, ← trace_restAt s2 c d _]
    exact setCore_restAt rfl

end

/-! ## Ends of commands (R212, R348) -/

/-- A command that forms a census entry stands among those that have ended, as it ended (R212, R401). -/
theorem endCommand_census (s : State) (c : Nat) {x : Cmd} (p : Port) (f st sl : Bool) (hop : cmdOp x.cmd = 0x02) :
    ∃ e ∈ ((s.endCommand c x p f st sl).coreAt c).ended, e.cmd = x ∧ e.fault = f ∧ e.stop = st ∧ e.census = true := by
  unfold State.endCommand
  extract_lets census s1 s2 k e s3 k2
  have hcensus : census = true := by simp [census, hop]
  rw [if_pos hcensus]
  refine ⟨e, ?_, rfl, rfl, rfl, hcensus⟩
  show e ∈ ((s2.setCore c { k with ended := k.ended ++ [e] }).coreAt c).ended
  rw [coreAt_setCore_self]
  simp

/-- The report of a command's configuration fault stands among those its cluster holds (R345, R348). -/
def ReportsConfig (t : State) (c : Nat) (x : Cmd) (detail : Nat) : Prop :=
  ∃ e ∈ (t.clusterAt (clusterOf c)).held, e.kind = 2 ∧ e.info = 1 ∧
    e.body = [x.site.setWidth 64, BitVec.ofNat 64 detail, 0, 0] ∧ e.core = siteCore x.site

/-- A command that ends in a configuration fault is reported, and leaves the rest of its core as it was (R348). -/
theorem configFault_leaves (s : State) (c : Nat) (x : Cmd) (detail : Nat) :
    ((s.configFault c x detail).coreAt c).rest = (s.coreAt c).rest ∧
      ReportsConfig (s.configFault c x detail) c x detail := by
  let u := s.setCore c { s.coreAt c with stuck := .fab :: (s.coreAt c).stuck }
  let r : Report := ⟨2, 1, [x.site.setWidth 64, BitVec.ofNat 64 detail, 0, 0], siteCore x.site, some .fab⟩
  have hmask : winMask ((s.coreAt c).newlyPoisoned []) = 0 := by
    rw [Core.newlyPoisoned, List.filter_nil]
    decide
  have hfault : s.configFault c x detail = (u.report (clusterOf c) r).endCommand c x .fab true false false := by
    simp [State.configFault, State.failCommand, State.engineReport, State.poisonAll, hmask, u, r]
  have ht : (s.configFault c x detail).restAt c = (u.report (clusterOf c) r).restAt c := by
    rw [hfault, endCommand_restAt]
  have hu : (u.report (clusterOf c) r).coreAt c = { s.coreAt c with stuck := .fab :: (s.coreAt c).stuck } :=
    coreAt_setCore_self ..
  constructor
  · rw [rest_of_restAt ht, hu]
    rfl
  · refine ⟨r, ?_, rfl, rfl, rfl, rfl⟩
    rw [clusterAt_of_restAt ht]
    show r ∈ ((u.setCluster (clusterOf c) _).clusterAt (clusterOf c)).held
    rw [clusterAt_setCluster_self]
    simp

/-- A round that is over leaves the rest of its core as it was, without it (R188). -/
theorem dropRound_rest (s : State) (c : Nat) (r : Round) :
    ((s.dropRound c r).coreAt c).rest = { s.coreAt c with round := none }.rest := by
  let u := s.setCore c { s.coreAt c with round := none }
  have hu : (u.coreAt c).rest = { s.coreAt c with round := none }.rest := congrArg Core.rest (coreAt_setCore_self ..)
  rw [← hu]
  refine rest_of_restAt ?_
  unfold State.dropRound
  extract_lets s1 s2 scans
  split
  · rfl
  · refine (foldl_keeps (State.restAt · c) _ (fun v x => endCommand_restAt ..) _ _).trans ?_
    refine (foldl_keeps (State.restAt · c) _ (fun v x => ?_) _ _).trans rfl
    simp only []
    split
    · exact setSlot_restAt ..
    · rfl

/-! ## Starts of commands (R60, R209) -/

/-- A command that starts leaves the queue of its port, and the rest of its core as it was. -/
theorem takeHead_rest (s : State) (c : Nat) : ∃ l, ((s.takeHead c .fab).coreAt c).rest =
    { s.coreAt c with fabq := (s.coreAt c).fabq.tail, fabLast := l }.rest := by
  obtain ⟨l, h⟩ := takeHead_keeps s c (fun u => (u.coreAt c).rest)
    (fun u t => rest_of_restAt (wake_restAt u c c t)) .fab
  exact ⟨l, h.trans (congrArg Core.rest (coreAt_setCore_self ..))⟩

/-- Accesses that start one after another stand behind the others, in their order (R241). -/
theorem foldl_startAcc_accs {α : Type} (f : α → Acc) (l : List α) (s : State) :
    ∃ zs, (l.foldl (fun s i => s.startAcc (f i)) s).accs = s.accs ++ zs ∧
      zs.map (fun z => z.va) = l.map (fun i => (f i).va) ∧
      ∀ z ∈ zs, ∃ i ∈ l, z.op = (f i).op ∧ z.size = (f i).size ∧ z.holder = (f i).holder := by
  induction l generalizing s with
  | nil => exact ⟨[], by simp, rfl, fun z hz => nomatch hz⟩
  | cons i l ih =>
    obtain ⟨z, hz, hva, hsize, hop, hholder, -⟩ := startAcc_accs s (f i)
    obtain ⟨zs, hzs, hvas, hall⟩ := ih (s.startAcc (f i))
    refine ⟨z :: zs, by rw [List.foldl_cons, hzs, hz, List.append_assoc]; rfl, by simp [hva, hvas], ?_⟩
    rw [List.forall_mem_cons]
    refine ⟨⟨i, List.mem_cons_self, hop, hsize, hholder⟩, fun y hy => ?_⟩
    obtain ⟨j, hj, hy⟩ := hall y hy
    exact ⟨j, List.mem_cons_of_mem _ hj, hy⟩

/-! ## Shrinks (R23) -/

/-- A shrink changes its window and the progress count of its core. -/
theorem shrinkWin_coreAt (s : State) (c w n : Nat) (site : BitVec 46) (who : Option (Nat × Nat)) (h : n ≠ 0) :
    ∃ x v, (s.shrinkWin c w n site who).coreAt c = { (s.coreAt c).setWin w x with wdcnt := v } := by
  unfold State.shrinkWin
  rw [if_neg h]
  simp only []
  generalize hx : ({ ((s.winAt c w).enterCons who).shrinkBy n with causes := _, refillSite := site } : Win) = x
  obtain ⟨v, hv⟩ := progress_coreAt (s.setWin c w x) c c
  rw [coreAt_setWin_self] at hv
  refine ⟨x, v, ?_⟩
  split <;> exact hv

end Sys2Proof.Machine
end

section
/-! SUPPORT. Configuration images after their shape records change, and the statement about the commands of the fab port
(R188, R209, R213 to R218). -/

namespace Sys2Proof.Machine

open Sys2Proof

/-! ## Image slots (R84) -/

/-- Entries before a run that was set are as they were. -/
theorem tgets_tputs_before {α : Type} [DecidableEq α] (d : α) (m : Table α) (k j n : Nat) (vs : List α) (h : j + n ≤ k) :
    tgets d (tputs d m k vs) j n = tgets d m j n := by
  induction n generalizing j with
  | zero => rfl
  | succ n ih => rw [tgets, tgets, tget_tputs_out d m k j vs (by omega), ih (j + 1) (by omega)]

theorem isReady_setReady (k : Core) {n : Nat} (hn : n < 4) (on : Bool) : (k.setReady n on).isReady n = on :=
  vget_setIfInBounds_self false k.cready n hn on

/-- A shape record that is written into its place is read from there (R180). -/
theorem shape_tputs (st : Table Byte) (b g : Nat) (v : BitVec 256) :
    Image.shape ⟨tputs 0 st (b + 1088 + 32 * g) (bytesOf 32 v.toNat), b⟩ g = v := by
  have hread : tgets 0 (tputs 0 st (b + 1088 + 32 * g) (bytesOf 32 v.toNat)) (b + 1088 + 32 * g) 32 =
      bytesOf 32 v.toNat := by
    simpa using tgets_tputs 0 st (b + 1088 + 32 * g) (bytesOf 32 v.toNat)
  rw [Image.shape, Image.num, Image.bytes, ← Nat.add_assoc, hread, ofBytes_bytesOf]
  apply BitVec.eq_of_toNat_eq
  have := v.isLt
  rw [BitVec.toNat_ofNat]
  omega

/-- Writing a shape record changes no other byte of the images. -/
theorem tget_record_out (st : Table Byte) {n g b : Nat} {bs : List Byte} (h : bs.length = 32)
    (hb : b < n * 2048 + 1088 + 32 * g ∨ n * 2048 + 1120 + 32 * g ≤ b) :
    tget 0 (tputs 0 st (n * 2048 + 1088 + 32 * g) bs) b = tget 0 st b :=
  tget_tputs_out 0 _ _ _ _ (hb.imp_right fun h => by rw [‹bs.length = 32›]; linarith)

theorem withShape_record (m : Image) (g : Nat) {bs : List Byte} (h : bs.length = 32) :
    tgets 0 (m.withShape g bs).store (m.base + 1088 + 32 * g) 32 = bs := by
  have hread (st : Table Byte) (k : Nat) : tgets 0 (tputs 0 st k bs) k 32 = bs := h ▸ tgets_tputs 0 st k bs
  exact hread _ _

theorem fbit_eq_testBit (x i : Nat) : fbit x i = x.testBit i := (Nat.testBit_eq_decide_div_mod_eq ..).symm

/-- A generator whose shape record is set has one (R216). -/
theorem withShape_hasGen (m : Image) {g : Nat} (hg : g < 8) (bs : List Byte) : (m.withShape g bs).hasGen g = true := by
  have hword (h : Nat) : Image.word ⟨tputs 0 (tputs 0 m.store m.base (bytesOf 8 h)) (m.base + 1088 + 32 * g) bs, m.base⟩ 0 =
      h % 256 ^ 8 := by
    have hread : tgets 0 (tputs 0 m.store m.base (bytesOf 8 h)) m.base 8 = bytesOf 8 h := by
      simpa using tgets_tputs 0 m.store m.base (bytesOf 8 h)
    rw [Image.word, Image.num, Image.bytes, tgets_tputs_before _ _ _ _ _ _ (by simp; omega), Nat.add_zero, hread,
      ofBytes_bytesOf]
  unfold Image.withShape Image.hasGen
  simp only [hword, fbit_eq_testBit, show 256 ^ 8 = 2 ^ 64 from rfl, Nat.testBit_mod_two_pow,
    show 36 + g < 64 by omega, decide_true, Bool.true_and]
  split
  · assumption
  · next h =>
      rw [Nat.add_comm, Nat.testBit_two_pow_add_eq]
      simpa using h

/-! ## The round of a core -/

@[simp] theorem setRound_coreAt_self (s : State) (c : Nat) (r : Round) :
    (s.setRound c r).coreAt c = { s.coreAt c with round := some r } := coreAt_setCore_self ..

/-! ## FCFG, FRUN and FSTOP (R188, R213 to R215) -/

section
variable {s : State} {c : Nat} {x : Cmd}

/-- An image that passes the checks is ready (R213). -/
theorem checkImage_ready (h : Image.fault ((s.coreAt c).image (cf x.cmd 24 2)) = none) :
    ((s.checkImage c x).coreAt c).rest = ((s.coreAt c).setReady (cf x.cmd 24 2) true).rest := by
  simp only [State.checkImage, h]
  exact (rest_of_restAt (endCommand_restAt ..)).trans (congrArg Core.rest (coreAt_setCore_self ..))

/-- An image that fails a check is not ready, and the word that fails is reported (R85, R213). -/
theorem checkImage_faulty {o : Nat} (h : Image.fault ((s.coreAt c).image (cf x.cmd 24 2)) = some o) :
    ((s.checkImage c x).coreAt c).rest = ((s.coreAt c).setReady (cf x.cmd 24 2) false).rest ∧
      ReportsConfig (s.checkImage c x) c x o := by
  simp only [State.checkImage, h]
  obtain ⟨hrest, hreport⟩ := configFault_leaves (s.setCore c ((s.coreAt c).setReady (cf x.cmd 24 2) false)) c x o
  exact ⟨hrest.trans (congrArg Core.rest (coreAt_setCore_self ..)), hreport⟩

/-- FCFG checks the image that stands in its slot (R85, R213). -/
theorem checkImage_leaves (s : State) (c : Nat) (x : Cmd) :
    ((s.checkImage c x).coreAt c).fabq = (s.coreAt c).fabq ∧
      (((s.checkImage c x).coreAt c).isReady (cf x.cmd 24 2) = true ↔
        Image.fault ((s.coreAt c).image (cf x.cmd 24 2)) = none) ∧
      ∀ o, Image.fault ((s.coreAt c).image (cf x.cmd 24 2)) = some o → ReportsConfig (s.checkImage c x) c x o := by
  have hn : cf x.cmd 24 2 < 4 := Nat.mod_lt _ (by decide)
  have hready {t : Core} {on : Bool} (h : t.rest = ((s.coreAt c).setReady (cf x.cmd 24 2) on).rest) :
      t.isReady (cf x.cmd 24 2) = on :=
    ((fabSame_of_rest h).isReady _).trans (isReady_setReady _ hn on)
  cases hf : Image.fault ((s.coreAt c).image (cf x.cmd 24 2)) with
  | none =>
    have h := checkImage_ready hf
    exact ⟨(fabSame_of_rest h).fabq, by simp [hready h], fun o ho => nomatch ho⟩
  | some o =>
    obtain ⟨h, hreport⟩ := checkImage_faulty hf
    refine ⟨(fabSame_of_rest h).fabq, by simp [hready h], fun p hp => ?_⟩
    cases hp
    exact hreport

end

section
variable {s : State} {c : Nat} {x : Cmd} {q : List Cmd}

/-- The head of the queue starts: it leaves the queue, and the rest of its core as it was (R209). -/
theorem takeHead_head (hq : (s.coreAt c).fabq = x :: q) :
    FabSame { s.coreAt c with fabq := q } ((s.takeHead c .fab).coreAt c) := by
  obtain ⟨l, h⟩ := takeHead_rest s c
  rw [hq] at h
  obtain ⟨hfabq, hrun, hstore, hready, hround, hwins, hw⟩ := fabSame_of_rest h
  exact ⟨hfabq, hrun, hstore, hready, hround, hwins, hw⟩

/-- A command of the port starts where the port's commands start (R60, R209). -/
theorem headOf_fab {n : Nat} (hq : (s.coreAt c).fabq = x :: q) (hs : PortStarts (s.coreAt c) .fab)
    (hop : cmdOp x.cmd = n) : (s.coreAt c).headOf .fab n = some x := hop ▸ headOf_head hq hs

variable (hq : (s.coreAt c).fabq = x :: q) (hs : PortStarts (s.coreAt c) .fab)
include hq hs

/-- FCFG of the image in its slot (R213). -/
theorem exec_fcfg_check (hop : cmdOp x.cmd = 0x01) (hfree : (s.coreAt c).fabFree = true)
    (hmod : cmdMod x.cmd 0 = false) : ∃ t, exec (.fcfg c) s = .next t ∧ (t.coreAt c).fabq = q ∧
      ((t.coreAt c).isReady (cf x.cmd 24 2) = true ↔ Image.fault ((s.coreAt c).image (cf x.cmd 24 2)) = none) ∧
      ∀ o, Image.fault ((s.coreAt c).image (cf x.cmd 24 2)) = some o → ReportsConfig t c x o := by
  have hl := takeHead_head hq
  let u := s.takeHead c .fab
  let v := u.setCore c ((u.coreAt c).setReady (cf x.cmd 24 2) false)
  have hexec : exec (.fcfg c) s = .next (v.checkImage c x) := by
    show execFcfg c s = _
    simp [execFcfg, headOf_fab hq hs hop, hfree, hmod, v, u]
  have hv : v.coreAt c = (u.coreAt c).setReady (cf x.cmd 24 2) false := coreAt_setCore_self ..
  have himage : (v.coreAt c).image (cf x.cmd 24 2) = (s.coreAt c).image (cf x.cmd 24 2) := by
    rw [hv]
    exact hl.image _
  obtain ⟨hfabq, hready, hreport⟩ := checkImage_leaves v c x
  rw [himage] at hready hreport
  refine ⟨_, hexec, hfabq.trans ?_, hready, hreport⟩
  rw [hv]
  exact hl.fabq

/-- FCFG of an image in global memory asks for its bytes, 64 at a time (R213). -/
theorem exec_fcfg_read (hop : cmdOp x.cmd = 0x01) (hfree : (s.coreAt c).fabFree = true)
    (hmod : cmdMod x.cmd 0 = true) : ∃ t, exec (.fcfg c) s = .next t ∧ (t.coreAt c).fabq = q ∧
      (t.coreAt c).isReady (cf x.cmd 24 2) = false ∧ (t.coreAt c).fabRun = (s.coreAt c).fabRun ++ [x] ∧
      ∃ l, t.accs = s.accs ++ l ∧ l.map (fun a => a.va) = (List.range 32).map (fun i =>
        BitVec.ofNat 80 (cf x.cmd 32 80 + 64 * i)) ∧ ∀ a ∈ l, a.op = .load ∧ a.size = 64 ∧ a.holder = .cmd x.site := by
  have hl := takeHead_head hq
  let u := s.takeHead c .fab
  let v := u.setCore c ((u.coreAt c).setReady (cf x.cmd 24 2) false)
  let t := (List.range 32).foldl (fun s i => s.startAcc (fcfgAcc c x i)) (v.runFab c x)
  have hexec : exec (.fcfg c) s = .next t := by
    show execFcfg c s = _
    simp [execFcfg, headOf_fab hq hs hop, hfree, hmod, t, v, u]
  have ht : FabSame { (u.coreAt c).setReady (cf x.cmd 24 2) false with fabRun := (u.coreAt c).fabRun ++ [x] }
      (t.coreAt c) := by
    refine fabSame_of_rest ((rest_of_restAt (foldl_keeps (State.restAt · c) _ (fun _ _ => startAcc_restAt ..) _ _)).trans ?_)
    simp only [State.runFab, coreAt_setCore_self, v]
    rfl
  obtain ⟨zs, hzs, hvas, hall⟩ := foldl_startAcc_accs (fcfgAcc c x) (List.range 32) (v.runFab c x)
  refine ⟨t, hexec, ht.fabq.trans hl.fabq,
    (ht.isReady _).trans (isReady_setReady _ (Nat.mod_lt _ (by decide)) false),
    ht.fabRun.trans (congrArg (· ++ [x]) hl.fabRun), zs,
    hzs.trans (congrArg (· ++ zs) (takeHead_accs ..)), hvas, fun z hz => ?_⟩
  obtain ⟨i, -, hz⟩ := hall z hz
  exact hz

/-- FRUN of an image that is ready starts its round (R188, R214). -/
theorem exec_frun_ready (hop : cmdOp x.cmd = 0x02) (hfree : (s.coreAt c).fabFree = true)
    (hready : (s.coreAt c).isReady (cf x.cmd 24 2) = true) : ∃ t, exec (.frun c) s = .next t ∧ (t.coreAt c).fabq = q ∧
      (t.coreAt c).round = some (Round.start (cf x.cmd 24 2) ((s.coreAt c).image (cf x.cmd 24 2)) x) := by
  have hl := takeHead_head hq
  refine ⟨(s.takeHead c .fab).setRound c (Round.start (cf x.cmd 24 2) ((s.coreAt c).image (cf x.cmd 24 2)) x),
    ?_, ?_, ?_⟩
  · show execFrun c s = _
    simp [execFrun, headOf_fab hq hs hop, hfree, hready]
  · rw [setRound_coreAt_self]
    exact hl.fabq
  · rw [setRound_coreAt_self]

/-- FRUN of an image that is not ready ends in a configuration fault (R214). -/
theorem exec_frun_unready (hop : cmdOp x.cmd = 0x02) (hfree : (s.coreAt c).fabFree = true)
    (hready : (s.coreAt c).isReady (cf x.cmd 24 2) = false) : ∃ t, exec (.frun c) s = .next t ∧ (t.coreAt c).fabq = q ∧
      (t.coreAt c).round = (s.coreAt c).round ∧ ReportsConfig t c x 0xFFF := by
  have hl := takeHead_head hq
  obtain ⟨hrest, hreport⟩ := configFault_leaves (s.takeHead c .fab) c x 0xFFF
  refine ⟨(s.takeHead c .fab).configFault c x 0xFFF, ?_, (fabSame_of_rest hrest).fabq.trans hl.fabq,
    (fabSame_of_rest hrest).round.trans hl.round, hreport⟩
  show execFrun c s = _
  simp [execFrun, headOf_fab hq hs hop, hfree, hready]

/-- FSTOP without a round in progress (R215). -/
theorem exec_fstop_idle (hop : cmdOp x.cmd = 0x03) (hr : (s.coreAt c).round = none) :
    ∃ t, exec (.fstop c) s = .next t ∧ (t.coreAt c).fabq = q ∧ (t.coreAt c).round = none := by
  have hl := takeHead_head hq
  let u := s.takeHead c .fab
  have hur : (u.coreAt c).round = none := hl.round.trans hr
  have hexec : exec (.fstop c) s = .next (if (u.coreAt c).ended.any fun e => e.port == .fab && e.census && e.stop then
      u.runFab c x else u.endCommand c x .fab false false false) := by
    show execFstop c s = _
    simp [execFstop, headOf_fab hq hs hop, hur, u]
  refine ⟨_, hexec, ?_⟩
  split
  · rw [State.runFab, coreAt_setCore_self]
    exact ⟨hl.fabq, hur⟩
  · have h := fabSame_of_rest (rest_of_restAt (endCommand_restAt u c c x .fab false false false))
    exact ⟨h.fabq.trans hl.fabq, h.round.trans hur⟩

/-- FSTOP ends the round in progress: its FRUN ends stopped, and the FSTOP completes behind it (R215). -/
theorem exec_fstop_round (hop : cmdOp x.cmd = 0x03) {r : Round} (hr : (s.coreAt c).round = some r) :
    ∃ t, exec (.fstop c) s = .next t ∧ (t.coreAt c).fabq = q ∧ (t.coreAt c).round = none ∧
      (cmdOp r.cmd.cmd = 0x02 → x ∈ (t.coreAt c).fabRun ∧ ∃ e ∈ (t.coreAt c).ended, e.cmd = r.cmd ∧ e.stop = true) := by
  have hl := takeHead_head hq
  let u := s.takeHead c .fab
  have hur : (u.coreAt c).round = some r := hl.round.trans hr
  let v := (u.runFab c x).dropRound c r
  have hexec : exec (.fstop c) s = .next (v.endCommand c r.cmd .fab false true false) := by
    show execFstop c s = _
    simp [execFstop, headOf_fab hq hs hop, hur, v, u]
  have ht : FabSame { u.coreAt c with fabRun := (u.coreAt c).fabRun ++ [x], round := none }
      ((v.endCommand c r.cmd .fab false true false).coreAt c) := by
    refine fabSame_of_rest ((rest_of_restAt (endCommand_restAt ..)).trans ((dropRound_rest ..).trans ?_))
    rw [State.runFab, coreAt_setCore_self]
  refine ⟨_, hexec, ht.fabq.trans hl.fabq, ht.round, fun hfrun => ⟨?_, ?_⟩⟩
  · rw [ht.fabRun]
    simp
  · obtain ⟨e, he, hcmd, -, hstop, -⟩ := endCommand_census v c .fab false true false hfrun
    exact ⟨e, he, hcmd, hstop⟩

/-! ## AGSET, AGPRM and FMARK (R216 to R218) -/

/-- AGPRM changes a field of the shape record of its generator, and no other byte of the images (R217). -/
theorem exec_agprm_field (hop : cmdOp x.cmd = 0x05) (hfree : (s.coreAt c).fabFree = true)
    (hready : (s.coreAt c).isReady (cf x.cmd 28 2) = true)
    (hgen : Image.hasGen ((s.coreAt c).image (cf x.cmd 28 2)) (cf x.cmd 24 3) = true) :
    ∃ t, exec (.agprm c) s = .next t ∧ (t.coreAt c).fabq = q ∧
      Image.shape ((t.coreAt c).image (cf x.cmd 28 2)) (cf x.cmd 24 3) =
        gWrite (Image.shape ((s.coreAt c).image (cf x.cmd 28 2)) (cf x.cmd 24 3)) (cf x.cmd 16 3)
          (BitVec.ofNat 32 (cf x.cmd 32 32)) ∧
      ∀ b, b < cf x.cmd 28 2 * 2048 + 1088 + 32 * cf x.cmd 24 3 ∨
          cf x.cmd 28 2 * 2048 + 1120 + 32 * cf x.cmd 24 3 ≤ b →
        tget 0 (t.coreAt c).cstore b = tget 0 (s.coreAt c).cstore b := by
  have hl := takeHead_head hq
  let u := s.takeHead c .fab
  generalize hshape : gWrite (Image.shape ((s.coreAt c).image (cf x.cmd 28 2)) (cf x.cmd 24 3)) (cf x.cmd 16 3)
    (BitVec.ofNat 32 (cf x.cmd 32 32)) = shape
  let cs := tputs 0 (s.coreAt c).cstore (cf x.cmd 28 2 * 2048 + 1088 + 32 * cf x.cmd 24 3) (bytesOf 32 shape.toNat)
  have hexec : exec (.agprm c) s =
      .next ((u.setCore c { u.coreAt c with cstore := cs }).endCommand c x .fab false false false) := by
    show execAgprm c s = _
    simp [execAgprm, headOf_fab hq hs hop, hfree, hready, hgen, hshape, cs, u]
  have ht : FabSame { u.coreAt c with cstore := cs }
      (((u.setCore c { u.coreAt c with cstore := cs }).endCommand c x .fab false false false).coreAt c) :=
    fabSame_of_rest ((rest_of_restAt (endCommand_restAt ..)).trans (congrArg Core.rest (coreAt_setCore_self ..)))
  refine ⟨_, hexec, ht.fabq.trans hl.fabq, ?_, fun b hb => ?_⟩
  · rw [ht.image]
    exact shape_tputs ..
  · rw [ht.cstore]
    exact tget_record_out _ (bytesOf_length ..) hb

/-- FMARK without a round in progress completes (R218). -/
theorem exec_fmark_idle (hop : cmdOp x.cmd = 0x06) (hr : (s.coreAt c).round = none) :
    ∃ t, exec (.fmark c) s = .next t ∧ (t.coreAt c).fabq = q ∧ (t.coreAt c).round = none := by
  have hl := takeHead_head hq
  have hur : ((s.takeHead c .fab).coreAt c).round = none := hl.round.trans hr
  have h := fabSame_of_rest (rest_of_restAt (endCommand_restAt (s.takeHead c .fab) c c x .fab false false false))
  refine ⟨_, ?_, h.fabq.trans hl.fabq, h.round.trans hur⟩
  show execFmark c s = _
  simp [execFmark, headOf_fab hq hs hop, hur]

end

/-- A drain that begins or joins one drains the round for its FMARKs (R369, R374). -/
theorem startDrain_round {s : State} {c : Nat} {r : Round} (hr : (s.coreAt c).round = some r) (d : Drain) :
    ∃ p e, (s.startDrain c d).coreAt c = { s.coreAt c with round := some p } ∧ p.drain = some e ∧
      ∀ y ∈ d.fmark, y ∈ e.fmark := by
  unfold State.startDrain
  simp only [hr]
  split
  · exact ⟨_, _, setRound_coreAt_self .., rfl, fun y hy => List.mem_append_right _ hy⟩
  · exact ⟨_, _, setRound_coreAt_self .., rfl, fun y hy => hy⟩

/-- FMARK drains the round in progress (R218, R374). -/
theorem exec_fmark_round {s : State} {c : Nat} {x : Cmd} {q : List Cmd} (hq : (s.coreAt c).fabq = x :: q)
    (hs : PortStarts (s.coreAt c) .fab) (hop : cmdOp x.cmd = 0x06) {r : Round} (hr : (s.coreAt c).round = some r) :
    ∃ t, exec (.fmark c) s = .next t ∧ (t.coreAt c).fabq = q ∧
      ∃ p e, (t.coreAt c).round = some p ∧ p.drain = some e ∧ x ∈ e.fmark := by
  have hl := takeHead_head hq
  have hur : ((s.takeHead c .fab).coreAt c).round = some r := hl.round.trans hr
  obtain ⟨p, e, ht, hdrain, hmarks⟩ := startDrain_round hur ⟨0, [x], [], false⟩
  refine ⟨_, ?_, (congrArg Core.fabq ht).trans hl.fabq, p, e, congrArg Core.round ht, hdrain,
    hmarks x (by simp)⟩
  show execFmark c s = _
  simp [execFmark, headOf_fab hq hs hop, hur]

/-- What a command's read of an element that stands there has found of the window (R23, R29). -/
theorem engRead_ready {k : Core} {w o base : Nat} {z : BitVec 4} (h : k.engRead w o (some z) = .ready base) :
    (k.winAt w).held = false ∧ (k.winAt w).v = true ∧ (k.winAt w).esz = z ∧ k.engRead w o none = .ready base := by
  unfold Core.engRead at h ⊢
  simp only [] at h ⊢
  split at h
  · cases h
  split at h
  · cases h
  split at h
  · cases h
  next hheld hv hz =>
    have hsize : z = (k.winAt w).esz := by simpa using hz
    refine ⟨by simpa using hheld, by simpa using hv, hsize.symm, ?_⟩
    rw [if_neg hheld, if_neg hv, if_neg (by simp)]
    exact h

/-- AGSET whose element is there writes it as the shape record of its generator, and shrinks the window (R216). -/
theorem agsetRead_ready {s : State} {c : Nat} {x : Cmd} {base : Nat}
    (hread : (s.coreAt c).engRead (cmdSrcw x.cmd) 0 (some 3#4) = .ready base)
    (hmode : ((s.coreAt c).winAt (cmdSrcw x.cmd)).mode = .plain) {m : Image}
    (hm : Image.withShape ((s.coreAt c).image (cf x.cmd 28 2)) (cf x.cmd 24 3) (tgets 0 (s.coreAt c).wstore base 32) = m)
    (hfault : Image.fault m = none) : ∃ u : State,
      FabSame { s.coreAt c with fabRun := otherFab (s.coreAt c).fabRun x.site, cstore := m.store } (u.coreAt c) ∧
      s.agsetRead c x = (u.shrinkWin c (cmdSrcw x.cmd) 1 x.site (issuerOf x.site)).endCommand c x .fab false false false := by
  obtain ⟨hheld, hv, hz, hany⟩ := engRead_ready hread
  unfold State.agsetRead
  simp only [hheld, hv, hz, hmode, hany, hm, hfault]
  refine ⟨_, ?_, rfl⟩
  simp only [coreAt_setCore_self, State.useRows]
  exact ⟨rfl, rfl, rfl, rfl, rfl, rfl, rfl⟩

/-- AGSET starts, and its element is there (R209, R216). -/
theorem exec_agset_record {s : State} {c : Nat} {x : Cmd} {q : List Cmd} (hq : (s.coreAt c).fabq = x :: q)
    (hs : PortStarts (s.coreAt c) .fab) (hop : cmdOp x.cmd = 0x04) {base : Nat} (hfree : (s.coreAt c).fabFree = true)
    (hfirst : ∀ y ∈ (s.coreAt c).fabRun, cmdOp y.cmd ≠ 0x04) (hready : (s.coreAt c).isReady (cf x.cmd 28 2) = true)
    (hmode : ((s.coreAt c).winAt (cmdSrcw x.cmd)).mode = .plain)
    (hread : (s.coreAt c).engRead (cmdSrcw x.cmd) 0 (some 3#4) = .ready base)
    (hfault : Image.fault (Image.withShape ((s.coreAt c).image (cf x.cmd 28 2)) (cf x.cmd 24 3)
      (tgets 0 (s.coreAt c).wstore base 32)) = none) :
    ∃ t, exec (.agset c) s = .next t ∧ (t.coreAt c).fabq = q ∧
      tgets 0 (t.coreAt c).cstore (cf x.cmd 28 2 * 2048 + 1088 + 32 * cf x.cmd 24 3) 32 =
        tgets 0 (s.coreAt c).wstore base 32 ∧
      Image.hasGen ((t.coreAt c).image (cf x.cmd 28 2)) (cf x.cmd 24 3) = true ∧
      (t.winAt c (cmdSrcw x.cmd)).head = (s.winAt c (cmdSrcw x.cmd)).head + 1 := by
  have hl := takeHead_head hq
  let v := (s.takeHead c .fab).runFab c x
  have hv : FabSame { s.coreAt c with fabq := q, fabRun := ((s.takeHead c .fab).coreAt c).fabRun ++ [x] } (v.coreAt c) := by
    obtain ⟨hfabq, -, hstore, hrdy, hround, hwins, hw⟩ := hl
    show FabSame _ (((s.takeHead c .fab).setCore c _).coreAt c)
    rw [coreAt_setCore_self]
    exact ⟨hfabq, rfl, hstore, hrdy, hround, hwins, hw⟩
  have hnone : ((s.coreAt c).fabRun.filter fun x => decide (cmdOp x.cmd = 0x04)) = [] := by
    rw [List.filter_eq_nil_iff]
    simpa using hfirst
  have hexec : exec (.agset c) s = .next (v.agsetRead c x) := by
    show execAgset c s = _
    simp [execAgset, hnone, headOf_fab hq hs hop, hfree, hready, v]
  generalize hm : Image.withShape ((s.coreAt c).image (cf x.cmd 28 2)) (cf x.cmd 24 3)
    (tgets 0 (s.coreAt c).wstore base 32) = m at hfault
  obtain ⟨u, hu, hleft⟩ := agsetRead_ready ((hv.engRead ..).trans hread) ((congrArg Win.mode (hv.winAt _)).trans hmode)
    (by rw [hv.image, hv.wstore]; exact hm) hfault
  let t := u.shrinkWin c (cmdSrcw x.cmd) 1 x.site (issuerOf x.site)
  obtain ⟨y, n, ht⟩ := shrinkWin_coreAt u c (cmdSrcw x.cmd) 1 x.site (issuerOf x.site) one_ne_zero
  have hend : FabSame (t.coreAt c) ((t.endCommand c x .fab false false false).coreAt c) :=
    fabSame_of_rest (rest_of_restAt (endCommand_restAt ..))
  have hstore : ((t.endCommand c x .fab false false false).coreAt c).cstore = m.store :=
    hend.cstore.trans ((congrArg Core.cstore ht).trans hu.cstore)
  refine ⟨_, hexec.trans (congrArg Host.Outcome.next hleft), ?_, ?_, ?_, ?_⟩
  · exact hend.fabq.trans ((congrArg Core.fabq ht).trans (hu.fabq.trans hv.fabq))
  · rw [hstore, ← hm]
    exact withShape_record _ _ (tgets_length ..)
  · rw [Core.image, hstore, ← hm]
    exact withShape_hasGen _ (Nat.mod_lt _ (by decide)) _
  · rw [show State.winAt _ c (cmdSrcw x.cmd) = t.winAt c (cmdSrcw x.cmd) from hend.winAt _,
      (shrinkWin_shrunk ..).head, show u.winAt c (cmdSrcw x.cmd) = s.winAt c (cmdSrcw x.cmd) from
        (hu.winAt _).trans (hv.winAt _)]
    rfl

/-- Settles O45, by what each command of the port comes to where it starts. -/
theorem fabricCommands : Obligations.FabricCommands := by
  unfold Obligations.FabricCommands
  intro s c x q
  dsimp only
  intro hq hs
  refine ⟨fun hfree hop hmod => ?_, fun hfree hop hmod => ?_, fun hfree hop hready => ?_, fun hfree hop hready => ?_,
    fun hop => ?_, fun base hfree hfirst hop hready hmode hread hfault => ?_, fun hfree hop hready hgen => ?_,
    fun hop hr => ?_, fun r hop hr => ?_⟩
  · exact leaves_mem rfl (exec_fcfg_check hq hs hop hfree hmod)
  · exact leaves_mem rfl (exec_fcfg_read hq hs hop hfree hmod)
  · exact leaves_mem rfl (exec_frun_ready hq hs hop hfree hready)
  · exact leaves_mem rfl (exec_frun_unready hq hs hop hfree hready)
  · refine leaves_mem rfl ?_
    cases hr : (s.coreAt c).round with
    | none =>
      obtain ⟨t, ht, hfabq, hround⟩ := exec_fstop_idle hq hs hop hr
      exact ⟨t, ht, hfabq, hround, fun r h => nomatch h⟩
    | some r =>
      obtain ⟨t, ht, hfabq, hround, hends⟩ := exec_fstop_round hq hs hop hr
      refine ⟨t, ht, hfabq, hround, fun r' h => ?_⟩
      cases h
      exact hends
  · exact leaves_mem rfl (exec_agset_record hq hs hop hfree hfirst hready hmode hread hfault)
  · exact leaves_mem rfl (exec_agprm_field hq hs hop hfree hready hgen)
  · exact leaves_mem rfl (exec_fmark_idle hq hs hop hr)
  · exact leaves_mem rfl (exec_fmark_round hq hs hop hr)

end Sys2Proof.Machine
end

section
/-! SUPPORT. What the operations on a round read and leave of its buffers and its elements (R171 to R177). -/

namespace Sys2Proof.Machine

open Sys2Proof

section
variable (r : Round) (m : Image)

/-! ## Buffers and elements -/

theorem bufAt_setBuf (k j : Nat) (t : Option Tok) : (r.setBuf k t).bufAt j = if j = k then t else r.bufAt j :=
  tget_tput ..
@[simp] theorem bufAt_setBuf_self (k : Nat) (t : Option Tok) : (r.setBuf k t).bufAt k = t := tget_tput_self ..
theorem bufAt_setBuf_ne {k j : Nat} (t : Option Tok) (h : j ≠ k) : (r.setBuf k t).bufAt j = r.bufAt j :=
  tget_tput_ne _ _ _ _ _ h
@[simp] theorem elemAt_setBuf (k e : Nat) (t : Option Tok) : (r.setBuf k t).elemAt e = r.elemAt e := rfl

theorem elemAt_setElem (e f : Nat) (x : Elem) : (r.setElem e x).elemAt f = if f = e then x else r.elemAt f :=
  tget_tput ..
@[simp] theorem elemAt_setElem_self (e : Nat) (x : Elem) : (r.setElem e x).elemAt e = x := tget_tput_self ..
theorem elemAt_setElem_ne {e f : Nat} (x : Elem) (h : f ≠ e) : (r.setElem e x).elemAt f = r.elemAt f :=
  tget_tput_ne _ _ _ _ _ h
@[simp] theorem bufAt_setElem (e k : Nat) (x : Elem) : (r.setElem e x).bufAt k = r.bufAt k := rfl

/-- An element that is put back as it stands. -/
@[simp] theorem elemAt_setElem_same (e f : Nat) : (r.setElem e (r.elemAt e)).elemAt f = r.elemAt f := by
  rw [elemAt_setElem]
  split
  · subst f
    rfl
  · rfl

/-! ## Tokens put and taken (R173, R174) -/

theorem put_cons (k : Nat) (l : List Nat) (t : Tok) : r.put (k :: l) t = (r.setBuf k (some t)).put l t := rfl

theorem bufAt_put (l : List Nat) (t : Tok) (j : Nat) :
    (r.put l t).bufAt j = if j ∈ l then some t else r.bufAt j := by
  induction l generalizing r with
  | nil => simp [Round.put]
  | cons k l ih =>
    rw [put_cons, ih, bufAt_setBuf]
    by_cases hj : j ∈ l <;> simp [hj]

@[simp] theorem put_elems (l : List Nat) (t : Tok) : (r.put l t).elems = r.elems := by
  induction l generalizing r with
  | nil => rfl
  | cons k l ih => rw [put_cons, ih]; rfl

@[simp] theorem elemAt_put (l : List Nat) (t : Tok) (e : Nat) : (r.put l t).elemAt e = r.elemAt e := by
  rw [Round.elemAt, put_elems]
  rfl

/-- Taking a control token changes the control inputs alone (R174). -/
theorem takeCtl_only (key user : Nat) : ∃ l, r.takeCtl key user = { r with ctl := l } := by
  unfold Round.takeCtl
  split
  · exact ⟨_, rfl⟩
  · exact ⟨_, rfl⟩

variable {r} {e p : Nat} {t : Tok}

/-- A place whose buffer is filled is taken from there. -/
theorem takePlace_full (h : r.bufAt (e * 32 + p) = some t) : r.takePlace m e p = r.setBuf (e * 32 + p) none := by
  rw [Round.takePlace, h]

theorem placeTok_word {v : BitVec 32} (h : r.bufAt (e * 32 + p) = some (.w v)) : r.placeTok m e p = .tok v := by
  rw [Round.placeTok, h]

theorem placeTok_marker (h : r.bufAt (e * 32 + p) = some .m) : r.placeTok m e p = .m := by
  rw [Round.placeTok, h]

/-- What a user of a control input sees of the token there. -/
theorem ctlFor_left {key user : Nat} {z : CBuf} (hz : r.ctlAt key = some z) (hu : z.left.contains user = true) :
    r.ctlFor key user = some z.tok := by
  rw [Round.ctlFor, hz]
  exact if_pos hu

end

/-! ## Inputs of an element (R172) -/

section
variable {r : Round} {m : Image} {e k : Nat}

/-- An input that is not connected, or takes the element's credits, holds nothing. -/
theorem input_open (h : (Image.cfg m e).selOf k = 0 ∨ (Image.cfg m e).selOf k = 8) : r.input m e k = .none := by
  unfold Round.input
  exact if_pos h

variable (hlo : 1 ≤ (Image.cfg m e).selOf k) (hhi : (Image.cfg m e).selOf k ≤ 4)
include hlo hhi

/-- An input that takes words of a link shows what stands at its place. -/
theorem input_link : r.input m e k = r.placeTok m e k := by
  unfold Round.input
  simp only []
  rw [if_neg (by omega), if_neg (by omega), if_neg (by omega)]

theorem takeInput_link : r.takeInput m e k = r.takePlace m e k := by
  unfold Round.takeInput
  simp only []
  rw [if_neg (by omega), if_neg (by omega)]

end

/-! ## Results (R172) -/

section
variable (r : Round) (e f : Nat)

@[simp] theorem elemAt_push_self (l : List QItem) :
    (r.push e l).elemAt e = { r.elemAt e with q := (r.elemAt e).q ++ l } := elemAt_setElem_self ..
@[simp] theorem bufAt_push (l : List QItem) (k : Nat) : (r.push e l).bufAt k = r.bufAt k := rfl

@[simp] theorem elemAt_result_self (v : Counted) : (r.result e v).elemAt e =
    { r.elemAt e with q := (r.elemAt e).q ++ [.w (BitVec.ofNat 32 v.1)] } := elemAt_setElem_self ..
theorem elemAt_result_ne (v : Counted) (h : f ≠ e) : (r.result e v).elemAt f = r.elemAt f := elemAt_setElem_ne _ _ h
@[simp] theorem bufAt_result (v : Counted) (k : Nat) : (r.result e v).bufAt k = r.bufAt k := rfl
@[simp] theorem rows_result (v : Counted) : (r.result e v).rows = r.rows := rfl
@[simp] theorem units_result (v : Counted) : (r.result e v).units = r.units := rfl

end

end Sys2Proof.Machine
end

section
/-! SUPPORT. How an element fires where none of its inputs has ended (R172, R178, R184). -/

namespace Sys2Proof.Machine

open Sys2Proof

/-- The inputs whose tokens a firing takes, where none has ended. -/
def ElemCfg.takes (c : ElemCfg) : List Nat :=
  (List.range 3).filter fun k => decide (c.selOf k ≠ 0 ∧ c.selOf k ≠ 8)

/-- Whether an element has room for what its firing makes: its unit serves it now, or there is room for a result. -/
def Round.fires (r : Round) (m : Image) (e : Nat) : Bool :=
  if isUnitOp (Image.cfg m e).op then r.unitServes m e
  else decide ((Image.cfg m e).op = 0x2A) || (r.elemAt e).room (Image.cfg m e)

/-- The value of an input in a firing, where none has ended (R196). -/
def Round.operand (r : Round) (m : Image) (e : Nat) (free : BitVec 32) (k : Nat) : Nat :=
  if (Image.cfg m e).selOf k = 0 ∧ (opInputs (Image.cfg m e).op (Image.extOf m e)).contains k then free.toNat
  else (r.input m e k).val

section
variable {r : Round} {m : Image} {e : Nat}

/-- An element whose inputs have not ended fires as soon as they hold tokens and there is room; before, nothing
happens (R172). -/
theorem elementStep_running (free : BitVec 32) (h0 : (Image.cfg m e).op ≠ 0) (hred : isReducer (Image.cfg m e).op = false)
    (h24 : (Image.cfg m e).op ≠ 0x24) (h2A : (Image.cfg m e).op ≠ 0x2A) (h2B : (Image.cfg m e).op ≠ 0x2B)
    (hdrain : r.drain = none) (hended : (r.elemAt e).ended = [])
    (hin : ∀ k ∈ (Image.cfg m e).ends, r.input m e k ≠ .e) :
    let r0 := r.setElem e (r.elemAt e)
    r.elementStep m e free = some (
      if r0.fires m e && (Image.cfg m e).takes.all fun k => (r0.input m e k).isTok then
        ((Image.cfg m e).takes.foldl (fun r k => r.takeInput m e k) r0).fire m (Image.cfg m e) e
          (r0.operand m e free 0) (r0.operand m e free 1) (r0.operand m e free 2)
      else r0) := by
  unfold Round.elementStep
  extract_lets r0 c x ended at_ rest takeEnds _ _ _ running go hasRoom uses v
  have hat : at_ = [] := by
    rw [List.filter_eq_nil_iff]
    intro k hk
    simp [x, hended, hin k hk]
  have hno : ended = false := by simp [ended, x, hended]
  have hbusy : r.busy c e = false := by simp [Round.busy, c, h24, h2A]
  have hat_ne : ¬at_ ≠ [] := fun h => h hat
  have hrunning : running = r0 := by
    simp only [running, takeEnds, hat, List.foldl_nil]
    rw [← hended]
  rw [if_neg (by simp [c, h0, hred, hdrain]), if_neg (fun h => h24 h.1), if_neg (by simp [hbusy]),
    if_neg (by simp [hno]), if_neg h2B, if_neg (fun h => hat_ne h.1), if_neg (fun h => hat_ne h.1),
    if_neg (fun h => hat_ne h.1), if_neg (fun h => hat_ne h.1)]
  simp [Round.fires, Round.operand, ElemCfg.takes, apply_ite some, v, uses, hasRoom, go, hat, hrunning, r0, c, x]

end

end Sys2Proof.Machine
end

section
/-! SUPPORT. What the events of a round come to: generators, tokens on the move, router operators, rows, reducers,
reorder blocks (R171 to R183). -/

namespace Sys2Proof.Machine

open Sys2Proof

/-- An event leaves the round of a core as given, and changes no byte of memory, no slot and no window. -/
def Rounds (a : Instr) (s : State) (c : Nat) (r : Round) : Prop :=
  ∃ u, exec a s = .next u ∧ (u.coreAt c).round = some r ∧ u.mem = s.mem ∧ (∀ d n, u.slotAt d n = s.slotAt d n) ∧
    ∀ d n, u.winAt d n = s.winAt d n

section
variable (s : State) (c d n : Nat)

@[simp] theorem setRound_slotAt (r : Round) : (s.setRound c r).slotAt d n = s.slotAt d n := by
  rw [State.slotAt, State.setRound, coreAt_setCore]
  split
  · subst d
    rfl
  · rfl

@[simp] theorem setRound_winAt (r : Round) : (s.setRound c r).winAt d n = s.winAt d n := by
  rw [State.winAt, State.setRound, coreAt_setCore]
  split
  · subst d
    rfl
  · rfl

@[simp] theorem useRows_slotAt (a k : Nat) : (s.useRows c a k).slotAt d n = s.slotAt d n := by
  rw [State.slotAt, State.useRows, coreAt_setCore]
  split
  · subst d
    rfl
  · rfl

@[simp] theorem useRows_winAt (a k : Nat) : (s.useRows c a k).winAt d n = s.winAt d n := by
  rw [State.winAt, State.useRows, coreAt_setCore]
  split
  · subst d
    rfl
  · rfl

end

/-- An event that replaces the round in a state with the same memory, slots and windows. -/
theorem rounds_setRound {a : Instr} {s u : State} {c : Nat} {r : Round} (h : exec a s = .next (u.setRound c r))
    (hm : u.mem = s.mem) (hs : ∀ d n, u.slotAt d n = s.slotAt d n) (hw : ∀ d n, u.winAt d n = s.winAt d n) :
    Rounds a s c r :=
  ⟨_, h, by rw [setRound_coreAt_self], by rw [setRound_mem, hm], fun d n => by rw [setRound_slotAt, hs],
    fun d n => by rw [setRound_winAt, hw]⟩

/-- An event that replaces the round and nothing else. -/
theorem rounds_of_exec {a : Instr} {s : State} {c : Nat} {r : Round} (h : exec a s = .next (s.setRound c r)) :
    Rounds a s c r := rounds_setRound h rfl (fun _ _ => rfl) fun _ _ => rfl

section
variable {s : State} {c : Nat} {r : Round} {m : Image} (hr : (s.coreAt c).round = some r) (hs : r.suspended = .no)
  (hm : (s.coreAt c).image r.image = m)
include hr hs

/-- A step of a round that is not suspended (R371). -/
theorem withRound_running (k : Image → Round → State) : withRound c s k = k ((s.coreAt c).image r.image) r := by
  simp [withRound, hr, hs]

omit hs in
/-- An event that leaves the state as it is leaves the round as it is. -/
theorem rounds_of_same {a : Instr} (h : exec a s = .next s) : Rounds a s c r :=
  ⟨s, h, hr, rfl, fun _ _ => rfl, fun _ _ => rfl⟩

/-! ## Generators (R179, R181) -/

omit hr hs in
/-- A generator in a pass that has room for a reply may issue a request (R179). -/
theorem mayRequest {x : Gen} (hphase : x.phase = .running) (hpos : x.pos < gTotal x.shape)
    (hroom : (x.queue.filter fun z => z != .e && z != .m).length + x.order.length < 8) :
    ¬(x.phase ≠ .running ∨ gTotal x.shape ≤ x.pos ∨
      8 ≤ (x.queue.filter fun z => z != .e && z != .m).length + x.order.length) := by
  rw [not_or, not_or, not_not]
  exact ⟨hphase, by omega, by omega⟩

section
variable {g : Nat}

/-- A generator begins a pass with the token at its parameter port (R181). -/
theorem rounds_generatorPassStart {v : BitVec 32} (hphase : (r.genAt g).phase = .waitParam)
    (hbuf : r.bufAt (2048 + g) = some (.w v))
    (htotal : gTotal (gWrite (r.genAt g).shape (gPsel (r.genAt g).shape) v) ≠ 0) :
    Rounds (.generatorPassStart c g) s c ((r.setBuf (2048 + g) none).setGen g { r.genAt g with
      shape := gWrite (r.genAt g).shape (gPsel (r.genAt g).shape) v, pos := 0, phase := .running }) := by
  refine rounds_of_exec ?_
  show execGeneratorPassStart c g s = _
  simp [execGeneratorPassStart, withRound_running hr hs, hphase, hbuf, htotal]

variable (hstop : (r.genAt g).stopped = false) (hphase : (r.genAt g).phase = .running)
  (hroom : ((r.genAt g).queue.filter fun z => z != .e && z != .m).length + (r.genAt g).order.length < 8)
include hstop hphase hroom

/-- A generator that reads a window puts the element's word behind its queue (R179). -/
theorem rounds_generatorRequest {base : Nat} (hpos : (r.genAt g).pos + 1 < gTotal (r.genAt g).shape)
    (hkind : gKind (r.genAt g).shape = 0)
    (hread : (s.coreAt c).engRead (gWin (r.genAt g).shape)
      ((gBase (r.genAt g).shape % 2 ^ 32 + gStep (r.genAt g).shape (r.genAt g).pos) % 2 ^ 32).toNat (some 0#4) =
        .ready base) :
    Rounds (.generatorRequest c g) s c (r.setGen g { r.genAt g with
      queue := (r.genAt g).queue ++ [.w (BitVec.ofNat 32 (ofBytes (tgets 0 (s.coreAt c).wstore base 4)))]
      pos := (r.genAt g).pos + 1 }) := by
  refine rounds_setRound (u := (s.dropRetry (.cmd r.cmd.site) (.generatorRequest c g)).useRows c base 4) ?_ (by simp)
    (fun d n => by rw [useRows_slotAt]; rfl) (fun d n => by rw [useRows_winAt]; rfl)
  have hgo := mayRequest hphase (by omega : (r.genAt g).pos < gTotal (r.genAt g).shape) hroom
  show execGeneratorRequest c g s = _
  unfold execGeneratorRequest
  rw [withRound_running hr hs]
  have hoffset : (((gBase (r.genAt g).shape % 2 ^ 32 : Nat) + gStep (r.genAt g).shape (r.genAt g).pos) %
      (2 ^ 32 : Nat) : Int) =
        (gBase (r.genAt g).shape % 2 ^ 32 + gStep (r.genAt g).shape (r.genAt g).pos) % 2 ^ 32 := by
    push_cast
    rfl
  simp only [hstop, hgo, hkind, hoffset, hread, show ¬gTotal (r.genAt g).shape ≤ (r.genAt g).pos + 1 by omega]
  simp [hphase]

/-- A generator that reads global memory starts an access of four bytes (R179). -/
theorem exec_generatorRequest_global (hpos : (r.genAt g).pos < gTotal (r.genAt g).shape)
    (hkind : gKind (r.genAt g).shape ≠ 0)
    (halign : (BitVec.ofInt 80 (gBase (r.genAt g).shape + gStep (r.genAt g).shape (r.genAt g).pos)).toNat % 4 = 0) :
    ∃ u z, exec (.generatorRequest c g) s = .next u ∧ u.accs = s.accs ++ [z] ∧ z.op = .load ∧ z.size = 4 ∧
      z.va = BitVec.ofInt 80 (gBase (r.genAt g).shape + gStep (r.genAt g).shape (r.genAt g).pos) ∧
      z.holder = .cmd r.cmd.site ∧ z.dest = .generator g ((r.genAt g).firstTag + (r.genAt g).order.length) ∧
      u.mem = s.mem := by
  let a := genAcc c g r.cmd.site (BitVec.ofInt 80 (gBase (r.genAt g).shape + gStep (r.genAt g).shape (r.genAt g).pos))
    ((r.genAt g).firstTag + (r.genAt g).order.length)
  let r' := r.setGen g { r.genAt g with order := (r.genAt g).order ++ [none], pos := (r.genAt g).pos + 1 }
  have hgo := mayRequest hphase hpos hroom
  have haligned : aligned (BitVec.ofInt 80 (gBase (r.genAt g).shape + gStep (r.genAt g).shape (r.genAt g).pos)).toNat 4 =
      true := by simp only [aligned, halign, decide_true]
  have hexec : exec (.generatorRequest c g) s = .next ((s.setRound c r').startAcc a) := by
    show execGeneratorRequest c g s = _
    unfold execGeneratorRequest
    rw [withRound_running hr hs]
    simp only [hstop, hgo, hkind, haligned]
    simp [hphase, hstop, a, r']
  obtain ⟨z, hacc, hva, hsize, hop, hholder, hdest⟩ := startAcc_accs (s.setRound c r') a
  exact ⟨_, z, hexec, hacc, hop, hsize, hva, hholder, hdest, by simp⟩

end

include hm

/-- The head of a generator's queue moves to its element (R170, R179). -/
theorem rounds_generatorReply {g : Nat} {t : Tok} {q : List Tok} (hq : (r.genAt g).queue = t :: q) (ht : t ≠ .e)
    (hroom : r.roomAll m (Image.wordIn m (2 * g) 0) = true) :
    Rounds (.generatorReply c g) s c ((r.setGen g { r.genAt g with queue := q }).put
      (Image.wordIn m (2 * g) 0) t) := by
  refine rounds_of_exec ?_
  show execGeneratorReply c g s = _
  unfold execGeneratorReply
  rw [withRound_running hr hs, hm]
  simp only [hq]
  cases t with
  | e => exact absurd rfl ht
  | w v | c v src | m => simp [hroom]

/-! ## Tokens on the move (R171, R173) -/

section
variable {e : Nat}

/-- A pass-through sends its token on (R171). -/
theorem rounds_tokenHop_pass {o : Nat} {t : Tok} (ho : o < 4) (hbuf : r.bufAt (e * 32 + 9 + o) = some t)
    (hroom : r.roomAll m (Image.wordOut m e o) = true) :
    Rounds (.tokenHop c e (o + 1)) s c ((r.setBuf (e * 32 + 9 + o) none).put
      (Image.wordOut m e o) t) := by
  refine rounds_of_exec ?_
  show execTokenHop c e (o + 1) s = _
  unfold execTokenHop
  rw [withRound_running hr hs, hm]
  simp [State.passHop, hbuf, hroom, show o + 1 ≤ 4 by omega]

/-- The queue's head leaves an element by its fork, whose branches all have room (R173). -/
theorem rounds_tokenHop_fork {v : BitVec 32} {q : List QItem} (hq : (r.elemAt e).q = .w v :: q)
    (hlane : Image.toLane m e = false)
    (hunit : isUnitOp (Image.cfg m e).op = false)
    (hroom : r.roomAll m (Image.fork m e ++
      Image.feedback m e) = true) :
    Rounds (.tokenHop c e 0) s c ((r.setElem e { r.elemAt e with q := q }).put
      (Image.fork m e ++ Image.feedback m e) (.w v)) := by
  refine rounds_of_exec ?_
  show execTokenHop c e 0 s = _
  unfold execTokenHop
  rw [withRound_running hr hs, hm]
  simp [State.forkHop, Round.forkReady, Round.forkOut, hq, hlane, hunit, hroom]

end

/-! ## Router operators (R176) -/

section
variable {e : Nat} {v : BitVec 32} {b : Bool} {z : CBuf}

/-- A steer passes its word to the output that its control names (R176). -/
theorem rounds_steer (hon : rtSti (Image.router m e) ≠ 0)
    (hbuf : r.bufAt (e * 32 + 3) = some (.w v))
    (hz : r.ctlAt (e * 4 + rtStc (Image.router m e)) = some z) (hb : z.tok = .bit b)
    (hleft : z.left.contains 4 = true)
    (hroom : r.roomAll m (Image.readers m e (if b then 7 else 6)) =
      true) :
    Rounds (.routerOperatorFire c e .steer) s c (((r.setBuf (e * 32 + 3) none).takeCtl
      (e * 4 + rtStc (Image.router m e)) 4).put
        (Image.readers m e (if b then 7 else 6)) (.w v)) := by
  refine rounds_of_exec ?_
  show execRouterOperatorFire c e .steer s = _
  unfold execRouterOperatorFire
  rw [withRound_running hr hs, hm]
  simp only [hon, if_false, Round.steer, placeTok_word _ hbuf, takePlace_full _ hbuf, ctlFor_left hz hleft, hb, hroom,
    if_true]

/-- A merge passes on the word of the input that its control names (R176). -/
theorem rounds_merge (hon : rtMga (Image.router m e) ≠ 0) (hdisc : (r.elemAt e).mdisc = [])
    (hbuf : r.bufAt (e * 32 + if b then 6 else 5) = some (.w v))
    (hz : r.ctlAt (e * 4 + rtMgc (Image.router m e)) = some z) (hb : z.tok = .bit b)
    (hleft : z.left.contains 7 = true)
    (hroom : r.roomAll m (Image.readers m e 8) = true) :
    Rounds (.routerOperatorFire c e .merge) s c (((r.setBuf (e * 32 + if b then 6 else 5) none).takeCtl
      (e * 4 + rtMgc (Image.router m e)) 7).put
        (Image.readers m e 8) (.w v)) := by
  refine rounds_of_exec ?_
  show execRouterOperatorFire c e .merge s = _
  unfold execRouterOperatorFire
  rw [withRound_running hr hs, hm]
  simp only [hon, if_false, Round.merge, hdisc, placeTok_word _ hbuf, takePlace_full _ hbuf, ctlFor_left hz hleft, hb,
    hroom, if_true]

variable (hon : rtCyi (Image.router m e) ≠ 0)
  (hroom : r.roomAll m (Image.readers m e 9) = true)
include hon hroom

/-- A carry that is armed emits its constant (R176). -/
theorem rounds_carry_armed (harmed : (r.elemAt e).armed = true) :
    Rounds (.routerOperatorFire c e .carry) s c ((r.put (Image.readers m e 9)
      (.c (BitVec.ofNat 32 (Image.cfg m e).konst) e)).setElem e
        { r.elemAt e with armed := false, fresh := true }) := by
  refine rounds_of_exec ?_
  show execRouterOperatorFire c e .carry s = _
  unfold execRouterOperatorFire
  rw [withRound_running hr hs, hm]
  simp [hon, Round.carry, harmed, hroom]

/-- A carry that has emitted its constant passes words on (R176). -/
theorem rounds_carry_word (harmed : (r.elemAt e).armed = false) (hbuf : r.bufAt (e * 32 + 8) = some (.w v)) :
    Rounds (.routerOperatorFire c e .carry) s c (((r.setBuf (e * 32 + 8) none).put
      (Image.readers m e 9) (.w v)).setElem e { r.elemAt e with fresh := false }) := by
  refine rounds_of_exec ?_
  show execRouterOperatorFire c e .carry s = _
  unfold execRouterOperatorFire
  rw [withRound_running hr hs, hm]
  simp [hon, Round.carry, harmed, placeTok_word _ hbuf, takePlace_full _ hbuf, hroom]

end

end

end Sys2Proof.Machine
end

section
/-! SUPPORT. What the rows, reducers, reorder blocks and elements of a round take and leave (R172, R175, R182 to R184,
R204). -/

namespace Sys2Proof.Machine

open Sys2Proof

@[simp] theorem isTok_tok (v : BitVec 32) : (InTok.tok v).isTok = true := rfl
@[simp] theorem val_tok (v : BitVec 32) : (InTok.tok v).val = v.toNat := rfl
@[simp] theorem isTok_none : InTok.none.isTok = false := rfl
@[simp] theorem val_none : InTok.none.val = 0 := rfl

/-! ## The fork of an element (R173) -/

section
variable {r : Round} {m : Image} {e : Nat} {v : BitVec 32} {z : List QItem}

theorem forkReady_word (hq : (r.elemAt e).q = .w v :: z) :
    r.forkReady m e = r.roomAll m (Image.fork m e ++ Image.feedback m e) := by
  rw [Round.forkReady, hq]

/-- A word that leaves by the fork fills each of its branches, and goes from the queue. -/
theorem forkOut_word (hq : (r.elemAt e).q = .w v :: z) : ((r.forkOut m e).elemAt e).q = z ∧
    ∀ p, (r.forkOut m e).bufAt p =
      if p ∈ Image.fork m e ++ Image.feedback m e then some (.w v) else r.bufAt p := by
  rw [Round.forkOut, hq]
  exact ⟨by rw [elemAt_put, elemAt_setElem_self], fun p => bufAt_put _ _ _ p⟩

end

/-! ## Events of rows, reducers, reorder blocks and units -/

section
variable {s : State} {c : Nat} {r : Round} {m : Image} (hr : (s.coreAt c).round = some r) (hs : r.suspended = .no)
  (hm : (s.coreAt c).image r.image = m)
include hr hs hm

section
variable {i : Nat} {v : BitVec 32} {z : List QItem} (hlanes : Image.lanesOf m i = [0])
  (hlane : Image.toLane m (16 * i) = true) (hq : (r.elemAt (16 * i)).q = .w v :: z)
include hlanes hlane hq

/-- A row word of one lane moves down, and its element's result enters the other branches of its fork in the same tick
(R173, R175). -/
theorem rounds_rowWordMove
    (hroom : r.roomAll m (Image.fork m (16 * i) ++ Image.feedback m (16 * i)) = true)
    (hempty : tget none r.rows (i + 1) = none) (husers : Image.rowUsers m (i + 1) ≠ []) :
    ∃ r', Rounds (.rowWordMove c i) s c r' ∧ (r'.elemAt (16 * i)).q = z ∧
      tget none r'.rows (i + 1) = some ⟨.w 0, some v :: List.replicate 15 none, Image.rowUsers m (i + 1)⟩ ∧
      (∀ p ∈ Image.fork m (16 * i) ++ Image.feedback m (16 * i), r'.bufAt p = some (.w v)) ∧
      ∀ p, p ∉ Image.fork m (16 * i) ++ Image.feedback m (16 * i) → r'.bufAt p = r.bufAt p := by
  have htok : r.laneTok m i 0 = .tok v := by
    rw [Round.laneTok]
    simp [hlane, forkReady_word hq, hroom, hq]
  have hnone : ¬((Image.rowUsers m (i + 1)).isEmpty = true) := by simpa using husers
  obtain ⟨hqueue, hbufs⟩ := forkOut_word (m := m) hq
  let word : RowBuf := ⟨.w 0, some v :: List.replicate 15 none, Image.rowUsers m (i + 1)⟩
  refine ⟨{ r.forkOut m (16 * i) with rows := tput none (r.forkOut m (16 * i)).rows (i + 1) (some word) },
    rounds_of_exec ?_, hqueue, tget_tput_self none _ (i + 1) (some word),
    fun p hp => (hbufs p).trans (if_pos hp), fun p hp => (hbufs p).trans (if_neg hp)⟩
  show execRowWordMove c i s = _
  unfold execRowWordMove
  rw [withRound_running hr hs, hm]
  simp only [hlanes, List.map_cons, List.map_nil, htok]
  simp [State.moveRow, hempty, hlane, hnone]
  rfl

/-- A result whose branches have no room stays in its queue, and its row word does not move (R173, R175). -/
theorem rounds_rowWordMove_blocked
    (hroom : r.roomAll m (Image.fork m (16 * i) ++ Image.feedback m (16 * i)) = false) :
    Rounds (.rowWordMove c i) s c r ∧ Rounds (.tokenHop c (16 * i) 0) s c r := by
  have htok : r.laneTok m i 0 = .none := by
    rw [Round.laneTok]
    simp [hlane, forkReady_word hq, hroom]
  constructor
  · refine rounds_of_same hr ?_
    show execRowWordMove c i s = _
    unfold execRowWordMove
    rw [withRound_running hr hs, hm]
    simp [hlanes, htok, State.moveRow]
  · refine rounds_of_same hr ?_
    show execTokenHop c (16 * i) 0 s = _
    unfold execTokenHop
    rw [withRound_running hr hs, hm]
    simp [State.forkHop, hq, hlane]

end

/-- A reducer takes its row word and puts what it comes to behind its fork (R183, R208). -/
theorem rounds_reducerFire {i : Nat} {z : RowBuf} (hz : tget none r.rows i = some z) (hkind : z.kind = .w 0)
    (hleft : z.left = [100]) (hroom : (r.elemAt (16 * i + 15)).room (Image.cfg m (16 * i + 15)) = true) :
    ∃ r', Rounds (.reducerFire c i) s c r' ∧ tget none r'.rows i = none ∧ (r'.elemAt (16 * i + 15)).q =
      (r.elemAt (16 * i + 15)).q ++ [.w (BitVec.ofNat 32 (redResult (Image.cfg m (16 * i + 15)) z.lanes).1)] := by
  have htake : r.takeRow i 100 = { r with rows := tput none r.rows i none } := by
    rw [Round.takeRow, hz]
    simp [hleft]
  refine ⟨(r.takeRow i 100).result (16 * i + 15) (redResult (Image.cfg m (16 * i + 15)) z.lanes), rounds_of_exec ?_,
    ?_, ?_⟩
  · show execReducerFire c i s = _
    unfold execReducerFire
    rw [withRound_running hr hs, hm]
    simp only [hz, hleft, hkind, hroom]
    rfl
  · rw [rows_result, htake]
    exact tget_tput_self none r.rows i none
  · rw [elemAt_result_self, htake]
    rfl

/-- A full reorder block puts its next token behind its element's fork (R182). -/
theorem rounds_reordBlockEmit {g i : Nat} (hnext : (r.reordAt g).next = some i)
    (hroom : (r.elemAt (2 * g)).room (Image.cfg m (2 * g)) = true) :
    ∃ r', Rounds (.reordBlockEmit c g) s c r' ∧ (r'.elemAt (2 * g)).q = (r.elemAt (2 * g)).q ++
      [.w ((r.reordAt g).block.getD ((reordMap (Image.extOf m (2 * g))).getD i 0) 0)] := by
  refine ⟨(r.push (2 * g) [.w ((r.reordAt g).block.getD ((reordMap (Image.extOf m (2 * g))).getD i 0) 0)]).setReord g
    (if (reordMap (Image.extOf m (2 * g))).length ≤ i + 1 then Reord.init else
      { r.reordAt g with next := some (i + 1) }), rounds_of_exec ?_, congrArg Elem.q (elemAt_push_self ..)⟩
  show execReordBlockEmit c g s = _
  unfold execReordBlockEmit
  rw [withRound_running hr hs, hm]
  simp [hnext, hroom]

/-- The oldest reply of an element's unit goes behind its fork (R184, R204). -/
theorem rounds_unitReply {e : Nat} {v : BitVec 32} {z : List (Nat × BitVec 32)} (hunits : r.units = (e, v) :: z) :
    ∃ r', Rounds (.unitReply c e) s c r' ∧ r'.units = z ∧ (r'.elemAt e).q = (r.elemAt e).q ++
      [.w (BitVec.ofNat 32 (unitResult (Image.cfg m e).op v.toNat).1)] := by
  have hreply : r.unitReply m e = { r with units := z }.result e (unitResult (Image.cfg m e).op v.toNat) := by
    simp [Round.unitReply, hunits]
  refine ⟨r.unitReply m e, rounds_of_exec ?_, ?_, ?_⟩
  · show execUnitReply c e s = _
    rw [execUnitReply, withRound_running hr hs, hm]
  · rw [hreply, units_result]
  · rw [hreply, elemAt_result_self]
    rfl

/-! ## Elements (R172, R184) -/

/-- An element's step leaves the round that the step comes to, whatever value an open input has. -/
theorem rounds_elementFire {e : Nat} {r' : Round} (h : ∀ free, r.elementStep m e free = some r') :
    Rounds (.elementFire c e) s c r' := by
  refine rounds_setRound (u := (if (opInputs (Image.cfg m e).op (Image.extOf m e)).any fun k =>
    decide ((Image.cfg m e).selOf k = 0) then s.freeBelow (2 ^ 32) else (0, s)).2) ?_ ?_ ?_ ?_
  · show execElementFire c e s = _
    rw [execElementFire, withRound_running hr hs, hm]
    simp only [h]
  all_goals split <;> intros <;> rfl

end

section
variable {r : Round} {m : Image} {e : Nat}

/-- An operation that keeps no state, sends no control and is no unit's puts its result behind the fork (R196). -/
theorem fire_plain {c : ElemCfg} {a b d : Nat}
    (hops : ∀ z ∈ [0x00, 0x0A, 0x15, 0x16, 0x17, 0x18, 0x19, 0x23, 0x24, 0x2A, 0x2B, 0x2C], c.op ≠ z)
    (hunit : isUnitOp c.op = false) :
    r.fire m c e a b d = r.result e (opResult c (Image.extOf m e) a b d) := by
  simp only [List.forall_mem_cons] at hops
  obtain ⟨-, h0A, h15, h16, h17, h18, h19, h23, h24, h2A, -, h2C, -⟩ := hops
  simp [Round.fire, h0A, h15, h16, h17, h18, h19, h23, h24, h2A, h2C, hunit]

/-- A unit operation sends its request: it takes a credit, and the unit has served its column in this tick (R184). -/
theorem fire_unit {c : ElemCfg} {a b d : Nat} (hunit : isUnitOp c.op = true) : r.fire m c e a b d =
    { r.setElem e { r.elemAt e with credits := (r.elemAt e).credits + 1 } with
      units := r.units ++ [(e, BitVec.ofNat 32 a)]
      served := e % 16 :: r.served
      unitLast := tput 3 r.unitLast (e % 16) (e / 16) } := by
  have hop : 0x1B ≤ c.op ∧ c.op ≤ 0x1F := by simpa [isUnitOp] using hunit
  unfold Round.fire
  simp only []
  rw [if_neg (by omega), if_neg (by omega), if_neg (by omega), if_neg (by omega), if_neg (by omega),
    if_neg (by omega), if_neg (by omega), if_neg (by omega), if_pos hunit]

/-- What an element's unit serves does not change when the element is put back as it stands. -/
theorem unitServes_setElem_same (f : Nat) : (r.setElem f (r.elemAt f)).unitServes m e = r.unitServes m e := by
  have hwants (x : Nat) : (r.setElem f (r.elemAt f)).unitWants m x = r.unitWants m x := by
    simp only [Round.unitWants, elemAt_setElem_same]
    rfl
  simp only [Round.unitServes, hwants]
  rfl

/-- An element of two operands that stand at links takes both and puts their result behind its fork (R172, R196). -/
theorem elementStep_two {v w : BitVec 32} {free : BitVec 32}
    (hops : ∀ z ∈ [0x00, 0x0A, 0x15, 0x16, 0x17, 0x18, 0x19, 0x23, 0x24, 0x2A, 0x2B, 0x2C], (Image.cfg m e).op ≠ z)
    (hunit : isUnitOp (Image.cfg m e).op = false) (hred : isReducer (Image.cfg m e).op = false)
    (huses : opInputs (Image.cfg m e).op (Image.extOf m e) = [0, 1])
    (hlo0 : 1 ≤ (Image.cfg m e).selOf 0) (hhi0 : (Image.cfg m e).selOf 0 ≤ 4)
    (hlo1 : 1 ≤ (Image.cfg m e).selOf 1) (hhi1 : (Image.cfg m e).selOf 1 ≤ 4) (h2 : (Image.cfg m e).selOf 2 = 0)
    (hended : (r.elemAt e).ended = []) (hroom : (r.elemAt e).room (Image.cfg m e) = true) (hdrain : r.drain = none)
    (hv : r.bufAt (e * 32) = some (.w v)) (hw : r.bufAt (e * 32 + 1) = some (.w w)) :
    r.elementStep m e free = some ((((r.setElem e (r.elemAt e)).setBuf (e * 32) none).setBuf (e * 32 + 1) none).result e
      (opResult (Image.cfg m e) (Image.extOf m e) v.toNat w.toNat 0)) := by
  generalize hr0 : r.setElem e (r.elemAt e) = r0
  have hin0 : r0.input m e 0 = .tok v := by
    rw [← hr0, input_link hlo0 hhi0]
    exact placeTok_word m hv
  have hin1 : r0.input m e 1 = .tok w := by
    rw [← hr0, input_link hlo1 hhi1]
    exact placeTok_word m hw
  have hin2 : r0.input m e 2 = .none := input_open (.inl h2)
  have htakes : (Image.cfg m e).takes = [0, 1] := by
    simp [ElemCfg.takes, List.range_succ, h2, show (Image.cfg m e).selOf 0 ≠ 0 by omega,
      show (Image.cfg m e).selOf 0 ≠ 8 by omega, show (Image.cfg m e).selOf 1 ≠ 0 by omega,
      show (Image.cfg m e).selOf 1 ≠ 8 by omega]
  have hin (k : Nat) (hk : k ∈ (Image.cfg m e).ends) : r.input m e k ≠ .e := by
    have hk3 : k < 3 := List.mem_range.mp (List.mem_of_mem_filter hk)
    have hsame : r.input m e k = r0.input m e k := by rw [← hr0]; rfl
    rw [hsame]
    interval_cases k
    · simp [hin0]
    · simp [hin1]
    · simp [hin2]
  have hfires : r0.fires m e = true := by
    have he : r0.elemAt e = r.elemAt e := by rw [← hr0, elemAt_setElem_self]
    simp [Round.fires, hunit, he, hroom]
  have hne := hops
  simp only [List.forall_mem_cons] at hne
  obtain ⟨h0, -, -, -, -, -, -, -, h24, h2A, h2B, -, -⟩ := hne
  rw [elementStep_running free h0 hred h24 h2A h2B hdrain hended hin, hr0]
  have hv0 : r0.bufAt (e * 32 + 0) = some (.w v) := hr0 ▸ hv
  have hw0 : (r0.setBuf (e * 32 + 0) none).bufAt (e * 32 + 1) = some (.w w) := by
    rw [bufAt_setBuf_ne _ _ (by omega), ← hr0]
    exact hw
  have htake : (r0.takeInput m e 0).takeInput m e 1 = (r0.setBuf (e * 32) none).setBuf (e * 32 + 1) none := by
    rw [takeInput_link hlo0 hhi0, takeInput_link hlo1 hhi1, takePlace_full m hv0, takePlace_full m hw0]
    rfl
  simp [hfires, htakes, hin0, hin1, hin2, htake, Round.operand, huses, h2, fire_plain hops hunit,
    show (Image.cfg m e).selOf 0 ≠ 0 by omega, show (Image.cfg m e).selOf 1 ≠ 0 by omega]

/-- A unit operation whose operand stands at a link sends its request as soon as the unit serves it (R184). -/
theorem elementStep_unit {v : BitVec 32} (free : BitVec 32) (hunit : isUnitOp (Image.cfg m e).op = true)
    (hlo0 : 1 ≤ (Image.cfg m e).selOf 0) (hhi0 : (Image.cfg m e).selOf 0 ≤ 4) (h1 : (Image.cfg m e).selOf 1 = 0)
    (h2 : (Image.cfg m e).selOf 2 = 8) (hended : (r.elemAt e).ended = []) (hdrain : r.drain = none)
    (hv : r.bufAt (e * 32) = some (.w v)) :
    let r0 := r.setElem e (r.elemAt e)
    r.elementStep m e free = some (if r.unitServes m e then
      { (r0.setBuf (e * 32) none).setElem e { r.elemAt e with credits := (r.elemAt e).credits + 1 } with
        units := r.units ++ [(e, v)]
        served := e % 16 :: r.served
        unitLast := tput 3 r.unitLast (e % 16) (e / 16) } else r0) := by
  have hop : 0x1B ≤ (Image.cfg m e).op ∧ (Image.cfg m e).op ≤ 0x1F := by simpa [isUnitOp] using hunit
  have hred : isReducer (Image.cfg m e).op = false := by simp [isReducer]; omega
  have hserves := unitServes_setElem_same (r := r) (m := m) (e := e) e
  intro r0
  have he : r0.elemAt e = r.elemAt e := elemAt_setElem_self ..
  have hin0 : r0.input m e 0 = .tok v := (input_link hlo0 hhi0).trans (placeTok_word m hv)
  have hin (k : Nat) (hk : k ∈ (Image.cfg m e).ends) : r.input m e k ≠ .e := by
    have hk3 : k < 3 := List.mem_range.mp (List.mem_of_mem_filter hk)
    interval_cases k
    · simp [show r.input m e 0 = .tok v from hin0]
    · simp [input_open (.inl h1)]
    · simp [input_open (.inr h2)]
  have htakes : (Image.cfg m e).takes = [0] := by
    simp [ElemCfg.takes, List.range_succ, h1, h2, show (Image.cfg m e).selOf 0 ≠ 0 by omega,
      show (Image.cfg m e).selOf 0 ≠ 8 by omega]
  have hfires : r0.fires m e = r.unitServes m e := (if_pos hunit).trans hserves
  have htake : r0.takeInput m e 0 = r0.setBuf (e * 32) none :=
    (takeInput_link hlo0 hhi0).trans (takePlace_full m hv)
  rw [elementStep_running free (by omega) hred (by omega) (by omega) (by omega) hdrain hended hin]
  simp [hfires, htakes, hin0, htake, Round.operand, fire_unit hunit, he, r0,
    show (Image.cfg m e).selOf 0 ≠ 0 by omega]
  rfl

/-- What an element of two operands leaves of the other elements and buffers (R172). -/
theorem two_leaves (v : Counted) :
    let r' := (((r.setElem e (r.elemAt e)).setBuf (e * 32) none).setBuf (e * 32 + 1) none).result e v
    (r'.elemAt e).q = (r.elemAt e).q ++ [.w (BitVec.ofNat 32 v.1)] ∧ r'.bufAt (e * 32) = none ∧
      r'.bufAt (e * 32 + 1) = none ∧ (∀ z, z ≠ e → r'.elemAt z = r.elemAt z) ∧
      ∀ z, z ≠ e * 32 → z ≠ e * 32 + 1 → r'.bufAt z = r.bufAt z := by
  refine ⟨?_, ?_, ?_, fun z hz => ?_, fun z h0 h1 => ?_⟩
  · simp
  · rw [bufAt_result, bufAt_setBuf_ne _ _ (by omega), bufAt_setBuf_self]
  · rw [bufAt_result, bufAt_setBuf_self]
  · rw [elemAt_result_ne _ _ _ _ hz, elemAt_setBuf, elemAt_setBuf, elemAt_setElem_same]
  · rw [bufAt_result, bufAt_setBuf_ne _ _ h1, bufAt_setBuf_ne _ _ h0, bufAt_setElem]

/-- What a unit operation leaves once its unit has served it (R184). -/
theorem unit_leaves (v : BitVec 32) (last : Table Nat) :
    let r' := { ((r.setElem e (r.elemAt e)).setBuf (e * 32) none).setElem e
        { r.elemAt e with credits := (r.elemAt e).credits + 1 } with
      units := r.units ++ [(e, v)], served := e % 16 :: r.served, unitLast := last }
    r'.units = r.units ++ [(e, v)] ∧ (r'.elemAt e).credits = (r.elemAt e).credits + 1 ∧ r'.bufAt (e * 32) = none ∧
      r'.unitServes m e = false := by
  refine ⟨rfl, congrArg Elem.credits (elemAt_setElem_self ..),
    bufAt_setBuf_self (r.setElem e (r.elemAt e)) (e * 32) none, ?_⟩
  simp [Round.unitServes]

end

end Sys2Proof.Machine
end

section
/-! SUPPORT. Sinks, the end of a round and its draining, and the statement about the tokens of a round (R171 to R188,
R204, R369 to R372). -/

namespace Sys2Proof.Machine

open Sys2Proof

/-! ## Sinks (R186) -/

/-- A fill into the store of a plain window that no binding names leaves the round of its core (R23, R150). -/
theorem fillWin_round {s : State} {c w : Nat} (bs : List Byte) (site : BitVec 46) (who : Option (Nat × Nat))
    (hm : (s.winAt c w).mode = .plain) (hx : (s.winAt c w).fillsStore = true) (hu : Unwatched (s.coreAt c) w) :
    ((s.fillWin c w bs site who).coreAt c).round = (s.coreAt c).round := by
  let u := s.setWin c w ((s.winAt c w).enterProd who)
  have hstore : (u.winAt c w).fillsStore = true := by
    obtain ⟨l, o, he⟩ := enterProd_only (s.winAt c w) who
    rw [winAt_setWin_self, he]
    exact hx
  obtain ⟨n, hn⟩ : ∃ n, (u.landRaw c w bs).coreAt c = _ := progressFill_coreAt ..
  rw [coreAt_setCore_self] at hn
  have hcore : u.coreAt c = (s.coreAt c).setWin w ((s.winAt c w).enterProd who) := coreAt_setWin_self ..
  have hpend : ((u.landRaw c w bs).coreAt c).pend = (s.coreAt c).pend := by
    rw [hn, hcore]
    rfl
  have hfill : s.fillWin c w bs site who = (u.landRaw c w bs).afterFill c w := by
    simp [State.fillWin, hm, State.fillNow, u, show (((s.winAt c w).enterProd who)).fillsStore = true by
      simpa [u] using hstore]
  rw [hfill, afterFill_unwatched _ _ _ (fun kind => by rw [hpend]; exact hu kind), retryWin_coreAt, coreAt_setCore_same,
    hn, hcore]
  rfl

@[simp] theorem sinkAt_setSink_self (r : Round) (n : Nat) (x : Sink) : (r.setSink n x).sinkAt n = x := tget_tput_self ..

/-- A sink of single words that is full fills its window where the fill has room (R23, R186). -/
theorem sinkPut_open {s : State} {c n : Nat} {m : Image} {r : Round} {x : Win} (hpack : fbit (Image.sink m n) 4 = false)
    (hx : s.winAt c (Image.sink m n % 16) = x) (hv : x.v = true) (hheld : x.held = false) (hmode : x.mode = .plain)
    (hz : x.esz = 0) (hroom : (s.coreAt c).fillRoom (Image.sink m n % 16) = true) :
    s.sinkPut c n m r =
      ((s.setRound c (r.setSink n { r.sinkAt n with hold := [], full := false })).dropRetry (.cmd r.cmd.site)
        (.sinkFill c n)).fillWin c (Image.sink m n % 16) ((r.sinkAt n).hold.flatMap fun v => bytesOf 4 v.toNat)
        r.cmd.site (issuerOf r.cmd.site) := by
  have hx' : (s.coreAt c).winAt (Image.sink m n % 16) = x := hx
  simp [State.sinkPut, hx', hheld, hv, Win.engineFills, hmode, hpack, hz, hroom]

section
variable {s : State} {c : Nat} {r : Round} {m : Image} (hr : (s.coreAt c).round = some r) (hs : r.suspended = .no)
  (hm : (s.coreAt c).image r.image = m)
include hr hs hm

/-- A sink of single words fills its window with the word that has arrived (R23, R186). -/
theorem exec_sinkFill_word {n : Nat} {v : BitVec 32} {x : Win} (hpack : fbit (Image.sink m n) 4 = false)
    (hdrop : fbit (Image.sink m n) 5 = false) (hsink : r.sinkAt n = Sink.init)
    (hbuf : r.bufAt (2056 + n) = some (.w v)) (hx : s.winAt c (Image.sink m n % 16) = x) (hv : x.v = true)
    (hheld : x.held = false) (hmode : x.mode = .plain) (hz : x.esz = 0) (hlt : x.ext < x.cap.toNat)
    (hu : Unwatched (s.coreAt c) (Image.sink m n % 16)) :
    ∃ t r', exec (.sinkFill c n) s = .next t ∧ (t.coreAt c).round = some r' ∧ r'.bufAt (2056 + n) = none ∧
      (t.winAt c (Image.sink m n % 16)).fill = x.fill + 1 ∧
      tgets 0 (t.coreAt c).wstore (elemAddr x x.ext) 4 = bytesOf 4 v.toNat := by
  have hstore := fillsStore_plain hmode hlt
  generalize hw : Image.sink m n % 16 = w at *
  let r' := ((r.setBuf (2056 + n) none).setSink n ⟨[v], true, false⟩).setSink n ⟨[], false, false⟩
  let u := (s.setRound c r').dropRetry (.cmd r.cmd.site) (.sinkFill c n)
  have hcore : u.coreAt c = { s.coreAt c with round := some r' } := setRound_coreAt_self ..
  have hwin : u.winAt c w = x := (setRound_winAt ..).trans hx
  have hexec : exec (.sinkFill c n) s =
      .next (u.fillWin c w (bytesOf 4 v.toNat) r.cmd.site (issuerOf r.cmd.site)) := by
    have hroom : (s.coreAt c).fillRoom w = true :=
      fillRoom_unwatched _ w (by rw [show (s.coreAt c).winAt w = x from hx]; exact hstore) hu
    have hsink' : r.sinkAt n = ⟨[], false, false⟩ := hsink
    have hput := sinkPut_open (s := s) (c := c) (r := (r.setBuf (2056 + n) none).setSink n ⟨[v], true, false⟩) hpack
      (by rw [hw]; exact hx) hv hheld hmode hz (by rw [hw]; exact hroom)
    rw [sinkAt_setSink_self, hw] at hput
    show execSinkFill c n s = _
    unfold execSinkFill
    rw [withRound_running hr hs, hm]
    simp [hsink', hbuf, hpack, hdrop, hput, u, r']
    rfl
  have htakes := fillWin_takes u c w (bytesOf 4 v.toNat) r.cmd.site (issuerOf r.cmd.site) (by rw [hwin]; exact hstore)
    (by rw [hcore]; exact hu)
  have hsize : x.esize = 4 := by simp [Win.esize, hz]
  obtain ⟨hfill, hbytes⟩ := takes_fill htakes (by rw [hwin, hsize, bytesOf_length])
  rw [hwin] at hfill hbytes
  rw [hsize] at hbytes
  refine ⟨_, r', hexec, ?_, bufAt_setBuf_self r (2056 + n) none, hfill, hbytes⟩
  rw [fillWin_round _ _ _ (by rw [hwin]; exact hmode) (by rw [hwin]; exact hstore) (by rw [hcore]; exact hu), hcore]

/-! ## The end of a round (R188) -/

/-- A quiet round without partial elements ends, and its FRUN with it (R188, R214). -/
theorem exec_roundEnd_quiet (hquiet : r.quiet m = true) (hhold : ∀ z ∈ r.sinks, z.2.hold = [])
    (hop : cmdOp r.cmd.cmd = 0x02) : ∃ t, exec (.roundEnd c) s = .next t ∧ (t.coreAt c).round = none ∧
      ∃ z ∈ (t.coreAt c).ended, z.cmd = r.cmd ∧ z.fault = false ∧ z.stop = false ∧ z.census = true := by
  have hfind : (r.sinks.find? fun x => !x.2.hold.isEmpty) = none := by
    rw [List.find?_eq_none]
    intro z hz
    simp [hhold z hz]
  have hexec : exec (.roundEnd c) s = .next ((s.dropRound c r).endCommand c r.cmd .fab false false false) := by
    show execRoundEnd c s = _
    unfold execRoundEnd
    rw [withRound_running hr hs, hm]
    simp [hquiet, hfind]
  have hend := fabSame_of_rest ((rest_of_restAt (endCommand_restAt (s.dropRound c r) c c r.cmd .fab false false
    false)).trans (dropRound_rest s c r))
  exact ⟨_, hexec, hend.round, endCommand_census _ _ _ _ _ _ hop⟩

theorem exec_roundEnd_busy (hquiet : r.quiet m = false) : exec (.roundEnd c) s = .next s := by
  show execRoundEnd c s = _
  unfold execRoundEnd
  rw [withRound_running hr hs, hm]
  simp [hquiet]

end

/-! ## Alignment (R370) -/

section
variable {r : Round} {m : Image} {e : Nat}

/-- A place that has been taken is empty, and every other buffer is as it was. -/
theorem bufAt_takePlace (p j : Nat) :
    (r.takePlace m e p).bufAt j = if j = e * 32 + p then none else r.bufAt j := by
  cases hb : r.bufAt (e * 32 + p) with
  | some t => rw [takePlace_full m hb, bufAt_setBuf]
  | none =>
    have hsame : (r.takePlace m e p).bufAt j = r.bufAt j := by
      simp only [Round.takePlace, hb]
      split
      · rfl
      · obtain ⟨l, hl⟩ := takeCtl_only r _ p
        rw [hl]
        rfl
    rw [hsame]
    split
    · subst j
      exact hb
    · rfl

theorem elemAt_takePlace (p f : Nat) : (r.takePlace m e p).elemAt f = r.elemAt f := by
  unfold Round.takePlace
  split
  · rfl
  · split
    · rfl
    · obtain ⟨l, hl⟩ := takeCtl_only r _ p
      rw [hl]
      rfl

/-- Taking a list of inputs that stand at links empties their buffers and changes no element. -/
theorem foldl_takeInput (l : List Nat) (hl : ∀ k ∈ l, 1 ≤ (Image.cfg m e).selOf k ∧ (Image.cfg m e).selOf k ≤ 4) :
    (∀ f, (l.foldl (fun r k => r.takeInput m e k) r).elemAt f = r.elemAt f) ∧
      ∀ j, (l.foldl (fun r k => r.takeInput m e k) r).bufAt j =
        if j ∈ l.map (e * 32 + ·) then none else r.bufAt j := by
  induction l generalizing r with
  | nil => exact ⟨fun f => rfl, fun j => rfl⟩
  | cons k l ih =>
    obtain ⟨hlo, hhi⟩ := hl k List.mem_cons_self
    obtain ⟨helems, hbufs⟩ := ih (r := r.takePlace m e k) fun j hj => hl j (List.mem_cons_of_mem _ hj)
    rw [List.foldl_cons, takeInput_link hlo hhi]
    refine ⟨fun f => (helems f).trans (elemAt_takePlace k f), fun j => ?_⟩
    rw [hbufs, bufAt_takePlace, List.map_cons]
    by_cases hj : j ∈ l.map (e * 32 + ·) <;> simp [hj, List.mem_cons]

/-- An operator that router e has not takes no marker. -/
theorem alignOp_off {o : Nat} (h : Image.hasOp m e o = false) : r.alignOp m e o = r := by
  simp [Round.alignOp, h]

/-- An element with markers at every aligned input takes them, and emits its own (R370). -/
theorem alignElem_leaves (hmark : (r.elemAt e).mark = false) (h0 : (Image.cfg m e).op ≠ 0)
    (hred : isReducer (Image.cfg m e).op = false)
    (hins : ∀ z ∈ Image.aligned m e, r.bufAt (e * 32 + z) = some .m ∧ 1 ≤ (Image.cfg m e).selOf z ∧
      (Image.cfg m e).selOf z ≤ 4)
    (hbusy : r.busy (Image.cfg m e) e = false) (hunits : ∀ u ∈ r.units, u.1 ≠ e) :
    let r' := r.alignElem m e
    (r'.elemAt e).mark = true ∧ (r'.elemAt e).q = (r.elemAt e).q ++ [.m] ∧
      ∀ z ∈ Image.aligned m e, r'.bufAt (e * 32 + z) = none := by
  have hall : ((Image.aligned m e).all fun k => r.input m e k == .m) = true := by
    rw [List.all_eq_true]
    intro z hz
    obtain ⟨hbuf, hlo, hhi⟩ := hins z hz
    rw [input_link hlo hhi, placeTok_marker m hbuf]
    rfl
  have hnone : (r.units.any fun u => u.1 == e) = false := by simpa using hunits
  obtain ⟨helems, hbufs⟩ := foldl_takeInput (r := r) (m := m) (e := e) (Image.aligned m e) fun k hk => (hins k hk).2
  generalize hfold : (Image.aligned m e).foldl (fun r k => r.takeInput m e k) r = r1 at helems hbufs
  have halign : r.alignElem m e = (r1.push e [.m]).setElem e { (r1.push e [.m]).elemAt e with mark := true } := by
    unfold Round.alignElem
    simp [h0, hmark, hred, hall, hbusy, hnone, hfold]
  rw [halign]
  refine ⟨by rw [elemAt_setElem_self], by rw [elemAt_setElem_self, elemAt_push_self, helems], fun z hz => ?_⟩
  rw [bufAt_setElem, bufAt_push, hbufs, if_pos (List.mem_map_of_mem hz)]

end

/-! ## Draining (R371, R372) -/

@[simp] theorem setRound_setRound (s : State) (c : Nat) (r r' : Round) :
    (s.setRound c r).setRound c r' = s.setRound c r' := by
  simp [State.setRound]

theorem setRound_round (s : State) (c : Nat) (r : Round) : ((s.setRound c r).coreAt c).round = some r := by
  rw [setRound_coreAt_self]

/-- Where no FSCAN waits the round of a drain resumes, but for a save (R371, R374). -/
theorem scanRest_unscanned {s : State} {c : Nat} {r : Round} {d : Drain} (hr : (s.coreAt c).round = some r)
    (hd : r.drain = some d) (hscan : d.fscan = []) :
    s.scanRest c = if d.save then s.setRound c r else (s.setRound c r).resumeRound c := by
  have hsame : ({ r with drain := some { d with fscan := [] } } : Round) = r := by
    rw [← hscan, ← hd]
  unfold State.scanRest
  rw [hr, Option.bind_some, hd]
  simp only [hscan, List.foldl_nil, hr, hsame]
  cases d.save <;> rfl

/-- A round that is suspended while no FSCAN waits resumes at once, but for a save (R371, R374). -/
theorem suspendRound_unscanned {s : State} {c : Nat} {r : Round} {d : Drain} (how : Suspended) (hd : r.drain = some d)
    (hscan : d.fscan = []) : s.suspendRound c r how =
      if d.save then s.setRound c { r with suspended := how }
      else (s.setRound c { r with suspended := how }).resumeRound c := by
  have hdraining : r.drain.isNone = false := by rw [hd]; rfl
  rw [State.suspendRound, hdraining, if_neg Bool.false_ne_true,
    scanRest_unscanned (setRound_round s c { r with suspended := how }) hd hscan, setRound_setRound]

/-- A round that resumes without FMARKs only loses its markers (R373). -/
theorem resumeRound_unmarked {s : State} {c : Nat} {r : Round} {d : Drain} (hr : (s.coreAt c).round = some r)
    (hd : r.drain = some d) (hmarks : d.fmark = []) : s.resumeRound c = s.setRound c r.resume := by
  simp [State.resumeRound, hr, hd, hmarks]

section
variable {s : State} {c : Nat} {r : Round} {m : Image} {d : Drain} (hr : (s.coreAt c).round = some r)
  (hs : r.suspended = .no) (hm : (s.coreAt c).image r.image = m) (hd : r.drain = some d)
include hr hs hm hd

/-- In a drain an element whose markers have come aligns (R370). -/
theorem exec_markerAlign_element {e : Nat} (hops : ∀ o, o < 3 → Image.hasOp m e o = false) :
    exec (.markerAlign c e) s = .next (s.setRound c (r.alignElem m e)) := by
  show execMarkerAlign c e s = _
  unfold execMarkerAlign
  rw [withRound_running hr hs, hm, alignOp_off (hops 0 (by decide)), alignOp_off (hops 1 (by decide)),
    alignOp_off (hops 2 (by decide))]
  simp [hd]

/-- A drain that is complete suspends its round (R371). -/
theorem exec_drainComplete (hdrained : r.drained m = true) :
    exec (.drainComplete c) s = .next (s.suspendRound c r .drained) := by
  have hscan : (s.coreAt c).scanning = false := by simp [Core.scanning, hr, hs]
  show execDrainComplete c s = _
  rw [execDrainComplete, hscan, withRound_running hr hs, hm]
  simp [hd, hdrained]

/-- A drain of 4096 ticks is scanned out (R372). -/
theorem exec_fabricScanOut (hunits : r.units = []) : exec (.fabricScanOut c) s =
    .next (if 4096 ≤ d.ticks then s.suspendRound c r .scanned else s) := by
  show execFabricScanOut c s = _
  unfold execFabricScanOut
  rw [withRound_running hr hs, hm]
  simp [hd, hunits]

end

/-! ## The statement -/

/-- A step that writes no memory leaves it as it was. -/
theorem mem_of_next {i : Instr} {s t : State} (h : exec i s = .next t) (hi : writesMem i = false) : t.mem = s.mem := by
  have hmem := exec_mem i s hi
  rwa [h, memOf_next] at hmem

/-- Settles O46, by the round that each event leaves, and by the laws of a round's buffers and elements. -/
theorem fabricTokens : Obligations.FabricTokens := by
  unfold Obligations.FabricTokens
  refine ⟨fun s c e g o r v w b t q i hr hs => ⟨fun hphase hbuf htotal => ?_,
    fun base hstop hphase hpos hroom hkind hread => ?_,
    fun hstop hphase hpos hroom hkind halign => ?_, fun hq ht hroom => ?_,
    fun hops hunit hred huses hlo0 hhi0 hlo1 hhi1 h2 hended hroom hdrain hv hw => ?_,
    fun z hon hbuf hz hb hleft hroom => ?_, fun z hon hdisc hbuf hz hb hleft hroom => ?_,
    fun hon hroom => ⟨fun harmed => ?_, fun harmed hbuf => ?_⟩, fun z hlanes hlane hq hroom hempty husers => ?_, fun z hlanes hlane hq hroom => ?_,
    fun z hz hkind hleft hroom => ?_, fun hnext hroom => ?_,
    fun hunit hlo hhi h1 h2 hended hdrain hv => ⟨fun hserves => ?_, fun hserves => ?_⟩, fun z hunits => ?_,
    fun ho hbuf hroom => ?_, fun z hq hlane hunit hroom => ?_⟩, fun s c e n r v d hr hs => ?_⟩
  · exact rounds_generatorPassStart hr hs hphase hbuf htotal
  · exact rounds_generatorRequest hr hs hstop hphase hroom hpos hkind hread
  · exact exec_generatorRequest_global hr hs hstop hphase hroom hpos hkind halign
  · exact rounds_generatorReply hr hs rfl hq ht hroom
  · exact ⟨_, rounds_elementFire hr hs rfl fun free => elementStep_two hops hunit hred huses hlo0 hhi0 hlo1 hhi1 h2
      hended hroom hdrain hv hw, two_leaves _⟩
  · exact rounds_steer hr hs rfl hon hbuf hz hb hleft hroom
  · exact rounds_merge hr hs rfl hon hdisc hbuf hz hb hleft hroom
  · exact rounds_carry_armed hr hs rfl hon hroom harmed
  · exact rounds_carry_word hr hs rfl hon hroom harmed hbuf
  · exact rounds_rowWordMove hr hs rfl hlanes hlane hq hroom hempty husers
  · exact rounds_rowWordMove_blocked hr hs rfl hlanes hlane hq hroom
  · exact rounds_reducerFire hr hs rfl hz hkind hleft hroom
  · exact rounds_reordBlockEmit hr hs rfl hnext hroom
  · exact ⟨_, rounds_elementFire hr hs rfl fun free =>
      (elementStep_unit free hunit hlo hhi h1 h2 hended hdrain hv).trans
      (congrArg some (if_pos hserves)), unit_leaves v _⟩
  · refine ⟨_, rounds_elementFire hr hs rfl fun free =>
      (elementStep_unit free hunit hlo hhi h1 h2 hended hdrain hv).trans
      (congrArg some (if_neg (by rw [hserves]; decide))), rfl, ?_, hv⟩
    rw [elemAt_setElem_self]
  · exact rounds_unitReply hr hs rfl hunits
  · exact rounds_tokenHop_pass hr hs rfl ho hbuf hroom
  · exact rounds_tokenHop_fork hr hs rfl hq hlane hunit hroom
  · refine ⟨fun hpack hdrop hsink hbuf hv hheld hmode hz hlt hu => ?_, fun hquiet hhold hop => ?_,
      fun hquiet => exec_roundEnd_busy hr hs rfl hquiet, fun hd hmark h0 hred hins hbusy hunits hops => ?_,
      fun hd hdrained hsave hscan => ?_, fun hd hdrained hsave hscan hmarks => ?_,
      fun hd hunits hsave hscan => ⟨fun hticks => ?_, fun hticks => ?_⟩⟩
    · obtain ⟨t, r', hexec, hround, hempty, hfill, hbytes⟩ :=
        exec_sinkFill_word hr hs rfl hpack hdrop hsink hbuf rfl hv hheld hmode hz hlt hu
      exact ⟨t, r', hexec, hround, hempty, hfill, hbytes, mem_of_next hexec rfl⟩
    · obtain ⟨t, hexec, hround, hended⟩ := exec_roundEnd_quiet hr hs rfl hquiet hhold hop
      exact ⟨t, hexec, hround, hended, mem_of_next hexec rfl⟩
    · obtain ⟨hleft, hq, htaken⟩ := alignElem_leaves hmark h0 hred hins hbusy hunits
      exact ⟨_, _, exec_markerAlign_element hr hs rfl hd hops, setRound_round .., hleft, hq, htaken,
        setRound_mem ..⟩
    · exact ⟨_, (exec_drainComplete hr hs rfl hd hdrained).trans (congrArg Host.Outcome.next
        ((suspendRound_unscanned .drained hd hscan).trans (if_pos hsave))), setRound_mem ..,
        setRound_round ..⟩
    · have hleft : s.suspendRound c r .drained = s.setRound c r.resume := by
        rw [suspendRound_unscanned .drained hd hscan, if_neg (by rw [hsave]; decide),
          resumeRound_unmarked (r := { r with suspended := .drained }) (setRound_round ..) hd hmarks,
          setRound_setRound]
        rfl
      exact ⟨_, (exec_drainComplete hr hs rfl hd hdrained).trans (congrArg Host.Outcome.next hleft), setRound_mem ..,
        setRound_round ..⟩
    · exact ⟨_, (exec_fabricScanOut hr hs rfl hd hunits).trans (congrArg Host.Outcome.next ((if_pos hticks).trans
        ((suspendRound_unscanned .scanned hd hscan).trans (if_pos hsave)))), setRound_mem ..,
        setRound_round ..⟩
    · exact (exec_fabricScanOut hr hs rfl hd hunits).trans (congrArg Host.Outcome.next
        (if_neg (Nat.not_le.mpr hticks)))

end Sys2Proof.Machine
end

section
/-! SUPPORT. Counting networks (R220 to R229): the handle that an instruction looks at, entering, draining, opening, and
a token that is alone in its network. -/

namespace Sys2Proof.Machine

open Sys2Proof

/-! ## The handle (R225, R228) -/

/-- Handle h of the issuing core (R225). -/
def State.handle (s : State) (h : BitVec 3) : BitVec 9 := (s.coreAt s.cur).bnh[h.toNat]'h.isLt

/-- Handle h of the issuing core is valid and names a network of the core's tenant (R225). -/
structure NamesNet (s : State) (h : BitVec 3) (net : Nat) : Prop where
  valid : (s.handle h).getLsbD 8 = true
  names : (s.handle h).toNat % 32 = net
  owned : (s.netAt net).owner.isSome = true
  mine : (s.netAt net).owner = s.tenantOf s.cur

section
variable {s : State} {h : BitVec 3} {net : Nat}

theorem withHandle_eq (fn : Nat) (k : Nat → Net → Out) : withHandle h fn s k =
    if !(s.handle h).getLsbD 8 then .trap (netTrap h 1 fn)
    else if (s.netAt ((s.handle h).toNat % 32)).owner.isNone ||
      (s.netAt ((s.handle h).toNat % 32)).owner != s.tenantOf s.cur then .trap (netTrap h 3 fn)
    else k ((s.handle h).toNat % 32) (s.netAt ((s.handle h).toNat % 32)) := rfl

theorem withHandle_invalid (fn : Nat) (k : Nat → Net → Out) (hv : (s.handle h).getLsbD 8 = false) :
    withHandle h fn s k = .trap (netTrap h 1 fn) := by
  rw [withHandle_eq, if_pos (by rw [hv]; rfl)]

theorem withHandle_foreign (fn : Nat) (k : Nat → Net → Out) (hv : (s.handle h).getLsbD 8 = true)
    (ho : (s.netAt ((s.handle h).toNat % 32)).owner = none ∨
      (s.netAt ((s.handle h).toNat % 32)).owner ≠ s.tenantOf s.cur) :
    withHandle h fn s k = .trap (netTrap h 3 fn) := by
  rw [withHandle_eq, if_neg (by rw [hv]; decide), if_pos (by simpa using ho)]

theorem withHandle_names (fn : Nat) (k : Nat → Net → Out) (hn : NamesNet s h net) :
    withHandle h fn s k = k net (s.netAt net) := by
  obtain ⟨hv, rfl, howned, hmine⟩ := hn
  rw [withHandle_eq, if_neg (by rw [hv]; decide), if_neg (by simpa [hmine] using Option.isSome_iff_ne_none.mp howned)]

theorem onClosed_closed (fn : Nat) (k : Nat → Net → Out) (hn : NamesNet s h net) (hc : (s.netAt net).state = .closed) :
    onClosed h fn s k = k net (s.netAt net) := by
  rw [onClosed, withHandle_names _ _ hn, hc]

theorem onClosed_unclosed (fn : Nat) (k : Nat → Net → Out) (hn : NamesNet s h net)
    (hc : (s.netAt net).state ≠ .closed) : onClosed h fn s k = .trap (netTrap h 4 fn) := by
  rw [onClosed, withHandle_names _ _ hn]
  cases hst : (s.netAt net).state with
  | opened | draining => rfl
  | closed => exact absurd hst hc

/-- An instruction of a supervisor traps with what its body raises. -/
theorem traps_of_privileged {i : Instr} {k : State → Out} {tr : Trap} (hi : exec i s = finish s (privileged i s k))
    (hs : s.me.sup = true) (hk : k s = .trap tr) : Traps i s tr := by
  rw [Traps, hi, privileged_sup _ _ _ hs, hk]
  rfl

/-- A handle fault is raised by every instruction on a network, each under its own function number (R228). -/
theorem handle_traps {why : Nat} (d : BitVec 5) (a : BitVec 4)
    (hw : ∀ fn k, withHandle h fn s k = .trap (netTrap h why fn)) :
    Traps (.tkn d h) s (netTrap h why 0x11) ∧ (s.me.sup = true →
      Traps (.bndrn h) s (netTrap h why 0x12) ∧ Traps (.bnsav h a) s (netTrap h why 0x13) ∧
      Traps (.bnload h a) s (netTrap h why 0x14) ∧ Traps (.bnclr h) s (netTrap h why 0x15)) :=
  ⟨congrArg (finish s) (hw 0x11 _), fun hs => ⟨traps_of_privileged rfl hs (hw 0x12 _),
    traps_of_privileged rfl hs (hw 0x13 _), traps_of_privileged rfl hs (hw 0x14 _),
    traps_of_privileged rfl hs (hw 0x15 _)⟩⟩

/-- A save, load or clear of a network that is not closed faults (R228). -/
theorem unclosed_traps (a : BitVec 4) (hn : NamesNet s h net) (hs : s.me.sup = true)
    (hc : (s.netAt net).state ≠ .closed) : Traps (.bnsav h a) s (netTrap h 4 0x13) ∧
      Traps (.bnload h a) s (netTrap h 4 0x14) ∧ Traps (.bnclr h) s (netTrap h 4 0x15) :=
  ⟨traps_of_privileged rfl hs (onClosed_unclosed 0x13 _ hn hc),
    traps_of_privileged rfl hs (onClosed_unclosed 0x14 _ hn hc),
    traps_of_privileged rfl hs (onClosed_unclosed 0x15 _ hn hc)⟩

/-- An image address that is not on 16 bytes faults a save and a load (R227, R228). -/
theorem unaligned_traps {a : BitVec 4} (hn : NamesNet s h net) (hs : s.me.sup = true)
    (hc : (s.netAt net).state = .closed) (ha : (s.me.readA a).toNat % 16 ≠ 0) :
    Traps (.bnsav h a) s (netTrap h 6 0x13) ∧ Traps (.bnload h a) s (netTrap h 6 0x14) :=
  ⟨traps_of_privileged rfl hs ((onClosed_closed 0x13 _ hn hc).trans (if_pos ha)),
    traps_of_privileged rfl hs ((onClosed_closed 0x14 _ hn hc).trans (if_pos ha))⟩

end

/-! ## Transfers -/

/-- Where the machine issues: the core and the slot. -/
def State.place (s : State) : Nat × Nat := (s.cur, s.slot)

theorem finish_done_placed {s t : State} (hn : HasNext s) (hp : t.place = s.place) :
    finish s (.done t) = .next (t.advance s.cur s.slot) := by
  obtain ⟨hc, ht⟩ := Prod.mk.inj hp
  rw [finish_done s t hn, hc, ht]

theorem take_place (s : State) (ports : List Nat) (ten n : Nat) : (s.take ports ten n).place = s.place := by
  unfold State.take
  refine foldl_keeps State.place _ (fun _ _ => ?_) ports s
  rfl

theorem payAll_place {s t : State} {ten size : Nat} {reqs : List (List Nat)} (h : s.payAll ten size reqs = some t) :
    t.place = s.place := by
  induction reqs generalizing s with
  | nil => cases h; rfl
  | cons ports rest ih =>
    unfold State.payAll at h
    split at h
    · exact (ih h).trans (take_place ..)
    · cases h

theorem pay_place (n : Nat) (s : State) (c : Nat) (op : AccOp) (va : Addr) (size : Nat) :
    (State.pay n s c op va size).1.place = s.place := by
  induction n generalizing s va with
  | zero => rfl
  | succ n ih =>
    unfold State.pay
    split
    · next h => exact (ih ..).trans (payAll_place h)
    · rfl

theorem paid_place {s s1 : State} {op : AccOp} {va : Addr} {bytes size : Nat} (h : Paid s s1 op va bytes size) :
    s1.place = s.place := by
  obtain ⟨-, rfl⟩ := h
  exact pay_place ..

/-- A transfer whose requests the buckets let go takes place (R364, R398). -/
theorem metered_paid {s s1 : State} {op : AccOp} {va : Addr} {bytes size : Nat} (k : State → Out)
    (h : Paid s s1 op va bytes size) : metered op va bytes size s k = k s1 := by
  obtain ⟨hall, rfl⟩ := h
  exact if_pos hall

theorem settled_quiet {s : State} (k : State → Out) (h : s.quiet s.cur s.slot = true) : settled s k = k s := if_pos h

theorem bulkPut_place (n : Nat) (s : State) (c : Nat) (va : Addr) (bs : List Byte) :
    (State.bulkPut n s c va bs).place = s.place := by
  induction n generalizing s va bs with
  | zero => rfl
  | succ n ih =>
    rw [State.bulkPut, ih]
    split <;> rfl

/-- A read none of whose chunks faults answers its bytes. -/
theorem bulkRead_ok {s : State} {c : Nat} {va : Addr} {n : Nat}
    (h : s.bulkFault c .load va (chunks n) (lastChunk n) = none) :
    s.bulkRead c va n = .ok ((s.bulkBytes c va (chunks n)).take n) := by
  rw [State.bulkRead, h]

/-! ## Entering (R221, R222) -/

theorem entryTick_free {n : Net} {wire : Nat} (tick : BitVec 64) (h : ∀ x ∈ n.tokens, ¬(x.layer = 0 ∧ x.wire = wire)) :
    n.entryTick wire tick = tick := by
  unfold Net.entryTick
  generalize n.tokens = l at h ⊢
  induction l with
  | nil => rfl
  | cons x r ih =>
    rw [List.foldl_cons, if_neg fun hx => h x List.mem_cons_self ⟨hx.1, hx.2.1⟩]
    exact ih fun y hy => h y (List.mem_cons_of_mem _ hy)

theorem enterToken_place (s : State) (net c t : Nat) (d : BitVec 5) : (s.enterToken net c t d).place = s.place := rfl

theorem enterToken_net (s : State) (net c t : Nat) (d : BitVec 5) : (s.enterToken net c t d).netAt net =
    { s.netAt net with tokens := (s.netAt net).tokens ++
        [⟨s.nextToken, c % 16, 0, (s.netAt net).entryTick (c % 16) s.tick, c, t⟩] } :=
  netAt_setNet_self { s with nextToken := s.nextToken + 1 } net _

theorem enterToken_me (s : State) (net : Nat) (d : BitVec 5) : (s.enterToken net s.cur s.slot d).me =
    { s.me with tkns := s.me.tkns ++ [(s.nextToken, d)] } := slotAt_setSlot_self ..

section
variable {s : State} {h : BitVec 3} {net : Nat} (hx : HasNext s) (hn : NamesNet s h net)
include hn

theorem exec_tkn_opened (d : BitVec 5) (he : (s.netAt net).exh = false) (ho : (s.netAt net).state = .opened) :
    exec (.tkn d h) s = finish s (.done (s.enterToken net s.cur s.slot d)) := by
  show execTkn d h s = _
  simp only [execTkn, withHandle_names _ _ hn, he, ho, Bool.false_eq_true, if_false]

theorem exec_tkn_unopened (d : BitVec 5) (he : (s.netAt net).exh = false) (ho : (s.netAt net).state ≠ .opened) :
    exec (.tkn d h) s = finish s (.hold (s.waitMe (.tkn net h d) (tknEdge s net))) := by
  show execTkn d h s = _
  cases hst : (s.netAt net).state with
  | opened => exact absurd hst ho
  | draining | closed => simp only [execTkn, withHandle_names _ _ hn, he, hst, Bool.false_eq_true, if_false]

theorem tkn_exhausted (d : BitVec 5) (he : (s.netAt net).exh = true) : Traps (.tkn d h) s (netTrap h 2 0x11) := by
  show execTkn d h s = _
  simp only [execTkn, withHandle_names _ _ hn, he, if_true, finish_trap]

include hx

theorem tkn_enters (d : BitVec 5) (he : (s.netAt net).exh = false) (ho : (s.netAt net).state = .opened) :
    ∃ t since, exec (.tkn d h) s = .next t ∧
      t.me = { s.me with tkns := s.me.tkns ++ [(s.nextToken, d)] }.advance ∧ t.mem = s.mem ∧
      (t.netAt net).tokens = (s.netAt net).tokens ++ [⟨s.nextToken, s.cur % 16, 0, since, s.cur, s.slot⟩] ∧
      ((∀ x ∈ (s.netAt net).tokens, ¬(x.layer = 0 ∧ x.wire = s.cur % 16)) → since = s.tick) := by
  have hexec := exec_tkn_opened hn d he ho
  rw [finish_done_me s _ hx, enterToken_me] at hexec
  exact ⟨_, _, hexec, me_setMe .., rfl, congrArg Net.tokens (enterToken_net s net s.cur s.slot d),
    entryTick_free s.tick⟩

theorem tkn_waits (d : BitVec 5) (he : (s.netAt net).exh = false) (ho : (s.netAt net).state ≠ .opened) :
    WaitsFor (.tkn d h) s (.tkn net h d) :=
  waitsFor_waitMe _ s s.dies _ (tknEdge s net) rfl hx (exec_tkn_unopened hn d he ho)

end

/-! ## The slots that a drain holds (R226, R229) -/

/-- An entry that a table does not read as its default is listed with what it reads as. -/
theorem mem_of_tget {α : Type} (dflt : α) {m : Table α} {k : Nat} (h : tget dflt m k ≠ dflt) :
    (k, tget dflt m k) ∈ m := by
  induction m with
  | nil => exact absurd rfl h
  | cons e r ih =>
    by_cases he : e.1 = k
    · rw [tget, if_pos he, ← he]
      exact List.mem_cons_self
    · rw [tget, if_neg he] at h ⊢
      exact List.mem_cons_of_mem _ (ih h)

/-- A slot once its network has closed: past its BNDRN, if it was held by one. -/
def Slot.afterDrain (x : Slot) (net : Nat) : Slot :=
  if x.hold = .drain net then { x with hold := .none }.advance else x

theorem afterDrain_held {x : Slot} {net : Nat} (h : x.hold = .drain net) :
    x.afterDrain net = { x with hold := .none }.advance := if_pos h

theorem afterDrain_free {x : Slot} {net : Nat} (h : x.hold ≠ .drain net) : x.afterDrain net = x := if_neg h

theorem advance_hold (x : Slot) : x.advance.hold = x.hold := by
  unfold Slot.advance
  (repeat' split) <;> rfl

@[simp] theorem afterDrain_afterDrain (x : Slot) (net : Nat) :
    (x.afterDrain net).afterDrain net = x.afterDrain net := by
  refine afterDrain_free ?_
  by_cases h : x.hold = .drain net
  · rw [afterDrain_held h, advance_hold]
    exact Hold.noConfusion
  · rwa [afterDrain_free h]

/-- What the closing of a network does for one slot. -/
def State.leaveDrain (s : State) (net : Nat) (x : Nat × Nat) : State :=
  if (s.slotAt x.1 x.2).hold = .drain net then
    (s.setSlot x.1 x.2 { s.slotAt x.1 x.2 with hold := .none }).advance x.1 x.2
  else s

/-- The slots that a table of cores lists. -/
def listedSlots (cores : Table Core) : List (Nat × Nat) := cores.flatMap fun e => e.2.slots.map fun x => (e.1, x.1)

theorem endDrain_eq (s : State) (net : Nat) :
    s.endDrain net = (listedSlots s.cores).foldl (fun u x => u.leaveDrain net x) s := by
  simp only [listedSlots, List.foldl_flatMap, List.foldl_map]
  rfl

theorem mem_listedSlots {s : State} {c u : Nat} (h : s.slotAt c u ≠ Slot.init) : (c, u) ∈ listedSlots s.cores := by
  have hslot : (u, s.slotAt c u) ∈ (s.coreAt c).slots := mem_of_tget Slot.init h
  have hcore : (c, s.coreAt c) ∈ s.cores := by
    refine mem_of_tget Core.init fun hc => h ?_
    rw [State.slotAt, State.coreAt, hc]
    rfl
  exact List.mem_flatMap.mpr ⟨_, hcore, List.mem_map.mpr ⟨_, hslot, rfl⟩⟩

theorem leaveDrain_slotAt (s : State) (net c u : Nat) (x : Nat × Nat) :
    (s.leaveDrain net x).slotAt c u = if (c, u) = x then (s.slotAt c u).afterDrain net else s.slotAt c u := by
  obtain ⟨d, v⟩ := x
  unfold State.leaveDrain
  by_cases hx : (c, u) = (d, v)
  · obtain ⟨rfl, rfl⟩ := Prod.mk.inj hx
    rw [if_pos rfl]
    split
    next hh => rw [afterDrain_held hh, State.advance, slotAt_setSlot_self, slotAt_setSlot_self]
    next hh => rw [afterDrain_free hh]
  · have hne : ¬(c = d ∧ u = v) := fun h => hx (by rw [h.1, h.2])
    rw [if_neg hx]
    split
    · rw [State.advance, slotAt_setSlot, if_neg hne, slotAt_setSlot, if_neg hne]
    · rfl

theorem foldl_leaveDrain_slotAt (l : List (Nat × Nat)) (s : State) (net c u : Nat) :
    (l.foldl (fun u x => u.leaveDrain net x) s).slotAt c u =
      if (c, u) ∈ l then (s.slotAt c u).afterDrain net else s.slotAt c u := by
  induction l generalizing s with
  | nil => rfl
  | cons x r ih =>
    rw [List.foldl_cons, ih, leaveDrain_slotAt]
    by_cases hx : (c, u) = x <;> simp [hx]

/-- Once a network has closed, each slot that its BNDRN held has gone on, and the others stand (R229). -/
theorem endDrain_slotAt (s : State) (net c u : Nat) :
    (s.endDrain net).slotAt c u = (s.slotAt c u).afterDrain net := by
  rw [endDrain_eq, foldl_leaveDrain_slotAt]
  split
  · rfl
  next hl =>
    refine (afterDrain_free fun hh => hl (mem_listedSlots fun hi => ?_)).symm
    rw [hi] at hh
    exact Hold.noConfusion hh

theorem endDrain_nets (s : State) (net : Nat) : (s.endDrain net).nets = s.nets := by
  rw [endDrain_eq]
  refine foldl_keeps State.nets _ (fun u x => ?_) _ s
  unfold State.leaveDrain
  split <;> rfl

theorem endDrain_netAt (s : State) (net m : Nat) : (s.endDrain net).netAt m = s.netAt m := by
  rw [State.netAt, endDrain_nets]
  rfl

/-- The closing of a network that holds no task changes nothing more. -/
theorem endDrain_unheld {s : State} {net : Nat} (h : ∀ c u, (s.slotAt c u).hold ≠ .drain net) : s.endDrain net = s := by
  rw [endDrain_eq]
  exact List.foldl_fixed' (fun x => if_neg (h x.1 x.2)) _

theorem settleNet_stays {s : State} {net : Nat} (h : (s.netAt net).state ≠ .draining ∨ (s.netAt net).tokens ≠ []) :
    s.settleNet net = s := by
  unfold State.settleNet
  exact if_neg fun hd => h.elim (fun hs => hs hd.1) fun ht => ht hd.2

theorem settleNet_closes {s : State} {net : Nat} (hd : (s.netAt net).state = .draining)
    (ht : (s.netAt net).tokens = []) :
    s.settleNet net = (s.setNet net { s.netAt net with state := .closed }).endDrain net := if_pos ⟨hd, ht⟩

section
variable {s : State} {net : Nat} (hd : (s.netAt net).state = .draining) (ht : (s.netAt net).tokens = [])
include hd ht

theorem settleNet_netAt : (s.settleNet net).netAt net = { s.netAt net with state := .closed } := by
  rw [settleNet_closes hd ht, endDrain_netAt, netAt_setNet_self]

theorem settleNet_slotAt (c u : Nat) : (s.settleNet net).slotAt c u = (s.slotAt c u).afterDrain net := by
  rw [settleNet_closes hd ht, endDrain_slotAt]
  rfl

end

@[simp] theorem setNet_setNet (s : State) (net : Nat) (x y : Net) : (s.setNet net x).setNet net y = s.setNet net y := by
  simp [State.setNet]

/-! ## BNDRN (R226, R229) -/

/-- An open network as a BNDRN of a slot leaves it: it admits no token any more (R226). -/
def Net.drains (n : Net) (who : Nat × Nat) : Net := { n with state := .draining, closer := some who, byReset := false }

section
variable {s u : State} {net : Nat} {n : Net} (ho : n.state = .opened)
  (hu : (s.setNet net (n.drains s.place)).settleNet net = u)
include ho hu

theorem bndrnOut_closes (hc : (u.netAt net).state = .closed) : bndrnOut net n s = .done u := by
  subst hu
  unfold Net.drains State.place at *
  simp only [bndrnOut, ho, hc]

theorem bndrnOut_holds (hd : (u.netAt net).state = .draining) :
    bndrnOut net n s = .hold (u.setMe { u.me with hold := .drain net }) := by
  subst hu
  unfold Net.drains State.place at *
  simp only [bndrnOut, ho, hd]

end

theorem finish_hold {s : State} (t : State) (hn : HasNext s) : finish s (.hold t) = .next t := by
  have hn' : s.me.fallsOut = false := hn
  simp [finish, hn']

section
variable {s : State} {h : BitVec 3} {net : Nat} (hx : HasNext s) (hn : NamesNet s h net) (hs : s.me.sup = true)
include hn hs

theorem exec_bndrn : exec (.bndrn h) s = finish s (bndrnOut net (s.netAt net) s) := by
  show execBndrn h s = _
  rw [execBndrn, privileged_sup _ _ _ hs, withHandle_names _ _ hn]

include hx

theorem bndrn_closed (hc : (s.netAt net).state = .closed) : Ends (.bndrn h) s s.me := by
  have hstay : s.settleNet net = s := settleNet_stays (.inl (by rw [hc]; exact NetState.noConfusion))
  rw [Ends, exec_bndrn hn hs]
  simp only [bndrnOut, hc, hstay]
  exact finish_done_same s hx

theorem bndrn_empty (ho : (s.netAt net).state = .opened) (ht : (s.netAt net).tokens = [])
    (hfree : ∀ c u, (s.slotAt c u).hold ≠ .drain net) : EndsIn (.bndrn h) s (s.setNet net
      { s.netAt net with state := .closed, closer := some (s.cur, s.slot), byReset := false }) := by
  have hsettle : (s.setNet net ((s.netAt net).drains s.place)).settleNet net = s.setNet net
      { s.netAt net with state := .closed, closer := some (s.cur, s.slot), byReset := false } := by
    rw [settleNet_closes (by rw [netAt_setNet_self]; rfl) (by rw [netAt_setNet_self]; exact ht), netAt_setNet_self,
      setNet_setNet]
    exact endDrain_unheld hfree
  rw [EndsIn, exec_bndrn hn hs, bndrnOut_closes ho hsettle (by rw [netAt_setNet_self])]
  exact finish_done_placed hx rfl

theorem bndrn_holds (ho : (s.netAt net).state = .opened) (ht : (s.netAt net).tokens ≠ []) :
    ∃ t, exec (.bndrn h) s = .next t ∧ (t.netAt net).state = .draining ∧
      t.me = { s.me with hold := .drain net } ∧ t.mem = s.mem := by
  let v := s.setNet net ((s.netAt net).drains s.place)
  have hv : (v.netAt net).state = .draining := congrArg Net.state (netAt_setNet_self ..)
  have hsettle : v.settleNet net = v := settleNet_stays (.inr (by rw [netAt_setNet_self]; exact ht))
  have hexec := exec_bndrn hn hs
  rw [bndrnOut_holds ho hsettle hv, finish_hold _ hx] at hexec
  exact ⟨_, hexec, hv, me_setMe .., rfl⟩

end

/-! ## Clearing, saving and loading a closed network (R227, R229) -/

theorem wake_place (s : State) (c t : Nat) : (s.wake c t).place = s.place := rfl

theorem advance_place (s : State) (c t : Nat) : (s.advance c t).place = s.place := rfl

theorem openNet_place (s : State) (net : Nat) : (s.openNet net).place = s.place := by
  unfold State.openNet
  refine (foldl_keeps State.place _ (fun u x => ?_) _ _).trans rfl
  rw [advance_place, enterToken_place, wake_place]

theorem tknWaiters_none {s : State} (net : Nat) (hw : ∀ e ∈ s.edges, ∀ c u, e.party = .task c u →
    ∀ m q r, (s.slotAt c u).wait ≠ some (.tkn m q r)) : s.tknWaiters net = [] := by
  refine List.filterMap_eq_nil_iff.mpr fun e he => ?_
  split
  next c u hp =>
    split
    next m q r hwait => exact absurd hwait (hw e he c u hp m q r)
    next => rfl
  all_goals rfl

/-- A network at whose entry no task waits only opens. -/
theorem openNet_unawaited {s : State} {net : Nat} (hw : s.tknWaiters net = []) : s.openNet net =
    s.setNet net { s.netAt net with state := .opened, closer := none, byReset := false } := by
  rw [State.openNet, hw]
  rfl

section
variable {s : State} {h : BitVec 3} {net : Nat} (hx : HasNext s) (hn : NamesNet s h net) (hs : s.me.sup = true)
  (hc : (s.netAt net).state = .closed)
include hn hs hc

theorem exec_bnsav_paid {a : BitVec 4} {s1 : State} (ha : (s.me.readA a).toNat % 16 = 0)
    (hq : s.quiet s.cur s.slot = true) (hf : s.bulkFault s.cur (.store []) (s.me.readA a) 7 16 = none)
    (hp : Paid s s1 (.store []) (s.me.readA a) 112 64) :
    exec (.bnsav h a) s = finish s (.done (State.bulkPut 7 s1 s1.cur (s.me.readA a) (s.netAt net).image)) := by
  show execBnsav h a s = _
  simp only [execBnsav, privileged_sup _ _ _ hs, onClosed_closed _ _ hn hc, ha, settled_quiet _ hq, hf,
    metered_paid _ hp, ne_eq, not_true_eq_false, if_false]

theorem bnload_reserved {a : BitVec 4} {bs : List Byte} (ha : (s.me.readA a).toNat % 16 = 0)
    (hq : s.quiet s.cur s.slot = true) (hb : s.bulkRead s.cur (s.me.readA a) 112 = .ok bs)
    (hl : (s.netAt net).load bs = none) : Traps (.bnload h a) s (netTrap h 5 0x14) := by
  refine traps_of_privileged rfl hs ?_
  simp only [onClosed_closed _ _ hn hc, ha, settled_quiet _ hq, hb, hl, ne_eq, not_true_eq_false, if_false]

theorem exec_bnload_paid {a : BitVec 4} {s1 : State} {bs : List Byte} {n : Net} (ha : (s.me.readA a).toNat % 16 = 0)
    (hq : s.quiet s.cur s.slot = true) (hb : s.bulkRead s.cur (s.me.readA a) 112 = .ok bs)
    (hl : (s.netAt net).load bs = some n) (he : n.exh = false) (hp : Paid s s1 .load (s.me.readA a) 112 16) :
    exec (.bnload h a) s = finish s (.done ((s1.setNet net n).openNet net)) := by
  show execBnload h a s = _
  simp only [execBnload, privileged_sup _ _ _ hs, onClosed_closed _ _ hn hc, ha, settled_quiet _ hq, hb, hl, he,
    metered_paid _ hp, ne_eq, not_true_eq_false, Bool.false_eq_true, if_false]

include hx

theorem bnclr_opens (hw : ∀ e ∈ s.edges, ∀ c u, e.party = .task c u →
    ∀ m q r, (s.slotAt c u).wait ≠ some (.tkn m q r)) : ∃ t, exec (.bnclr h) s = .next t ∧
      t.me = s.me.advance ∧ t.mem = s.mem ∧ (t.netAt net).state = .opened ∧ (t.netAt net).toggles = 0 ∧
      (t.netAt net).exits = Vector.replicate 16 0 ∧ (t.netAt net).lost = 0 ∧ (t.netAt net).exh = false := by
  let n : Net := { s.netAt net with toggles := 0, exits := Vector.replicate 16 0, lost := 0, exh := false }
  let n' : Net := { n with state := .opened, closer := none, byReset := false }
  have hopen : (s.setNet net n).openNet net = s.setNet net n' := by
    rw [openNet_unawaited (s := s.setNet net n) (tknWaiters_none net hw), netAt_setNet_self, setNet_setNet]
  have hexec : exec (.bnclr h) s = .next ((s.setNet net n').setMe s.me.advance) := by
    show execBnclr h s = _
    rw [execBnclr, privileged_sup _ _ _ hs, onClosed_closed _ _ hn hc, hopen, finish_done_me s _ hx]
    rfl
  have hnet : ((s.setNet net n').setMe s.me.advance).netAt net = n' := netAt_setNet_self s net n'
  refine ⟨_, hexec, me_setMe .., rfl, ?_⟩
  rw [hnet]
  exact ⟨rfl, rfl, rfl, rfl, rfl⟩

theorem bnsav_saves {a : BitVec 4} {s1 : State} (ha : (s.me.readA a).toNat % 16 = 0)
    (hq : s.quiet s.cur s.slot = true) (hf : s.bulkFault s.cur (.store []) (s.me.readA a) 7 16 = none)
    (hp : Paid s s1 (.store []) (s.me.readA a) 112 64) :
    EndsIn (.bnsav h a) s (State.bulkPut 7 s1 s.cur (s.me.readA a) (s.netAt net).image) := by
  have hcur : s1.cur = s.cur := congrArg Prod.fst (paid_place hp)
  rw [EndsIn, exec_bnsav_paid hn hs hc ha hq hf hp, hcur]
  exact finish_done_placed hx ((bulkPut_place ..).trans (paid_place hp))

theorem bnload_loads {a : BitVec 4} {s1 : State} {bs : List Byte} {n : Net} (ha : (s.me.readA a).toNat % 16 = 0)
    (hq : s.quiet s.cur s.slot = true) (hb : s.bulkRead s.cur (s.me.readA a) 112 = .ok bs)
    (hl : (s.netAt net).load bs = some n) (he : n.exh = false) (hp : Paid s s1 .load (s.me.readA a) 112 16) :
    EndsIn (.bnload h a) s ((s1.setNet net n).openNet net) := by
  rw [EndsIn, exec_bnload_paid hn hs hc ha hq hb hl he hp]
  exact finish_done_placed hx ((openNet_place (s1.setNet net n) net).trans (paid_place (s1 := s1) hp))

end

/-! ## A token alone in its network (R220, R221) -/

theorem before_self (x : NetToken) : x.before x = false := by simp [NetToken.before]

/-- A token alone in its network moves: it got to its place in an earlier tick, and its core goes on or is still owed
its value (R221, R230). -/
theorem tokenMoves_alone {s : State} {n : Net} {x : NetToken} (hx : n.tokens = [x])
    (hsince : x.since.toNat < s.tick.toNat) (hlive : (s.coreAt x.core).stop = .halted →
      ∃ y ∈ (s.slotAt x.core x.slot).tkns, y.1 = x.id)
    (hpassed : x.layer < 10 → n.passed = []) : s.tokenMoves n x = true := by
  have hlive' : (s.coreAt x.core).stop ≠ .halted ∨ ∃ y ∈ (s.slotAt x.core x.slot).tkns, y.1 = x.id := by
    by_cases hstop : (s.coreAt x.core).stop = .halted
    · exact .inr (hlive hstop)
    · exact .inl hstop
  have hpass : (decide (x.layer < 10) && n.passed.contains (balancerOf x.layer x.wire)) = false := by
    by_cases hlayer : x.layer < 10
    · rw [hpassed hlayer]
      simp
    · simp [hlayer]
  simp only [State.tokenMoves, hx, hpass, List.any_cons, List.any_nil, before_self]
  simpa [hsince] using hlive'

/-- The two wires of a balancer: the lower one, and the other, which the mask of the layer joins with it (R220). -/
theorem lowerWire_xor (layer wire : Nat) : lowerWire layer wire ^^^ layerMask layer =
    max wire (wire ^^^ layerMask layer) := by
  have hinv : wire ^^^ layerMask layer ^^^ layerMask layer = wire := Nat.xor_xor_cancel_right ..
  unfold lowerWire
  rcases le_total wire (wire ^^^ layerMask layer) with hle | hle
  · rw [min_eq_left hle, max_eq_right hle]
  · rw [min_eq_right hle, max_eq_left hle, hinv]

/-- The wire on which a token leaves the balancer before it (R221). -/
def Net.outWire (n : Net) (layer wire : Nat) : Nat :=
  if n.toggles.getLsbD (balancerOf layer wire) then max wire (wire ^^^ layerMask layer)
  else min wire (wire ^^^ layerMask layer)

theorem outWire_mem (n : Net) (layer wire : Nat) :
    n.outWire layer wire = wire ∨ n.outWire layer wire = wire ^^^ layerMask layer := by
  unfold Net.outWire
  split
  · exact max_choice ..
  · exact min_choice ..

theorem passToken_alone {n : Net} {x : NetToken} (hx : n.tokens = [x]) (tick : BitVec 64) :
    (n.passToken x tick).tokens =
      [{ x with wire := n.outWire x.layer x.wire, layer := x.layer + 1, since := tick }] := by
  simp [Net.passToken, hx, lowerWire_xor, Net.outWire]
  rfl

/-- A pass inverts the toggle of its balancer and no other (R221). -/
theorem passToken_toggles (n : Net) (x : NetToken) (tick : BitVec 64) {i : Nat} (hi : i < 80) :
    (n.passToken x tick).toggles.getLsbD i =
      (n.toggles.getLsbD i != decide (i = balancerOf x.layer x.wire)) := by
  have hbit : (1#80 <<< balancerOf x.layer x.wire).getLsbD i = decide (i = balancerOf x.layer x.wire) := by
    rw [Bool.eq_iff_iff]
    simp [hi]
    omega
  rw [Net.passToken, BitVec.getLsbD_xor, hbit]

section
variable {s : State} {net : Nat} {x : NetToken} (hx : (s.netAt net).tokens = [x])
  (hsince : x.since.toNat < s.tick.toNat)
  (hlive : (s.coreAt x.core).stop = .halted → ∃ y ∈ (s.slotAt x.core x.slot).tkns, y.1 = x.id)
include hx hsince hlive

theorem exec_balancerPass_alone (hlayer : x.layer < 10) (hpassed : (s.netAt net).passed = []) :
    exec (.balancerPass net x.id) s = .next (s.setNet net ((s.netAt net).passToken x s.tick)) := by
  have hmoves := tokenMoves_alone hx hsince hlive fun _ => hpassed
  show execBalancerPass net x.id s = _
  simp [execBalancerPass, hx, hlayer, hmoves]

end

/-! ## The exit (R222, R226) -/

/-- A slot that is owed the value of a token, as it takes it (R222). -/
def Slot.takesValue (x : Slot) (id : Nat) (d : BitVec 5) (v : Nat) : Slot :=
  { x with tkns := x.tkns.filter fun y => y.1 != id }.writeG d (BitVec.ofNat 64 v)

theorem takeHeldTraps_none {s : State} {c t : Nat} (h : ∀ ts, (s.slotAt c t).hold ≠ .trapping ts) :
    s.takeHeldTraps c t = s := by
  have htraps : (s.slotAt c t).traps = [] := by
    unfold Slot.traps
    split
    next ts hts => exact absurd hts (h ts)
    next => rfl
  exact if_neg fun hh => hh.2 htraps

/-- A value goes to the register that is owed it. -/
theorem tokenValue_owed {s : State} (net : Nat) {x : NetToken} (v : Nat) {d : BitVec 5}
    (hd : (s.slotAt x.core x.slot).tkns.find? (fun y => y.1 == x.id) = some (x.id, d))
    (ht : ∀ ts, (s.slotAt x.core x.slot).hold ≠ .trapping ts) : s.tokenValue net x v =
      s.setSlot x.core x.slot ((s.slotAt x.core x.slot).takesValue x.id d v) := by
  simp only [State.tokenValue, hd]
  refine takeHeldTraps_none fun ts => ?_
  rw [slotAt_setSlot_self, Slot.writeG_hold]
  exact ht ts

/-- A network as its only token leaves it on a wire: the counter of the wire goes up (R222). -/
def Net.counted (n : Net) (wire : Nat) (v : BitVec 48) : Net :=
  { n with exits := n.exits.setIfInBounds wire (v + 1), tokens := [] }

theorem counted_exits {n : Net} {wire : Nat} {v : BitVec 48} (hv : n.exits[wire]? = some v) :
    (n.counted wire v).exits[wire]? = some (v + 1) := by
  obtain ⟨hlt, -⟩ := Vector.getElem?_eq_some_iff.mp hv
  exact Vector.getElem?_setIfInBounds_self_of_lt hlt

/-- The state as a token has left its network, which is still to settle. -/
def State.exited (s : State) (net : Nat) (x : NetToken) (d : BitVec 5) (v : BitVec 48) : State :=
  (s.setNet net ((s.netAt net).counted x.wire v)).setSlot x.core x.slot
    ((s.slotAt x.core x.slot).takesValue x.id d (16 * v.toNat + x.wire))

section
variable {s : State} {net : Nat} {x : NetToken} {d : BitVec 5} {v : BitVec 48}

theorem exited_netAt : (s.exited net x d v).netAt net = (s.netAt net).counted x.wire v :=
  netAt_setNet_self s net _

theorem exited_slotAt_self : (s.exited net x d v).slotAt x.core x.slot =
    (s.slotAt x.core x.slot).takesValue x.id d (16 * v.toNat + x.wire) := slotAt_setSlot_self ..

theorem exited_slotAt_other {c u : Nat} (h : ¬(c = x.core ∧ u = x.slot)) :
    (s.exited net x d v).slotAt c u = s.slotAt c u := by
  rw [State.exited, slotAt_setSlot, if_neg h]
  rfl

variable (hx : (s.netAt net).tokens = [x]) (hsince : x.since.toNat < s.tick.toNat)
  (hlive : (s.coreAt x.core).stop = .halted → ∃ y ∈ (s.slotAt x.core x.slot).tkns, y.1 = x.id)
  (hwire : x.wire < 16) (hlayer : x.layer = 10)
  (hd : (s.slotAt x.core x.slot).tkns.find? (fun y => y.1 == x.id) = some (x.id, d))
  (ht : ∀ ts, (s.slotAt x.core x.slot).hold ≠ .trapping ts) (hv : (s.netAt net).exits[x.wire]? = some v)
  (hlt : v.toNat + 1 < 2 ^ 47)
include hx hsince hlive hwire hlayer hd ht hv hlt

theorem exec_tknTokenExit_alone :
    exec (.tknTokenExit net x.id) s = .next ((s.exited net x d v).settleNet net) := by
  have hmoves := tokenMoves_alone hx hsince hlive fun h => absurd h (by omega)
  have hgoes : ¬(x.layer < 10 ∨ (!s.tokenMoves (s.netAt net) x) = true) := by simp [hlayer, hmoves]
  have hfind : (s.netAt net).tokens.find? (fun y => y.id == x.id) = some x := by simp [hx]
  have hleft : (s.netAt net).tokens.filter (fun y => y.id != x.id) = [] := by simp [hx]
  have hcount : (s.netAt net).exits.toList.getD x.wire 0 = v := by
    rw [List.getD_eq_getElem?_getD, Vector.getElem?_toList, hv]
    rfl
  have hvalue := tokenValue_owed (s := s.setNet net ((s.netAt net).counted x.wire v)) net
    (16 * v.toNat + x.wire) hd ht
  have hmax : (v + 1).toNat ≠ 2 ^ 47 := by
    rw [BitVec.toNat_add]
    simp
    omega
  unfold Net.counted at hvalue
  show execTknTokenExit net x.id s = _
  simp only [execTknTokenExit, hfind, hleft, if_neg hgoes, Nat.mod_eq_of_lt hwire, hcount, hvalue, hmax, false_and,
    if_false]
  rfl

/-- A token that leaves a draining network as its last one closes it, and the slots that the drain held go on (R226,
R229). -/
theorem tknTokenExit_leaves (hfree : (s.slotAt x.core x.slot).hold ≠ .drain net ∨ (s.netAt net).state = .opened) :
    ∃ s', exec (.tknTokenExit net x.id) s = .next s' ∧ s'.mem = s.mem ∧ (s'.netAt net).tokens = [] ∧
      (s'.netAt net).exits[x.wire]? = some (v + 1) ∧
      s'.slotAt x.core x.slot = (s.slotAt x.core x.slot).takesValue x.id d (16 * v.toNat + x.wire) ∧
      ((s.netAt net).state = .opened → (s'.netAt net).state = .opened) ∧
      ((s.netAt net).state = .draining → (s'.netAt net).state = .closed ∧
        ∀ c u, ¬(c = x.core ∧ u = x.slot) → (s.slotAt c u).hold = .drain net →
          s'.slotAt c u = { s.slotAt c u with hold := .none }.advance) := by
  have hexec := exec_tknTokenExit_alone hx hsince hlive hwire hlayer hd ht hv hlt
  refine ⟨_, hexec, mem_of_next hexec rfl, ?_⟩
  by_cases hst : (s.netAt net).state = .draining
  · have hdrains : ((s.exited net x d v).netAt net).state = .draining := (congrArg Net.state exited_netAt).trans hst
    have hempty : ((s.exited net x d v).netAt net).tokens = [] := congrArg Net.tokens exited_netAt
    have hhold : (s.slotAt x.core x.slot).hold ≠ .drain net :=
      hfree.resolve_right (by rw [hst]; exact NetState.noConfusion)
    rw [settleNet_netAt hdrains hempty, exited_netAt]
    refine ⟨rfl, counted_exits hv, ?_, fun ho => absurd (hst.symm.trans ho) NetState.noConfusion, fun _ => ⟨rfl,
      fun c u hne hh => ?_⟩⟩
    · rw [settleNet_slotAt hdrains hempty, exited_slotAt_self]
      exact afterDrain_free (by rwa [Slot.takesValue, Slot.writeG_hold])
    · rw [settleNet_slotAt hdrains hempty, exited_slotAt_other hne, afterDrain_held hh]
  · have hstays : (s.exited net x d v).settleNet net = s.exited net x d v :=
      settleNet_stays (.inl (by rw [exited_netAt]; exact hst))
    rw [hstays, exited_netAt]
    exact ⟨rfl, counted_exits hv, exited_slotAt_self, id, fun h => absurd h hst⟩

end

/-! ## The statement -/

/-- Settles O33: an instruction by what its handle names, a pass and an exit by the network that a token alone in it
leaves, and the end of a drain slot by slot. -/
theorem networks : Obligations.Networks := by
  unfold Obligations.Networks
  refine ⟨fun s d h a hx hv ho hm => ?_, fun s d h a => ?_,
    fun s net id c t wire d layer since hwire htoks hsince hlive ht => ?_⟩
  · have hn : NamesNet s h ((s.handle h).toNat % 32) := ⟨hv, rfl, ho, hm⟩
    exact ⟨tkn_enters hx hn d, tkn_waits hx hn d, tkn_exhausted hn d, fun hs => ⟨bndrn_closed hx hn hs,
      bndrn_empty hx hn hs, bndrn_holds hx hn hs, bnclr_opens hx hn hs, fun hc ha hq =>
      ⟨fun hf _ hp => bnsav_saves hx hn hs hc ha hq hf hp, fun hf => ⟨_, bulkRead_ok hf, fun _ _ hl he hp =>
        bnload_loads hx hn hs hc ha hq (bulkRead_ok hf) hl he hp⟩⟩⟩⟩
  · refine ⟨fun hv => handle_traps (why := 1) d a fun fn k => withHandle_invalid fn k hv,
      fun hv ho => handle_traps (why := 3) d a fun fn k => withHandle_foreign fn k hv ho, fun hv ho hm hs => ?_⟩
    have hn : NamesNet s h ((s.handle h).toNat % 32) := ⟨hv, rfl, ho, hm⟩
    exact ⟨unclosed_traps a hn hs, unaligned_traps hn hs, fun hc ha hq _ hb hl => bnload_reserved hn hs hc ha hq hb hl⟩
  · let x : NetToken := ⟨id, wire, layer, since, c, t⟩
    have hx : (s.netAt net).tokens = [x] := htoks
    refine ⟨fun hlayer hpassed => ?_, fun hlayer hd v hv hlt hfree =>
      tknTokenExit_leaves hx hsince hlive hwire hlayer hd ht hv hlt hfree⟩
    refine ⟨_, exec_balancerPass_alone hx hsince hlive hlayer hpassed, rfl, (s.netAt net).outWire layer wire, ?_,
      outWire_mem _ layer wire, fun hb => if_neg (by rw [hb]; decide), fun hb => if_pos hb, fun i hi => ?_⟩
    · rw [netAt_setNet_self, passToken_alone hx]
    · rw [netAt_setNet_self, passToken_toggles _ _ _ hi]

end Sys2Proof.Machine
end

section
/-! SUPPORT. What starting an access leaves (R240, R241, R246). -/

namespace Sys2Proof.Machine

open Sys2Proof

/-- An access but for its number and what its translation fills in. -/
def Acc.given (a : Acc) : Acc := { a with id := 0, stage := .lookup, asid := 0, pa := 0, level := 0, clg := 0 }

/-- A state but for its cores and its accesses in flight. -/
def State.surround (s : State) : State := { s with cores := [], accs := [], nextAcc := 0 }

/-- The state t is s with one access more, x, which is a under the next number and as the micro-TLB translates it. -/
structure Starts (s t : State) (a x : Acc) : Prop where
  accs : t.accs = s.accs ++ [x]
  id : x.id = s.nextAcc
  given : x.given = a.given
  next : t.nextAcc = s.nextAcc + 1
  core : ∀ c, ∃ l, t.coreAt c = { s.coreAt c with utlb := l }
  surround : t.surround = s.surround

/-- Starting an access starts it and, beside it, changes the micro-TLB alone (R241). -/
theorem startAcc_starts (s : State) (a : Acc) : ∃ x, Starts s (s.startAcc a) a x := by
  unfold State.startAcc
  simp only []
  split
  · split
    · refine ⟨_, rfl, rfl, rfl, rfl, fun c => ?_, rfl⟩
      show ∃ l, (State.setCore _ a.core _).coreAt c = _
      rw [coreAt_setCore]
      split
      · subst c; exact ⟨_, rfl⟩
      · exact ⟨_, rfl⟩
    · exact ⟨_, rfl, rfl, rfl, rfl, fun c => ⟨_, rfl⟩, rfl⟩
  · exact ⟨_, rfl, rfl, rfl, rfl, fun c => ⟨_, rfl⟩, rfl⟩

namespace Starts

variable {s t : State} {a x : Acc} (h : Starts s t a x)
include h

/-- What is observed of the state outside its cores and accesses stands. -/
theorem around {α : Type} (f : State → α) : f t.surround = f s.surround := congrArg f h.surround

/-- What is observed of the access beside its number and translation is as given. -/
theorem field {α : Type} (f : Acc → α) : f x.given = f a.given := congrArg f h.given

theorem slotAt (c u : Nat) : t.slotAt c u = s.slotAt c u := by
  obtain ⟨l, hl⟩ := h.core c
  rw [State.slotAt, hl]
  rfl

theorem winAt (c w : Nat) : t.winAt c w = s.winAt c w := by
  obtain ⟨l, hl⟩ := h.core c
  rw [State.winAt, hl]
  rfl

theorem wstore (c : Nat) : (t.coreAt c).wstore = (s.coreAt c).wstore := by
  obtain ⟨l, hl⟩ := h.core c
  rw [hl]

theorem cur : t.cur = s.cur := h.around State.cur

theorem slot : t.slot = s.slot := h.around State.slot

theorem mem : t.mem = s.mem := h.around State.mem

theorem me : t.me = s.me := by
  rw [State.me, h.cur, h.slot]
  exact h.slotAt ..

/-- Whether memory has left service is asked of the dies, which stand. -/
theorem goesOn (y : Acc) : t.goesOn y = s.goesOn y := by
  have hd : t.dies = s.dies := h.around State.dies
  have hp : t.pkg = s.pkg := h.around State.pkg
  rw [State.goesOn, State.goesOn, State.outOfService, State.outOfService, State.lostMemory, State.lostMemory,
    State.dieAt, State.dieAt, hd, hp]

/-- The number of an access that has just started names it, where no other has it. -/
theorem accAt (hid : ∀ y ∈ s.accs, y.id ≠ s.nextAcc) : t.accAt s.nextAcc = some x := by
  have hnone : s.accs.find? (fun y => y.id == s.nextAcc) = none :=
    List.find?_eq_none.mpr fun y hy => by simpa using hid y hy
  simp [State.accAt, h.accs, List.find?_append, hnone, h.id]

end Starts

end Sys2Proof.Machine
end

section
/-! SUPPORT. The statement about the start of an access (R243, R246, R252, R262). -/

namespace Sys2Proof.Machine

open Sys2Proof

/-! ## A scalar access (R246) -/

section
variable {s : State} {op : AccOp} {va : Addr} {n : Nat} {code : BitVec 3} {o : Order} {dest : Dest}

/-- A misaligned access traps before anything else is asked (R243). -/
theorem access_misaligned (h : va.toNat % n ≠ 0) : access op va n code o dest s = .trap (memTrap 7 7 code va) := by
  simp [access, aligned, h]

/-- Behind an acquiring load that is still to return an access holds (R246). -/
theorem access_acquiring (ha : va.toNat % n = 0) (h : s.me.loads.any (·.acq) = true) :
    access op va n code o dest s = .moved (s.holdAgain .acquire) := by
  simp only [access, aligned, ha, h, decide_true, Bool.not_true, Bool.false_eq_true, if_true, if_false]

/-- At a limit of accesses in flight an access holds (R246). -/
theorem access_limit (ha : va.toNat % n = 0) (hacq : s.me.loads.any (·.acq) = false)
    (h : s.belowLimit s.cur s.slot = false) : access op va n code o dest s = .moved (s.holdAgain .limit) := by
  simp only [access, aligned, ha, hacq, h, decide_true, Bool.not_true, Bool.not_false, Bool.false_eq_true, if_true,
    if_false]

/-- An access that nothing holds back starts, and leaves its task or holds it (R241, R246). -/
theorem access_starts (ha : va.toNat % n = 0) (hacq : s.me.loads.any (·.acq) = false)
    (hb : s.belowLimit s.cur s.slot = true) (hid : ∀ y ∈ s.accs, y.id ≠ s.nextAcc) :
    ∃ t x, Starts s t (scalarAcc s op va n code o dest) x ∧ access op va n code o dest s =
      if s.goesOn x || (dest == .none && s.postedMay s.cur op va.toNat n && x.stage != .translated)
      then .done (t.setMe (s.me.expect x)) else .hold (t.setMe { s.me with hold := .access s.nextAcc }) := by
  obtain ⟨x, hx⟩ := startAcc_starts s (scalarAcc s op va n code o dest)
  refine ⟨_, x, hx, ?_⟩
  simp only [access, aligned, ha, hacq, hb, hx.accAt hid, hx.goesOn, hx.me, decide_true, Bool.not_true,
    Bool.false_eq_true, if_false]

end

/-! ## Fences and releases before it (R252, R262) -/

/-- With no FENCE.rel pending nothing is waited for. -/
theorem fenced_none {s : State} (k : State → Out) (h : s.me.fenceRel = none) : fenced s k = k s := by
  simp [fenced, h]

/-- The condition of a FENCE.rel fails while an access before its mark is in flight (R252). -/
theorem fencePassed_false {s : State} {c t n : Nat} (h : (s.slotAt c t).fenceRel = some n)
    (hx : ∃ x ∈ s.accs, x.holder = s.holderOf c t ∧ x.id < n) : s.fencePassed c t = false := by
  simpa [State.fencePassed, h] using hx

theorem fencePassed_true {s : State} {c t n : Nat} (h : (s.slotAt c t).fenceRel = some n)
    (hx : ∀ x ∈ s.accs, x.holder = s.holderOf c t → n ≤ x.id) : s.fencePassed c t = true := by
  simpa [State.fencePassed, h] using hx

/-- Behind a FENCE.rel whose accesses are not all performed an instruction holds (R252). -/
theorem fenced_waits {s : State} (k : State → Out) {n : Nat} (h : s.me.fenceRel = some n)
    (hx : ∃ x ∈ s.accs, x.holder = s.holderOf s.cur s.slot ∧ x.id < n) : fenced s k = .moved (s.holdAgain .rel) := by
  simp [fenced, h, fencePassed_false h hx]

/-- Ending claims takes no memory out of service. -/
theorem releaseClaims_fenced (s : State) (h : Holder) (d : Nat) :
    ((s.releaseClaims h).dieAt d).fenced = (s.dieAt d).fenced :=
  foldl_keeps (fun u => (u.dieAt d).fenced) _ (fun u e => by
    simp only [dieAt_setDie]
    split
    · subst d; rfl
    · rfl) _ s

theorem releaseClaims_goesOn (s : State) (h : Holder) (y : Acc) : (s.releaseClaims h).goesOn y = s.goesOn y := by
  obtain ⟨ds, hd⟩ := releaseClaims_only s h
  have hp : (s.releaseClaims h).pkg = s.pkg := by rw [hd]; rfl
  rw [State.goesOn, State.goesOn, State.outOfService, State.outOfService, State.lostMemory, State.lostMemory,
    releaseClaims_fenced, hp]

/-! ## What an instruction that starts an access leaves -/

/-- An instruction starts one access and no more, and either holds its task for it or leaves the slot `going` past the
instruction: once the access needs no more of its task, or at once where it is posted to a page that permits it (R241,
R246). -/
def StartsOne (i : Instr) (s : State) (what : AccOp) (va : Addr) (n : Nat) (code : BitVec 3) (o : Order) (dest : Dest)
    (going : Slot) : Prop :=
  ∃ t x, exec i s = .next t ∧ t.accs = s.accs ++ [x] ∧ x.id = s.nextAcc ∧ x.core = s.cur ∧
    x.holder = s.holderOf s.cur s.slot ∧ x.site = s.siteOf s.cur s.slot ∧ x.op = what ∧ x.va = va ∧ x.size = n ∧
    x.code = code ∧ x.dest = dest ∧ x.rel = (Order.release o).isSome ∧ x.acq = Order.acquire o ∧ t.mem = s.mem ∧
    (∀ c u, t.winAt c u = s.winAt c u) ∧
    (t.me = going.advance ∨ t.me = { s.me with hold := .access s.nextAcc }) ∧
    (x.stage = .translated → x.clg = 0 → s.outOfService x = false → t.me = going.advance) ∧
    (x.stage ≠ .translated → (dest = .none → s.postedMay s.cur what va.toNat n = false) →
      t.me = { s.me with hold := .access s.nextAcc }) ∧
    (x.stage ≠ .translated → dest = .none → s.postedMay s.cur what va.toNat n = true → t.me = going.advance)

theorem expect_none {sl : Slot} {x : Acc} (h : x.dest = .none) : sl.expect x = sl := by
  simp [Slot.expect, h]

theorem expect_reg {sl : Slot} {x : Acc} {u : Nat} {d : BitVec 5} {sg : Bool} (h : x.dest = .reg u d sg) :
    sl.expect x = { sl with loads := sl.loads ++ [⟨x.id, d, x.acq⟩] } := by
  simp [Slot.expect, h]

/-- Nothing holds an access of the issuing slot back: it has a successor, is below its limits and waits for no acquire,
and no access has the next number (R246). -/
structure MayStart (s : State) : Prop where
  next : HasNext s
  below : s.belowLimit s.cur s.slot = true
  acquired : ∀ l ∈ s.me.loads, l.acq = false
  fresh : ∀ y ∈ s.accs, y.id ≠ s.nextAcc

section
variable {i : Instr} {s : State} {what : AccOp} {va : Addr} {n : Nat} {code : BitVec 3} {o : Order} {dest : Dest}
  {going : Slot}

/-- An instruction that comes to an access, in its own state or in one with claims ended, starts one. -/
theorem startsOne_of_access {ds : Table Die} (hs : MayStart s) (hw : writesMem i = false) (ha : va.toNat % n = 0)
    (hi : exec i s = finish s (access what va n code o dest (s.setDies ds)))
    (hout : ∀ y, (s.setDies ds).goesOn y = s.goesOn y)
    (hmay : dest = .none → (s.setDies ds).postedMay s.cur what va.toNat n = s.postedMay s.cur what va.toNat n)
    (hgo : ∀ x : Acc, x.id = s.nextAcc → x.dest = dest → x.acq = Order.acquire o → s.me.expect x = going) :
    StartsOne i s what va n code o dest going := by
  obtain ⟨hn, hb, hacq, hid⟩ := hs
  have hacq' : s.me.loads.any (·.acq) = false := List.any_eq_false.mpr fun l hl => by simp [hacq l hl]
  obtain ⟨t, x, hx, hacc⟩ := access_starts (s := s.setDies ds) (op := what) (code := code) (o := o) (dest := dest) ha
    hacq' hb hid
  have hfield {α : Type} (f : Acc → α) : f x.given = f (scalarAcc s what va n code o dest).given := hx.field f
  have hexp := hgo x hx.id (hfield Acc.dest) (hfield Acc.acq)
  have hme : s.me.expect x = (s.setDies ds).me.expect x := rfl
  generalize hcond : ((s.setDies ds).goesOn x ||
    (dest == .none && (s.setDies ds).postedMay (s.setDies ds).cur what va.toNat n && x.stage != .translated)) = cond
    at hacc
  rw [hout] at hcond
  have hend : ∃ y, exec i s = .next (t.setMe y) ∧ ((cond = true ∧ y = going.advance) ∨
      (cond = false ∧ y = { s.me with hold := .access s.nextAcc })) := by
    rw [hi, hacc]
    cases cond with
    | true =>
      refine ⟨going.advance, ?_, .inl ⟨rfl, rfl⟩⟩
      rw [if_pos rfl, finish_done_me _ _ hn, me_setMe, setMe_setMe, ← hme, hexp]
    | false =>
      have hn' : s.me.fallsOut = false := hn
      refine ⟨_, ?_, .inr ⟨rfl, rfl⟩⟩
      rw [if_neg Bool.false_ne_true, finish]
      simp only [hn', Bool.false_eq_true, if_false]
      rfl
  obtain ⟨y, hy, hcases⟩ := hend
  refine ⟨_, x, hy, hx.accs, hx.id, hfield Acc.core, hfield Acc.holder, hfield Acc.site, hfield Acc.op, hfield Acc.va,
    hfield Acc.size, hfield Acc.code, hfield Acc.dest, hfield Acc.rel, hfield Acc.acq, mem_of_next hy hw,
    fun c w => (setMe_winAt ..).trans (hx.winAt c w), ?_⟩
  rw [me_setMe]
  refine ⟨hcases.imp And.right And.right, fun hst hclg hos => ?_, fun hst hno => ?_, fun hst hd hm => ?_⟩
  · have hgoes : s.goesOn x = true := by simp [State.goesOn, hst, hclg, hos]
    rw [hgoes, Bool.true_or] at hcond
    subst hcond
    exact (hcases.resolve_right fun h => Bool.noConfusion h.1).2
  · have hgoes : s.goesOn x = false := by simp [State.goesOn, hst]
    have hposted : (dest == .none && (s.setDies ds).postedMay s.cur what va.toNat n) = false := by
      rw [Bool.and_eq_false_iff, beq_eq_false_iff_ne]
      exact (em (dest = .none)).elim (fun hd => .inr ((hmay hd).trans (hno hd))) .inl
    have hc : cond = false := by
      rw [← hcond, hgoes, Bool.false_or]
      exact Bool.and_eq_false_iff.mpr (.inl hposted)
    subst hc
    exact (hcases.resolve_left fun h => Bool.noConfusion h.1).2
  · have hposted := (hmay hd).trans hm
    have hc : cond = true := by
      rw [← hcond]
      simp [hd, hposted, hst]
    subst hc
    exact (hcases.resolve_right fun h => Bool.noConfusion h.1).2

end

/-! ## The instructions (R247, R249, R251) -/

/-- The issuing slot once it is owed the value of the access that starts now. -/
def State.owed (s : State) (d : BitVec 5) (o : Order) : Slot :=
  { s.me with loads := s.me.loads ++ [⟨s.nextAcc, d, Order.acquire o⟩] }

theorem expect_owed {s : State} {x : Acc} {d : BitVec 5} {o : Order} {u : Nat} {sg : Bool} (hid : x.id = s.nextAcc)
    (hd : x.dest = .reg u d sg) (ha : x.acq = Order.acquire o) : s.me.expect x = s.owed d o := by
  rw [expect_reg hd, hid, ha]
  rfl

/-- An AMO once its release, if it has one, is performed (R251, R262). -/
def amoGo (am : AmoOp) (dbl : Bool) (o : Order) (d : BitVec 5) (a : BitVec 4) (s : State) : Out :=
  access (.amo am (s.me.readG d) (s.me.readG (d + 1))) (s.me.readA a) (if dbl then 8 else 4) 3 o (.reg s.slot d false) s

section
variable {i : Instr} {s : State} {n : Nat} {sg : Bool} {d z : BitVec 5} {a : BitVec 4} {o : Order} {f : BitVec 11}

theorem gld_startsOne (hs : MayStart s) (hi : exec i s = gld n sg d a o f s) (hw : writesMem i = false)
    (ha : (accessAddr (s.me.readA a) f n).toNat % n = 0) :
    StartsOne i s .load (accessAddr (s.me.readA a) f n) n 0 o (.reg s.slot d sg) (s.owed d o) :=
  startsOne_of_access (ds := s.dies) hs hw ha hi (fun _ => rfl) (fun _ => rfl) fun _ => expect_owed

theorem exec_gst (hi : exec i s = gst n z a o f s) (hf : s.me.fenceRel = none) : exec i s =
    finish s (access (.store (bytesOf n (s.me.readG z).toNat)) (accessAddr (s.me.readA a) f n) n 1 o .none s) :=
  hi.trans (congrArg (finish s) (fenced_none _ hf))

theorem gst_startsOne (hs : MayStart s) (hi : exec i s = gst n z a o f s) (hf : s.me.fenceRel = none)
    (hw : writesMem i = false) (ha : (accessAddr (s.me.readA a) f n).toNat % n = 0) :
    StartsOne i s (.store (bytesOf n (s.me.readG z).toNat)) (accessAddr (s.me.readA a) f n) n 1 o .none s.me :=
  startsOne_of_access (ds := s.dies) hs hw ha (exec_gst hi hf) (fun _ => rfl) (fun _ => rfl)
    fun _ _ hd _ => expect_none hd

/-- A store behind a FENCE.rel whose accesses are not all performed holds (R252). -/
theorem gst_fenced {m : Nat} (hi : exec i s = gst n z a o f s) (h : s.me.fenceRel = some m)
    (hx : ∃ x ∈ s.accs, x.holder = s.holderOf s.cur s.slot ∧ x.id < m) : Leaves i s (s.holdAgain .rel) := by
  rw [Leaves, hi, gst, fenced_waits _ h hx, finish_moved]

theorem exec_red {op : RedOp} {dbl fast : Bool} {g : Guard} (hf : s.me.fenceRel = none) (hg : s.me.guard g = true) :
    exec (.red op dbl sg fast o d a g) s = finish s (access (.red op sg fast (s.me.readG d)) (s.me.readA a)
      (if dbl then 8 else 4) 2 o .none s) := by
  show execRed op dbl sg fast o d a g s = _
  exact guarded_finish hg (fenced_none _ hf)

theorem red_startsOne {op : RedOp} {dbl fast : Bool} {g : Guard} (hs : MayStart s) (hf : s.me.fenceRel = none)
    (hg : s.me.guard g = true) (ha : (s.me.readA a).toNat % (if dbl then 8 else 4) = 0) :
    StartsOne (.red op dbl sg fast o d a g) s (.red op sg fast (s.me.readG d)) (s.me.readA a) (if dbl then 8 else 4) 2 o
      .none s.me :=
  startsOne_of_access (ds := s.dies) hs rfl ha (exec_red hf hg) (fun _ => rfl) (fun _ => rfl)
    fun _ _ hd _ => expect_none hd

section
variable {am : AmoOp} {dbl : Bool} {g : Guard} (hf : s.me.fenceRel = none) (hg : s.me.guard g = true)
include hf hg

theorem exec_amo : exec (.amo am dbl o d a g) s =
    finish s (if (Order.release o).isSome && aligned (s.me.readA a).toNat (if dbl then 8 else 4)
      then released s (amoGo am dbl o d a) else amoGo am dbl o d a s) := by
  show execAmo am dbl o d a g s = _
  exact guarded_finish hg (fenced_none _ hf)

theorem amo_startsOne (hs : MayStart s) (hq : (Order.release o).isSome = true → s.quiet s.cur s.slot = true)
    (ha : (s.me.readA a).toNat % (if dbl then 8 else 4) = 0) :
    StartsOne (.amo am dbl o d a g) s (.amo am (s.me.readG d) (s.me.readG (d + 1))) (s.me.readA a)
      (if dbl then 8 else 4) 3 o (.reg s.slot d false) (s.owed d o) := by
  have hi := exec_amo (am := am) (dbl := dbl) (o := o) (d := d) (a := a) hf hg
  cases hr : (Order.release o).isSome with
  | true =>
    obtain ⟨ds, hds⟩ := releaseClaims_only s (s.holderOf s.cur s.slot)
    rw [hr, aligned, ha, Bool.true_and, if_pos (decide_eq_true rfl), released_quiet s _ (hq hr), hds] at hi
    exact startsOne_of_access hs rfl ha hi (fun y => hds ▸ releaseClaims_goesOn s _ y) (fun h => Dest.noConfusion h)
      fun _ => expect_owed
  | false =>
    rw [hr, Bool.false_and, if_neg Bool.false_ne_true] at hi
    exact startsOne_of_access (ds := s.dies) hs rfl ha hi (fun _ => rfl) (fun _ => rfl) fun _ => expect_owed

theorem amo_waits (hr : (Order.release o).isSome = true) (hq : s.quiet s.cur s.slot = false)
    (ha : (s.me.readA a).toNat % (if dbl then 8 else 4) = 0) :
    Leaves (.amo am dbl o d a g) s (s.holdAgain .release) := by
  rw [Leaves, exec_amo hf hg, hr, aligned, ha, Bool.true_and, if_pos (decide_eq_true rfl),
    released_busy s _ hq, finish_moved]

end

/-! ## Faults of alignment and holds (R243, R246) -/

theorem gld_misaligned (hi : exec i s = gld n sg d a o f s) (h : (accessAddr (s.me.readA a) f n).toNat % n ≠ 0) :
    Traps i s (memTrap 7 7 0 (accessAddr (s.me.readA a) f n)) := by
  rw [Traps, hi, gld, access_misaligned h, finish_trap]

theorem gst_misaligned (hi : exec i s = gst n z a o f s) (hf : s.me.fenceRel = none)
    (h : (accessAddr (s.me.readA a) f n).toNat % n ≠ 0) :
    Traps i s (memTrap 7 7 1 (accessAddr (s.me.readA a) f n)) := by
  rw [Traps, exec_gst hi hf, access_misaligned h, finish_trap]

theorem belowLimit_iff (s : State) (c t : Nat) : s.belowLimit c t = true ↔
    (s.accs.filter fun x => x.holder == s.holderOf c t).length < 16 ∧
      (s.accs.filter fun x => x.core == c && x.holder.isTask).length < 64 := by
  rw [State.belowLimit, Bool.and_eq_true, decide_eq_true_eq, decide_eq_true_eq]
  rfl

end

/-- Settles O34: an access that starts, by the operation that starts it; and what each check before it answers. -/
theorem accessesStart : Obligations.AccessesStart := by
  unfold Obligations.AccessesStart
  refine ⟨fun s d z a o f op am dbl sg fast g hn hb hacq hid => ?_, fun s z a o f n hf hx => ?_,
    fun s d z a o f hf => ?_⟩
  · have hs : MayStart s := ⟨hn, hb, hacq, hid⟩
    refine ⟨⟨gld_startsOne hs rfl rfl, gld_startsOne hs rfl rfl, gld_startsOne hs rfl rfl, gld_startsOne hs rfl rfl,
      gld_startsOne hs rfl rfl, gld_startsOne hs rfl rfl, gld_startsOne hs rfl rfl⟩,
      fun hf => ⟨gst_startsOne hs rfl hf rfl,
      gst_startsOne hs rfl hf rfl, gst_startsOne hs rfl hf rfl, gst_startsOne hs rfl hf rfl, fun hg =>
      ⟨red_startsOne hs hf hg, fun hq => amo_startsOne hf hg hs hq, amo_waits hf hg⟩⟩⟩
  · exact ⟨gst_fenced rfl hf hx, gst_fenced rfl hf hx, gst_fenced rfl hf hx, gst_fenced rfl hf hx⟩
  · have hbyte := Nat.mod_one (accessAddr (s.me.readA a) f 1).toNat
    refine ⟨fun h => ⟨gld_misaligned rfl h, gld_misaligned rfl h, gst_misaligned rfl hf h⟩,
      fun h => ⟨gld_misaligned rfl h, gld_misaligned rfl h, gst_misaligned rfl hf h⟩,
      fun h => ⟨gld_misaligned rfl h, gst_misaligned rfl hf h⟩, fun h => ⟨?_, ?_⟩, fun hacq hb => ⟨?_, ?_⟩,
      belowLimit_iff ..⟩
    · exact congrArg (finish s) (access_acquiring hbyte h)
    · exact (exec_gst rfl hf).trans (congrArg (finish s) (access_acquiring hbyte h))
    · exact congrArg (finish s) (access_limit hbyte hacq hb)
    · exact (exec_gst rfl hf).trans (congrArg (finish s) (access_limit hbyte hacq hb))

end Sys2Proof.Machine
end

section
/-! SUPPORT. The statement about FENCE, the end of holds and TLBINV (R246, R252, R253, R262). -/

namespace Sys2Proof.Machine

open Sys2Proof

/-! ## FENCE (R252) -/

section
variable {s : State} (x : Scope)

theorem exec_fence_full : exec (.fence .full x) s =
    finish s (released s fun s => .done (s.setMe { s.me with fenceRel := none })) := rfl

theorem fence_full (hn : HasNext s) (hq : s.quiet s.cur s.slot = true) : ∃ u, exec (.fence .full x) s = .next u ∧
    u.me = { s.me with fenceRel := none }.advance ∧ u.mem = s.mem ∧ u.accs = s.accs := by
  obtain ⟨ds, hd⟩ := released_only s (fun s => .done (s.setMe { s.me with fenceRel := none })) hq
  have hexec : exec (.fence .full x) s = finish s (.done ((s.setDies ds).setMe { s.me with fenceRel := none })) :=
    congrArg (finish s) hd
  rw [finish_done_me _ _ hn, me_setMe, setMe_setMe] at hexec
  exact ⟨_, hexec, me_setMe .., mem_of_next hexec rfl, rfl⟩

theorem fence_rel_quiet (hn : HasNext s) (hq : s.quiet s.cur s.slot = true) :
    ∃ u, exec (.fence .rel x) s = .next u ∧ u.me = s.me.advance ∧ u.mem = s.mem := by
  obtain ⟨ds, hd⟩ := releaseClaims_only s (s.holderOf s.cur s.slot)
  have hout : fenceOut .rel s = .done (s.setDies ds) := by rw [fenceOut, if_pos hq, hd]
  have hexec : exec (.fence .rel x) s = finish s (.done (s.setDies ds)) := congrArg (finish s) hout
  rw [finish_done_me _ _ hn] at hexec
  exact ⟨_, hexec, me_setMe .., mem_of_next hexec rfl⟩

theorem fence_rel_busy (hn : HasNext s) (hq : s.quiet s.cur s.slot = false) :
    Ends (.fence .rel x) s { s.me with fenceRel := some s.nextAcc } := by
  have hout : fenceOut .rel s = .done (s.setMe { s.me with fenceRel := some s.nextAcc }) := by
    rw [fenceOut, hq, if_neg Bool.false_ne_true]
  exact (congrArg (finish s) hout).trans (finish_done_setMe s _ hn)

theorem fence_acq_returned (hn : HasNext s) (h : s.me.loads = []) : Ends (.fence .acq x) s s.me := by
  have hout : fenceOut .acq s = .done s := by rw [fenceOut, h]; rfl
  exact (congrArg (finish s) hout).trans (finish_done_same s hn)

theorem fence_acq_owed (h : s.me.loads ≠ []) : Leaves (.fence .acq x) s (s.holdAgain .acquire) := by
  have hout : fenceOut .acq s = .moved (s.holdAgain .acquire) := by
    rw [fenceOut, if_neg (by simpa using h)]
  exact congrArg (finish s) hout

end

/-! ## The end of a hold (R246, R252, R262) -/

section
variable {s : State} {c t : Nat}

theorem releasePerformed_release (h : (s.slotAt c t).hold = .release) :
    exec (.releasePerformed c t) s = .next (if s.quiet c t then s.unhold c t else s) := by
  show execReleasePerformed c t s = _
  simp only [execReleasePerformed, h]

theorem releasePerformed_limit (h : (s.slotAt c t).hold = .limit) :
    exec (.releasePerformed c t) s = .next (if s.belowLimit c t then s.unhold c t else s) := by
  show execReleasePerformed c t s = _
  simp only [execReleasePerformed, h]

theorem releasePerformed_rel (h : (s.slotAt c t).hold = .rel) :
    exec (.releasePerformed c t) s = .next (if s.fencePassed c t then s.unhold c t else s) := by
  show execReleasePerformed c t s = _
  simp only [execReleasePerformed, h]

end

/-! ## Releasing instructions (R262) -/

/-- A releasing instruction holds while an access of its task is not performed, with no effect. -/
theorem waits_released {i : Instr} {s : State} {k : State → Out} (hi : exec i s = finish s (released s k))
    (hq : s.quiet s.cur s.slot = false) : Leaves i s (s.holdAgain .release) := by
  rw [Leaves, hi, released_busy s k hq, finish_moved]

/-- A window operation that releases is released as any other instruction. -/
theorem localOp_releases {op : WinOp} (w : BitVec 4) (d : BitVec 5) (s : State) (h : op.releases = true) :
    localOp w op d s = released s (localGo w op d) := if_pos h

theorem waits_localOp {i : Instr} {s : State} {w : BitVec 4} {op : WinOp} {d : BitVec 5}
    (hi : exec i s = finish s (localOp w op d s)) (h : op.releases = true) (hq : s.quiet s.cur s.slot = false) :
    Leaves i s (s.holdAgain .release) :=
  waits_released (hi.trans (congrArg (finish s) (localOp_releases w d s h))) hq

/-! ## TLBINV (R253) -/

/-- A fold that replaces every listed unit by one of a kind leaves each of them, and each that was one before, of that
kind. -/
theorem foldl_put_all {β : Type} {get : State → Nat → β} {put : State → Nat → β → State}
    (hget : ∀ s c d k, get (put s c k) d = if d = c then k else get s d)
    {g : β → β} {P : β → Prop} (hg : ∀ k, P (g k))
    (l : Table β) (s : State) {c : Nat} (h : c ∈ l.map Prod.fst ∨ P (get s c)) :
    P (get (l.foldl (fun u e => put u e.1 (g (get u e.1))) s) c) := by
  induction l generalizing s with
  | nil => exact h.resolve_left List.not_mem_nil
  | cons e r ih =>
    refine ih _ ?_
    rw [hget]
    by_cases hc : c = e.1
    · rw [if_pos hc]
      exact .inr (hg _)
    · rw [if_neg hc]
      exact h.imp_left fun hm => (List.mem_cons.mp hm).resolve_left hc

/-- A unit that its table does not list is as at reset. -/
theorem tget_unlisted {α : Type} (dflt : α) {m : Table α} {k : Nat} (h : k ∉ m.map Prod.fst) : tget dflt m k = dflt :=
  Classical.byContradiction fun hne => h (List.mem_map.mpr ⟨_, mem_of_tget dflt hne, rfl⟩)

section
variable (s : State) (k : TlbKind) (asid : BitVec 12) (va : Nat)

/-- The micro-TLBs as TLBINV leaves them. -/
def State.dropUtlbs : State := s.cores.foldl (init := s) fun s e =>
  s.setCore e.1 { s.coreAt e.1 with utlb := (s.coreAt e.1).utlb.filter fun x => !tlbMatches k asid va x }

/-- The cluster TLBs as TLBINV leaves them. -/
def State.dropTlbs : State := s.clusters.foldl (init := s) fun s e =>
  s.setCluster e.1 { s.clusterAt e.1 with tlb := (s.clusterAt e.1).tlb.filter fun x => !tlbMatches k asid va x }

/-- The invalidation is those of the micro-TLBs and of the cluster TLBs, and one of the dies. -/
theorem invalidate_only : ∃ ds, s.invalidate k asid va = ((s.dropUtlbs k asid va).dropTlbs k asid va).setDies ds := by
  unfold State.invalidate
  simp only []
  generalize hu : (s.dropUtlbs k asid va).dropTlbs k asid va = u
  suffices h : ∀ (l : Table Die) (u : State), ∃ ds, l.foldl (init := u) (fun s e => s.setDie e.1 { s.dieAt e.1 with
      nodes := (s.dieAt e.1).nodes.filter fun x => x.asid != asid
      walks := (s.dieAt e.1).walks.map fun w => if w.asid = asid then { w with redo := true } else w }) =
        u.setDies ds from
    hu ▸ h _ _
  intro l
  induction l with
  | nil => exact fun u => ⟨u.dies, rfl⟩
  | cons e r ih => exact fun u => ih (u.setDie e.1 _)

theorem dropTlbs_cores : (s.dropTlbs k asid va).cores = s.cores := by
  unfold State.dropTlbs
  refine foldl_keeps State.cores _ (fun _ _ => ?_) _ s
  rfl

theorem dropUtlbs_clusters : (s.dropUtlbs k asid va).clusters = s.clusters := by
  unfold State.dropUtlbs
  refine foldl_keeps State.clusters _ (fun _ _ => ?_) _ s
  rfl

theorem dropUtlbs_slotAt (c t : Nat) : (s.dropUtlbs k asid va).slotAt c t = s.slotAt c t :=
  foldl_keeps (State.slotAt · c t) _ (fun u e => by
    rw [State.slotAt, coreAt_setCore]
    split
    · subst c; rfl
    · rfl) _ s

theorem invalidate_slotAt (c t : Nat) : (s.invalidate k asid va).slotAt c t = s.slotAt c t := by
  obtain ⟨ds, hd⟩ := invalidate_only s k asid va
  rw [hd, setDies_slotAt, slotAt_of_cores (dropTlbs_cores ..), dropUtlbs_slotAt]

/-- The accesses in flight, and where the machine issues. -/
def State.underWay (s : State) : List Acc × Nat × Nat := (s.accs, s.place)

theorem invalidate_underWay : (s.invalidate k asid va).underWay = s.underWay := by
  obtain ⟨ds, hd⟩ := invalidate_only s k asid va
  rw [hd]
  unfold State.dropTlbs State.dropUtlbs
  refine (foldl_keeps State.underWay _ (fun _ _ => ?_) _ _).trans (foldl_keeps State.underWay _ (fun _ _ => ?_) _ s)
  · rfl
  · rfl

theorem invalidate_me : (s.invalidate k asid va).me = s.me := by
  obtain ⟨-, hplace⟩ := Prod.mk.inj (invalidate_underWay s k asid va)
  obtain ⟨hc, ht⟩ := Prod.mk.inj hplace
  rw [State.me, hc, ht, invalidate_slotAt]
  rfl

/-- No micro-TLB holds an entry that TLBINV named. -/
theorem invalidate_utlb (c : Nat) : ∀ e ∈ ((s.invalidate k asid va).coreAt c).utlb, tlbMatches k asid va e = false := by
  obtain ⟨ds, hd⟩ := invalidate_only s k asid va
  rw [hd, setDies_coreAt, coreAt_of_cores (dropTlbs_cores ..)]
  refine foldl_put_all (get := State.coreAt) (put := State.setCore) (fun _ _ _ _ => coreAt_setCore ..)
    (g := fun x => { x with utlb := x.utlb.filter fun e => !tlbMatches k asid va e })
    (P := fun x => ∀ e ∈ x.utlb, tlbMatches k asid va e = false) (fun x e he => by simpa using (List.mem_filter.mp he).2)
    s.cores s ((em _).imp_right fun hc => ?_)
  rw [State.coreAt, tget_unlisted _ hc]
  exact fun e he => absurd he List.not_mem_nil

/-- No cluster TLB holds an entry that TLBINV named. -/
theorem invalidate_tlb (cl : Nat) :
    ∀ e ∈ ((s.invalidate k asid va).clusterAt cl).tlb, tlbMatches k asid va e = false := by
  obtain ⟨ds, hd⟩ := invalidate_only s k asid va
  rw [hd]
  refine foldl_put_all (get := State.clusterAt) (put := State.setCluster) (fun _ _ _ _ => clusterAt_setCluster ..)
    (g := fun x => { x with tlb := x.tlb.filter fun e => !tlbMatches k asid va e })
    (P := fun x => ∀ e ∈ x.tlb, tlbMatches k asid va e = false) (fun x e he => by simpa using (List.mem_filter.mp he).2)
    (s.dropUtlbs k asid va).clusters (s.dropUtlbs k asid va) ((em _).imp_right fun hc => ?_)
  rw [State.clusterAt, tget_unlisted _ hc]
  exact fun e he => absurd he List.not_mem_nil

end

/-- Which entries TLBINV names (R240, R253). -/
theorem tlbMatches_iff (k : TlbKind) (asid : BitVec 12) (va : Nat) (e : TlbEntry) : tlbMatches k asid va e = true ↔
    e.asid = asid ∧ (k = .page → e.page = va / 2 ^ (15 + 13 * e.level.toNat)) := by
  cases k <;> simp [tlbMatches, TlbEntry.covers, pageBits]

/-- TLBINV invalidates, and then goes on or holds for the accesses of its ASID (R253). -/
theorem tlbinv_leaves {s : State} (a : BitVec 4) (k : TlbKind) (hsup : s.me.sup = true)
    (hq : s.quiet s.cur s.slot = true) (hn : HasNext s) {asid : BitVec 12}
    (hasid : rootAsid (s.clusterAt (clusterOf s.cur)).ptroot = asid) :
    ∃ ds, exec (.tlbinv a k) s = .next (((s.setDies ds).invalidate k asid (s.me.readA a).toNat).setMe
      (if s.inFlight asid = [] then s.me.advance else { s.me with hold := .asid asid (s.inFlight asid) })) := by
  obtain ⟨ds, hd⟩ := released_only s (fun s =>
    let asid := rootAsid (s.clusterAt (clusterOf s.cur)).ptroot
    let ids := s.inFlight asid
    let s := s.invalidate k asid (s.me.readA a).toNat
    if ids.isEmpty then .done s else .hold (s.setMe { s.me with hold := .asid asid ids })) hq
  subst hasid
  refine ⟨ds, ?_⟩
  generalize hu : (s.setDies ds).invalidate k (rootAsid (s.clusterAt (clusterOf s.cur)).ptroot) (s.me.readA a).toNat = u
  have hme : u.me = s.me := hu ▸ invalidate_me ..
  have hexec : exec (.tlbinv a k) s = finish s
      (if (s.inFlight (rootAsid (s.clusterAt (clusterOf s.cur)).ptroot)).isEmpty then .done u
        else .hold (u.setMe { u.me with
          hold := .asid (rootAsid (s.clusterAt (clusterOf s.cur)).ptroot)
            (s.inFlight (rootAsid (s.clusterAt (clusterOf s.cur)).ptroot)) })) := by
    rw [← hu]
    exact congrArg (finish s) ((privileged_sup _ _ _ hsup).trans hd)
  rw [hexec, hme]
  by_cases hf : s.inFlight (rootAsid (s.clusterAt (clusterOf s.cur)).ptroot) = []
  · rw [if_pos hf, hf, List.isEmpty_nil, if_pos rfl, finish_done_me _ _ hn, hme]
  · rw [if_neg hf, if_neg (by simpa using hf), finish_hold _ hn]

/-- Settles O38, by what each fence and each end of a hold comes to, and by what an invalidation leaves in the TLBs. -/
theorem fences : Obligations.Fences := by
  unfold Obligations.Fences
  refine ⟨fun s x c t => ?_, fun s w b o d z p q l r hq => ?_, fun s a k hsup hq hn => ?_⟩
  · refine ⟨fence_acq_returned x, fence_acq_owed x, fence_full x, waits_released (exec_fence_full x), fence_rel_busy x,
      fence_rel_quiet x, fun h hq => ?_, fun h hb => ?_, fun h hq => ?_, fun n h hf => ⟨fun hx => ?_, fun hx => ?_⟩⟩
    · exact (releasePerformed_release h).trans (by rw [if_pos hq]; rfl)
    · exact (releasePerformed_limit h).trans (by rw [if_pos hb]; rfl)
    · exact (releasePerformed_release h).trans (by rw [hq, if_neg Bool.false_ne_true])
    · exact (releasePerformed_rel h).trans (by rw [if_pos (fencePassed_true hf hx)]; rfl)
    · exact (releasePerformed_rel h).trans (by rw [fencePassed_false hf hx, if_neg Bool.false_ne_true])
  · simp only [List.forall_mem_cons, List.not_mem_nil, false_implies, implies_true, and_true]
    exact ⟨waits_localOp rfl rfl hq, waits_localOp rfl rfl hq, waits_localOp rfl rfl hq, waits_released rfl hq,
      waits_released rfl hq, waits_released rfl hq, waits_released rfl hq, waits_released rfl hq⟩
  · obtain ⟨ds, hexec⟩ := tlbinv_leaves a k hsup hq hn rfl
    have hutlb := invalidate_utlb (s.setDies ds) k (rootAsid (s.clusterAt (clusterOf s.cur)).ptroot)
      (s.me.readA a).toNat
    have htlb := invalidate_tlb (s.setDies ds) k (rootAsid (s.clusterAt (clusterOf s.cur)).ptroot) (s.me.readA a).toNat
    have hunnamed : ∀ e, tlbMatches k (rootAsid (s.clusterAt (clusterOf s.cur)).ptroot) (s.me.readA a).toNat e =
        false →
        ¬_ := fun e he h => Bool.false_ne_true (he.symm.trans ((tlbMatches_iff ..).mpr h))
    refine ⟨_, hexec, mem_of_next hexec rfl, congrArg Prod.fst (invalidate_underWay ..),
      fun c e he => hunnamed e (hutlb c e ?_),
      fun cl e he => hunnamed e (htlb cl e he), fun h => ?_, fun h => ?_⟩
    · rw [coreAt_setMe] at he
      split at he
      · subst c; exact he
      · exact he
    · rw [me_setMe, if_pos h]
    · rw [me_setMe, if_neg h]

end Sys2Proof.Machine
end

section
/-! SUPPORT. Buckets, and what is asked of an access by its number (R398). -/

namespace Sys2Proof.Machine

open Sys2Proof

/-- The state with other levels of its buckets. -/
def State.setBuckets (s : State) (b : Table Nat) : State := { s with buckets := b }

/-- What requests cost they cost the buckets alone. -/
theorem take_only (s : State) (ports : List Nat) (ten n : Nat) : ∃ b, s.take ports ten n = s.setBuckets b := by
  unfold State.take
  induction ports generalizing s with
  | nil => exact ⟨s.buckets, rfl⟩
  | cons p r ih =>
    rw [List.foldl_cons]
    obtain ⟨b, hb⟩ := ih { s with buckets := tput 0 s.buckets (p * 32 + ten) (tget 0 s.buckets (p * 32 + ten) + n) }
    exact ⟨b, hb⟩

theorem payAll_only {s t : State} {ten size : Nat} {reqs : List (List Nat)} (h : s.payAll ten size reqs = some t) :
    ∃ b, t = s.setBuckets b := by
  induction reqs generalizing s with
  | nil => cases h; exact ⟨_, rfl⟩
  | cons ports rest ih =>
    unfold State.payAll at h
    split at h
    · obtain ⟨b, hb⟩ := take_only s ports ten size
      obtain ⟨b', hb'⟩ := ih h
      exact ⟨b', by rw [hb', hb]; rfl⟩
    · cases h

/-- An access in flight reads as it was replaced. -/
theorem accAt_setAcc {s : State} {a b : Acc} (h : s.accAt a.id = some a) (hb : b.id = a.id) :
    (s.setAcc b).accAt a.id = some b := by
  unfold State.accAt at h ⊢
  unfold State.setAcc
  simp only [hb]
  generalize s.accs = l at h ⊢
  induction l with
  | nil => cases h
  | cons x r ih =>
    by_cases hx : x.id = a.id
    · simp [hx, hb]
    · rw [List.find?_cons_of_neg (by simpa using hx)] at h
      rw [List.map_cons, if_neg hx, List.find?_cons_of_neg (by simpa using hx)]
      exact ih h

/-- An access that has ended is in flight no more. -/
theorem accAt_dropAcc (s : State) (id : Nat) : (s.dropAcc id).accAt id = none :=
  List.find?_eq_none.mpr fun x hx => by simpa using (List.mem_filter.mp hx).2

end Sys2Proof.Machine
end

section
/-! SUPPORT. The statement about the home slice and the reply (R246 to R251). -/

namespace Sys2Proof.Machine

open Sys2Proof

/-! ## The bytes an access leaves (R247, R249, R251) -/

theorem newBytes_length {op : AccOp} {n : Nat} {old bs : List Byte} (h : newBytes op n old = some bs)
    (hst : ∀ l, op = .store l → l.length = n) : bs.length = n := by
  cases op with
  | load => cases h
  | store l => cases h; exact hst _ rfl
  | red r sg fast v => cases h; exact bytesOf_length ..
  | amo r v x =>
    cases r with
    | swap => cases h; exact bytesOf_length ..
    | add => cases h; exact bytesOf_length ..
    | cas =>
      rw [newBytes] at h
      split at h
      · cases h; exact bytesOf_length ..
      · cases h

/-- The bytes of an access that are in memory once it is performed. -/
def bytesAfter (op : AccOp) (n : Nat) (old : List Byte) : List Byte := (newBytes op n old).getD old

theorem number_bytesOf (n v : Nat) : ofBytes (bytesOf n v) = v % 2 ^ (8 * n) := by
  rw [ofBytes_bytesOf, pow_mul]
  rfl

theorem number_lt {bs : List Byte} {n : Nat} (h : bs.length = n) : ofBytes bs < 2 ^ (8 * n) := by
  have hlt := ofBytes_lt bs
  rwa [h, show 256 = 2 ^ 8 from rfl, ← pow_mul] at hlt

section
variable {n : Nat} {old : List Byte} (v x : Word)

theorem bytesAfter_swap : ofBytes (bytesAfter (.amo .swap v x) n old) = v.toNat % 2 ^ (8 * n) := number_bytesOf ..

theorem bytesAfter_add : ofBytes (bytesAfter (.amo .add v x) n old) = (ofBytes old + v.toNat) % 2 ^ (8 * n) :=
  number_bytesOf ..

theorem bytesAfter_cas : ofBytes (bytesAfter (.amo .cas v x) n old) =
    if ofBytes old = v.toNat % 2 ^ (8 * n) then x.toNat % 2 ^ (8 * n) else ofBytes old := by
  rw [bytesAfter, newBytes]
  split
  · exact number_bytesOf ..
  · rfl

end

/-! ## Reductions (R249) -/

/-- Whether one number stands below another, both read with N bits and signed if so asked (R249). -/
def belowAs (sg : Bool) (n x y : Nat) : Bool :=
  if sg then (BitVec.ofNat n x).slt (BitVec.ofNat n y) else decide (x < y)

theorem signedOf_ofNat (n k : Nat) : signedOf n k = (BitVec.ofNat n k).toInt := by
  rw [← signedOf_toNat, BitVec.toNat_ofNat, signedOf, signedOf, Nat.mod_mod]

section
variable (sg : Bool) {n m u : Nat}

theorem redVal_min : redVal .min sg n m u = if belowAs sg n u m then u else m := by
  cases sg <;> simp only [redVal, belowAs, signedOf_ofNat, BitVec.slt, if_true, Bool.false_eq_true, if_false]

/-- Two numbers neither of which is below the other are one number. -/
theorem redVal_max (hm : m < 2 ^ n) (hu : u < 2 ^ n) : redVal .max sg n m u = if belowAs sg n m u then u else m := by
  have htotal : ∀ p q : Prop, ∀ [Decidable p] [Decidable q], ¬(p ∧ q) → (¬p → ¬q → m = u) →
      (if decide p = true then m else u) = if decide q = true then u else m := by
    intro p q _ _ hpq heq
    by_cases hp : p
    · have hq : ¬q := fun hq => hpq ⟨hp, hq⟩
      simp [hp, hq]
    · by_cases hq : q
      · simp [hp, hq]
      · simp [hp, hq, heq hp hq]
  cases sg with
  | false => exact htotal (u < m) (m < u) (by omega) (by omega)
  | true =>
    simp only [redVal, belowAs, signedOf_ofNat, BitVec.slt, if_true]
    refine htotal _ _ (by omega) fun h1 h2 => ?_
    have he := congrArg BitVec.toNat (BitVec.eq_of_toInt_eq (le_antisymm (not_lt.mp h1) (not_lt.mp h2)))
    rwa [BitVec.toNat_ofNat, BitVec.toNat_ofNat, Nat.mod_eq_of_lt hm, Nat.mod_eq_of_lt hu] at he

end

theorem ite_lt_of_lt {c : Prop} [Decidable c] {x y k : Nat} (hx : x < k) (hy : y < k) : (if c then x else y) < k := by
  split
  · exact hx
  · exact hy

/-- What a reduction leaves is its value on N bits. -/
theorem bytesAfter_red (r : RedOp) (sg fast : Bool) (v : Word) (n : Nat) (old : List Byte) :
    ofBytes (bytesAfter (.red r sg fast v) n old) =
      redVal r sg (8 * n) (ofBytes old) (v.toNat % 2 ^ (8 * n)) % 2 ^ (8 * n) := number_bytesOf ..

theorem bytesAfter_red_lt {r : RedOp} {sg : Bool} {n : Nat} {old : List Byte} {v : Word} (fast : Bool) {w : Nat}
    (h : redVal r sg (8 * n) (ofBytes old) (v.toNat % 2 ^ (8 * n)) = w) (hw : w < 2 ^ (8 * n)) :
    ofBytes (bytesAfter (.red r sg fast v) n old) = w := by
  rw [bytesAfter_red, h, Nat.mod_eq_of_lt hw]

/-! ## The home slice (R235, R248) -/

/-- An access that meets no claim, no lost memory, no spoiled byte and no other reduction leaves its bytes and carries
those it found; before it the claims and the buckets alone have changed (R248, R267, R398). -/
theorem performAcc_leaves {s : State} {a : Acc} (hclaim : s.claimMet a = none) (hout : s.outOfService a = false)
    (hspoil : s.spoils a.pa a.size = false) (hmerge : ∀ b, s.mergeable a b = false) : ∃ b ds,
      s.performAcc a false = (match newBytes a.op a.size (s.readMem a.pa a.size) with
        | some bs => ((s.setBuckets b).setDies ds).writeMem a.pa bs
        | none => (s.setBuckets b).setDies ds).setAcc
          { a with stage := .performed, data := s.readMem a.pa a.size } := by
  have hno : s.accs.find? (s.mergeable a) = none := List.find?_eq_none.mpr fun b _ => by simp [hmerge b]
  have hmerged : s.tryMerge a = (s, a) := by
    unfold State.tryMerge
    rw [hno]
  obtain ⟨b, hb⟩ := take_only s (Acc.ports s.pkg a) (s.meterTenant a.core) a.requestSize
  have hclaims : ∃ ds, (if a.rel then (s.inject a).releaseClaims a.holder else s.inject a) =
      (s.setBuckets b).setDies ds := by
    rw [State.inject, hb]
    split
    · exact releaseClaims_only ..
    · exact ⟨s.dies, rfl⟩
  obtain ⟨ds, hds⟩ := hclaims
  have hslices : ∃ ds', (if a.claims then ((s.setBuckets b).setDies ds).setSlice (Acc.claimPlace s.pkg a)
      ((((s.setBuckets b).setDies ds).sliceAt (Acc.claimPlace s.pkg a)).take a) else (s.setBuckets b).setDies ds) =
        (s.setBuckets b).setDies ds' := by
    split
    · exact ⟨_, rfl⟩
    · exact ⟨ds, rfl⟩
  obtain ⟨ds', hds'⟩ := hslices
  refine ⟨b, ds', ?_⟩
  unfold State.performAcc
  simp only [hclaim, hout, hspoil, hmerged, Bool.false_eq_true, if_false, Bool.or_self, Bool.false_and, hds]
  rw [show ((s.setBuckets b).setDies ds).pkg = s.pkg from rfl, hds']
  rfl

/-- What performing an access leaves, whatever it does (R248). -/
theorem homeSlice_performs {s : State} {a : Acc} (ha : s.accAt a.id = some a) (hmay : s.mayPerform a = true)
    (hclaim : s.claimMet a = none) (hout : s.outOfService a = false) (hspoil : s.spoils a.pa a.size = false)
    (hmerge : ∀ b, s.mergeable a b = false) (hst : ∀ bs, a.op = .store bs → bs.length = a.size) :
    ∃ t, exec (.homeSliceAccess a.id false) s = .next t ∧
      (∀ k, k < a.pa ∨ a.pa + a.size ≤ k → tget 0 t.mem k = tget 0 s.mem k) ∧
      t.accAt a.id = some { a with stage := .performed, data := s.readMem a.pa a.size } ∧
      (newBytes a.op a.size (s.readMem a.pa a.size) = none → t.mem = s.mem) ∧
      t.readMem a.pa a.size = bytesAfter a.op a.size (s.readMem a.pa a.size) ∧
      (∀ c u, t.slotAt c u = s.slotAt c u) ∧ (∀ c u, t.winAt c u = s.winAt c u) := by
  obtain ⟨b, ds, hp⟩ := performAcc_leaves hclaim hout hspoil hmerge
  have hexec : exec (.homeSliceAccess a.id false) s = .next (s.performAcc a false) := by
    show execHomeSliceAccess a.id false s = _
    simp only [execHomeSliceAccess, ha, hmay, if_true]
  rw [hp] at hexec
  refine ⟨_, hexec, ?_⟩
  cases hnew : newBytes a.op a.size (s.readMem a.pa a.size) with
  | none =>
    exact ⟨fun k _ => rfl, accAt_setAcc (s := (s.setBuckets b).setDies ds) ha rfl, fun _ => rfl,
      by rw [bytesAfter, hnew]; rfl, fun _ _ => rfl, fun _ _ => rfl⟩
  | some bs =>
    have hlen : bs.length = a.size := newBytes_length hnew hst
    obtain ⟨hread, hframe, -, -⟩ := memoryLaws ((s.setBuckets b).setDies ds) a.pa bs
    rw [hlen] at hread hframe
    exact ⟨hframe, accAt_setAcc (s := ((s.setBuckets b).setDies ds).writeMem a.pa bs) ha rfl,
      fun h => absurd h (Option.some_ne_none bs), by rw [bytesAfter, hnew]; exact hread, fun _ _ => rfl, fun _ _ => rfl⟩

/-! ## The reply (R246, R247, R251) -/

/-- The value that a reply writes: the bytes found, with copies of their sign above where the load is signed. -/
theorem value_eq {a : Acc} (hlen : a.data.length = a.size) (sgn : Bool) : a.value sgn =
    if sgn ∧ 2 ^ (8 * a.size - 1) ≤ ofBytes a.data then BitVec.ofInt 64 ((ofBytes a.data : Int) - 2 ^ (8 * a.size))
    else BitVec.ofNat 64 (ofBytes a.data) := by
  have hmod : ofBytes a.data % 2 ^ (8 * a.size) = ofBytes a.data := Nat.mod_eq_of_lt (number_lt hlen)
  cases sgn with
  | false => simp [Acc.value, extend, hmod]
  | true =>
    simp only [Acc.value, extend, signedOf, hmod, if_true, true_and]
    by_cases h : 2 ^ (8 * a.size - 1) ≤ ofBytes a.data
    · rw [if_neg (by omega), if_pos h]
      simp
    · rw [if_pos (by omega), if_neg h, BitVec.ofInt_natCast]

section
variable {s : State} {a : Acc} {c t act u : Nat} {d : BitVec 5} {sgn : Bool}

theorem exec_accessReply_task (ha : s.accAt a.id = some a) (hst : a.stage = .performed) (hd : a.dest = .reg u d sgn) :
    exec (.accessReply a.id) s = .next ((s.dropAcc a.id).replyTask a) := by
  show execAccessReply a.id s = _
  simp only [execAccessReply, ha, hst, ne_eq, not_true_eq_false, if_false, hd]

section
variable (hh : a.holder = .task c t act) (hd : a.dest = .reg u d sgn) (hact : (s.slotAt c t).act = act)
include hh hd hact

/-- The reply of an access that still holds its task writes its register and lets the task go on (R246). -/
theorem replyTask_held (hold : (s.slotAt c t).hold = .access a.id) : s.replyTask a =
    (s.setSlot c t ({ s.slotAt c t with
      hold := .none
      loads := (s.slotAt c t).loads.filter fun l => l.id != a.id }.writeG d (a.value sgn))).advance c t := by
  simp only [State.replyTask, hh, hd, hact, hold, if_true, beq_self_eq_true, Bool.true_or]

/-- The reply of an access that holds its destination alone writes its register (R246). -/
theorem replyTask_owed (hold : (s.slotAt c t).hold ≠ .access a.id) (ho : ∃ l ∈ (s.slotAt c t).loads, l.id = a.id) :
    s.replyTask a = s.setSlot c t
      ({ s.slotAt c t with loads := (s.slotAt c t).loads.filter fun l => l.id != a.id }.writeG d (a.value sgn)) := by
  have hheld : ((s.slotAt c t).hold == .access a.id) = false := beq_eq_false_iff_ne.mpr hold
  have howed : ((s.slotAt c t).loads.any fun l => l.id == a.id) = true := by simpa using ho
  simp only [State.replyTask, hh, hd, hact, hheld, howed, if_true, Bool.or_true, Bool.false_eq_true, if_false]

end

end

/-- Settles O36, by the bytes an access leaves and by what a reply leaves of its slot. -/
theorem homeSlice : Obligations.HomeSlice := by
  unfold Obligations.HomeSlice
  refine ⟨fun s a ha hmay hclaim hout hspoil hmerge hst => ?_,
    fun s a c t act u d sgn ha hstage hh hd hact hlen _ _ => ?_⟩
  · obtain ⟨t, hexec, hframe, hacc, hnone, hread, hslots, hwins⟩ :=
      homeSlice_performs ha hmay hclaim hout hspoil hmerge hst
    have hold : ofBytes (s.readMem a.pa a.size) < 2 ^ (8 * a.size) := number_lt (tgets_length ..)
    have hmod : ∀ v : Word, v.toNat % 2 ^ (8 * a.size) < 2 ^ (8 * a.size) := fun v =>
      Nat.mod_lt _ (Nat.two_pow_pos _)
    refine ⟨t, ?_, ?_, ?_, fun h => ?_, fun bs h => ?_, fun v x h => ?_, fun v x h => ?_, fun v x h => ?_,
      fun r sg fast v h => ?_, ?_, ?_⟩
    · exact hexec
    · exact hframe
    · exact hacc
    · exact hnone (by rw [h]; rfl)
    · rw [hread, h]; rfl
    · rw [hread, h, bytesAfter_swap]
    · rw [hread, h, bytesAfter_add]
    · rw [hread, h, bytesAfter_cas]
    · simp only [hread, h]
      refine ⟨?_, ?_, ?_, ?_, ?_, ?_, ?_⟩
      · rintro rfl
        exact bytesAfter_red_lt fast rfl (Nat.mod_lt _ (Nat.two_pow_pos _))
      · rintro rfl
        exact bytesAfter_red_lt fast (redVal_min sg) (ite_lt_of_lt (hmod v) hold)
      · rintro rfl
        exact bytesAfter_red_lt fast (redVal_max sg hold (hmod v)) (ite_lt_of_lt (hmod v) hold)
      · rintro rfl
        exact bytesAfter_red_lt fast rfl (Nat.and_lt_two_pow _ (hmod v))
      · rintro rfl
        exact bytesAfter_red_lt fast rfl (Nat.or_lt_two_pow hold (hmod v))
      · rintro rfl
        exact bytesAfter_red_lt fast rfl (Nat.xor_lt_two_pow hold (hmod v))
      · rintro rfl hsize
        rw [bytesAfter_red, hsize]
        rfl
    · exact hslots
    · exact hwins
  · have hexec := exec_accessReply_task ha hstage hd
    have hvalue := value_eq hlen sgn
    refine ⟨fun hold => ?_, fun hold ho => ?_⟩
    · rw [replyTask_held (s := s.dropAcc a.id) hh hd hact hold] at hexec
      refine ⟨_, hexec, accAt_dropAcc s a.id, mem_of_next hexec rfl, ?_⟩
      rw [State.advance, slotAt_setSlot_self, slotAt_setSlot_self, hvalue]
      rfl
    · rw [replyTask_owed (s := s.dropAcc a.id) hh hd hact hold ho] at hexec
      refine ⟨_, hexec, accAt_dropAcc s a.id, mem_of_next hexec rfl, ?_⟩
      rw [slotAt_setSlot_self, hvalue]
      rfl

end Sys2Proof.Machine
end

section
/-! SUPPORT. The statement about translation, walks and the faults of a leaf (R236 to R245). -/

namespace Sys2Proof.Machine

open Sys2Proof

/-! ## The faults of a leaf (R237, R238, R243) -/

theorem bits_eq_setWidth (v : Word) (p n : Nat) : bits v.toNat p n = (v >>> p).setWidth n := by
  apply BitVec.eq_of_toNat_eq
  simp [BitVec.toNat_setWidth, Nat.shiftRight_eq_div_pow]

section
variable {root : Word} {pkg : BitVec 6} {p : Word} {level va n : Nat} {op : AccOp}

theorem leafFault_bad (h : badPte pkg p level = true) : leafFault root pkg p level op va n = some 5 := if_pos h

theorem leafFault_tenant (h : badPte pkg p level = false) (ht : (p >>> 58).setWidth 5 ≠ (root >>> 58).setWidth 5) :
    leafFault root pkg p level op va n = some 4 := by
  have ht' : pteTen p ≠ rootTen root := by rwa [pteTen, rootTen, bits_eq_setWidth, bits_eq_setWidth]
  rw [leafFault, h, if_neg Bool.false_ne_true, if_pos ht']

section
variable (h : badPte pkg p level = false) (ht : (p >>> 58).setWidth 5 = (root >>> 58).setWidth 5)
include h ht

/-- A good leaf of the tenant is judged by its permissions, and then by its address. -/
theorem leafFault_own : leafFault root pkg p level op va n =
    if opAmo op && p.getLsbD 6 then some 8
    else if opReads op && !p.getLsbD 2 then some 2
    else if opWrites op && !p.getLsbD 3 then some 3
    else if !paOk (pteTier p) (leafPa p level va) n then some 6
    else none := by
  have ht' : ¬pteTen p ≠ rootTen root := by
    rw [not_not, pteTen, rootTen, bits_eq_setWidth, bits_eq_setWidth]
    exact ht
  rw [leafFault, h, if_neg Bool.false_ne_true, if_neg ht']
  rfl

theorem leafFault_amo {r : AmoOp} {v x : Word} (hop : op = .amo r v x) : leafFault root pkg p level op va n =
    if p.getLsbD 6 then some 8 else if !p.getLsbD 2 then some 2 else if !p.getLsbD 3 then some 3
    else if !paOk (pteTier p) (leafPa p level va) n then some 6 else none := by
  subst hop
  exact leafFault_own h ht

theorem leafFault_load (hop : op = .load) : leafFault root pkg p level op va n =
    if !p.getLsbD 2 then some 2 else if !paOk (pteTier p) (leafPa p level va) n then some 6 else none := by
  subst hop
  exact leafFault_own h ht

theorem leafFault_stores (hop : (∃ bs, op = .store bs) ∨ ∃ r sg fast v, op = .red r sg fast v) :
    leafFault root pkg p level op va n =
      if !p.getLsbD 3 then some 3 else if !paOk (pteTier p) (leafPa p level va) n then some 6 else none := by
  obtain ⟨bs, rfl⟩ | ⟨r, sg, fast, v, rfl⟩ := hop
  · exact leafFault_own h ht
  · exact leafFault_own h ht

end

end

/-! ## A leaf that permits an access (R236, R241) -/

/-- An access as the leaf of a TLB entry translates it. -/
def Acc.translatedBy (a : Acc) (e : TlbEntry) : Acc :=
  { a with
    stage := .translated, asid := e.asid, level := e.level, clg := pteClg e.pte
    pa := memKey (pteTier e.pte) (leafPa e.pte e.level.toNat a.va.toNat) }

/-- The accesses in flight, the clusters and the dies. -/
def State.flight (s : State) : List Acc × Table Cluster × Table Die := (s.accs, s.clusters, s.dies)

theorem setSlot_flight (s : State) (c t : Nat) (sl : Slot) : (s.setSlot c t sl).flight = s.flight := by
  rw [State.flight, setSlot_accs, setSlot_clusters, setSlot_dies]
  rfl

theorem taskGoes_flight (s : State) (a : Acc) : (s.taskGoes a).flight = s.flight := by
  unfold State.taskGoes
  split
  · split
    · rw [State.advance, setSlot_flight, setSlot_flight]
    · rfl
  · rfl

/-- An access that meets a leaf that permits it is translated by it; clusters and dies stand. -/
theorem applyLeaf_flight {s : State} {a : Acc} {e : TlbEntry}
    (h : leafFault (s.clusterAt (clusterOf a.core)).ptroot s.pkg e.pte e.level.toNat a.op a.va.toNat a.size = none) :
    (s.applyLeaf a e).flight = (s.setAcc (a.translatedBy e)).flight := by
  unfold State.applyLeaf
  simp only [h]
  rw [taskGoes_flight]
  rfl

/-- An access that meets a leaf which does not permit it takes the leaf's fault. -/
theorem applyLeaf_fault {s : State} {a : Acc} {e : TlbEntry} {why : Nat}
    (h : leafFault (s.clusterAt (clusterOf a.core)).ptroot s.pkg e.pte e.level.toNat a.op a.va.toNat a.size =
      some why) :
    s.applyLeaf a e = s.accFault a why e.level.toNat := by
  unfold State.applyLeaf
  simp only [h]

/-- An access in flight alone is replaced. -/
theorem setAcc_alone {s : State} {a b : Acc} (hs : s.accs = [a]) (h : a.id = b.id) : (s.setAcc b).accs = [b] := by
  simp [State.setAcc, hs, h]

theorem accAt_alone {s : State} {a : Acc} (hs : s.accs = [a]) : s.accAt a.id = some a := by
  simp [State.accAt, hs]

/-- An access as it is looked up under the ASID of its cluster (R239). -/
def Acc.under (a : Acc) (asid : BitVec 12) : Acc := { a with asid := asid }

/-! ## The lookup in the cluster TLB (R239 to R241) -/

theorem exec_lookup {s : State} {a : Acc} (hs : s.accs = [a]) (hst : a.stage = .lookup) :
    exec (.clusterTlbLookup a.id) s = .next (s.lookup a) := by
  show execClusterTlbLookup a.id s = _
  simp only [execClusterTlbLookup, accAt_alone hs, hst, if_true]

section
variable {s : State} {a : Acc} {cl : Nat} (hcl : clusterOf a.core = cl)
include hcl

theorem lookup_noRoot (hv : rootV (s.clusterAt cl).ptroot = false) :
    s.lookup a = s.accFault (a.under (rootAsid (s.clusterAt cl).ptroot)) 1 4 := by
  subst hcl
  simp only [State.lookup, hv, Bool.not_false, if_true]
  rfl

/-- An access that no TLB covers misses. -/
theorem lookup_miss (hv : rootV (s.clusterAt cl).ptroot = true)
    (hf : ((s.coreAt a.core).utlb ++ (s.clusterAt cl).tlb).find?
      (fun e => e.covers (rootAsid (s.clusterAt cl).ptroot) a.va.toNat) = none) :
    s.lookup a = s.miss (a.under (rootAsid (s.clusterAt cl).ptroot)) := by
  subst hcl
  simp only [State.lookup, hv, Bool.not_true, Bool.false_eq_true, if_false, hf]
  rfl

/-- An access that a TLB covers meets the leaf, and the entry's place in the cluster TLB may move. -/
theorem lookup_hit {e : TlbEntry} (hv : rootV (s.clusterAt cl).ptroot = true)
    (hf : ((s.coreAt a.core).utlb ++ (s.clusterAt cl).tlb).find?
      (fun e => e.covers (rootAsid (s.clusterAt cl).ptroot) a.va.toNat) = some e) :
    s.lookup a = (if (s.clusterAt cl).tlb.contains e then
      s.setCluster cl { s.clusterAt cl with tlb := touch (s.clusterAt cl).tlb e } else s).applyLeaf
        (a.under (rootAsid (s.clusterAt cl).ptroot)) e := by
  subst hcl
  simp only [State.lookup, hv, Bool.not_true, Bool.false_eq_true, if_false, hf]
  rfl

/-- A permitted access is translated. -/
theorem lookup_translates {e : TlbEntry} (hs : s.accs = [a]) (hv : rootV (s.clusterAt cl).ptroot = true)
    (hf : ((s.coreAt a.core).utlb ++ (s.clusterAt cl).tlb).find?
      (fun e => e.covers (rootAsid (s.clusterAt cl).ptroot) a.va.toNat) = some e)
    (hl : leafFault (s.clusterAt cl).ptroot s.pkg e.pte e.level.toNat a.op a.va.toNat a.size = none) :
    (s.lookup a).accs = [a.translatedBy e] := by
  rw [lookup_hit hcl hv hf]
  generalize hu : (if (s.clusterAt cl).tlb.contains e then
      s.setCluster cl { s.clusterAt cl with tlb := touch (s.clusterAt cl).tlb e } else s) = u
  have hstands : u.accs = s.accs ∧ u.pkg = s.pkg ∧ (u.clusterAt cl).ptroot = (s.clusterAt cl).ptroot := by
    rw [← hu]
    split
    · exact ⟨rfl, rfl, by rw [clusterAt_setCluster_self]⟩
    · exact ⟨rfl, rfl, rfl⟩
  obtain ⟨haccs, hpkg, hroot⟩ := hstands
  have hflight := applyLeaf_flight (s := u) (a := a.under (rootAsid (s.clusterAt cl).ptroot)) (e := e)
    (by
    change leafFault (u.clusterAt (clusterOf a.core)).ptroot u.pkg _ _ a.op _ _ = none
    rw [hcl, hroot, hpkg]
    exact hl)
  exact (congrArg Prod.fst hflight).trans (setAcc_alone (haccs.trans hs) rfl)

end

/-- A miss of a cluster without one opens one (R241). -/
theorem miss_opens {s : State} {a : Acc} {cl : Nat} (hcl : clusterOf a.core = cl)
    (hm : (s.clusterAt cl).misses = []) (hq : (s.clusterAt cl).missQueue = []) :
    s.miss a = (s.setAcc { a with stage := .miss }).setCluster cl
      { s.clusterAt cl with misses := [⟨a.asid, a.va.toNat / 2 ^ 15, false⟩] } := by
  subst hcl
  simp only [State.miss, hm, hq, List.any_nil, Bool.or_self, Bool.false_eq_true, if_false, List.length_nil,
    Nat.zero_lt_succ, if_true, List.nil_append]

/-! ## Walks (R241, R242) -/

theorem exec_pageWalkStart {s : State} {die q : Nat} {m : Miss} (ht : s.walkTurn die = some (q, m))
    (hlen : (s.dieAt die).walks.length < 64) : ∃ turn k, exec (.pageWalkStart die) s =
      .next ((s.setDie die { s.dieAt die with
        walks := (s.dieAt die).walks ++ [⟨6 * die + q, m.asid, m.frame, false⟩], turn := turn }).setCluster (6 * die + q)
          k) := by
  refine ⟨(q + 1) % 6, { s.clusterAt (6 * die + q) with
    misses := (s.clusterAt (6 * die + q)).misses.map fun x =>
      if x.key = m.key then { x with walking := true } else x }, ?_⟩
  show execPageWalkStart die s = _
  simp only [execPageWalkStart, if_neg (not_le.mpr hlen), ht]

section
variable (s : State) (die : Nat) (bad : Option (BitVec 3)) (w : Walk)

/-- What a walk of a die ends in, with the entries it read. -/
def State.walkEnd : WalkEnd × List NodeEntry :=
  if w.redo then s.walkWhole bad (s.clusterAt w.cluster).ptroot w.asid (w.frame * 2 ^ 15)
  else s.walk die bad (s.clusterAt w.cluster).ptroot w.asid (w.frame * 2 ^ 15)

/-- The state once the buckets have let the reads of a walk go, where they do (R398). -/
def State.walkPaid : Option State :=
  s.payAll (s.clusterAt w.cluster).tenant 16 (s.walkRequests die (s.firstNode die w) (s.walkEnd die bad w).2)

end

section
variable {s : State} {die : Nat} {bad : Option (BitVec 3)} {w : Walk} (hw : (s.dieAt die).walks = [w])
  (hm : ((s.clusterAt w.cluster).misses.any fun m => m.key == (w.asid, w.frame)) = true)
include hw hm

theorem exec_walkComplete_unpaid (hp : s.walkPaid die bad w = none) :
    exec (.walkComplete die ⟨0, bad⟩) s = .next s := by
  show execWalkComplete die ⟨0, bad⟩ s = _
  unfold State.walkPaid State.walkEnd at hp
  simp only [execWalkComplete, hw, List.getElem?_cons_zero, hm, Bool.not_true, Bool.false_eq_true, if_false, hp]

theorem exec_walkComplete_leaf {paid : State} {level : Nat} {p : Word} (hp : s.walkPaid die bad w = some paid)
    (hl : (s.walkEnd die bad w).1 = .leaf level p) : ∃ d : Die, d.walks = [] ∧
      exec (.walkComplete die ⟨0, bad⟩) s = .next ((paid.setDie die d).walkLeaf w.cluster
        ⟨w.asid, w.frame * 2 ^ 15 / 2 ^ pageBits level, BitVec.ofNat 3 level, p⟩) := by
  refine ⟨{ s.dieAt die with
    walks := []
    nodes := ((s.walkEnd die bad w).2 ++ (s.dieAt die).nodes.filter fun e =>
      !(s.walkEnd die bad w).2.contains e).take 512 }, rfl, ?_⟩
  show execWalkComplete die ⟨0, bad⟩ s = _
  unfold State.walkPaid State.walkEnd at hp
  unfold State.walkEnd at hl ⊢
  simp only [execWalkComplete, hw, List.getElem?_cons_zero, hm, Bool.not_true, Bool.false_eq_true, if_false, hp, hl,
    List.eraseIdx_zero, List.tail_cons, dieAt_setDie_self]

end

/-- An entry stands in the cluster TLB that it has filled (R240). -/
theorem mem_clusterFill (tlb : List TlbEntry) (e : TlbEntry) : e ∈ clusterFill tlb e := by
  simp [clusterFill, touch]

/-- A walk that ends at a leaf which permits the one access that waits for it closes its miss and is cached (R241,
R242). -/
theorem walkLeaf_alone {s : State} {a : Acc} {cl : Nat} {e : TlbEntry} (hcl : clusterOf a.core = cl)
    (hs : s.accs = [a]) (hst : a.stage = .miss)
    (hm : (s.clusterAt cl).misses = [⟨a.asid, a.va.toNat / 2 ^ 15, true⟩]) (hq : (s.clusterAt cl).missQueue = [])
    (hc : e.covers a.asid (a.va.toNat / 2 ^ 15 * 2 ^ 15) = true)
    (hl : leafFault (s.clusterAt cl).ptroot s.pkg e.pte e.level.toNat a.op a.va.toNat a.size = none) :
    s.walkLeaf cl e = (s.setCluster cl { s.clusterAt cl with
      misses := [], missQueue := [], tlb := clusterFill (s.clusterAt cl).tlb e }).applyLeaf a e := by
  have hkey : Miss.key ⟨a.asid, a.va.toNat / 2 ^ 15, true⟩ = a.missKey := rfl
  have hcovered : ((s.clusterAt cl).misses.filter fun m => e.covers m.asid (m.frame * 2 ^ 15)) =
      [⟨a.asid, a.va.toNat / 2 ^ 15, true⟩] := by
    simp only [hm, List.filter_cons, hc, if_true, List.filter_nil]
  have hwaiting : (s.accs.filter fun x => x.stage == .miss && clusterOf x.core == cl && [a.missKey].contains x.missKey) =
      [a] := by simp [hs, hst, hcl]
  have hclosed : (s.clusterAt cl).closeMisses (fun m => e.covers m.asid (m.frame * 2 ^ 15)) =
      { s.clusterAt cl with misses := [], missQueue := [] } := by
    simp only [Cluster.closeMisses, hm, hq, hc, List.filter_cons, Bool.not_true, Bool.false_eq_true, if_false,
      List.filter_nil, List.length_nil, List.take_nil, List.drop_nil, List.append_nil]
  unfold State.walkLeaf
  simp only [hcovered, List.map_cons, List.map_nil, hkey, hwaiting, hclosed, List.any_cons, List.any_nil, hl,
    Option.isSome_none, Bool.or_self, Bool.false_eq_true, if_false, List.foldl_cons, List.foldl_nil]

/-- A walk for the one miss of a cluster, and the one access that waits for it, ends at a leaf that permits it. -/
theorem walkComplete_translates {s : State} {a : Acc} {die : Nat} {bad : Option (BitVec 3)} {w : Walk} {cl : Nat}
    {paid : State} {level : Nat} {p : Word} (hcl : clusterOf a.core = cl) (hs : s.accs = [a])
    (hw : (s.dieAt die).walks = [w]) (hwc : w.cluster = cl) (hwa : w.asid = a.asid)
    (hwf : w.frame = a.va.toNat / 2 ^ 15)
    (hm : (s.clusterAt cl).misses = [⟨a.asid, a.va.toNat / 2 ^ 15, true⟩]) (hq : (s.clusterAt cl).missQueue = [])
    (hst : a.stage = .miss) (hp : s.walkPaid die bad w = some paid) (hlevel : level < 3)
    (he : (s.walkEnd die bad w).1 = .leaf level p)
    (hl : leafFault (s.clusterAt cl).ptroot s.pkg p level a.op a.va.toNat a.size = none) :
    ∃ t x, exec (.walkComplete die ⟨0, bad⟩) s = .next t ∧ t.accs = [x] ∧ x.id = a.id ∧ x.stage = .translated ∧
      x.pa = pteTier p * 2 ^ 58 + (ptePa p + a.va.toNat % 2 ^ (15 + 13 * level)) ∧ (t.clusterAt cl).misses = [] ∧
      (t.dieAt die).walks = [] ∧ (∃ e ∈ (t.clusterAt cl).tlb, e.pte = p) ∧ t.mem = s.mem := by
  have hany : ((s.clusterAt w.cluster).misses.any fun m => m.key == (w.asid, w.frame)) = true := by
    simp [hwc, hm, Miss.key, hwa, hwf]
  obtain ⟨d, hd, hexec⟩ := exec_walkComplete_leaf hw hany hp he
  obtain ⟨b, hb⟩ := payAll_only hp
  have hlev : (BitVec.ofNat 3 level).toNat = level := by rw [BitVec.toNat_ofNat]; omega
  generalize hentry : (⟨w.asid, w.frame * 2 ^ 15 / 2 ^ pageBits level, BitVec.ofNat 3 level, p⟩ : TlbEntry) = e at hexec
  have hpte : e.pte = p := by rw [← hentry]
  have hel : e.level.toNat = level := by rw [← hentry]; exact hlev
  have hcovers : e.covers a.asid (a.va.toNat / 2 ^ 15 * 2 ^ 15) = true := by
    rw [← hentry]
    simp [TlbEntry.covers, hwa, hwf, hlev]
  generalize hu : paid.setDie die d = u at hexec
  have huaccs : u.accs = s.accs := by rw [← hu, hb]; rfl
  have hucl : ∀ k, u.clusterAt k = s.clusterAt k := fun k => by rw [← hu, hb]; rfl
  have hupkg : u.pkg = s.pkg := by rw [← hu, hb]; rfl
  have hudie : (u.dieAt die).walks = [] := by rw [← hu, dieAt_setDie_self]; exact hd
  have hleaf : leafFault (u.clusterAt cl).ptroot u.pkg e.pte e.level.toNat a.op a.va.toNat a.size = none := by
    rw [hucl, hupkg, hpte, hel]
    exact hl
  rw [hwc, walkLeaf_alone hcl (huaccs.trans hs) hst (by rw [hucl]; exact hm) (by rw [hucl]; exact hq) hcovers hleaf]
    at hexec
  generalize hv : u.setCluster cl { u.clusterAt cl with
      misses := [], missQueue := [], tlb := clusterFill (u.clusterAt cl).tlb e } = v at hexec
  have hvcl : v.clusterAt cl = { u.clusterAt cl with
      misses := [], missQueue := [], tlb := clusterFill (u.clusterAt cl).tlb e } := by
    rw [← hv, clusterAt_setCluster_self]
  have hflight := applyLeaf_flight (s := v) (a := a) (e := e) (by
    rw [hcl, hvcl, show v.pkg = u.pkg by rw [← hv]; rfl]
    exact hleaf)
  obtain ⟨haccs, hrest⟩ := Prod.mk.inj hflight
  obtain ⟨hclusters, hdies⟩ := Prod.mk.inj hrest
  have htcl : (v.applyLeaf a e).clusterAt cl = v.clusterAt cl := by rw [State.clusterAt, hclusters]; rfl
  have htdie : (v.applyLeaf a e).dieAt die = u.dieAt die := by rw [State.dieAt, hdies, ← hv]; rfl
  refine ⟨_, a.translatedBy e, hexec, haccs.trans (setAcc_alone (a := a) (by rw [← hv]; exact huaccs.trans hs) rfl),
    rfl, rfl,
    ?_, ?_, ?_, ⟨e, ?_, hpte⟩, mem_of_next hexec rfl⟩
  · rw [Acc.translatedBy, hpte, hel]
    rfl
  · rw [htcl, hvcl]
  · rw [htdie, hudie]
  · rw [htcl, hvcl]
    exact mem_clusterFill ..

/-! ## Answers to the fault queue (R245) -/

theorem bteHold_flight (s : State) (c e : Nat) (on : Bool) : (s.bteHold c e on).flight = s.flight := by
  unfold State.bteHold
  split
  · rfl
  · split <;> rfl

/-- An answer without ABORT sends the access that was held at its site back to translation (R244). -/
theorem answer_resumes {s : State} {a : Acc} {cl : Nat} {v : Word} (hcl : clusterOf a.core = cl) (hs : s.accs = [a])
    (hunit : (s.clusterAt cl).unit.faultSite = none) (hv : v.getLsbD 63 = false) (hst : a.stage = .faulted)
    (hsite : v.setWidth 46 = a.site) : (s.answer cl v).flight = (s.setAcc { a with stage := .lookup }).flight := by
  have hheld : (s.accs.filter fun x => x.stage == .faulted && x.site == v.setWidth 46 && clusterOf x.core == cl) =
      [a] := by simp [hs, hst, hsite, hcl]
  unfold State.answer
  simp only [hheld, hunit, hv, reduceCtorEq, Bool.false_eq_true, if_false, List.foldl_cons, List.foldl_nil]
  split
  · split
    · exact bteHold_flight ..
    · rfl
  all_goals rfl

theorem faultAnswer_resumes {s : State} {a : Acc} {cl : Nat} {v : Word} (hcl : clusterOf a.core = cl)
    (hs : s.accs = [a]) (hx : (s.clusterAt cl).answers.elems = [v])
    (hunit : (s.clusterAt cl).unit.faultSite = none) (hv : v.getLsbD 63 = false) (hst : a.stage = .faulted)
    (hsite : v.setWidth 46 = a.site) : ∃ t, exec (.faultAnswer cl) s = .next t ∧
      t.accs = [{ a with stage := .lookup }] ∧ (t.clusterAt cl).answers.elems = [] ∧ t.mem = s.mem := by
  generalize hu : s.setCluster cl { s.clusterAt cl with answers := (s.clusterAt cl).answers.drop 1 } = u
  have hexec : exec (.faultAnswer cl) s = .next ((u.answer cl v).retryWin (serviceKey cl 0x1FFE) 1) := by
    show execFaultAnswer cl s = _
    simp only [execFaultAnswer, hx, List.isEmpty_cons, Bool.false_eq_true, if_false, List.length_cons, List.length_nil,
      List.foldl_cons, List.foldl_nil, Nat.zero_add, hu]
  have hucl : u.clusterAt cl = { s.clusterAt cl with answers := (s.clusterAt cl).answers.drop 1 } := by
    rw [← hu, clusterAt_setCluster_self]
  have huaccs : u.accs = [a] := by rw [← hu]; exact hs
  obtain ⟨haccs, hrest⟩ := Prod.mk.inj (answer_resumes hcl huaccs (by rw [hucl]; exact hunit) hv hst hsite)
  refine ⟨_, hexec, haccs.trans (setAcc_alone huaccs rfl), ?_, mem_of_next hexec rfl⟩
  have htcl : ((u.answer cl v).retryWin (serviceKey cl 0x1FFE) 1).clusterAt cl = u.clusterAt cl := by
    show tget Cluster.init (u.answer cl v).clusters cl = _
    rw [(Prod.mk.inj hrest).1]
    rfl
  rw [htcl, hucl]
  show (s.clusterAt cl).answers.elems.drop 1 = []
  rw [hx]
  rfl

/-! ## Memory faults of a task (R243, R244) -/

theorem traps_nil {sl : Slot} (h : ∀ ts, sl.hold ≠ .trapping ts) : sl.traps = [] := by
  unfold Slot.traps
  split
  · next ts hts => exact absurd hts (h ts)
  · rfl

/-- A fault of a task's access, the only one in flight, is a precise trap at the instruction that made it (R113). -/
theorem accFault_traps {s : State} {a b : Acc} {c t act : Nat} (why level : Nat) (hs : s.accs = [b]) (hb : b.id = a.id)
    (hh : a.holder = .task c t act) (hact : (s.slotAt c t).act = act) (hrun : (s.slotAt c t).status = .runnable)
    (hkill : (s.slotAt c t).killing = false) (hhold : ∀ ts, (s.slotAt c t).hold ≠ .trapping ts) :
    s.accFault a why level =
      (({ s with accs := [] } : State).setSlot c t { s.slotAt c t with
        hold := .none
        pc := BitVec.ofNat 12 (a.site.toNat / 2 ^ 16)
        repc := a.repc
        loads := (s.slotAt c t).loads.filter fun l => l.id != a.id }).takeTrap c t
          (memTrap why level a.code a.va) (BitVec.ofNat 12 (a.site.toNat / 2 ^ 16)) := by
  have hdrop : s.dropAcc a.id = { s with accs := [] } := by simp [State.dropAcc, hs, hb]
  have hpc : BitVec.ofNat 12 (sitePc a.site) = BitVec.ofNat 12 (a.site.toNat / 2 ^ 16) := by
    apply BitVec.eq_of_toNat_eq
    simp [sitePc]
  have hslot : ({ s with accs := [] } : State).slotAt c t = s.slotAt c t := rfl
  unfold State.accFault State.taskFault
  simp only [hh, hdrop, hslot, hact, hkill, hrun, hpc, if_true, Bool.false_eq_true, if_false]
  split
  · rfl
  · next h => exact absurd (traps_nil hhold) h

/-- Settles O35: the lookup by what the TLBs hold, the walk by what it ends in, a fault of a task by its trap, and the
faults of a leaf by the order of its checks. -/
theorem translation : Obligations.Translation := by
  unfold Obligations.Translation
  refine ⟨fun s a e die hs => ?_, fun s a die w p level bad hs hw => ?_, fun s a e c t act hs hst hh hact hrun hkill
    hhold => ?_, fun root pkg p level va n op => ?_⟩
  · refine ⟨fun hst hv hf hl => ?_, fun hst hv hf hm hq => ?_, fun q m ht hlen => ?_,
      fun v hx hunit hv hst hsite => faultAnswer_resumes rfl hs hx hunit hv hst hsite⟩
    · have hexec := exec_lookup hs hst
      exact ⟨_, _, hexec, lookup_translates rfl hs hv hf hl, rfl, rfl, rfl, rfl, rfl, rfl, mem_of_next hexec rfl⟩
    · have hexec := exec_lookup hs hst
      rw [lookup_miss rfl hv hf,
        miss_opens (a := a.under (rootAsid (s.clusterAt (clusterOf a.core)).ptroot)) rfl hm hq] at hexec
      exact ⟨_, { a.under (rootAsid (s.clusterAt (clusterOf a.core)).ptroot) with stage := .miss }, hexec,
        setAcc_alone hs rfl, rfl, rfl, congrArg Cluster.misses (clusterAt_setCluster_self ..), mem_of_next hexec rfl⟩
    · obtain ⟨turn, k, hexec⟩ := exec_pageWalkStart ht hlen
      refine ⟨_, hexec, ?_, mem_of_next hexec rfl, rfl⟩
      exact congrArg Die.walks (dieAt_setDie_self ..)
  · intro cl root frame hkey hm hq hst read paid
    obtain ⟨hwc, hrest⟩ := Prod.mk.inj hkey
    obtain ⟨hwa, hwf⟩ := Prod.mk.inj hrest
    have hany : ((s.clusterAt w.cluster).misses.any fun m => m.key == (w.asid, w.frame)) = true := by
      rw [hwc]
      simp [hm, Miss.key, hwa, hwf]
    have hread : s.walkEnd die bad w = read := by
      rw [State.walkEnd, hwc, hwa, hwf]
    have hpaid : s.walkPaid die bad w = paid := by
      rw [State.walkPaid, hread, hwc]
    refine ⟨fun hp => exec_walkComplete_unpaid hw hany (hpaid.trans hp), fun hp hlevel he hl => ?_⟩
    obtain ⟨u, hu⟩ := Option.isSome_iff_exists.mp hp
    exact walkComplete_translates rfl hs hw hwc hwa hwf hm hq hst (hpaid.trans hu) hlevel
      ((congrArg Prod.fst hread).trans he) hl
  · refine ⟨fun hv => ?_, fun why hv hu ht hc hl => ?_⟩
    · rw [Leaves, exec_lookup hs hst, lookup_noRoot rfl hv,
        accFault_traps (a := a.under (rootAsid (s.clusterAt (clusterOf a.core)).ptroot)) 1 4 hs rfl
          hh hact hrun hkill hhold]
      rfl
    · have hf : ((s.coreAt a.core).utlb ++ (s.clusterAt (clusterOf a.core)).tlb).find?
          (fun e => e.covers (rootAsid (s.clusterAt (clusterOf a.core)).ptroot) a.va.toNat) = some e := by
        simp [hu, ht, hc]
      have hmeets : s.lookup a = s.accFault (a.under (rootAsid (s.clusterAt (clusterOf a.core)).ptroot)) why
          e.level.toNat := by
        rw [lookup_hit rfl hv hf, ht, List.contains_nil, if_neg Bool.false_ne_true]
        exact applyLeaf_fault hl
      rw [Leaves, exec_lookup hs hst, hmeets,
        accFault_traps (a := a.under (rootAsid (s.clusterAt (clusterOf a.core)).ptroot)) why
          e.level.toNat hs rfl hh hact hrun hkill hhold]
      rfl
  · refine ⟨leafFault_bad, leafFault_tenant, fun hb ht => ⟨fun r v x hop => ?_, fun hop => ?_, fun hop => ?_⟩⟩
    · rw [leafFault_amo hb ht hop]
      generalize p.getLsbD 6 = remote
      generalize p.getLsbD 2 = reads
      generalize p.getLsbD 3 = writes
      exact ⟨fun h => by simp [h], fun h h2 => by simp [h, h2], fun h h2 h3 => by simp [h, h2, h3],
        fun h h2 h3 h6 => by simp [h, h2, h3, h6], fun h h2 h3 h6 => by simp [h, h2, h3, h6]⟩
    · rw [leafFault_load hb ht hop]
      generalize p.getLsbD 2 = reads
      exact ⟨fun h => by simp [h], fun h h6 => by simp [h, h6], fun h h6 => by simp [h, h6]⟩
    · rw [leafFault_stores hb ht hop]
      generalize p.getLsbD 3 = writes
      exact ⟨fun h => by simp [h], fun h h6 => by simp [h, h6], fun h h6 => by simp [h, h6]⟩

end Sys2Proof.Machine
end

section
/-! SUPPORT. The statement about backed windows and mirrors (R254 to R257, R396). -/

namespace Sys2Proof.Machine

open Sys2Proof

/-! ## Spills (R255) -/

theorem bytesOf_zero (n : Nat) : bytesOf n 0 = List.replicate n 0 := by
  induction n with
  | zero => rfl
  | succ n ih => rw [bytesOf, Nat.zero_div, ih]; rfl

/-- The bytes of a number's low k bytes are its k bytes with zeros above. -/
theorem bytesOf_low {k n : Nat} (h : k ≤ n) (v : Nat) :
    bytesOf n (v % 2 ^ (8 * k)) = bytesOf k v ++ List.replicate (n - k) 0 := by
  induction k generalizing n v with
  | zero => simp [Nat.mod_one, bytesOf_zero, bytesOf]
  | succ k ih =>
    obtain ⟨m, rfl⟩ : ∃ m, n = m + 1 := ⟨n - 1, by omega⟩
    have hpow : 2 ^ (8 * (k + 1)) = 256 * 2 ^ (8 * k) := by rw [Nat.mul_succ, pow_add, mul_comm]; rfl
    rw [bytesOf, bytesOf, hpow, Nat.mod_mul_right_div_self, ih (by omega), Nat.add_sub_add_right, List.cons_append]
    congr 1
    apply BitVec.eq_of_toNat_eq
    rw [BitVec.toNat_ofNat, BitVec.toNat_ofNat]
    exact Nat.mod_mul_right_mod ..

/-- The bytes a spill writes: those of the fill, zeros above (R115, R255). -/
theorem scalarBytes_padded (x : Win) (v : Word) :
    (scalarBytes x v ++ List.replicate (x.esize - (scalarBytes x v).length) 0).take x.esize =
      bytesOf x.esize (v.toNat % 2 ^ (8 * min 8 x.esize)) := by
  have hlen : (scalarBytes x v).length = min 8 x.esize := bytesOf_length ..
  rw [hlen, List.take_of_length_le (by rw [List.length_append, hlen, List.length_replicate]; omega),
    bytesOf_low (Nat.min_le_right ..), scalarBytes]

/-- A fill went to the ring of its window: RFILL went up by one and one store of the element to the ring started, while
FILL, HEAD, the window store and memory stand (R255). -/
def Spills (s s' : State) (c w : Nat) (v : Word) (site : BitVec 46) : Prop :=
  (s'.winAt c w).rfill = (s.winAt c w).rfill + 1 ∧ (s'.winAt c w).fill = (s.winAt c w).fill ∧
  (s'.winAt c w).head = (s.winAt c w).head ∧ (s'.coreAt c).wstore = (s.coreAt c).wstore ∧ s'.mem = s.mem ∧
  ∃ y : Acc, s'.accs = s.accs ++ [y] ∧ y.holder = .agent c ∧ y.site = site ∧
    y.va = (s.winAt c w).ringAddr (s.winAt c w).rfill.toNat ∧ y.size = (s.winAt c w).esize ∧
    y.op = .store (bytesOf (s.winAt c w).esize (v.toNat % 2 ^ (8 * min 8 (s.winAt c w).esize)))

section
variable {s s' : State} {c w : Nat} {v : Word} {site : BitVec 46}

theorem spills_setSlot (h : Spills s s' c w v site) (u : Nat) (sl : Slot) :
    Spills s (s'.setSlot c u sl) c w v site := by
  obtain ⟨hr, hf, hh, hst, hmem, hacc⟩ := h
  refine ⟨?_, ?_, ?_, ?_, hmem, hacc⟩
  · rw [setSlot_winAt]; exact hr
  · rw [setSlot_winAt]; exact hf
  · rw [setSlot_winAt]; exact hh
  · rw [setSlot_coreAt_self]; exact hst

/-- Waking a task changes nothing of what is spilled. -/
theorem spills_of_wake {u : Nat} (h : Spills (s.wake c u) s' c w v site) : Spills s s' c w v site := by
  have hst : ((s.wake c u).coreAt c).wstore = (s.coreAt c).wstore := by rw [wake_coreAt, if_pos rfl]; rfl
  unfold Spills at h
  rwa [wake_winAt, hst] at h

/-- A fill of a backed window that goes to the ring is a spill, and changes no slot and not where the machine issues
(R255). -/
theorem fillWin_spills (hstore : (s.winAt c w).fillsStore = false) (hring : (s.winAt c w).fillsRing = true)
    (who : Option (Nat × Nat)) :
    Spills s (s.fillWin c w (scalarBytes (s.winAt c w) v) site who) c w v site ∧
      (∀ d u, (s.fillWin c w (scalarBytes (s.winAt c w) v) site who).slotAt d u = s.slotAt d u) ∧
      (s.fillWin c w (scalarBytes (s.winAt c w) v) site who).place = s.place := by
  have hmode : (s.winAt c w).mode = .backed := by
    simp only [Win.fillsRing, Bool.and_eq_true, beq_iff_eq] at hring
    exact hring.1.1
  obtain ⟨l, o, hrole⟩ := enterProd_only (s.winAt c w) who
  generalize hy : ({ s.winAt c w with prod := l, prodOver := o, rfill := (s.winAt c w).rfill + 1 } : Win) = y
  have hspill : s.fillWin c w (scalarBytes (s.winAt c w) v) site who = (s.setWin c w y).startAcc (agentAcc c site
      (.store (bytesOf (s.winAt c w).esize (v.toNat % 2 ^ (8 * min 8 (s.winAt c w).esize))))
      ((s.winAt c w).ringAddr (s.winAt c w).rfill.toNat) (s.winAt c w).esize
      (.spill w (s.winAt c w).rfill ((s.winAt c w).fill + BitVec.ofNat 32 (s.winAt c w).rc))) := by
    have hne : ((s.winAt c w).mode == .egress) = false := by rw [hmode]; rfl
    have hset : (s.setWin c w { s.winAt c w with prod := l, prodOver := o }).setWin c w y = s.setWin c w y := by
      simp [State.setWin]
    rw [State.fillWin, hne, Bool.false_and, if_neg Bool.false_ne_true, State.fillNow, hrole, winAt_setWin_self,
      if_neg (by show ¬(s.winAt c w).fillsStore = true; rw [hstore]; exact Bool.false_ne_true), State.spill,
      winAt_setWin_self, ← hset, ← hy, ← scalarBytes_padded]
    rfl
  obtain ⟨z, hz⟩ := startAcc_starts (s.setWin c w y) (agentAcc c site
      (.store (bytesOf (s.winAt c w).esize (v.toNat % 2 ^ (8 * min 8 (s.winAt c w).esize))))
      ((s.winAt c w).ringAddr (s.winAt c w).rfill.toNat) (s.winAt c w).esize
      (.spill w (s.winAt c w).rfill ((s.winAt c w).fill + BitVec.ofNat 32 (s.winAt c w).rc)))
  rw [← hspill] at hz
  have hwin := (hz.winAt c w).trans (winAt_setWin_self ..)
  refine ⟨⟨?_, ?_, ?_, ?_, hz.mem, z, hz.accs, hz.field Acc.holder, hz.field Acc.site,
    hz.field Acc.va, hz.field Acc.size, hz.field Acc.op⟩,
    fun d u => (hz.slotAt d u).trans (slotAt_setWin ..), Prod.ext hz.cur hz.slot⟩
  · rw [hwin, ← hy]
  · rw [hwin, ← hy]
  · rw [hwin, ← hy]
  · rw [hz.wstore, coreAt_setWin_self]
    rfl

/-- A fill that goes to the ring finds room. -/
theorem fillRoom_ring {k : Core} (h : (k.winAt w).fillsRing = true) : k.fillRoom w = true := by
  rw [Core.fillRoom, h, Bool.or_true]

end

/-- A WFILL of a backed window whose fills go to the ring spills, and its task goes on (R255). -/
theorem wfill_spills {s : State} (b : BitVec 4) (z : BitVec 5) (hn : HasNext s) (hq : s.quiet s.cur s.slot = true)
    (hx : Usable (s.winAt s.cur b.toNat) .fill) (hstore : (s.winAt s.cur b.toNat).fillsStore = false)
    (hring : (s.winAt s.cur b.toNat).fillsRing = true) : ∃ s', exec (.wfill b z) s = .next s' ∧
      Spills s s' s.cur b.toNat (s.me.readG z) (s.siteOf s.cur s.slot) ∧ s'.me = s.me.advance := by
  obtain ⟨ds, hd⟩ := localOp_quiet b (.fill (s.me.readG z)) 0 s hq
  have ht := (tryCore_fill (s.setDies ds) false s.cur b.toNat (s.siteOf s.cur s.slot) s.cur s.slot (s.me.readG z)
    (judge_fill _ 0 hx)).trans (if_pos (fillRoom_ring hring))
  have hgo := localGo_done b (.fill (s.me.readG z)) 0 (s.setDies ds) _ none ht
  obtain ⟨hspill, hslots, hplace⟩ := fillWin_spills (s := s.setDies ds) (v := s.me.readG z)
    (site := s.siteOf s.cur s.slot) hstore hring (some (s.cur, s.slot))
  generalize (s.setDies ds).fillWin s.cur b.toNat (scalarBytes ((s.setDies ds).winAt s.cur b.toNat) (s.me.readG z))
    (s.siteOf s.cur s.slot) (some (s.cur, s.slot)) = t at hgo hspill hslots hplace
  have hexec : exec (.wfill b z) s = finish s (.done t) := congrArg (finish s) (hd.trans hgo)
  rw [finish_done_placed hn hplace, State.advance, hslots] at hexec
  refine ⟨_, hexec, spills_setSlot hspill .., ?_⟩
  obtain ⟨hc, hu⟩ := Prod.mk.inj hplace
  rw [State.me, setSlot_cur, setSlot_slot, hc, hu]
  exact slotAt_setSlot_self ..

/-- A fill that waited for room in the ring spills, and its task goes on (R255). -/
theorem waitingFill_spills {s : State} {c w t : Nat} {v : Word} {d : BitVec 5} {site : BitVec 46}
    (hc : c < Config.cores) (hw : (s.slotAt c t).wait = some (.window false c w (.fill v) d site))
    (hx : Usable (s.winAt c w) .fill) (hstore : (s.winAt c w).fillsStore = false)
    (hring : (s.winAt c w).fillsRing = true) : ∃ s', exec (.waitingFillProceeds c t) s = .next s' ∧
      Spills s s' c w v site ∧ s'.slotAt c t = ((s.slotAt c t).woken s.tick).advance := by
  have h := tryCore_fill s false c w site c t v (judge_fill _ 0 hx)
  have h' := tryCore_fill (s.wake c t) false c w site c t v (by rw [wake_winAt]; exact judge_fill _ 0 hx)
  rw [if_pos (fillRoom_ring hring)] at h
  rw [if_pos (fillRoom_ring (by show ((s.wake c t).winAt c w).fillsRing = true; rwa [wake_winAt]))] at h'
  obtain ⟨hspill, hslots, -⟩ := fillWin_spills (s := s.wake c t) (v := v) (site := site) (by rwa [wake_winAt])
    (by rwa [wake_winAt]) (some (c, t))
  refine ⟨_, exec_waitingFillProceeds.trans (congrArg _ (retryOp_done hw hc h h')),
    spills_setSlot (spills_of_wake hspill) .., ?_⟩
  show ((State.fillWin ..).advance c t).slotAt c t = _
  rw [State.advance, slotAt_setSlot_self, hslots, wake_slotAt]
  rfl

/-! ## Refills (R256, R257) -/

theorem refillCause_site (x : Win) : x.refillCause.1 = (x.causes.map Prod.snd).headD x.refillSite := by
  unfold Win.refillCause
  split
  · next h => rw [h]; rfl
  · next h => rw [h]; rfl

section
variable {s : State} {c w : Nat}

/-- The agent of a backed window whose ring holds elements, and whose store has a place, reads the oldest one back for
the shrink that made the place (R256, R257). -/
theorem refillReadStart_reads (hv : (s.winAt c w).v = true) (hmode : (s.winAt c w).mode = .backed)
    (hheld : (s.winAt c w).held = false) (hgo : (s.winAt c w).refillStop = .go) (hnone : (s.winAt c w).refills = [])
    (hrc : 0 < (s.winAt c w).rc) (hplace : (s.winAt c w).ext < (s.winAt c w).cap.toNat)
    (hopen : s.spillOpen c w ((s.winAt c w).rhead.toNat % 2 ^ 28) = false) :
    ∃ (t : State) (y : Acc), exec (.refillReadStart c w) s = .next t ∧ t.accs = s.accs ++ [y] ∧ y.op = .load ∧
      y.va = (s.winAt c w).ringAddr ((s.winAt c w).rhead.toNat % 2 ^ 28) ∧ y.size = (s.winAt c w).esize ∧
      y.site = ((s.winAt c w).causes.map Prod.snd).headD (s.winAt c w).refillSite ∧
      (t.winAt c w).refills = [((s.winAt c w).rhead.toNat % 2 ^ 28, y.site)] ∧ t.mem = s.mem := by
  generalize helem : (s.winAt c w).rhead.toNat % 2 ^ 28 = elem at hopen ⊢
  generalize hu : s.setWin c w { s.winAt c w with
    refills := [(elem, (s.winAt c w).refillCause.1)], causes := (s.winAt c w).refillCause.2 } = u
  generalize hread : agentAcc c (s.winAt c w).refillCause.1 .load ((s.winAt c w).ringAddr elem) (s.winAt c w).esize
    (.refill w elem) = b
  have hexec : exec (.refillReadStart c w) s = .next ((u.startAcc b).post (.refillReadStart c w)) := by
    show execRefillReadStart c w s = _
    simp only [execRefillReadStart, hnone, List.length_nil, Nat.add_zero, helem, List.nil_append]
    rw [if_neg (by simp [hv, hmode, hheld, hgo, hopen, hrc.ne', hplace]), hread, hu]
  obtain ⟨y, hy⟩ := startAcc_starts u b
  have hsite : y.site = (s.winAt c w).refillCause.1 := (hy.field Acc.site).trans (by rw [← hread]; rfl)
  have hwin : u.winAt c w = _ := (congrArg (State.winAt · c w) hu.symm).trans (winAt_setWin_self ..)
  refine ⟨_, y, hexec, hy.accs.trans (by rw [← hu]; rfl), (hy.field Acc.op).trans (by rw [← hread]; rfl),
    (hy.field Acc.va).trans (by rw [← hread]; rfl), (hy.field Acc.size).trans (by rw [← hread]; rfl),
    hsite.trans (refillCause_site _), ?_, mem_of_next hexec rfl⟩
  rw [hsite]
  exact congrArg Win.refills ((hy.winAt c w).trans hwin)

/-- Landing an element of an unwatched window that was just replaced. -/
theorem landRaw_takes_setWin (s : State) (c w : Nat) (x : Win) (bs : List Byte) :
    Takes (s.setWin c w x) ((s.setWin c w x).landRaw c w bs) c w bs := by
  have h : Takes (s.setWin c w x) (((s.setWin c w x).setWin c w x).landRaw c w bs) c w bs := by
    have h := landRaw_takes (s.setWin c w x) c w bs x.prod x.prodOver x.mirrors
    rwa [winAt_setWin_self] at h
  have hsame : (s.setWin c w x).setWin c w x = s.setWin c w x := by simp [State.setWin]
  rwa [hsame] at h

theorem progressFill_accs (s : State) (c w : Nat) : (s.progressFill c w).accs = s.accs := by
  unfold State.progressFill
  simp only []
  split <;> rfl

theorem landRaw_accs (s : State) (c w : Nat) (bs : List Byte) : (s.landRaw c w bs).accs = s.accs :=
  progressFill_accs ..

/-- What a landing leaves of an unwatched window that was just replaced: the element at its tail, FILL one higher, and
its refills and RHEAD as they were put. -/
theorem land_leaves {x : Win} {bs : List Byte} (i : Instr) (hu : Unwatched (s.coreAt c) w)
    (hlen : bs.length = x.esize) :
    ∃ t, (((s.setWin c w x).landRaw c w bs).afterFill c w).post i = t ∧ (t.winAt c w).fill = x.fill + 1 ∧
      (t.winAt c w).refills = x.refills ∧ (t.winAt c w).rhead = x.rhead ∧
      tgets 0 (t.coreAt c).wstore (elemAddr x x.ext) x.esize = bs ∧ t.accs = s.accs := by
  have hu' : Unwatched ((s.setWin c w x).coreAt c) w := by
    rw [coreAt_setWin_self]
    exact hu
  have hland := landRaw_takes_setWin s c w x bs
  have haccs : (((s.setWin c w x).landRaw c w bs).afterFill c w).accs = s.accs := by
    rw [afterFill_unwatched _ c w fun kind => by rw [hland.core.pend]; exact hu' kind]
    exact landRaw_accs ..
  have htakes := takes_post (takes_afterFill hland hu') i
  generalize (((s.setWin c w x).landRaw c w bs).afterFill c w) = t at haccs htakes ⊢
  obtain ⟨l, o, m, hwin⟩ := htakes.core.win
  rw [show ((s.setWin c w x).coreAt c).winAt w = x from winAt_setWin_self ..] at hwin
  obtain ⟨hfill, hbytes⟩ := takes_fill htakes (by rw [winAt_setWin_self]; exact hlen)
  rw [winAt_setWin_self] at hfill hbytes
  exact ⟨t.post i, rfl, hfill, (congrArg Win.refills hwin :), (congrArg Win.rhead hwin :), hbytes, haccs⟩

/-- The refill read of an unwatched window that has been performed lands at the tail of its store (R256). -/
theorem refillLand_lands {elem : Nat} {site : BitVec 46} {rest : List (Nat × BitVec 46)} {a : Acc}
    (hr : (s.winAt c w).refills = (elem, site) :: rest) (ha : s.refillRead c w elem = some a)
    (hu : Unwatched (s.coreAt c) w) (hlen : a.data.length = (s.winAt c w).esize) :
    ∃ t, exec (.refillLand c w) s = .next t ∧ (t.winAt c w).fill = (s.winAt c w).fill + 1 ∧
      (t.winAt c w).refills = rest ∧ (t.winAt c w).rhead = (s.winAt c w).rhead + 1 ∧
      tgets 0 (t.coreAt c).wstore (elemAddr (s.winAt c w) (s.winAt c w).ext) (s.winAt c w).esize = a.data ∧
      t.accAt a.id = none ∧ t.mem = s.mem := by
  obtain ⟨t, ht, hfill, hrefills, hrhead, hbytes, haccs⟩ := land_leaves
    (s := (s.dropAcc a.id).dropRetry (.unit c) (.refillLand c w)) (x := { s.winAt c w with
      refills := rest, rhead := (s.winAt c w).rhead + 1
      causes := if (s.winAt c w).rc ≤ 1 then [] else (s.winAt c w).causes }) (.refillLand c w) hu hlen
  have hexec : exec (.refillLand c w) s = .next t := by
    rw [← ht]
    show execRefillLand c w s = _
    simp only [execRefillLand, hr, ha, fillHeldBack_unwatched _ _ hu, Bool.false_eq_true, if_false]
  refine ⟨t, hexec, hfill, hrefills, hrhead, hbytes, ?_, mem_of_next hexec rfl⟩
  rw [State.accAt, haccs]
  exact accAt_dropAcc s a.id

/-! ## Mirrors (R396) -/

/-- A mirrored egress fill writes its element and, after it, the pointer word (R257, R396). -/
theorem egressMirrorWrite_writes {m : Mirror} {count : BitVec 32} {site : BitVec 46}
    {later : List (BitVec 32 × BitVec 46)} (hm : (s.coreAt c).mirrorOf w = some m) (hv : (s.winAt c w).v = true)
    (hmode : (s.winAt c w).mode = .egress) (hesz : (s.winAt c w).esz = 1#4)
    (hr : (s.winAt c w).mirrors = (count, site) :: later) :
    ∃ (t : State) (y z : Acc), exec (.egressMirrorWrite c w) s = .next t ∧ t.accs = s.accs ++ [y, z] ∧ t.mem = s.mem ∧
      (t.winAt c w).mirrors = later ∧ y.site = site ∧ z.site = site ∧
      y.va = BitVec.ofNat 80 (m.base.toNat * 2 ^ 16 + 64 + 8 * (count.toNat % (s.winAt c w).cap.toNat)) ∧
      z.va = BitVec.ofNat 80 (m.base.toNat * 2 ^ 16) ∧
      z.op = .store (bytesOf 8 ((s.winAt c w).head.toNat * 2 ^ 32 + (count + 1).toNat)) ∧ z.after = [y.id] := by
  generalize hu : s.setWin c w { s.winAt c w with mirrors := later } = u
  have huwin : u.winAt c w = { s.winAt c w with mirrors := later } := by rw [← hu, winAt_setWin_self]
  have hunext : u.nextAcc = s.nextAcc := by rw [← hu]; rfl
  have huaccs : u.accs = s.accs := by rw [← hu]; rfl
  generalize hel : agentAcc c site (.store ((s.coreAt c).elemByCount (s.winAt c w) count))
    (BitVec.ofNat 80 (m.base.toNat * 2 ^ 16 + 64 + 8 * (count.toNat % (s.winAt c w).cap.toNat))) 8 (.egress w count) = e
  have hexec : exec (.egressMirrorWrite c w) s =
      .next ((u.startAcc e).pointerWrite c w m site (count + 1) count [u.nextAcc]) := by
    show execEgressMirrorWrite c w s = _
    simp only [execEgressMirrorWrite, hr, hm]
    rw [if_neg (by simp [hv, hmode, hesz]), ← hu, ← hel]
  obtain ⟨y, hy⟩ := startAcc_starts u e
  have hhead : ((u.startAcc e).winAt c w).head = (s.winAt c w).head := by rw [hy.winAt, huwin]
  rw [State.pointerWrite, hhead] at hexec
  obtain ⟨z, hz⟩ := startAcc_starts (u.startAcc e) { agentAcc c site
    (.store (bytesOf 8 ((s.winAt c w).head.toNat * 2 ^ 32 + (count + 1).toNat))) (BitVec.ofNat 80 (m.base.toNat * 2 ^ 16)) 8
    (.egress w count) with after := [u.nextAcc] }
  refine ⟨_, y, z, hexec, ?_, mem_of_next hexec rfl, ?_, ?_, hz.field Acc.site, ?_, hz.field Acc.va,
    hz.field Acc.op, ?_⟩
  · rw [hz.accs, hy.accs, huaccs, List.append_assoc]
    rfl
  · rw [hz.winAt, hy.winAt, huwin]
  · exact (hy.field Acc.site).trans (by rw [← hel]; rfl)
  · exact (hy.field Acc.va).trans (by rw [← hel]; rfl)
  · rw [hy.id]
    exact hz.field Acc.after

end

/-- Settles O39, by the access that each spill, refill and mirror write starts, and by what a landing leaves. -/
theorem backing : Obligations.Backing := by
  unfold Obligations.Backing
  refine ⟨fun s c w t b z d v site hc => ⟨fun hn hq hx hstore hring _ => ?_, fun hw hx hstore hring _ => ?_⟩,
    fun s c w elem count site rest later a m => ⟨fun hv hmode hheld hgo hnone hrc hplace hopen => ?_,
      fun hr ha hu hlen => ?_, fun hm hv hmode hesz hr => ?_⟩⟩
  · exact wfill_spills b z hn hq hx hstore hring
  · exact waitingFill_spills hc hw hx hstore hring
  · exact refillReadStart_reads hv hmode hheld hgo hnone hrc hplace hopen
  · exact refillLand_lands hr ha hu hlen
  · exact egressMirrorWrite_writes hm hv hmode hesz hr

end Sys2Proof.Machine
end
